-- ==== Sys2Proof/Word.lean ====
section
/-!
DEFINITION. The word types of the two parts and their plainest arithmetic.
-/
namespace Sys2Proof

/-- A 32-bit register word (R6). -/
abbrev Word := BitVec 32
/-- A 64-bit value: a Shoist block payload (R203) or a two-word register (R7). -/
abbrev DWord := BitVec 64
/-- A byte of a memory. -/
abbrev Byte := BitVec 8

/-- Bits [hi:lo] of a natural number, as a natural number. -/
def bits (v hi lo : Nat) : Nat := (v / 2 ^ lo) % 2 ^ (hi + 1 - lo)

/-- Bit `i` of a natural number. -/
def bit (v i : Nat) : Bool := (v / 2 ^ i) % 2 == 1

/-- A Bool as 0 or 1. -/
def b2n (b : Bool) : Nat := if b then 1 else 0

/-- `v` read as a two's complement number of `w` bits. -/
def toSigned (w v : Nat) : Int :=
  if v % 2 ^ w < 2 ^ (w - 1) then (v % 2 ^ w : Nat) else ((v % 2 ^ w : Nat) : Int) - (2 ^ w : Nat)

/-- A number as an unsigned word of `w` bits, two's complement, wrapping. -/
def wrapNat (w : Nat) (i : Int) : Nat := (i % (2 ^ w : Nat)).toNat

/-- A number limited to the range from `lo` to `hi`. -/
def clampInt (lo hi i : Int) : Int := if i < lo then lo else if hi < i then hi else i

end Sys2Proof
end

