-- ==== Sys2Proof/Syntax.lean ====
section
/-!
DEFINITION. The commands of the chipset: one constructor of `Instr` per row of the spec's table of operations and
events, with the row's operands. A command is a register write or read, a block, message or frame arriving at a lane,
an Ovmin instruction issued by a core, or an event of a counter, a timer or a pin.
-/
namespace Sys2Proof

/-- A cell lane end of the FC-4 (R17). -/
inductive CellLane where | la | lb
deriving DecidableEq, Repr

/-- A lane end of either part (R225). -/
inductive LaneId where
  | cl (n : Fin 192)
  | fab (p : Fin 12)
  | cell (l : CellLane)
deriving DecidableEq, Repr

/-- A processor: one of the sixteen Kiosks of the hub, or the Shed core of the cell (R154). -/
inductive CoreId where
  | kiosk (k : Fin 16)
  | shed
deriving DecidableEq, Repr

/-- Who accesses a register (R7). The host and the Kiosks reach hub registers; the Shed core and the lane controller
of LA and LB reach cell registers. -/
inductive Requester where
  | host
  | kiosk (k : Fin 16)
  | shed
  | laneCtl (l : CellLane)
deriving DecidableEq, Repr

/-- The two fabric planes. -/
inductive Plane where | a | b
deriving DecidableEq, Repr

/-- The three lines of an angle input (R52). -/
structure Lines where
  a : Bool
  b : Bool
  z : Bool
deriving DecidableEq, Repr

/-- A management message as received: its MSG_START fields, the bytes of its data blocks and the CRC of its MSG_END, if that has come
(R211, R212). -/
structure Message where
  len : BitVec 12
  seq : BitVec 8
  data : List Byte
  crc : Word
  ended : Bool := true
deriving DecidableEq, Repr

/-- A fabric frame as received: eight header words (Table 10-1), the time extension bytes (Table 11-3, empty when
TX = 0), the payload bytes, and the CRC field of its EOF (R223, R233). -/
structure Frame where
  hdr : List Word
  ext : List Byte
  payload : List Byte
  crc : Word
deriving DecidableEq, Repr

/-- How what has come of a frame ends: with its EOF, with an EOF whose SUSP is 1 (R232), or not yet. -/
inductive RxTail where | whole | suspended | coming
deriving DecidableEq, Repr

/-- The reception of a frame on a port: LEN of its SOF, the data blocks that have come, how they end, and OFF of a SOF whose RESUME is 1, which
continues a suspended frame (R223, R232). The frame beside it then has the content of all its parts. -/
structure Reception where
  len : BitVec 12
  blocks : BitVec 12
  tail : RxTail
  resume : Option (BitVec 9)
deriving DecidableEq, Repr

/-- The content of a HELLO frame (Table 10-5) with the SEQ of its header. -/
structure Hello where
  serial : DWord
  flags : Byte
  nodeId : BitVec 10
  prefId : BitVec 10
  epoch : BitVec 16
  hops : BitVec 4
  path : List Nat
  nbr : List DWord
  member : BitVec 256
  seq : BitVec 24
deriving DecidableEq, Repr

/-- A GATHER frame (Table 5-4): tag, KEY_ID, plane, the two key lists in list order with their lanes, and whether it
came complete and its EOF passes. -/
structure GatherFrame where
  tag : BitVec 12
  keyId : BitVec 10
  src : BitVec 10
  keysC : List (BitVec 16 × BitVec 8)
  keysD : List (BitVec 16 × BitVec 8)
  eofOk : Bool
deriving DecidableEq, Repr

/-- A RANKS frame (Table 5-4): the ranks in the order of the hub's charging and discharging lists. -/
structure RanksFrame where
  tag : BitVec 12
  ranksC : List (BitVec 12)
  ranksD : List (BitVec 12)
  eofOk : Bool
deriving DecidableEq, Repr

/-- A safety PDU (Table 15-3). -/
structure SafetyPdu where
  conn : BitVec 24
  seq : BitVec 32
  ts : BitVec 32
  wd : BitVec 16
  cmd : BitVec 32
  scrc : BitVec 32
deriving DecidableEq, Repr

/-- The end that receives a safety copy: the cell's CHH, a hub RX connection, or a hub cell connection (R335). -/
inductive SafetyEnd where
  | cell
  | hubRx (n : Fin 8)
  | hubLane (n : Fin 192)
deriving DecidableEq, Repr

/-- The time extension of a timing frame as it arrives (Table 11-3). -/
structure TimeExt where
  origin : DWord
  ofrac : Word
  corr : DWord
  hops : Byte
  uncal : Bool
  tseq : BitVec 16
  root : DWord
deriving DecidableEq, Repr

/-- A TANN payload (Table 11-4). -/
structure TannPayload where
  serial : DWord
  ft : DWord
  stNs : Word
  stSec : BitVec 48
  stFrac : BitVec 16
  stValid : Bool
deriving DecidableEq, Repr

/-- The safety block set events and pins need the hub or the cell named. -/
inductive Part where | hub | cell
deriving DecidableEq, Repr

/-- The commands, one constructor per row of the table, in its order; LAWS.json maps each to its row. The comments name the rules. -/
inductive Instr where
  -- register access (R3 to R7, R432)
  | registerWrite (r : Requester) (addr val : Word)
  | regAccessBadSize (r : Requester) (addr : Word) (size : Fin 9) (isWrite : Bool)
  | wideReadLatch (r : Requester) (addr : Word)
  | wideWriteHold (r : Requester) (addr val : Word)
  | wideWriteApply (r : Requester) (addr val : Word)
  -- Sundial (R29 to R45)
  | load (d : Fin 6) (w : Word)
  | step (d : Fin 6) (w : Word)
  | armInc (d : Fin 6) (w : Word)
  | cancelInc (d : Fin 6) (w : Word)
  | slew (d : Fin 6) (w : Word)
  | cancelSlew (d : Fin 6) (w : Word)
  | incWrite (d : Fin 6) (v : DWord)
  | incChangeDue (d : Fin 6)
  | slewEnd (d : Fin 6)
  | snap (w : Word)
  | arm (n : Fin 4) (w : Word)
  | disarm (n : Fin 4) (w : Word)
  | pulseStart (n : Fin 4)
  | pulseEnd (n : Fin 4)
  | pllLockLoss
  -- cell replicas (R46 to R49)
  | replicaIncWrite (ang : Bool) (v : DWord)
  | stepFt (w : Word)
  | stepAng (w : Word)
  | loadFt (w : Word)
  | loadAng (w : Word)
  | syncEpoch (l : CellLane) (w : DWord)
  | syncFt (l : CellLane) (w : DWord)
  | syncAng (l : CellLane) (w : DWord)
  | syncLost
  -- angle inputs (R52 to R66)
  | anginEdge (n : Fin 4) (v : Lines) (held : BitVec 10)
  | chatterWindow (n : Fin 4)
  | los (n : Fin 4)
  | ictlWrite (n : Fin 4) (w : Word)
  | vec (b : Fin 4) (w : Word)
  -- cell firing (R71 to R94)
  | order (l : CellLane) (w : DWord)
  | repair (l : CellLane) (w : DWord)
  | commit (l : CellLane) (w : DWord)
  | abort (l : CellLane) (w : DWord)
  | commitDeadline
  | executionInstant
  | stall
  | gateOnEdge (g : Fin 4)
  | vernierEnd
  -- hub planning (R95 to R126)
  | slotStart
  | report (n : Fin 192) (w : DWord)
  | event (n : Fin 192) (w : DWord)
  | meas (n : Fin 192) (w : DWord)
  | measFrame (p : Plane) (f : Frame)
  | fcstFrame (p : Plane) (ra rb : Word)
  | gather (f : GatherFrame)
  | mergeComplete (tag : BitVec 12)
  | gatherDeadline (tag : BitVec 12)
  | ranks (f : RanksFrame)
  | scatterDeadline (tag : BitVec 12)
  | commitFrame (p : Plane) (w : DWord)
  | commitTest (tag : BitVec 12)
  | abortx (p : Plane) (w : DWord)
  | reseed (w : Word)
  | blvEn (w : Word)
  -- cell gates and PWM (R139 to R150)
  | deblock (r : Requester)
  | modeWrite (w : Word)
  | periodBoundary
  | pwmCompare (n : Fin 4)
  | sealPer (w : Word)
  | sealCmp (w : Word)
  | evctlWrite (w : Word)
  | blankWindowEnd (n : Fin 4)
  | haltReq (c : CoreId)
  | halt (c : CoreId)
  | resume (c : CoreId)
  | debugStep (c : CoreId)
  | coreRst (k : Fin 16)
  | run (c : CoreId) (w : Word)
  | kpcWrite (c : CoreId) (reg : Fin 33) (v : Word)
  | imemHostWrite (k : Fin 16) (addr : BitVec 16) (v : Word)
  | clkStop
  | clockReturn
  | slotGridWrite (org : Bool) (w : Word)
  | lctlWrite (w : Word)
  | activeWrite (w : Word)
  -- Ovmin integer (R161, R162)
  | add (c : CoreId) (rd ra rb : Fin 32)
  | sub (c : CoreId) (rd ra rb : Fin 32)
  | and (c : CoreId) (rd ra rb : Fin 32)
  | or (c : CoreId) (rd ra rb : Fin 32)
  | xor (c : CoreId) (rd ra rb : Fin 32)
  | nor (c : CoreId) (rd ra rb : Fin 32)
  | slt (c : CoreId) (rd ra rb : Fin 32)
  | sltu (c : CoreId) (rd ra rb : Fin 32)
  | sll (c : CoreId) (rd ra rb : Fin 32)
  | srl (c : CoreId) (rd ra rb : Fin 32)
  | sra (c : CoreId) (rd ra rb : Fin 32)
  | slli (c : CoreId) (rd ra sh : Fin 32)
  | srli (c : CoreId) (rd ra sh : Fin 32)
  | srai (c : CoreId) (rd ra sh : Fin 32)
  | mul (c : CoreId) (rd ra rb : Fin 32)
  | mulh (c : CoreId) (rd ra rb : Fin 32)
  | mulhu (c : CoreId) (rd ra rb : Fin 32)
  | div (c : CoreId) (rd ra rb : Fin 32)
  | divu (c : CoreId) (rd ra rb : Fin 32)
  | remS (c : CoreId) (rd ra rb : Fin 32)
  | remu (c : CoreId) (rd ra rb : Fin 32)
  | min (c : CoreId) (rd ra rb : Fin 32)
  | max (c : CoreId) (rd ra rb : Fin 32)
  | minu (c : CoreId) (rd ra rb : Fin 32)
  | maxu (c : CoreId) (rd ra rb : Fin 32)
  | adds (c : CoreId) (rd ra rb : Fin 32)
  | subs (c : CoreId) (rd ra rb : Fin 32)
  | clz (c : CoreId) (rd ra : Fin 32)
  | abs (c : CoreId) (rd ra : Fin 32)
  | addi (c : CoreId) (rd ra : Fin 32) (imm : BitVec 16)
  | andi (c : CoreId) (rd ra : Fin 32) (imm : BitVec 16)
  | ori (c : CoreId) (rd ra : Fin 32) (imm : BitVec 16)
  | xori (c : CoreId) (rd ra : Fin 32) (imm : BitVec 16)
  | slti (c : CoreId) (rd ra : Fin 32) (imm : BitVec 16)
  | sltiu (c : CoreId) (rd ra : Fin 32) (imm : BitVec 16)
  | lui (c : CoreId) (rd : Fin 32) (imm : BitVec 16)
  -- Ovmin floating point (R163)
  | fadd (c : CoreId) (rd ra rb : Fin 32)
  | fsub (c : CoreId) (rd ra rb : Fin 32)
  | fmul (c : CoreId) (rd ra rb : Fin 32)
  | fdiv (c : CoreId) (rd ra rb : Fin 32)
  | fsqrt (c : CoreId) (rd ra : Fin 32)
  | fmin (c : CoreId) (rd ra rb : Fin 32)
  | fmax (c : CoreId) (rd ra rb : Fin 32)
  | fmac (c : CoreId) (rd ra rb : Fin 32)
  | fmsb (c : CoreId) (rd ra rb : Fin 32)
  | fcmpq (c : CoreId) (rd ra rb : Fin 32)
  | fcmps (c : CoreId) (rd ra rb : Fin 32)
  | ftoi (c : CoreId) (rd ra : Fin 32)
  | ftou (c : CoreId) (rd ra : Fin 32)
  | itof (c : CoreId) (rd ra : Fin 32)
  | utof (c : CoreId) (rd ra : Fin 32)
  | fneg (c : CoreId) (rd ra : Fin 32)
  | fabs (c : CoreId) (rd ra : Fin 32)
  | fclass (c : CoreId) (rd ra : Fin 32)
  -- Ovmin pairs (R156)
  | padd (c : CoreId) (rd ra rb : Fin 32)
  | psub (c : CoreId) (rd ra rb : Fin 32)
  | pmul (c : CoreId) (rd ra rb : Fin 32)
  | pmulw (c : CoreId) (rd ra rb : Fin 32)
  | pmulwu (c : CoreId) (rd ra rb : Fin 32)
  | psll (c : CoreId) (rd ra rb : Fin 32)
  | psrl (c : CoreId) (rd ra rb : Fin 32)
  | psra (c : CoreId) (rd ra rb : Fin 32)
  | pslt (c : CoreId) (rd ra rb : Fin 32)
  | psltu (c : CoreId) (rd ra rb : Fin 32)
  -- Ovmin special registers, memory, control (R164 to R178)
  | mfs (c : CoreId) (rd : Fin 32) (sr : BitVec 12)
  | mts (c : CoreId) (ra : Fin 32) (sr : BitVec 12)
  | lb (c : CoreId) (rd ra : Fin 32) (imm : BitVec 16)
  | lbu (c : CoreId) (rd ra : Fin 32) (imm : BitVec 16)
  | lh (c : CoreId) (rd ra : Fin 32) (imm : BitVec 16)
  | lhu (c : CoreId) (rd ra : Fin 32) (imm : BitVec 16)
  | lw (c : CoreId) (rd ra : Fin 32) (imm : BitVec 16)
  | ld (c : CoreId) (rd ra : Fin 32) (imm : BitVec 16)
  | sb (c : CoreId) (rs ra : Fin 32) (imm : BitVec 16)
  | sh (c : CoreId) (rs ra : Fin 32) (imm : BitVec 16)
  | sw (c : CoreId) (rs ra : Fin 32) (imm : BitVec 16)
  | sd (c : CoreId) (rs ra : Fin 32) (imm : BitVec 16)
  | swapw (c : CoreId) (rd ra rb : Fin 32)
  | addw (c : CoreId) (rd ra rb : Fin 32)
  | beq (c : CoreId) (ra rb : Fin 32) (off : BitVec 16)
  | bne (c : CoreId) (ra rb : Fin 32) (off : BitVec 16)
  | blt (c : CoreId) (ra rb : Fin 32) (off : BitVec 16)
  | bge (c : CoreId) (ra rb : Fin 32) (off : BitVec 16)
  | bltu (c : CoreId) (ra rb : Fin 32) (off : BitVec 16)
  | bgeu (c : CoreId) (ra rb : Fin 32) (off : BitVec 16)
  | jal (c : CoreId) (rd : Fin 32) (off : BitVec 21)
  | jalr (c : CoreId) (rd ra : Fin 32) (imm : BitVec 16)
  | loop (c : CoreId) (lvl : Bool) (ra : Fin 32) (off : BitVec 16)
  | loopi (c : CoreId) (lvl : Bool) (cnt : BitVec 9) (off : BitVec 16)
  | nop (c : CoreId)
  | fence (c : CoreId)
  | wfi (c : CoreId)
  | wfiWake (c : CoreId)
  | ecall (c : CoreId) (arg : BitVec 10)
  | ebreak (c : CoreId)
  | rete (c : CoreId)
  | di (c : CoreId) (rd : Fin 32)
  | ei (c : CoreId)
  | interruptEntry (c : CoreId)
  | doorbell (k : Fin 16) (v : Word)
  | timer (c : CoreId)
  -- Ovmin time, fabric, firing, speculation (R182 to R201)
  | tmw (c : CoreId) (rd ra rb : Fin 32)
  | tmwWake (c : CoreId)
  | angw (c : CoreId) (rd ra rb : Fin 32) (slot : Bool) (base : Fin 4)
  | angwWake (c : CoreId)
  | send (c : CoreId) (rd ra rb : Fin 32)
  | mcst (c : CoreId) (rd ra rb : Fin 32)
  | transmitAccept (c : CoreId)
  | recv (c : CoreId) (rd ra : Fin 32) (q : Fin 32) (wait : Bool)
  | recvWake (c : CoreId)
  | fcst (c : CoreId) (ra rb : Fin 32)
  | tord (c : CoreId) (ra rb : Fin 32)
  | cmit (c : CoreId) (ra rb : Fin 32)
  | abrt (c : CoreId) (ra : Fin 32)
  | ckpt (c : CoreId) (rd : Fin 32) (off : BitVec 16)
  | vrfy (c : CoreId) (rd ra rb : Fin 32) (f : Bool)
  | cmtk (c : CoreId)
  | roll (c : CoreId) (u : Fin 8)
  | specWatchdog (c : CoreId)
  -- Shoist lanes (R206 to R226)
  | txSlot (l : LaneId)
  | balanceReceive (l : LaneId) (w : DWord)
  | unknownBlock (l : LaneId) (w : DWord)
  | strayDataBlock (l : LaneId) (fin : Option DWord)
  | syncSend
  | regWr (l : CellLane) (m : Message)
  | regRd (l : CellLane) (m : Message)
  | regRsp (n : Fin 192) (m : Message)
  | mailbox (l : LaneId) (m : Message)
  | log (n : Fin 192) (m : Message)
  | lockAcquired (l : LaneId)
  | lockLoss (l : LaneId)
  | signalLoss (l : LaneId)
  | linkDownTimeout (l : LaneId)
  | en (l : LaneId) (w : Word)
  | cap (l : LaneId) (w : DWord)
  | capxTimeout (l : LaneId)
  | propose (l : LaneId) (w : DWord)
  | proposeRepeat (l : LaneId)
  | accept (l : LaneId) (w : DWord)
  | rateSwitch (l : LaneId)
  | huntTimeout (l : LaneId)
  | adaptEnd (l : LaneId) (vm hm : Byte)
  | fallback (l : LaneId) (w : DWord)
  | up (l : LaneId) (w : DWord)
  | fomUpdate (l : LaneId) (vm hm : Byte)
  | berWindow (l : LaneId)
  | enterL1 (l : LaneId)
  | enterL2 (l : LaneId)
  | l2Req (l : LaneId) (w : DWord)
  | l2Ack (l : LaneId) (w : DWord)
  | l2Nak (l : LaneId) (w : DWord)
  | wake (l : LaneId)
  | signalDetect (l : LaneId)
  | l2ExitTimeout (l : LaneId)
  | retrain (l : LaneId)
  | test (l : LaneId) (w : Word)
  | checkerLock (l : LaneId) (line : List Bool)
  | injOnce (l : LaneId)
  | msgSend (n : LaneId)
  | mrxDone (n : LaneId)
  | mbxTxGo (w : Word)
  -- Gatehouse and Orangery (R229 to R247)
  | frame (port : Fin 12) (f : Frame) (rx : Reception)
  | frameTxStart (port : Fin 12)
  | earlyEof (port : Fin 12)
  | msg (p : Plane) (f : Frame)
  | hello (port : Fin 12) (h : Hello)
  | helloSend
  | nbrTimeout (port : Fin 12)
  | leadChoice
  | leadLost
  | rediscover
  | assign (port : Fin 12) (serial : DWord) (id : BitVec 10) (path : List Nat)
  | rtload (off : BitVec 16) (ws : List Word) (last : Bool)
  | swapcmd (at' : DWord)
  | swap
  | tableSwap
  | reroute
  | alloc (r : Requester)
  | free (r : Requester) (w : Word)
  | acctWrite (r : Requester) (addr w : Word)
  -- time distribution (R253 to R272)
  | probeSend (l : LaneId)
  | probe (l : LaneId) (w : DWord) (turn : BitVec 33)
  | echo (l : LaneId) (w : DWord) (rtt : BitVec 40)
  | probeTimeout (l : LaneId)
  | prbctlWrite (l : LaneId) (w : Word)
  | tsyncSend
  | tsync (port : Fin 12) (x : TimeExt)
  | tsLost (p : Plane)
  | uncalLong
  | tannSend
  | tann (p : Plane) (x : TimeExt) (t : TannPayload)
  | pathGo (w : Word)
  | pathreq (port : Fin 12) (src : BitVec 10) (x : TimeExt)
  | pathrsp (port : Fin 12) (x : TimeExt) (reqCorr : Word) (turn : Word) (rtt : BitVec 48)
  | pathTimeout
  | tresRead (r : Requester) (which : Fin 3)
  | ethRx (n : Fin 2) (fr : List Byte) (fcsOk : Bool) (ago : BitVec 17)
  | etxdSubmit (n : Fin 2) (w3 : Word)
  | ethTxDone (n : Fin 2) (ago : BitVec 17)
  | erxqRead (r : Requester) (n : Fin 2)
  | etxtsRead (r : Requester) (n : Fin 2)
  | mdioGo (w : Word) (phy : BitVec 16)
  -- cell measurement (R274 to R286)
  | actlWrite (w : Word)
  | go
  | tdlyExpiry
  | tperExpiry
  | conversionEnd (v : Vector Int 16) (refin : Nat) (clamp : Bool)
  | injGo
  | injectionStart
  | fifoClr
  | fifoRead (r : Requester)
  | refSettled
  | refLost
  -- Trellis (R289 to R300)
  | gateRb (levels : BitVec 4) (g : Fin 4)
  | drvstEdge (n : Fin 4) (level : Bool) (held : BitVec 5)
  | dpolWrite (w : Word)
  | bypGo
  | bypfAssert
  | bypfForced
  | bypcAssert
  | bypfRelease
  | bypcRelease
  | bypNoclose
  | contactSample (v : Vector Byte 4)
  | cinChatterWindow
  | disc (p : Fin 2)
  | discRst (w : Word)
  | vauxDip
  | vauxRise
  | vauxUv
  | vauxOk
  -- faults (R305 to R316)
  | faultNPulseEnd (p : Part)
  | faultnIn (p : Part)
  | release (p : Part)
  | take
  | tkctlWrite (w : Word)
  | tklistWrite (r : Requester) (j : Fin 4) (v : Word)
  | cstateWrite (p : Part) (b : Fin 16) (x : Byte) (w : Word)
  | entryWrite (p : Part) (b : Fin 16) (x : Fin 32) (w : Word)
  | logcmdSend (r : Requester) (w : Word)
  | injWrite (p : Part) (w : Word)
  -- Ha-ha (R320 to R348)
  | safetyFrameSend
  | safetyCopy (e : SafetyEnd) (second : Bool) (pdu : SafetyPdu)
  | setBroken (l : LaneId)
  | copyWindowExpiry (e : SafetyEnd) (seq : Word)
  | safetyWatchdog (e : SafetyEnd)
  | rqFall (p : Part)
  | rqRise (p : Part)
  | rqLevelTimer (p : Part)
  | sbkReq (p : Part)
  | slv
  | slvTest (changed : Bool)
  | sliTimeout (sec : Bool)
  | sddMaskCheck (g : Fin 4)
  | sstop (n : Fin 2)
  | sinDisc
  | rcOscStop
  -- Glasshouse (R353 to R367)
  | recorderEntry (p : Part) (c : Fin 16)
  | postComplete (p : Part) (c : Fin 16)
  | holdoffExpiry (p : Part) (c : Fin 16)
  | gap (p : Part) (c : Fin 16)
  | force (p : Part) (c : Fin 16)
  | recorderRelease (p : Part) (c : Fin 16) (mask : BitVec 16)
  | xtrig (node : BitVec 10) (ft : DWord) (chan : BitVec 4) (xseq : BitVec 16)
  | trigAt (r : Requester) (hi : Word)
  | cctlWrite (p : Part) (c : Fin 16) (w : Word)
  | lddEn (w : Word)
  | trainingDone (ok : Bool) (size : Fin 5)
  | mr4Read (v : Byte) (inRange : Bool)
  -- host, boot, update, JTAG (R375 to R383)
  | bootGo
  | bootDone
  | qcmdGo (r : Requester) (w : Word)
  | otpcmdGo (p : Part) (w : Word)
  | pcieLinkDown
  | msixUnmask (v : BitVec 11)
  | confirm
  | bootWdExpiry
  | imageWrite (l : CellLane) (m : Message)
  | imageCheck (l : CellLane) (m : Message)
  | imageSwap (l : CellLane) (m : Message)
  | imageStatus (l : CellLane) (m : Message)
  | jtagBypass (p : Part)
  | idcode (p : Part)
  | samplePreload (p : Part) (v : DWord)
  | extest (p : Part)
  | clamp (p : Part)
  | highz (p : Part)
  -- power, resets, Lodge (R385 to R415)
  | porN
  | supervisorReset
  | rstN (us : Nat)
  | cold (p : Part) (w : Word)
  | warm (p : Part) (w : Word)
  | wdtWrite (w : Word)
  | watchdogExpiry
  | resetRelease (p : Part)
  | vbor
  | vwake
  | vwarn (fast : Bool)
  | lodgeReset
  | vbakLow
  | keepRead (r : Requester) (w : Fin 16)
  | tempHigh (p : Part) (t : BitVec 12)
  | pllLock
  | invalidHeader (l : LaneId)
  | adaptTimeout (l : LaneId)
  | pcieLinkUp (width : BitVec 4) (gen : BitVec 3)
  | ethLink (n : Fin 2) (up : Bool)
  | illegalInstruction (c : CoreId) (w : Word)
  | refReturn
deriving DecidableEq, Repr

end Sys2Proof
end

