-- ==== Sys2Proof/Decode.lean ====
section
/-!
DEFINITION. The commands that words of the opcode table spell. The table gives no row any bits, so there is none; the instruction words of
the Ovmin cores are decoded in Machine/OvDecode.lean.
-/
namespace Sys2Proof

/-- The command that an opcode-table word spells: none. -/
def decodeTableWord (_nbits _w : Nat) : Option Instr := none

end Sys2Proof
end

