-- ==== Sys2Proof/Config.lean ====
section
/-!
DEFINITION. What an implementation fixes and the spec does not give, and the free values: constants without a body, of
which no proof can know anything.
-/
namespace Sys2Proof

/-- A free value: whatever the spec leaves open, the n-th one drawn in a run (log entry 8). -/
opaque Config.freeValue : Nat → Word

/-- The serial number of the hub (factory value, R396). -/
opaque Config.hubSerial : DWord

/-- The serial number of the cell (factory value, R396). -/
opaque Config.cellSerial : DWord

/-- The manufacturer code of IDCODE, given in the BSDL files (R383). -/
opaque Config.jtagMaker : BitVec 11

/-- The level of Trellis's interrupt line for a value of TSTAT (Table 7-12; the spec names no condition). -/
opaque Config.trlLine : Word → Bool

/-- Whether a fused multiply-add of zero and infinity with a quiet NaN addend sets NV: IEEE 754 leaves it open (R163). -/
opaque Config.fmaInvalid : Bool

end Sys2Proof
end

