-- ==== Sys2Proof/Machine/Assoc.lean ====
section
/-!
DEFINITION. The one sparse container of the model: a list of (key, value) pairs in a canonical form. Every array of the
state, register files and memories included, is one of these, so that equal contents are equal data.
-/
namespace Sys2Proof.Machine

/-- A sparse array: keys strictly rising, no entry equal to what an unlisted key reads as. -/
abbrev Assoc (α : Type) := List (Nat × α)

/-- The value at key `k`; an unlisted key reads as `d k`. -/
def Assoc.get {α : Type} (d : Nat → α) : Assoc α → Nat → α
  | [], k => d k
  | (j, w) :: m, k => if k = j then w else Assoc.get d m k

/-- The array without key `k`. -/
def Assoc.drop {α : Type} : Assoc α → Nat → Assoc α
  | [], _ => []
  | (j, w) :: m, k => if k = j then Assoc.drop m k else (j, w) :: Assoc.drop m k

/-- The entry (k, v) put before the first greater key. -/
def Assoc.put {α : Type} : Assoc α → Nat → α → Assoc α
  | [], k, v => [(k, v)]
  | (j, w) :: m, k, v => if k < j then (k, v) :: (j, w) :: m else (j, w) :: Assoc.put m k v

/-- The array with `v` at key `k`, in canonical form. -/
def Assoc.set {α : Type} [DecidableEq α] (d : Nat → α) (m : Assoc α) (k : Nat) (v : α) : Assoc α :=
  if v = d k then Assoc.drop m k else Assoc.put (Assoc.drop m k) k v

/-- Keys from `lo` on in strictly rising order, and no entry equal to the default. -/
def Assoc.wfFrom {α : Type} [DecidableEq α] (d : Nat → α) : Nat → Assoc α → Bool
  | _, [] => true
  | lo, (j, w) :: m => decide (lo ≤ j) && decide (w ≠ d j) && Assoc.wfFrom d (j + 1) m

/-- The canonical form. -/
def Assoc.wf {α : Type} [DecidableEq α] (d : Nat → α) (m : Assoc α) : Bool := Assoc.wfFrom d 0 m

end Sys2Proof.Machine
end

