-- ==== Sys2Proof/Machine/RegRow.lean ====
section
/-!
DEFINITION. How a register map is written: rows of registers with the access masks and reset value of each word, and
fields of a register word.
-/
namespace Sys2Proof.Machine

/-- One 32-bit word of a register: the bits a write sets (RW and RWS), the bits a written 1 clears (W1C), the bits a
warm reset keeps (RWS), and the reset value (R3, R5). Every other bit is RO, WO or reserved. -/
structure RegWord where
  rw : Nat
  w1c : Nat
  rws : Nat
  reset : Nat
deriving DecidableEq, Repr

/-- A register, or a two-dimensional array of like registers: the address of the first, two strides and counts, and
the words of one register (R7). -/
structure RegRow where
  base : Nat
  stride1 : Nat
  count1 : Nat
  stride2 : Nat
  count2 : Nat
  words : List RegWord
deriving DecidableEq, Repr

/-- A field: the address of its word and its bit range [hi:lo]. -/
structure Fld where
  addr : Nat
  hi : Nat
  lo : Nat
deriving DecidableEq, Repr

/-- The place of address `a` in the row: the address of its register and the number of the word, if the row has it. -/
def RegRow.locate (r : RegRow) (a : Nat) : Option (Nat × Nat) :=
  if a < r.base then none
  else
    let o := a - r.base
    let i := o / r.stride1
    let o1 := o % r.stride1
    let j := o1 / r.stride2
    let o2 := o1 % r.stride2
    if i < r.count1 && j < r.count2 && o2 / 4 < r.words.length && o2 % 4 == 0 then some (a - o2, o2 / 4)
    else none

/-- The register of a list of rows that holds word address `a`: its address, the word's number, and its words. -/
def findReg : List RegRow → Nat → Option (Nat × Nat × List RegWord)
  | [], _ => none
  | r :: rs, a =>
    match r.locate a with
    | some (b, i) => some (b, i, r.words)
    | none => findReg rs a

end Sys2Proof.Machine
end

