-- ==== Sys2Proof/Machine/RegMapCell.lean ====
section
/-!
DEFINITION. The register map of the cell: the address of every register, the place of every field, and per register word
its access masks and reset value (Tables 2-6, 6-8, 6-10, 9-10, 9-12, 11-8, 12-3, 13-4, 14-8, 15-13, 16-6, 18-9 and their field
tables). Registers whose reset the tables give as U or as kept have 0 here (log entries 6 and 9).
-/
namespace Sys2Proof.Machine


/-- CGL ID, R396. -/
def CGL_ID : Nat := 0x40000000
/-- CGL RSTCMD, R396. -/
def CGL_RSTCMD : Nat := 0x40000004
/-- CGL RCAUSE, R396. -/
def CGL_RCAUSE : Nat := 0x40000008
/-- RCAUSE.POWER_ON [0], R396. -/
def CGL_RCAUSE_POWER_ON : Fld := ⟨CGL_RCAUSE, 0, 0⟩
/-- RCAUSE.COLD [1], R396. -/
def CGL_RCAUSE_COLD : Fld := ⟨CGL_RCAUSE, 1, 1⟩
/-- RCAUSE.WARM [2], R396. -/
def CGL_RCAUSE_WARM : Fld := ⟨CGL_RCAUSE, 2, 2⟩
/-- RCAUSE.BOOTWD [3], R396. -/
def CGL_RCAUSE_BOOTWD : Fld := ⟨CGL_RCAUSE, 3, 3⟩
/-- RCAUSE.SWAP [4], R396. -/
def CGL_RCAUSE_SWAP : Fld := ⟨CGL_RCAUSE, 4, 4⟩
/-- RCAUSE.HELD [5], R396. -/
def CGL_RCAUSE_HELD : Fld := ⟨CGL_RCAUSE, 5, 5⟩
/-- CGL CCFG, R396. -/
def CGL_CCFG : Nat := 0x4000000C
/-- CCFG.REFUSED [2], R396. -/
def CGL_CCFG_REFUSED : Fld := ⟨CGL_CCFG, 2, 2⟩
/-- CCFG.FB [1], R396. -/
def CGL_CCFG_FB : Fld := ⟨CGL_CCFG, 1, 1⟩
/-- CCFG.HOMING [0], R396. -/
def CGL_CCFG_HOMING : Fld := ⟨CGL_CCFG, 0, 0⟩
/-- CGL TEMP, R396. -/
def CGL_TEMP : Nat := 0x40000010
/-- TEMP.T [11:0], R396. -/
def CGL_TEMP_T : Fld := ⟨CGL_TEMP, 11, 0⟩
/-- CGL SERIAL, R396. -/
def CGL_SERIAL : Nat := 0x40000018
/-- CGL BOOTST, R382. -/
def CGL_BOOTST : Nat := 0x40000200
/-- BOOTST.BANK [0], R382. -/
def CGL_BOOTST_BANK : Fld := ⟨CGL_BOOTST, 0, 0⟩
/-- BOOTST.TRIAL [1], R382. -/
def CGL_BOOTST_TRIAL : Fld := ⟨CGL_BOOTST, 1, 1⟩
/-- BOOTST.TRIES [3:2], R382. -/
def CGL_BOOTST_TRIES : Fld := ⟨CGL_BOOTST, 3, 2⟩
/-- BOOTST.ROLLBACK [4], R382. -/
def CGL_BOOTST_ROLLBACK : Fld := ⟨CGL_BOOTST, 4, 4⟩
/-- BOOTST.ALT [5], R382. -/
def CGL_BOOTST_ALT : Fld := ⟨CGL_BOOTST, 5, 5⟩
/-- BOOTST.RESCUE [6], R382. -/
def CGL_BOOTST_RESCUE : Fld := ⟨CGL_BOOTST, 6, 6⟩
/-- BOOTST.CODE [15:8], R382. -/
def CGL_BOOTST_CODE : Fld := ⟨CGL_BOOTST, 15, 8⟩
/-- BOOTST.CHECKED [16], R382. -/
def CGL_BOOTST_CHECKED : Fld := ⟨CGL_BOOTST, 16, 16⟩
/-- CGL BOOTCMD, R382. -/
def CGL_BOOTCMD : Nat := 0x40000204
/-- BOOTCMD.CONFIRM [0], R382. -/
def CGL_BOOTCMD_CONFIRM : Fld := ⟨CGL_BOOTCMD, 0, 0⟩
/-- CGL IMG_VER, R382. -/
def CGL_IMG_VER : Nat := 0x40000208
/-- CGL OTPSTAT, R382. -/
def CGL_OTPSTAT : Nat := 0x4000020C
/-- OTPSTAT.SB_EN [0], R382. -/
def CGL_OTPSTAT_SB_EN : Fld := ⟨CGL_OTPSTAT, 0, 0⟩
/-- OTPSTAT.KEYP [4:1], R382. -/
def CGL_OTPSTAT_KEYP : Fld := ⟨CGL_OTPSTAT, 4, 1⟩
/-- OTPSTAT.REVOKE [8:5], R382. -/
def CGL_OTPSTAT_REVOKE : Fld := ⟨CGL_OTPSTAT, 8, 5⟩
/-- OTPSTAT.SEC_MIN [22:16], R382. -/
def CGL_OTPSTAT_SEC_MIN : Fld := ⟨CGL_OTPSTAT, 22, 16⟩
/-- CGL OTPCMD, R382. -/
def CGL_OTPCMD : Nat := 0x40000210

/-- CSD RCTL, R51. -/
def CSD_RCTL : Nat := 0x40001000
/-- RCTL.RUN_ANG [1], R51. -/
def CSD_RCTL_RUN_ANG : Fld := ⟨CSD_RCTL, 1, 1⟩
/-- RCTL.RUN_FT [0], R51. -/
def CSD_RCTL_RUN_FT : Fld := ⟨CSD_RCTL, 0, 0⟩
/-- CSD RSTAT, R51. -/
def CSD_RSTAT : Nat := 0x40001004
/-- RSTAT.REFUSED [9], R51. -/
def CSD_RSTAT_REFUSED : Fld := ⟨CSD_RSTAT, 9, 9⟩
/-- RSTAT.SYNC_LOST [8], R51. -/
def CSD_RSTAT_SYNC_LOST : Fld := ⟨CSD_RSTAT, 8, 8⟩
/-- RSTAT.BASE [5:4], R51. -/
def CSD_RSTAT_BASE : Fld := ⟨CSD_RSTAT, 5, 4⟩
/-- RSTAT.ANG_SYNC [1], R51. -/
def CSD_RSTAT_ANG_SYNC : Fld := ⟨CSD_RSTAT, 1, 1⟩
/-- RSTAT.FT_SYNC [0], R51. -/
def CSD_RSTAT_FT_SYNC : Fld := ⟨CSD_RSTAT, 0, 0⟩
/-- CSD RCMD, R51. -/
def CSD_RCMD : Nat := 0x40001008
/-- RCMD.LOAD_ANG [3], R51. -/
def CSD_RCMD_LOAD_ANG : Fld := ⟨CSD_RCMD, 3, 3⟩
/-- RCMD.LOAD_FT [2], R51. -/
def CSD_RCMD_LOAD_FT : Fld := ⟨CSD_RCMD, 2, 2⟩
/-- RCMD.STEP_ANG [1], R51. -/
def CSD_RCMD_STEP_ANG : Fld := ⟨CSD_RCMD, 1, 1⟩
/-- RCMD.STEP_FT [0], R51. -/
def CSD_RCMD_STEP_FT : Fld := ⟨CSD_RCMD, 0, 0⟩
/-- CSD FT_VAL, R51. -/
def CSD_FT_VAL : Nat := 0x40001010
/-- CSD ANG_VAL, R51. -/
def CSD_ANG_VAL : Nat := 0x40001020
/-- CSD FT_INC, R51. -/
def CSD_FT_INC : Nat := 0x40001030
/-- CSD ANG_INC, R51. -/
def CSD_ANG_INC : Nat := 0x40001038
/-- CSD FT_STEP, R51. -/
def CSD_FT_STEP : Nat := 0x40001040
/-- CSD ANG_STEP, R51. -/
def CSD_ANG_STEP : Nat := 0x40001048
/-- CSD FT_ERR, R51. -/
def CSD_FT_ERR : Nat := 0x40001050
/-- CSD ANG_ERR, R51. -/
def CSD_ANG_ERR : Nat := 0x40001058
/-- CSD FT_ERR_ALT, R51. -/
def CSD_FT_ERR_ALT : Nat := 0x40001060
/-- CSD ANG_ERR_ALT, R51. -/
def CSD_ANG_ERR_ALT : Nat := 0x40001068
/-- CSD SYNC_TO, R51. -/
def CSD_SYNC_TO : Nat := 0x40001070
/-- SYNC_TO.TIMEOUT [17:0], R51. -/
def CSD_SYNC_TO_TIMEOUT : Fld := ⟨CSD_SYNC_TO, 17, 0⟩

/-- LDG LCTL, R152. -/
def LDG_LCTL : Nat := 0x40002000
/-- LCTL.REP_DIV [19:16], R152. -/
def LDG_LCTL_REP_DIV : Fld := ⟨LDG_LCTL, 19, 16⟩
/-- LCTL.LAPSE_MAX [15:12], R152. -/
def LDG_LCTL_LAPSE_MAX : Fld := ⟨LDG_LCTL, 15, 12⟩
/-- LCTL.STAGGER [9:0], R152. -/
def LDG_LCTL_STAGGER : Fld := ⟨LDG_LCTL, 9, 0⟩
/-- LDG SLOTS, R152. -/
def LDG_SLOTS : Nat := 0x40002004
/-- SLOTS.S [15:0], R152. -/
def LDG_SLOTS_S : Fld := ⟨LDG_SLOTS, 15, 0⟩
/-- LDG SLOT_ORG, R152. -/
def LDG_SLOT_ORG : Nat := 0x40002008
/-- SLOT_ORG.ORG [31:0], R152. -/
def LDG_SLOT_ORG_ORG : Fld := ⟨LDG_SLOT_ORG, 31, 0⟩
/-- LDG LSTAT, R152. -/
def LDG_LSTAT : Nat := 0x4000200C
/-- LSTAT.T [27:16], R152. -/
def LDG_LSTAT_T : Fld := ⟨LDG_LSTAT, 27, 16⟩
/-- LSTAT.LAPSE_RUN [11:8], R152. -/
def LDG_LSTAT_LAPSE_RUN : Fld := ⟨LDG_LSTAT, 11, 8⟩
/-- LSTAT.SUPP [4], R152. -/
def LDG_LSTAT_SUPP : Fld := ⟨LDG_LSTAT, 4, 4⟩
/-- LSTAT.STATE [2:0], R152. -/
def LDG_LSTAT_STATE : Fld := ⟨LDG_LSTAT, 2, 0⟩
/-- LDG LFLAG, R152. -/
def LDG_LFLAG : Nat := 0x40002010
/-- LFLAG.REFUSED [8], R152. -/
def LDG_LFLAG_REFUSED : Fld := ⟨LDG_LFLAG, 8, 8⟩
/-- LFLAG.SKIP [7], R152. -/
def LDG_LFLAG_SKIP : Fld := ⟨LDG_LFLAG, 7, 7⟩
/-- LFLAG.STAGGER_LONG [6], R152. -/
def LDG_LFLAG_STAGGER_LONG : Fld := ⟨LDG_LFLAG, 6, 6⟩
/-- LFLAG.STALL [5], R152. -/
def LDG_LFLAG_STALL : Fld := ⟨LDG_LFLAG, 5, 5⟩
/-- LFLAG.NEG_HB [4], R152. -/
def LDG_LFLAG_NEG_HB : Fld := ⟨LDG_LFLAG, 4, 4⟩
/-- LFLAG.LEDGER_FULL [3], R152. -/
def LDG_LFLAG_LEDGER_FULL : Fld := ⟨LDG_LFLAG, 3, 3⟩
/-- LFLAG.SINGLE [2], R152. -/
def LDG_LFLAG_SINGLE : Fld := ⟨LDG_LFLAG, 2, 2⟩
/-- LFLAG.DIVERGE [1], R152. -/
def LDG_LFLAG_DIVERGE : Fld := ⟨LDG_LFLAG, 1, 1⟩
/-- LFLAG.LAPSE_FAULT [0], R152. -/
def LDG_LFLAG_LAPSE_FAULT : Fld := ⟨LDG_LFLAG, 0, 0⟩
/-- LDG LC, R152. -/
def LDG_LC : Nat := 0x40002014
/-- LC.LC [15:0], R152. -/
def LDG_LC_LC : Fld := ⟨LDG_LC, 15, 0⟩
/-- LDG LAPSE_CNT, R152. -/
def LDG_LAPSE_CNT : Nat := 0x40002040
/-- LDG ORPHAN_CNT, R152. -/
def LDG_ORPHAN_CNT : Nat := 0x40002044
/-- LDG CONFLICT_CNT, R152. -/
def LDG_CONFLICT_CNT : Nat := 0x40002048
/-- LDG DIVERGE_CNT, R152. -/
def LDG_DIVERGE_CNT : Nat := 0x4000204C
/-- LDG SINGLE_CNT, R152. -/
def LDG_SINGLE_CNT : Nat := 0x40002050
/-- LDG STALE_CNT, R152. -/
def LDG_STALE_CNT : Nat := 0x40002054
/-- LDG EARLY_CNT, R152. -/
def LDG_EARLY_CNT : Nat := 0x40002058
/-- LDG FULL_CNT, R152. -/
def LDG_FULL_CNT : Nat := 0x4000205C
/-- LDG DUP_CNT, R152. -/
def LDG_DUP_CNT : Nat := 0x40002060
/-- LDG SKIP_CNT, R152. -/
def LDG_SKIP_CNT : Nat := 0x40002064
/-- LDG NEGHB_CNT, R152. -/
def LDG_NEGHB_CNT : Nat := 0x40002068
/-- LDG STALL_CNT, R152. -/
def LDG_STALL_CNT : Nat := 0x4000206C
/-- LDG STAG_CNT, R152. -/
def LDG_STAG_CNT : Nat := 0x40002070
/-- LDG EXEC_CNT, R152. -/
def LDG_EXEC_CNT : Nat := 0x40002074
/-- LDG EVT_DROP_CNT, R152. -/
def LDG_EVT_DROP_CNT : Nat := 0x40002078
/-- LDG ENTRY, R152. -/
def LDG_ENTRY (i : Nat) : Nat := 0x40002100 + 0x40 * i

/-- PWM PCTL, R153. -/
def PWM_PCTL : Nat := 0x40003000
/-- PCTL.DBG_FORCE [2], R153. -/
def PWM_PCTL_DBG_FORCE : Fld := ⟨PWM_PCTL, 2, 2⟩
/-- PCTL.FB_BYP [1], R153. -/
def PWM_PCTL_FB_BYP : Fld := ⟨PWM_PCTL, 1, 1⟩
/-- PCTL.MODE [0], R153. -/
def PWM_PCTL_MODE : Fld := ⟨PWM_PCTL, 0, 0⟩
/-- PWM PSTAT, R153. -/
def PWM_PSTAT : Nat := 0x40003004
/-- PSTAT.PEND [8], R153. -/
def PWM_PSTAT_PEND : Fld := ⟨PWM_PSTAT, 8, 8⟩
/-- PSTAT.REFUSED [7], R153. -/
def PWM_PSTAT_REFUSED : Fld := ⟨PWM_PSTAT, 7, 7⟩
/-- PSTAT.CLK_STOP [6], R153. -/
def PWM_PSTAT_CLK_STOP : Fld := ⟨PWM_PSTAT, 6, 6⟩
/-- PSTAT.HALTED [5], R153. -/
def PWM_PSTAT_HALTED : Fld := ⟨PWM_PSTAT, 5, 5⟩
/-- PSTAT.FROZEN [4], R153. -/
def PWM_PSTAT_FROZEN : Fld := ⟨PWM_PSTAT, 4, 4⟩
/-- PSTAT.GATE [3:0], R153. -/
def PWM_PSTAT_GATE : Fld := ⟨PWM_PSTAT, 3, 0⟩
/-- PWM DEADT, R153. -/
def PWM_DEADT : Nat := 0x40003008
/-- DEADT.DEAD [9:0], R153. -/
def PWM_DEADT_DEAD : Fld := ⟨PWM_DEADT, 9, 0⟩
/-- PWM MINPW, R153. -/
def PWM_MINPW : Nat := 0x4000300C
/-- MINPW.MIN_OFF [27:16], R153. -/
def PWM_MINPW_MIN_OFF : Fld := ⟨PWM_MINPW, 27, 16⟩
/-- MINPW.MIN_ON [11:0], R153. -/
def PWM_MINPW_MIN_ON : Fld := ⟨PWM_MINPW, 11, 0⟩
/-- PWM TCNT, R153. -/
def PWM_TCNT : Nat := 0x40003010
/-- PWM PCNT, R153. -/
def PWM_PCNT : Nat := 0x40003014
/-- PWM PER, R153. -/
def PWM_PER : Nat := 0x40003018
/-- PER.T [15:0], R153. -/
def PWM_PER_T : Fld := ⟨PWM_PER, 15, 0⟩
/-- PWM CMP, R153. -/
def PWM_CMP (i : Nat) : Nat := 0x4000301C + 4 * i
/-- CMP.T [15:0], R153. -/
def PWM_CMP_T (i : Nat) : Fld := ⟨PWM_CMP i, 15, 0⟩
/-- PWM PER_SH, R153. -/
def PWM_PER_SH : Nat := 0x40003030
/-- PER_SH.T [15:0], R153. -/
def PWM_PER_SH_T : Fld := ⟨PWM_PER_SH, 15, 0⟩
/-- PWM CMP_SH, R153. -/
def PWM_CMP_SH (i : Nat) : Nat := 0x40003034 + 4 * i
/-- CMP_SH.T [15:0], R153. -/
def PWM_CMP_SH_T (i : Nat) : Fld := ⟨PWM_CMP_SH i, 15, 0⟩
/-- PWM SEAL, R153. -/
def PWM_SEAL : Nat := 0x40003044
/-- SEAL.SEAL_CMP [1], R153. -/
def PWM_SEAL_SEAL_CMP : Fld := ⟨PWM_SEAL, 1, 1⟩
/-- SEAL.SEAL_PER [0], R153. -/
def PWM_SEAL_SEAL_PER : Fld := ⟨PWM_SEAL, 0, 0⟩
/-- PWM SSTAT, R153. -/
def PWM_SSTAT : Nat := 0x40003048
/-- SSTAT.AON1 [3], R153. -/
def PWM_SSTAT_AON1 : Fld := ⟨PWM_SSTAT, 3, 3⟩
/-- SSTAT.AON0 [2], R153. -/
def PWM_SSTAT_AON0 : Fld := ⟨PWM_SSTAT, 2, 2⟩
/-- SSTAT.CMP_PEND [1], R153. -/
def PWM_SSTAT_CMP_PEND : Fld := ⟨PWM_SSTAT, 1, 1⟩
/-- SSTAT.PER_PEND [0], R153. -/
def PWM_SSTAT_PER_PEND : Fld := ⟨PWM_SSTAT, 0, 0⟩
/-- PWM EVCTL, R153. -/
def PWM_EVCTL : Nat := 0x40003050
/-- EVCTL.PSC [15:8], R153. -/
def PWM_EVCTL_PSC : Fld := ⟨PWM_EVCTL, 15, 8⟩
/-- EVCTL.EN [5:0], R153. -/
def PWM_EVCTL_EN : Fld := ⟨PWM_EVCTL, 5, 0⟩
/-- PWM EVSTAT, R153. -/
def PWM_EVSTAT : Nat := 0x40003054
/-- EVSTAT.OVR [13:8], R153. -/
def PWM_EVSTAT_OVR : Fld := ⟨PWM_EVSTAT, 13, 8⟩
/-- EVSTAT.FLAG [5:0], R153. -/
def PWM_EVSTAT_FLAG : Fld := ⟨PWM_EVSTAT, 5, 0⟩
/-- PWM TB0, R153. -/
def PWM_TB0 : Nat := 0x40003060
/-- TB0.GMASK [19:16], R153. -/
def PWM_TB0_GMASK : Fld := ⟨PWM_TB0, 19, 16⟩
/-- TB0.BLANK [11:0], R153. -/
def PWM_TB0_BLANK : Fld := ⟨PWM_TB0, 11, 0⟩
/-- PWM TB1, R153. -/
def PWM_TB1 : Nat := 0x40003064
/-- TB1.GMASK [19:16], R153. -/
def PWM_TB1_GMASK : Fld := ⟨PWM_TB1, 19, 16⟩
/-- TB1.BLANK [11:0], R153. -/
def PWM_TB1_BLANK : Fld := ⟨PWM_TB1, 11, 0⟩
/-- PWM TB2, R153. -/
def PWM_TB2 : Nat := 0x40003068
/-- TB2.GMASK [19:16], R153. -/
def PWM_TB2_GMASK : Fld := ⟨PWM_TB2, 19, 16⟩
/-- TB2.BLANK [11:0], R153. -/
def PWM_TB2_BLANK : Fld := ⟨PWM_TB2, 11, 0⟩
/-- PWM TB3, R153. -/
def PWM_TB3 : Nat := 0x4000306C
/-- TB3.GMASK [19:16], R153. -/
def PWM_TB3_GMASK : Fld := ⟨PWM_TB3, 19, 16⟩
/-- TB3.BLANK [11:0], R153. -/
def PWM_TB3_BLANK : Fld := ⟨PWM_TB3, 11, 0⟩
/-- PWM BLANKED_CNT, R153. -/
def PWM_BLANKED_CNT (i : Nat) : Nat := 0x40003070 + 4 * i
/-- PWM SWALLOW_CNT, R153. -/
def PWM_SWALLOW_CNT : Nat := 0x40003080
/-- PWM FULLON_CNT, R153. -/
def PWM_FULLON_CNT : Nat := 0x40003084
/-- PWM SWCNT, R153. -/
def PWM_SWCNT : Nat := 0x40003088
/-- PWM HALT_REF_CNT, R153. -/
def PWM_HALT_REF_CNT : Nat := 0x40003090

/-- ADC ACTL, R288. -/
def ADC_ACTL : Nat := 0x40004000
/-- ACTL.FTHR [22:16], R288. -/
def ADC_ACTL_FTHR : Fld := ⟨ADC_ACTL, 22, 16⟩
/-- ACTL.NENT [11:8], R288. -/
def ADC_ACTL_NENT : Fld := ⟨ADC_ACTL, 11, 8⟩
/-- ACTL.REFEN [6], R288. -/
def ADC_ACTL_REFEN : Fld := ⟨ADC_ACTL, 6, 6⟩
/-- ACTL.REFSEL [5:4], R288. -/
def ADC_ACTL_REFSEL : Fld := ⟨ADC_ACTL, 5, 4⟩
/-- ACTL.TRIG [2:1], R288. -/
def ADC_ACTL_TRIG : Fld := ⟨ADC_ACTL, 2, 1⟩
/-- ACTL.EN [0], R288. -/
def ADC_ACTL_EN : Fld := ⟨ADC_ACTL, 0, 0⟩
/-- ADC ASTAT, R288. -/
def ADC_ASTAT : Nat := 0x40004004
/-- ASTAT.REF_LOST [15], R288. -/
def ADC_ASTAT_REF_LOST : Fld := ⟨ADC_ASTAT, 15, 15⟩
/-- ASTAT.VCAP_STALE [14], R288. -/
def ADC_ASTAT_VCAP_STALE : Fld := ⟨ADC_ASTAT, 14, 14⟩
/-- ASTAT.OVR [13], R288. -/
def ADC_ASTAT_OVR : Fld := ⟨ADC_ASTAT, 13, 13⟩
/-- ASTAT.INJ_DONE [12], R288. -/
def ADC_ASTAT_INJ_DONE : Fld := ⟨ADC_ASTAT, 12, 12⟩
/-- ASTAT.INJ_MISS [11], R288. -/
def ADC_ASTAT_INJ_MISS : Fld := ⟨ADC_ASTAT, 11, 11⟩
/-- ASTAT.TRIG_MISS [10], R288. -/
def ADC_ASTAT_TRIG_MISS : Fld := ⟨ADC_ASTAT, 10, 10⟩
/-- ASTAT.FIFO_OVF [9], R288. -/
def ADC_ASTAT_FIFO_OVF : Fld := ⟨ADC_ASTAT, 9, 9⟩
/-- ASTAT.REFUSED [8], R288. -/
def ADC_ASTAT_REFUSED : Fld := ⟨ADC_ASTAT, 8, 8⟩
/-- ASTAT.INJ_PEND [2], R288. -/
def ADC_ASTAT_INJ_PEND : Fld := ⟨ADC_ASTAT, 2, 2⟩
/-- ASTAT.REF_SETTLED [1], R288. -/
def ADC_ASTAT_REF_SETTLED : Fld := ⟨ADC_ASTAT, 1, 1⟩
/-- ASTAT.BUSY [0], R288. -/
def ADC_ASTAT_BUSY : Fld := ⟨ADC_ASTAT, 0, 0⟩
/-- ADC ACMD, R288. -/
def ADC_ACMD : Nat := 0x40004008
/-- ACMD.FIFO_CLR [2], R288. -/
def ADC_ACMD_FIFO_CLR : Fld := ⟨ADC_ACMD, 2, 2⟩
/-- ACMD.INJ_GO [1], R288. -/
def ADC_ACMD_INJ_GO : Fld := ⟨ADC_ACMD, 1, 1⟩
/-- ACMD.GO [0], R288. -/
def ADC_ACMD_GO : Fld := ⟨ADC_ACMD, 0, 0⟩
/-- ADC TRIGCFG, R288. -/
def ADC_TRIGCFG : Nat := 0x4000400C
/-- TRIGCFG.TDLY [27:16], R288. -/
def ADC_TRIGCFG_TDLY : Fld := ⟨ADC_TRIGCFG, 27, 16⟩
/-- TRIGCFG.TPER [15:0], R288. -/
def ADC_TRIGCFG_TPER : Fld := ⟨ADC_TRIGCFG, 15, 0⟩
/-- ADC INJCFG, R288. -/
def ADC_INJCFG : Nat := 0x40004010
/-- INJCFG.INJ_FIFO [25], R288. -/
def ADC_INJCFG_INJ_FIFO : Fld := ⟨ADC_INJCFG, 25, 25⟩
/-- INJCFG.SRC [24], R288. -/
def ADC_INJCFG_SRC : Fld := ⟨ADC_INJCFG, 24, 24⟩
/-- INJCFG.ACQ [16:8], R288. -/
def ADC_INJCFG_ACQ : Fld := ⟨ADC_INJCFG, 16, 8⟩
/-- INJCFG.GAIN [6:5], R288. -/
def ADC_INJCFG_GAIN : Fld := ⟨ADC_INJCFG, 6, 5⟩
/-- INJCFG.DIFF [4], R288. -/
def ADC_INJCFG_DIFF : Fld := ⟨ADC_INJCFG, 4, 4⟩
/-- INJCFG.INP [3:0], R288. -/
def ADC_INJCFG_INP : Fld := ⟨ADC_INJCFG, 3, 0⟩
/-- ADC VCAPCFG, R288. -/
def ADC_VCAPCFG : Nat := 0x40004014
/-- VCAPCFG.VAGE [31:16], R288. -/
def ADC_VCAPCFG_VAGE : Fld := ⟨ADC_VCAPCFG, 31, 16⟩
/-- VCAPCFG.VENT [3:0], R288. -/
def ADC_VCAPCFG_VENT : Fld := ⟨ADC_VCAPCFG, 3, 0⟩
/-- ADC VGAIN, R288. -/
def ADC_VGAIN : Nat := 0x40004018
/-- VGAIN.VGAIN [19:0], R288. -/
def ADC_VGAIN_VGAIN : Fld := ⟨ADC_VGAIN, 19, 0⟩
/-- ADC VOFF, R288. -/
def ADC_VOFF : Nat := 0x4000401C
/-- VOFF.VOFF [17:0], R288. -/
def ADC_VOFF_VOFF : Fld := ⟨ADC_VOFF, 17, 0⟩
/-- ADC TJREP, R288. -/
def ADC_TJREP : Nat := 0x40004020
/-- TJREP.TJ [7:0], R288. -/
def ADC_TJREP_TJ : Fld := ⟨ADC_TJREP, 7, 0⟩
/-- ADC FIFO, R288. -/
def ADC_FIFO : Nat := 0x40004024
/-- ADC FLEVEL, R288. -/
def ADC_FLEVEL : Nat := 0x40004028
/-- FLEVEL.LEVEL [6:0], R288. -/
def ADC_FLEVEL_LEVEL : Fld := ⟨ADC_FLEVEL, 6, 0⟩
/-- ADC AIEN, R288. -/
def ADC_AIEN : Nat := 0x4000402C
/-- AIEN.REF_LOST [4], R288. -/
def ADC_AIEN_REF_LOST : Fld := ⟨ADC_AIEN, 4, 4⟩
/-- AIEN.OVR [3], R288. -/
def ADC_AIEN_OVR : Fld := ⟨ADC_AIEN, 3, 3⟩
/-- AIEN.FIFO_OVF [2], R288. -/
def ADC_AIEN_FIFO_OVF : Fld := ⟨ADC_AIEN, 2, 2⟩
/-- AIEN.INJ_DONE [1], R288. -/
def ADC_AIEN_INJ_DONE : Fld := ⟨ADC_AIEN, 1, 1⟩
/-- AIEN.FIFO_THR [0], R288. -/
def ADC_AIEN_FIFO_THR : Fld := ⟨ADC_AIEN, 0, 0⟩
/-- ADC MASKS, R288. -/
def ADC_MASKS : Nat := 0x40004030
/-- MASKS.OVRMASK [31:16], R288. -/
def ADC_MASKS_OVRMASK : Fld := ⟨ADC_MASKS, 31, 16⟩
/-- MASKS.FIFOMASK [15:0], R288. -/
def ADC_MASKS_FIFOMASK : Fld := ⟨ADC_MASKS, 15, 0⟩
/-- ADC ENTA, R288. -/
def ADC_ENTA (i : Nat) : Nat := 0x40004040 + 4 * i
/-- ENTA.ACQ [16:8], R288. -/
def ADC_ENTA_ACQ (i : Nat) : Fld := ⟨ADC_ENTA i, 16, 8⟩
/-- ENTA.GAIN [6:5], R288. -/
def ADC_ENTA_GAIN (i : Nat) : Fld := ⟨ADC_ENTA i, 6, 5⟩
/-- ENTA.DIFF [4], R288. -/
def ADC_ENTA_DIFF (i : Nat) : Fld := ⟨ADC_ENTA i, 4, 4⟩
/-- ENTA.INP [3:0], R288. -/
def ADC_ENTA_INP (i : Nat) : Fld := ⟨ADC_ENTA i, 3, 0⟩
/-- ADC ENTB, R288. -/
def ADC_ENTB (i : Nat) : Nat := 0x40004080 + 4 * i
/-- ENTB.NEN [31], R288. -/
def ADC_ENTB_NEN (i : Nat) : Fld := ⟨ADC_ENTB i, 31, 31⟩
/-- ENTB.NDLY [25:16], R288. -/
def ADC_ENTB_NDLY (i : Nat) : Fld := ⟨ADC_ENTB i, 25, 16⟩
/-- ENTB.DEC [15:8], R288. -/
def ADC_ENTB_DEC (i : Nat) : Fld := ⟨ADC_ENTB i, 15, 8⟩
/-- ENTB.ORD [1:0], R288. -/
def ADC_ENTB_ORD (i : Nat) : Fld := ⟨ADC_ENTB i, 1, 0⟩
/-- ADC LATEST, R288. -/
def ADC_LATEST (i : Nat) : Nat := 0x400040C0 + 4 * i
/-- ADC INJ_LAST, R288. -/
def ADC_INJ_LAST : Nat := 0x40004100
/-- ADC FIFO_OVF_CNT, R288. -/
def ADC_FIFO_OVF_CNT : Nat := 0x40004140
/-- ADC TRIG_MISS_CNT, R288. -/
def ADC_TRIG_MISS_CNT : Nat := 0x40004144
/-- ADC INJ_MISS_CNT, R288. -/
def ADC_INJ_MISS_CNT : Nat := 0x40004148
/-- ADC OVR_CNT, R288. -/
def ADC_OVR_CNT : Nat := 0x4000414C
/-- ADC RECOV_CNT, R288. -/
def ADC_RECOV_CNT : Nat := 0x40004150
/-- ADC SETTLE_CNT, R288. -/
def ADC_SETTLE_CNT : Nat := 0x40004154

/-- TRL TCTL, R301. -/
def TRL_TCTL : Nat := 0x40005000
/-- TCTL.PEN [4:3], R301. -/
def TRL_TCTL_PEN : Fld := ⟨TRL_TCTL, 4, 3⟩
/-- TCTL.VAUX_EN [2], R301. -/
def TRL_TCTL_VAUX_EN : Fld := ⟨TRL_TCTL, 2, 2⟩
/-- TCTL.CIN_EN [1], R301. -/
def TRL_TCTL_CIN_EN : Fld := ⟨TRL_TCTL, 1, 1⟩
/-- TCTL.RB_EN [0], R301. -/
def TRL_TCTL_RB_EN : Fld := ⟨TRL_TCTL, 0, 0⟩
/-- TRL TSTAT, R301. -/
def TRL_TSTAT : Nat := 0x40005004
/-- TSTAT.VAUX_OK [23], R301. -/
def TRL_TSTAT_VAUX_OK : Fld := ⟨TRL_TSTAT, 23, 23⟩
/-- TSTAT.BYP_RUN [22], R301. -/
def TRL_TSTAT_BYP_RUN : Fld := ⟨TRL_TSTAT, 22, 22⟩
/-- TSTAT.BYPASSED [21], R301. -/
def TRL_TSTAT_BYPASSED : Fld := ⟨TRL_TSTAT, 21, 21⟩
/-- TSTAT.BYPC [20], R301. -/
def TRL_TSTAT_BYPC : Fld := ⟨TRL_TSTAT, 20, 20⟩
/-- TSTAT.BYPF [19], R301. -/
def TRL_TSTAT_BYPF : Fld := ⟨TRL_TSTAT, 19, 19⟩
/-- TSTAT.DRV_TRIP [18:15], R301. -/
def TRL_TSTAT_DRV_TRIP : Fld := ⟨TRL_TSTAT, 18, 15⟩
/-- TSTAT.REFUSED [14], R301. -/
def TRL_TSTAT_REFUSED : Fld := ⟨TRL_TSTAT, 14, 14⟩
/-- TSTAT.BYPF_FORCED [13], R301. -/
def TRL_TSTAT_BYPF_FORCED : Fld := ⟨TRL_TSTAT, 13, 13⟩
/-- TSTAT.BYP_DONE [12], R301. -/
def TRL_TSTAT_BYP_DONE : Fld := ⟨TRL_TSTAT, 12, 12⟩
/-- TSTAT.BYP_NOCLOSE [11], R301. -/
def TRL_TSTAT_BYP_NOCLOSE : Fld := ⟨TRL_TSTAT, 11, 11⟩
/-- TSTAT.CONTACT_MOVE [10], R301. -/
def TRL_TSTAT_CONTACT_MOVE : Fld := ⟨TRL_TSTAT, 10, 10⟩
/-- TSTAT.DISC [9:8], R301. -/
def TRL_TSTAT_DISC : Fld := ⟨TRL_TSTAT, 9, 8⟩
/-- TSTAT.TRANSIT [7:6], R301. -/
def TRL_TSTAT_TRANSIT : Fld := ⟨TRL_TSTAT, 7, 6⟩
/-- TSTAT.CHATTER [5:2], R301. -/
def TRL_TSTAT_CHATTER : Fld := ⟨TRL_TSTAT, 5, 2⟩
/-- TSTAT.VAUX_UV [1], R301. -/
def TRL_TSTAT_VAUX_UV : Fld := ⟨TRL_TSTAT, 1, 1⟩
/-- TSTAT.GATE_RB [0], R301. -/
def TRL_TSTAT_GATE_RB : Fld := ⟨TRL_TSTAT, 0, 0⟩
/-- TRL TCMD, R301. -/
def TRL_TCMD : Nat := 0x40005008
/-- TCMD.DISC_RST [2:1], R301. -/
def TRL_TCMD_DISC_RST : Fld := ⟨TRL_TCMD, 2, 1⟩
/-- TCMD.BYP_GO [0], R301. -/
def TRL_TCMD_BYP_GO : Fld := ⟨TRL_TCMD, 0, 0⟩
/-- TRL RBCFG, R301. -/
def TRL_RBCFG : Nat := 0x4000500C
/-- RBCFG.RBF [4:0], R301. -/
def TRL_RBCFG_RBF : Fld := ⟨TRL_RBCFG, 4, 0⟩
/-- TRL RBSTAT, R301. -/
def TRL_RBSTAT : Nat := 0x40005010
/-- RBSTAT.TS [31:16], R301. -/
def TRL_RBSTAT_TS : Fld := ⟨TRL_RBSTAT, 31, 16⟩
/-- RBSTAT.LEVEL [15:12], R301. -/
def TRL_RBSTAT_LEVEL : Fld := ⟨TRL_RBSTAT, 15, 12⟩
/-- RBSTAT.PARTNER [5:4], R301. -/
def TRL_RBSTAT_PARTNER : Fld := ⟨TRL_RBSTAT, 5, 4⟩
/-- RBSTAT.GATE [3:2], R301. -/
def TRL_RBSTAT_GATE : Fld := ⟨TRL_RBSTAT, 3, 2⟩
/-- RBSTAT.CODE [1:0], R301. -/
def TRL_RBSTAT_CODE : Fld := ⟨TRL_RBSTAT, 1, 0⟩
/-- TRL DRVCFG, R301. -/
def TRL_DRVCFG : Nat := 0x40005014
/-- DRVCFG.DPOL [15:12], R301. -/
def TRL_DRVCFG_DPOL : Fld := ⟨TRL_DRVCFG, 15, 12⟩
/-- DRVCFG.DRVEN [11:8], R301. -/
def TRL_DRVCFG_DRVEN : Fld := ⟨TRL_DRVCFG, 11, 8⟩
/-- DRVCFG.DFILT [4:0], R301. -/
def TRL_DRVCFG_DFILT : Fld := ⟨TRL_DRVCFG, 4, 0⟩
/-- TRL BYPCFG, R301. -/
def TRL_BYPCFG : Nat := 0x40005018
/-- BYPCFG.TRAVEL [23:16], R301. -/
def TRL_BYPCFG_TRAVEL : Fld := ⟨TRL_BYPCFG, 23, 16⟩
/-- BYPCFG.BYPF_HOLD [15:8], R301. -/
def TRL_BYPCFG_BYPF_HOLD : Fld := ⟨TRL_BYPCFG, 15, 8⟩
/-- BYPCFG.BYPC_DLY [7:0], R301. -/
def TRL_BYPCFG_BYPC_DLY : Fld := ⟨TRL_BYPCFG, 7, 0⟩
/-- TRL WETCFG, R301. -/
def TRL_WETCFG : Nat := 0x4000501C
/-- WETCFG.WON [29:16], R301. -/
def TRL_WETCFG_WON : Fld := ⟨TRL_WETCFG, 29, 16⟩
/-- WETCFG.WPER [15:0], R301. -/
def TRL_WETCFG_WPER : Fld := ⟨TRL_WETCFG, 15, 0⟩
/-- TRL CINCFG, R301. -/
def TRL_CINCFG : Nat := 0x40005020
/-- CINCFG.DISC_T [31:24], R301. -/
def TRL_CINCFG_DISC_T : Fld := ⟨TRL_CINCFG, 31, 24⟩
/-- CINCFG.CHAT_MAX [23:16], R301. -/
def TRL_CINCFG_CHAT_MAX : Fld := ⟨TRL_CINCFG, 23, 16⟩
/-- CINCFG.CHAT_WIN [15:8], R301. -/
def TRL_CINCFG_CHAT_WIN : Fld := ⟨TRL_CINCFG, 15, 8⟩
/-- CINCFG.CFILT [5:0], R301. -/
def TRL_CINCFG_CFILT : Fld := ⟨TRL_CINCFG, 5, 0⟩
/-- TRL CTHR, R301. -/
def TRL_CTHR : Nat := 0x40005024
/-- CTHR.TH_HI [15:8], R301. -/
def TRL_CTHR_TH_HI : Fld := ⟨TRL_CTHR, 15, 8⟩
/-- CTHR.TH_LO [7:0], R301. -/
def TRL_CTHR_TH_LO : Fld := ⟨TRL_CTHR, 7, 0⟩
/-- TRL VAUXCFG, R301. -/
def TRL_VAUXCFG : Nat := 0x40005028
/-- VAUXCFG.UV_HYS [11:8], R301. -/
def TRL_VAUXCFG_UV_HYS : Fld := ⟨TRL_VAUXCFG, 11, 8⟩
/-- VAUXCFG.UV_TH [7:0], R301. -/
def TRL_VAUXCFG_UV_TH : Fld := ⟨TRL_VAUXCFG, 7, 0⟩
/-- TRL CINSTAT, R301. -/
def TRL_CINSTAT : Nat := 0x4000502C
/-- CINSTAT.STATE1 [13:11], R301. -/
def TRL_CINSTAT_STATE1 : Fld := ⟨TRL_CINSTAT, 13, 11⟩
/-- CINSTAT.STATE0 [10:8], R301. -/
def TRL_CINSTAT_STATE0 : Fld := ⟨TRL_CINSTAT, 10, 8⟩
/-- CINSTAT.ZONE [7:0], R301. -/
def TRL_CINSTAT_ZONE : Fld := ⟨TRL_CINSTAT, 7, 0⟩
/-- TRL DRVTS, R301. -/
def TRL_DRVTS (i : Nat) : Nat := 0x40005040 + 8 * i
/-- TRL RB_GLITCH, R301. -/
def TRL_RB_GLITCH : Nat := 0x40005080
/-- TRL DRV_TRIP_CNT, R301. -/
def TRL_DRV_TRIP_CNT : Nat := 0x40005084
/-- TRL BYP_REPEAT, R301. -/
def TRL_BYP_REPEAT : Nat := 0x40005088
/-- TRL TRANSIT_CNT, R301. -/
def TRL_TRANSIT_CNT (i : Nat) : Nat := 0x4000508C + 4 * i
/-- TRL CIN_REJ, R301. -/
def TRL_CIN_REJ (i : Nat) : Nat := 0x40005094 + 4 * i
/-- TRL VAUX_GLITCH, R301. -/
def TRL_VAUX_GLITCH : Nat := 0x4000509C

/-- CFL FCTL, R319. -/
def CFL_FCTL : Nat := 0x40006000
/-- FCTL.FN_SW [8], R319. -/
def CFL_FCTL_FN_SW : Fld := ⟨CFL_FCTL, 8, 8⟩
/-- FCTL.FN_WIDTH [7:0], R319. -/
def CFL_FCTL_FN_WIDTH : Fld := ⟨CFL_FCTL, 7, 0⟩
/-- CFL FSTAT, R319. -/
def CFL_FSTAT : Nat := 0x40006004
/-- FSTAT.INJ_DONE [9], R319. -/
def CFL_FSTAT_INJ_DONE : Fld := ⟨CFL_FSTAT, 9, 9⟩
/-- FSTAT.REFUSED [8], R319. -/
def CFL_FSTAT_REFUSED : Fld := ⟨CFL_FSTAT, 8, 8⟩
/-- FSTAT.FN_DRIVE [2], R319. -/
def CFL_FSTAT_FN_DRIVE : Fld := ⟨CFL_FSTAT, 2, 2⟩
/-- FSTAT.FN_PULSE [1], R319. -/
def CFL_FSTAT_FN_PULSE : Fld := ⟨CFL_FSTAT, 1, 1⟩
/-- FSTAT.FN_PIN [0], R319. -/
def CFL_FSTAT_FN_PIN : Fld := ⟨CFL_FSTAT, 0, 0⟩
/-- CFL FCMD, R319. -/
def CFL_FCMD : Nat := 0x40006008
/-- FCMD.RELEASE [0], R319. -/
def CFL_FCMD_RELEASE : Fld := ⟨CFL_FCMD, 0, 0⟩
/-- CFL INJ, R319. -/
def CFL_INJ : Nat := 0x4000600C
/-- INJ.CHKMASK [23:16], R319. -/
def CFL_INJ_CHKMASK : Fld := ⟨CFL_INJ, 23, 16⟩
/-- INJ.MODE [9:8], R319. -/
def CFL_INJ_MODE : Fld := ⟨CFL_INJ, 9, 8⟩
/-- INJ.MEM [7:0], R319. -/
def CFL_INJ_MEM : Fld := ⟨CFL_INJ, 7, 0⟩
/-- CFL SOCFG, R319. -/
def CFL_SOCFG : Nat := 0x40006010
/-- SOCFG.ABPOL [0], R319. -/
def CFL_SOCFG_ABPOL : Fld := ⟨CFL_SOCFG, 0, 0⟩
/-- CFL REACT, R319. -/
def CFL_REACT : Nat := 0x40006014
/-- REACT.SIL_B [4], R319. -/
def CFL_REACT_SIL_B : Fld := ⟨CFL_REACT, 4, 4⟩
/-- REACT.SIL_A [3], R319. -/
def CFL_REACT_SIL_A : Fld := ⟨CFL_REACT, 3, 3⟩
/-- REACT.HLD [2], R319. -/
def CFL_REACT_HLD : Fld := ⟨CFL_REACT, 2, 2⟩
/-- REACT.BYP [1], R319. -/
def CFL_REACT_BYP : Fld := ⟨CFL_REACT, 1, 1⟩
/-- REACT.BLK [0], R319. -/
def CFL_REACT_BLK : Fld := ⟨CFL_REACT, 0, 0⟩
/-- CFL BLK_BY, R319. -/
def CFL_BLK_BY : Nat := 0x40006018
/-- CFL HLD_BY, R319. -/
def CFL_HLD_BY : Nat := 0x4000601C
/-- CFL SIL_BY, R319. -/
def CFL_SIL_BY : Nat := 0x40006020
/-- CFL LOGSEL, R319. -/
def CFL_LOGSEL : Nat := 0x40006024
/-- LOGSEL.BLK [19:16], R319. -/
def CFL_LOGSEL_BLK : Fld := ⟨CFL_LOGSEL, 19, 16⟩
/-- LOGSEL.IDX [7:0], R319. -/
def CFL_LOGSEL_IDX : Fld := ⟨CFL_LOGSEL, 7, 0⟩
/-- CFL LOGCMD, R319. -/
def CFL_LOGCMD : Nat := 0x40006028
/-- LOGCMD.SEND [31], R319. -/
def CFL_LOGCMD_SEND : Fld := ⟨CFL_LOGCMD, 31, 31⟩
/-- LOGCMD.COUNT [23:16], R319. -/
def CFL_LOGCMD_COUNT : Fld := ⟨CFL_LOGCMD, 23, 16⟩
/-- LOGCMD.BLK [3:0], R319. -/
def CFL_LOGCMD_BLK : Fld := ⟨CFL_LOGCMD, 3, 0⟩
/-- CFL LOGENT, R319. -/
def CFL_LOGENT : Nat := 0x40006030
/-- CFL LOGCTL, R319. -/
def CFL_LOGCTL (i : Nat) : Nat := 0x40006100 + 0x20 * i
/-- LOGCTL.WR_IDX [23:16], R319. -/
def CFL_LOGCTL_WR_IDX (i : Nat) : Fld := ⟨CFL_LOGCTL i, 23, 16⟩
/-- LOGCTL.RD_IDX [7:0], R319. -/
def CFL_LOGCTL_RD_IDX (i : Nat) : Fld := ⟨CFL_LOGCTL i, 7, 0⟩
/-- CFL LOST, R319. -/
def CFL_LOST (i : Nat) : Nat := 0x40006104 + 0x20 * i
/-- CFL CSTATE, R319. -/
def CFL_CSTATE (i : Nat) : Nat := 0x40006108 + 0x20 * i
/-- CSTATE.IRQ [6:4], R319. -/
def CFL_CSTATE_IRQ (i : Nat) : Fld := ⟨CFL_CSTATE i, 6, 4⟩
/-- CSTATE.PEND_F [2], R319. -/
def CFL_CSTATE_PEND_F (i : Nat) : Fld := ⟨CFL_CSTATE i, 2, 2⟩
/-- CSTATE.PEND_K [1], R319. -/
def CFL_CSTATE_PEND_K (i : Nat) : Fld := ⟨CFL_CSTATE i, 1, 1⟩
/-- CSTATE.PEND_C [0], R319. -/
def CFL_CSTATE_PEND_C (i : Nat) : Fld := ⟨CFL_CSTATE i, 0, 0⟩
/-- CFL ESC_CNT, R319. -/
def CFL_ESC_CNT (i : Nat) : Nat := 0x4000610C + 0x20 * i
/-- CFL CNT_C, R319. -/
def CFL_CNT_C (i : Nat) : Nat := 0x40006110 + 0x20 * i
/-- CFL CNT_K, R319. -/
def CFL_CNT_K (i : Nat) : Nat := 0x40006114 + 0x20 * i
/-- CFL CNT_F, R319. -/
def CFL_CNT_F (i : Nat) : Nat := 0x40006118 + 0x20 * i
/-- CFL ENTRY, R319. -/
def CFL_ENTRY (i : Nat) (j : Nat) : Nat := 0x40006400 + 0x80 * i + 4 * j
/-- ENTRY.RF [23:16], R319. -/
def CFL_ENTRY_RF (i : Nat) (j : Nat) : Fld := ⟨CFL_ENTRY i j, 23, 16⟩
/-- ENTRY.RK [15:8], R319. -/
def CFL_ENTRY_RK (i : Nat) (j : Nat) : Fld := ⟨CFL_ENTRY i j, 15, 8⟩
/-- ENTRY.RC [7:0], R319. -/
def CFL_ENTRY_RC (i : Nat) (j : Nat) : Fld := ⟨CFL_ENTRY i j, 7, 0⟩

/-- CHH HCTL, R352. -/
def CHH_HCTL : Nat := 0x40007000
/-- HCTL.SDD_EN [3], R352. -/
def CHH_HCTL_SDD_EN : Fld := ⟨CHH_HCTL, 3, 3⟩
/-- HCTL.SLV_EN [2], R352. -/
def CHH_HCTL_SLV_EN : Fld := ⟨CHH_HCTL, 2, 2⟩
/-- HCTL.ONECOPY [1], R352. -/
def CHH_HCTL_ONECOPY : Fld := ⟨CHH_HCTL, 1, 1⟩
/-- HCTL.RMODE [0], R352. -/
def CHH_HCTL_RMODE : Fld := ⟨CHH_HCTL, 0, 0⟩
/-- CHH HSTAT, R352. -/
def CHH_HSTAT : Nat := 0x40007004
/-- HSTAT.REFUSED [18], R352. -/
def CHH_HSTAT_REFUSED : Fld := ⟨CHH_HSTAT, 18, 18⟩
/-- HSTAT.RESET_REF [17], R352. -/
def CHH_HSTAT_RESET_REF : Fld := ⟨CHH_HSTAT, 17, 17⟩
/-- HSTAT.DEB_REF [16], R352. -/
def CHH_HSTAT_DEB_REF : Fld := ⟨CHH_HSTAT, 16, 16⟩
/-- HSTAT.CAUSE [15:8], R352. -/
def CHH_HSTAT_CAUSE : Fld := ⟨CHH_HSTAT, 15, 8⟩
/-- HSTAT.RQ [7], R352. -/
def CHH_HSTAT_RQ : Fld := ⟨CHH_HSTAT, 7, 7⟩
/-- HSTAT.REL [6], R352. -/
def CHH_HSTAT_REL : Fld := ⟨CHH_HSTAT, 6, 6⟩
/-- HSTAT.MASK_NEG [5], R352. -/
def CHH_HSTAT_MASK_NEG : Fld := ⟨CHH_HSTAT, 5, 5⟩
/-- HSTAT.MASK_POS [4], R352. -/
def CHH_HSTAT_MASK_POS : Fld := ⟨CHH_HSTAT, 4, 4⟩
/-- HSTAT.SAFE [3], R352. -/
def CHH_HSTAT_SAFE : Fld := ⟨CHH_HSTAT, 3, 3⟩
/-- HSTAT.STATE [2:0], R352. -/
def CHH_HSTAT_STATE : Fld := ⟨CHH_HSTAT, 2, 0⟩
/-- CHH HCMD, R352. -/
def CHH_HCMD : Nat := 0x40007008
/-- HCMD.SBK_REQ [0], R352. -/
def CHH_HCMD_SBK_REQ : Fld := ⟨CHH_HCMD, 0, 0⟩
/-- HCMD.DEBLOCK [1], R352. -/
def CHH_HCMD_DEBLOCK : Fld := ⟨CHH_HCMD, 1, 1⟩
/-- CHH CONN, R352. -/
def CHH_CONN : Nat := 0x4000700C
/-- CONN.CONN [23:6], R352. -/
def CHH_CONN_CONN : Fld := ⟨CHH_CONN, 23, 6⟩
/-- CHH RXCFG, R352. -/
def CHH_RXCFG : Nat := 0x40007010
/-- RXCFG.DW [7:0], R352. -/
def CHH_RXCFG_DW : Fld := ⟨CHH_RXCFG, 7, 0⟩
/-- RXCFG.AGE_MAX [15:8], R352. -/
def CHH_RXCFG_AGE_MAX : Fld := ⟨CHH_RXCFG, 15, 8⟩
/-- RXCFG.SKIPMAX [19:16], R352. -/
def CHH_RXCFG_SKIPMAX : Fld := ⟨CHH_RXCFG, 19, 16⟩
/-- RXCFG.WD_MAX [31:20], R352. -/
def CHH_RXCFG_WD_MAX : Fld := ⟨CHH_RXCFG, 31, 20⟩
/-- CHH SLVCFG, R352. -/
def CHH_SLVCFG : Nat := 0x40007014
/-- SLVCFG.SLV_TH [9:0], R352. -/
def CHH_SLVCFG_SLV_TH : Fld := ⟨CHH_SLVCFG, 9, 0⟩
/-- SLVCFG.SLV_FILT [21:16], R352. -/
def CHH_SLVCFG_SLV_FILT : Fld := ⟨CHH_SLVCFG, 21, 16⟩
/-- CHH CFG_CRC, R352. -/
def CHH_CFG_CRC : Nat := 0x40007018
/-- CHH LAST_SEQ, R352. -/
def CHH_LAST_SEQ : Nat := 0x4000701C
/-- CHH DISC_CNT, R352. -/
def CHH_DISC_CNT : Nat := 0x40007020
/-- CHH WD_CNT, R352. -/
def CHH_WD_CNT : Nat := 0x40007024
/-- CHH SEQ_CNT, R352. -/
def CHH_SEQ_CNT : Nat := 0x40007028
/-- CHH AGE_CNT, R352. -/
def CHH_AGE_CNT : Nat := 0x4000702C
/-- CHH DUP_CNT, R352. -/
def CHH_DUP_CNT : Nat := 0x40007030
/-- CHH FORM_CNT, R352. -/
def CHH_FORM_CNT : Nat := 0x40007034
/-- CHH DEB_REF_CNT, R352. -/
def CHH_DEB_REF_CNT : Nat := 0x40007038
/-- CHH RESET_REF_CNT, R352. -/
def CHH_RESET_REF_CNT : Nat := 0x4000703C
/-- CHH SLV_CNT, R352. -/
def CHH_SLV_CNT : Nat := 0x40007040

/-- CGS CGCTL, R371. -/
def CGS_CGCTL : Nat := 0x40008000
/-- CGS GSTAT, R371. -/
def CGS_GSTAT : Nat := 0x40008004
/-- GSTAT.REFUSED [1], R371. -/
def CGS_GSTAT_REFUSED : Fld := ⟨CGS_GSTAT, 1, 1⟩
/-- GSTAT.READY [0], R371. -/
def CGS_GSTAT_READY : Fld := ⟨CGS_GSTAT, 0, 0⟩
/-- CGS TRIG_AT, R371. -/
def CGS_TRIG_AT : Nat := 0x40008010
/-- CGS CCTL, R371. -/
def CGS_CCTL (i : Nat) : Nat := 0x40008100 + 0x40 * i
/-- CCTL.CHIN [31:16], R371. -/
def CGS_CCTL_CHIN (i : Nat) : Fld := ⟨CGS_CCTL i, 31, 16⟩
/-- CCTL.XIN [11], R371. -/
def CGS_CCTL_XIN (i : Nat) : Fld := ⟨CGS_CCTL i, 11, 11⟩
/-- CCTL.TMODE [10:8], R371. -/
def CGS_CCTL_TMODE (i : Nat) : Fld := ⟨CGS_CCTL i, 10, 8⟩
/-- CCTL.SRC [6:4], R371. -/
def CGS_CCTL_SRC (i : Nat) : Fld := ⟨CGS_CCTL i, 6, 4⟩
/-- CCTL.MODE [2:1], R371. -/
def CGS_CCTL_MODE (i : Nat) : Fld := ⟨CGS_CCTL i, 2, 1⟩
/-- CCTL.EN [0], R371. -/
def CGS_CCTL_EN (i : Nat) : Fld := ⟨CGS_CCTL i, 0, 0⟩
/-- CGS CSTAT, R371. -/
def CGS_CSTAT (i : Nat) : Nat := 0x40008104 + 0x40 * i
/-- CSTAT.DONE [23:8], R371. -/
def CGS_CSTAT_DONE (i : Nat) : Fld := ⟨CGS_CSTAT i, 23, 8⟩
/-- CSTAT.SLOT [7:4], R371. -/
def CGS_CSTAT_SLOT (i : Nat) : Fld := ⟨CGS_CSTAT i, 7, 4⟩
/-- CSTAT.STATE [2:0], R371. -/
def CGS_CSTAT_STATE (i : Nat) : Fld := ⟨CGS_CSTAT i, 2, 0⟩
/-- CGS CCMD, R371. -/
def CGS_CCMD (i : Nat) : Nat := 0x40008108 + 0x40 * i
/-- CCMD.RELEASE [31:16], R371. -/
def CGS_CCMD_RELEASE (i : Nat) : Fld := ⟨CGS_CCMD i, 31, 16⟩
/-- CCMD.FORCE [0], R371. -/
def CGS_CCMD_FORCE (i : Nat) : Fld := ⟨CGS_CCMD i, 0, 0⟩
/-- CGS SEL, R371. -/
def CGS_SEL (i : Nat) : Nat := 0x4000810C + 0x40 * i
/-- SEL.TSRC [31:24], R371. -/
def CGS_SEL_TSRC (i : Nat) : Fld := ⟨CGS_SEL i, 31, 24⟩
/-- SEL.KMASK [23:16], R371. -/
def CGS_SEL_KMASK (i : Nat) : Fld := ⟨CGS_SEL i, 23, 16⟩
/-- SEL.LAST [15:8], R371. -/
def CGS_SEL_LAST (i : Nat) : Fld := ⟨CGS_SEL i, 15, 8⟩
/-- SEL.FIRST [7:0], R371. -/
def CGS_SEL_FIRST (i : Nat) : Fld := ⟨CGS_SEL i, 7, 0⟩
/-- CGS TFIELD, R371. -/
def CGS_TFIELD (i : Nat) : Nat := 0x40008110 + 0x40 * i
/-- TFIELD.SIGNED [11], R371. -/
def CGS_TFIELD_SIGNED (i : Nat) : Fld := ⟨CGS_TFIELD i, 11, 11⟩
/-- TFIELD.WIDTH [10:6], R371. -/
def CGS_TFIELD_WIDTH (i : Nat) : Fld := ⟨CGS_TFIELD i, 10, 6⟩
/-- TFIELD.POS [5:0], R371. -/
def CGS_TFIELD_POS (i : Nat) : Fld := ⟨CGS_TFIELD i, 5, 0⟩
/-- CGS TLEVEL, R371. -/
def CGS_TLEVEL (i : Nat) : Nat := 0x40008114 + 0x40 * i
/-- CGS TMASK, R371. -/
def CGS_TMASK (i : Nat) : Nat := 0x40008118 + 0x40 * i
/-- CGS TVAL, R371. -/
def CGS_TVAL (i : Nat) : Nat := 0x4000811C + 0x40 * i
/-- CGS RBASE, R371. -/
def CGS_RBASE (i : Nat) : Nat := 0x40008120 + 0x40 * i
/-- RBASE.BASE [20:0], R371. -/
def CGS_RBASE_BASE (i : Nat) : Fld := ⟨CGS_RBASE i, 20, 0⟩
/-- CGS RSIZE, R371. -/
def CGS_RSIZE (i : Nat) : Nat := 0x40008124 + 0x40 * i
/-- RSIZE.HOLDOFF [31:20], R371. -/
def CGS_RSIZE_HOLDOFF (i : Nat) : Fld := ⟨CGS_RSIZE i, 31, 20⟩
/-- RSIZE.NSLOT [19:16], R371. -/
def CGS_RSIZE_NSLOT (i : Nat) : Fld := ⟨CGS_RSIZE i, 19, 16⟩
/-- RSIZE.SLOTSZ [15:0], R371. -/
def CGS_RSIZE_SLOTSZ (i : Nat) : Fld := ⟨CGS_RSIZE i, 15, 0⟩
/-- CGS PRE, R371. -/
def CGS_PRE (i : Nat) : Nat := 0x40008128 + 0x40 * i
/-- PRE.N [23:0], R371. -/
def CGS_PRE_N (i : Nat) : Fld := ⟨CGS_PRE i, 23, 0⟩
/-- CGS POST, R371. -/
def CGS_POST (i : Nat) : Nat := 0x4000812C + 0x40 * i
/-- POST.N [23:0], R371. -/
def CGS_POST_N (i : Nat) : Fld := ⟨CGS_POST i, 23, 0⟩
/-- CGS MISSED, R371. -/
def CGS_MISSED (i : Nat) : Nat := 0x40008130 + 0x40 * i
/-- CGS DROPPED, R371. -/
def CGS_DROPPED (i : Nat) : Nat := 0x40008134 + 0x40 * i
/-- CGS GAPS, R371. -/
def CGS_GAPS (i : Nat) : Nat := 0x40008138 + 0x40 * i
/-- CGS RECORDS, R371. -/
def CGS_RECORDS (i : Nat) : Nat := 0x4000813C + 0x40 * i

/-- CLN CCTL, R226. -/
def CLN_CCTL : Nat := 0x40009200
/-- CCTL.MBX_EN [1], R226. -/
def CLN_CCTL_MBX_EN : Fld := ⟨CLN_CCTL, 1, 1⟩
/-- CCTL.ACTIVE [0], R226. -/
def CLN_CCTL_ACTIVE : Fld := ⟨CLN_CCTL, 0, 0⟩
/-- CLN SYNC_NOEP, R226. -/
def CLN_SYNC_NOEP : Nat := 0x40009204
/-- CLN MBX_RXA, R226. -/
def CLN_MBX_RXA : Nat := 0x40009208
/-- CLN MBX_RXL, R226. -/
def CLN_MBX_RXL : Nat := 0x4000920C
/-- MBX_RXL.FULL [31], R226. -/
def CLN_MBX_RXL_FULL : Fld := ⟨CLN_MBX_RXL, 31, 31⟩
/-- MBX_RXL.LANE [20], R226. -/
def CLN_MBX_RXL_LANE : Fld := ⟨CLN_MBX_RXL, 20, 20⟩
/-- MBX_RXL.SEQ [19:12], R226. -/
def CLN_MBX_RXL_SEQ : Fld := ⟨CLN_MBX_RXL, 19, 12⟩
/-- MBX_RXL.LEN [11:0], R226. -/
def CLN_MBX_RXL_LEN : Fld := ⟨CLN_MBX_RXL, 11, 0⟩
/-- CLN MBX_TX, R226. -/
def CLN_MBX_TX : Nat := 0x40009210
/-- MBX_TX.ADDR [31:0], R226. -/
def CLN_MBX_TX_ADDR : Fld := ⟨CLN_MBX_TX, 31, 0⟩
/-- MBX_TX.LEN [43:32], R226. -/
def CLN_MBX_TX_LEN : Fld := ⟨CLN_MBX_TX + 4, 11, 0⟩
/-- MBX_TX.SEQ [51:44], R226. -/
def CLN_MBX_TX_SEQ : Fld := ⟨CLN_MBX_TX + 4, 19, 12⟩
/-- MBX_TX.LANES [53:52], R226. -/
def CLN_MBX_TX_LANES : Fld := ⟨CLN_MBX_TX + 4, 21, 20⟩
/-- MBX_TX.GO [63], R226. -/
def CLN_MBX_TX_GO : Fld := ⟨CLN_MBX_TX + 4, 31, 31⟩

/-- LOD LSTAT, R396. -/
def LOD_LSTAT : Nat := 0x4000A000
/-- LSTAT.LODGE_NEW [6], R396. -/
def LOD_LSTAT_LODGE_NEW : Fld := ⟨LOD_LSTAT, 6, 6⟩
/-- LSTAT.FRESH [5], R396. -/
def LOD_LSTAT_FRESH : Fld := ⟨LOD_LSTAT, 5, 5⟩
/-- LSTAT.LATE [4], R396. -/
def LOD_LSTAT_LATE : Fld := ⟨LOD_LSTAT, 4, 4⟩
/-- LSTAT.VBAK_LOW [3], R396. -/
def LOD_LSTAT_VBAK_LOW : Fld := ⟨LOD_LSTAT, 3, 3⟩
/-- LSTAT.PAR_ERR [2], R396. -/
def LOD_LSTAT_PAR_ERR : Fld := ⟨LOD_LSTAT, 2, 2⟩
/-- LSTAT.CHG [1], R396. -/
def LOD_LSTAT_CHG : Fld := ⟨LOD_LSTAT, 1, 1⟩
/-- LSTAT.VBAK_OK [0], R396. -/
def LOD_LSTAT_VBAK_OK : Fld := ⟨LOD_LSTAT, 0, 0⟩
/-- LOD LCTL, R396. -/
def LOD_LCTL : Nat := 0x4000A004
/-- LCTL.CHG_EN [0], R396. -/
def LOD_LCTL_CHG_EN : Fld := ⟨LOD_LCTL, 0, 0⟩
/-- LOD PCC, R396. -/
def LOD_PCC : Nat := 0x4000A008
/-- LOD VBAK, R396. -/
def LOD_VBAK : Nat := 0x4000A00C
/-- VBAK.MV [11:0], R396. -/
def LOD_VBAK_MV : Fld := ⟨LOD_VBAK, 11, 0⟩
/-- LOD KEEP, R396. -/
def LOD_KEEP (i : Nat) : Nat := 0x4000A040 + 4 * i
/-- LOD KEEPR, R396. -/
def LOD_KEEPR (i : Nat) : Nat := 0x4000A070 + 4 * i

/-- The register rows of CGL. -/
def regMapCGL : List RegRow := [
  ⟨0x40000000, 0x100000000, 1, 0x100000000, 1, [⟨0, 0, 0, 0x10004000⟩]⟩,
  ⟨0x40000004, 0x100000000, 1, 0x100000000, 1, [⟨0, 0, 0, 0⟩]⟩,
  ⟨0x40000008, 0x100000000, 1, 0x100000000, 1, [⟨0, 0x3F, 0, 1⟩]⟩,
  ⟨0x4000000C, 0x100000000, 1, 0x100000000, 1, [⟨3, 4, 0, 0⟩]⟩,
  ⟨0x40000010, 0x100000000, 1, 0x100000000, 1, [⟨0, 0, 0, 0⟩]⟩,
  ⟨0x40000018, 0x100000000, 1, 0x100000000, 1, List.replicate 2 ⟨0, 0, 0, 0⟩⟩,
  ⟨0x40000200, 0x100000000, 1, 0x100000000, 1, [⟨0, 0x10, 0, 0⟩]⟩,
  ⟨0x40000204, 0x100000000, 1, 0x100000000, 1, [⟨0, 0, 0, 0⟩]⟩,
  ⟨0x40000208, 0x100000000, 1, 0x100000000, 1, [⟨0, 0, 0, 0⟩]⟩,
  ⟨0x4000020C, 0x100000000, 1, 0x100000000, 1, [⟨0, 0, 0, 0⟩]⟩,
  ⟨0x40000210, 0x100000000, 1, 0x100000000, 1, [⟨0, 0, 0, 0⟩]⟩]

/-- The register rows of CSD. -/
def regMapCSD : List RegRow := [
  ⟨0x40001000, 0x100000000, 1, 0x100000000, 1, [⟨3, 0, 0, 0⟩]⟩,
  ⟨0x40001004, 0x100000000, 1, 0x100000000, 1, [⟨0, 0x300, 0, 0⟩]⟩,
  ⟨0x40001008, 0x100000000, 1, 0x100000000, 1, [⟨0, 0, 0, 0⟩]⟩,
  ⟨0x40001010, 0x100000000, 1, 0x100000000, 1, List.replicate 4 ⟨0, 0, 0, 0⟩⟩,
  ⟨0x40001020, 0x100000000, 1, 0x100000000, 1, List.replicate 4 ⟨0, 0, 0, 0⟩⟩,
  ⟨0x40001030, 0x100000000, 1, 0x100000000, 1, [⟨0xFFFFFFFF, 0, 0, 0⟩, ⟨0xFFFFFFFF, 0, 0, 0x280⟩]⟩,
  ⟨0x40001038, 0x100000000, 1, 0x100000000, 1, List.replicate 2 ⟨0xFFFFFFFF, 0, 0, 0⟩⟩,
  ⟨0x40001040, 0x100000000, 1, 0x100000000, 1, List.replicate 2 ⟨0xFFFFFFFF, 0, 0, 0⟩⟩,
  ⟨0x40001048, 0x100000000, 1, 0x100000000, 1, List.replicate 2 ⟨0xFFFFFFFF, 0, 0, 0⟩⟩,
  ⟨0x40001050, 0x100000000, 1, 0x100000000, 1, List.replicate 2 ⟨0, 0, 0, 0⟩⟩,
  ⟨0x40001058, 0x100000000, 1, 0x100000000, 1, List.replicate 2 ⟨0, 0, 0, 0⟩⟩,
  ⟨0x40001060, 0x100000000, 1, 0x100000000, 1, List.replicate 2 ⟨0, 0, 0, 0⟩⟩,
  ⟨0x40001068, 0x100000000, 1, 0x100000000, 1, List.replicate 2 ⟨0, 0, 0, 0⟩⟩,
  ⟨0x40001070, 0x100000000, 1, 0x100000000, 1, [⟨0x3FFFF, 0, 0, 0x640⟩]⟩]

/-- The register rows of LDG. -/
def regMapLDGA : List RegRow := [
  ⟨0x40002000, 0x100000000, 1, 0x100000000, 1, [⟨0xFF3FF, 0, 0, 0x3000⟩]⟩,
  ⟨0x40002004, 0x100000000, 1, 0x100000000, 1, [⟨0xFFFF, 0, 0, 0x7D0⟩]⟩,
  ⟨0x40002008, 0x100000000, 1, 0x100000000, 1, [⟨0xFFFFFFFF, 0, 0, 0⟩]⟩,
  ⟨0x4000200C, 0x100000000, 1, 0x100000000, 1, [⟨0, 0, 0, 0⟩]⟩,
  ⟨0x40002010, 0x100000000, 1, 0x100000000, 1, [⟨0, 0x1FF, 0, 0⟩]⟩,
  ⟨0x40002014, 0x100000000, 1, 0x100000000, 1, [⟨0, 0, 0, 0⟩]⟩,
  ⟨0x40002040, 0x100000000, 1, 0x100000000, 1, [⟨0, 0, 0, 0⟩]⟩,
  ⟨0x40002044, 0x100000000, 1, 0x100000000, 1, [⟨0, 0, 0, 0⟩]⟩,
  ⟨0x40002048, 0x100000000, 1, 0x100000000, 1, [⟨0, 0, 0, 0⟩]⟩,
  ⟨0x4000204C, 0x100000000, 1, 0x100000000, 1, [⟨0, 0, 0, 0⟩]⟩,
  ⟨0x40002050, 0x100000000, 1, 0x100000000, 1, [⟨0, 0, 0, 0⟩]⟩,
  ⟨0x40002054, 0x100000000, 1, 0x100000000, 1, [⟨0, 0, 0, 0⟩]⟩,
  ⟨0x40002058, 0x100000000, 1, 0x100000000, 1, [⟨0, 0, 0, 0⟩]⟩,
  ⟨0x4000205C, 0x100000000, 1, 0x100000000, 1, [⟨0, 0, 0, 0⟩]⟩,
  ⟨0x40002060, 0x100000000, 1, 0x100000000, 1, [⟨0, 0, 0, 0⟩]⟩,
  ⟨0x40002064, 0x100000000, 1, 0x100000000, 1, [⟨0, 0, 0, 0⟩]⟩,
  ⟨0x40002068, 0x100000000, 1, 0x100000000, 1, [⟨0, 0, 0, 0⟩]⟩,
  ⟨0x4000206C, 0x100000000, 1, 0x100000000, 1, [⟨0, 0, 0, 0⟩]⟩,
  ⟨0x40002070, 0x100000000, 1, 0x100000000, 1, [⟨0, 0, 0, 0⟩]⟩,
  ⟨0x40002074, 0x100000000, 1, 0x100000000, 1, [⟨0, 0, 0, 0⟩]⟩]

/-- The register rows of LDG. -/
def regMapLDGB : List RegRow := [
  ⟨0x40002078, 0x100000000, 1, 0x100000000, 1, [⟨0, 0, 0, 0⟩]⟩,
  ⟨0x40002100, 0x100000000, 1, 0x40, 4, List.replicate 9 ⟨0, 0, 0, 0⟩⟩]

/-- The register rows of LDG. -/
def regMapLDG : List RegRow := regMapLDGA ++ regMapLDGB

/-- The register rows of PWM. -/
def regMapPWMA : List RegRow := [
  ⟨0x40003000, 0x100000000, 1, 0x100000000, 1, [⟨7, 0, 0, 0⟩]⟩,
  ⟨0x40003004, 0x100000000, 1, 0x100000000, 1, [⟨0, 0xC0, 0, 0⟩]⟩,
  ⟨0x40003008, 0x100000000, 1, 0x100000000, 1, [⟨0x3FF, 0, 0, 0x3FF⟩]⟩,
  ⟨0x4000300C, 0x100000000, 1, 0x100000000, 1, [⟨0xFFF0FFF, 0, 0, 0x1900190⟩]⟩,
  ⟨0x40003010, 0x100000000, 1, 0x100000000, 1, [⟨0, 0, 0, 0⟩]⟩,
  ⟨0x40003014, 0x100000000, 1, 0x100000000, 1, [⟨0, 0, 0, 0⟩]⟩,
  ⟨0x40003018, 0x100000000, 1, 0x100000000, 1, [⟨0, 0, 0, 0x3E8⟩]⟩,
  ⟨0x4000301C, 0x100000000, 1, 4, 4, [⟨0, 0, 0, 0⟩]⟩,
  ⟨0x40003030, 0x100000000, 1, 0x100000000, 1, [⟨0xFFFF, 0, 0, 0x3E8⟩]⟩,
  ⟨0x40003034, 0x100000000, 1, 4, 4, [⟨0xFFFF, 0, 0, 0⟩]⟩,
  ⟨0x40003044, 0x100000000, 1, 0x100000000, 1, [⟨0, 0, 0, 0⟩]⟩,
  ⟨0x40003048, 0x100000000, 1, 0x100000000, 1, [⟨0, 0, 0, 0⟩]⟩,
  ⟨0x40003050, 0x100000000, 1, 0x100000000, 1, [⟨0xFF3F, 0, 0, 0⟩]⟩,
  ⟨0x40003054, 0x100000000, 1, 0x100000000, 1, [⟨0, 0x3F3F, 0, 0⟩]⟩,
  ⟨0x40003060, 0x100000000, 1, 0x100000000, 1, [⟨0xF0FFF, 0, 0, 0x10000⟩]⟩,
  ⟨0x40003064, 0x100000000, 1, 0x100000000, 1, [⟨0xF0FFF, 0, 0, 0x20000⟩]⟩,
  ⟨0x40003068, 0x100000000, 1, 0x100000000, 1, [⟨0xF0FFF, 0, 0, 0x40000⟩]⟩,
  ⟨0x4000306C, 0x100000000, 1, 0x100000000, 1, [⟨0xF0FFF, 0, 0, 0x80000⟩]⟩,
  ⟨0x40003070, 0x100000000, 1, 4, 4, [⟨0, 0, 0, 0⟩]⟩,
  ⟨0x40003080, 0x100000000, 1, 0x100000000, 1, [⟨0, 0, 0, 0⟩]⟩]

/-- The register rows of PWM. -/
def regMapPWMB : List RegRow := [
  ⟨0x40003084, 0x100000000, 1, 0x100000000, 1, [⟨0, 0, 0, 0⟩]⟩,
  ⟨0x40003088, 0x100000000, 1, 0x100000000, 1, [⟨0xFFFFFFFF, 0, 0xFFFFFFFF, 0⟩, ⟨0xFFFF, 0, 0xFFFF, 0⟩]⟩,
  ⟨0x40003090, 0x100000000, 1, 0x100000000, 1, [⟨0, 0, 0, 0⟩]⟩]

/-- The register rows of PWM. -/
def regMapPWM : List RegRow := regMapPWMA ++ regMapPWMB

/-- The register rows of ADC. -/
def regMapADCA : List RegRow := [
  ⟨0x40004000, 0x100000000, 1, 0x100000000, 1, [⟨0x7F0F77, 0, 0, 0x10000⟩]⟩,
  ⟨0x40004004, 0x100000000, 1, 0x100000000, 1, [⟨0, 0xBF00, 0, 0⟩]⟩,
  ⟨0x40004008, 0x100000000, 1, 0x100000000, 1, [⟨0, 0, 0, 0⟩]⟩,
  ⟨0x4000400C, 0x100000000, 1, 0x100000000, 1, [⟨0xFFFFFFF, 0, 0, 1⟩]⟩,
  ⟨0x40004010, 0x100000000, 1, 0x100000000, 1, [⟨0x301FF7F, 0, 0, 0⟩]⟩,
  ⟨0x40004014, 0x100000000, 1, 0x100000000, 1, [⟨0xFFFF000F, 0, 0, 0x640000⟩]⟩,
  ⟨0x40004018, 0x100000000, 1, 0x100000000, 1, [⟨0xFFFFF, 0, 0, 0x8000⟩]⟩,
  ⟨0x4000401C, 0x100000000, 1, 0x100000000, 1, [⟨0x3FFFF, 0, 0, 0⟩]⟩,
  ⟨0x40004020, 0x100000000, 1, 0x100000000, 1, [⟨0xFF, 0, 0, 0x40⟩]⟩,
  ⟨0x40004024, 0x100000000, 1, 0x100000000, 1, [⟨0, 0, 0, 0x200⟩]⟩,
  ⟨0x40004028, 0x100000000, 1, 0x100000000, 1, [⟨0, 0, 0, 0⟩]⟩,
  ⟨0x4000402C, 0x100000000, 1, 0x100000000, 1, [⟨0x1F, 0, 0, 0⟩]⟩,
  ⟨0x40004030, 0x100000000, 1, 0x100000000, 1, [⟨0xFFFFFFFF, 0, 0, 0xFFFF⟩]⟩,
  ⟨0x40004040, 0x100000000, 1, 4, 16, [⟨0x1FF7F, 0, 0, 0⟩]⟩,
  ⟨0x40004080, 0x100000000, 1, 4, 16, [⟨0x83FFFF03, 0, 0, 0⟩]⟩,
  ⟨0x400040C0, 0x100000000, 1, 4, 16, [⟨0, 0, 0, 0x200⟩]⟩,
  ⟨0x40004100, 0x100000000, 1, 0x100000000, 1, [⟨0, 0, 0, 0x220⟩]⟩,
  ⟨0x40004140, 0x100000000, 1, 0x100000000, 1, [⟨0, 0, 0, 0⟩]⟩,
  ⟨0x40004144, 0x100000000, 1, 0x100000000, 1, [⟨0, 0, 0, 0⟩]⟩,
  ⟨0x40004148, 0x100000000, 1, 0x100000000, 1, [⟨0, 0, 0, 0⟩]⟩]

/-- The register rows of ADC. -/
def regMapADCB : List RegRow := [
  ⟨0x4000414C, 0x100000000, 1, 0x100000000, 1, [⟨0, 0, 0, 0⟩]⟩,
  ⟨0x40004150, 0x100000000, 1, 0x100000000, 1, [⟨0, 0, 0, 0⟩]⟩,
  ⟨0x40004154, 0x100000000, 1, 0x100000000, 1, [⟨0, 0, 0, 0⟩]⟩]

/-- The register rows of ADC. -/
def regMapADC : List RegRow := regMapADCA ++ regMapADCB

/-- The register rows of TRL. -/
def regMapTRL : List RegRow := [
  ⟨0x40005000, 0x100000000, 1, 0x100000000, 1, [⟨0x1F, 0, 0, 5⟩]⟩,
  ⟨0x40005004, 0x100000000, 1, 0x100000000, 1, [⟨0, 0x7FFFF, 0, 0⟩]⟩,
  ⟨0x40005008, 0x100000000, 1, 0x100000000, 1, [⟨0, 0, 0, 0⟩]⟩,
  ⟨0x4000500C, 0x100000000, 1, 0x100000000, 1, [⟨0x1F, 0, 0, 4⟩]⟩,
  ⟨0x40005010, 0x100000000, 1, 0x100000000, 1, [⟨0, 0, 0, 0⟩]⟩,
  ⟨0x40005014, 0x100000000, 1, 0x100000000, 1, [⟨0xFF1F, 0, 0, 0xF04⟩]⟩,
  ⟨0x40005018, 0x100000000, 1, 0x100000000, 1, [⟨0xFFFFFF, 0, 0, 0x323200⟩]⟩,
  ⟨0x4000501C, 0x100000000, 1, 0x100000000, 1, [⟨0x3FFFFFFF, 0, 0, 0x100400⟩]⟩,
  ⟨0x40005020, 0x100000000, 1, 0x100000000, 1, [⟨0xFFFFFF3F, 0, 0, 0xA08640A⟩]⟩,
  ⟨0x40005024, 0x100000000, 1, 0x100000000, 1, [⟨0xFFFF, 0, 0, 0xC040⟩]⟩,
  ⟨0x40005028, 0x100000000, 1, 0x100000000, 1, [⟨0xFFF, 0, 0, 0x8B0⟩]⟩,
  ⟨0x4000502C, 0x100000000, 1, 0x100000000, 1, [⟨0, 0, 0, 0⟩]⟩,
  ⟨0x40005040, 0x100000000, 1, 8, 4, List.replicate 2 ⟨0, 0, 0, 0⟩⟩,
  ⟨0x40005080, 0x100000000, 1, 0x100000000, 1, [⟨0, 0, 0, 0⟩]⟩,
  ⟨0x40005084, 0x100000000, 1, 0x100000000, 1, [⟨0, 0, 0, 0⟩]⟩,
  ⟨0x40005088, 0x100000000, 1, 0x100000000, 1, [⟨0, 0, 0, 0⟩]⟩,
  ⟨0x4000508C, 0x100000000, 1, 4, 2, [⟨0, 0, 0, 0⟩]⟩,
  ⟨0x40005094, 0x100000000, 1, 4, 2, [⟨0, 0, 0, 0⟩]⟩,
  ⟨0x4000509C, 0x100000000, 1, 0x100000000, 1, [⟨0, 0, 0, 0⟩]⟩]

/-- The register rows of CFL. -/
def regMapCFL : List RegRow := [
  ⟨0x40006000, 0x100000000, 1, 0x100000000, 1, [⟨0x1FF, 0, 0, 0xA⟩]⟩,
  ⟨0x40006004, 0x100000000, 1, 0x100000000, 1, [⟨0, 0x300, 0, 0⟩]⟩,
  ⟨0x40006008, 0x100000000, 1, 0x100000000, 1, [⟨0, 0, 0, 0⟩]⟩,
  ⟨0x4000600C, 0x100000000, 1, 0x100000000, 1, [⟨0xFF03FF, 0, 0, 0⟩]⟩,
  ⟨0x40006010, 0x100000000, 1, 0x100000000, 1, [⟨1, 0, 0, 0⟩]⟩,
  ⟨0x40006014, 0x100000000, 1, 0x100000000, 1, [⟨0, 0, 0, 0⟩]⟩,
  ⟨0x40006018, 0x100000000, 1, 0x100000000, 1, [⟨0, 0, 0, 0⟩]⟩,
  ⟨0x4000601C, 0x100000000, 1, 0x100000000, 1, [⟨0, 0, 0, 0⟩]⟩,
  ⟨0x40006020, 0x100000000, 1, 0x100000000, 1, [⟨0, 0, 0, 0⟩]⟩,
  ⟨0x40006024, 0x100000000, 1, 0x100000000, 1, [⟨0xF00FF, 0, 0, 0⟩]⟩,
  ⟨0x40006028, 0x100000000, 1, 0x100000000, 1, [⟨0, 0, 0, 0⟩]⟩,
  ⟨0x40006030, 0x100000000, 1, 0x100000000, 1, List.replicate 4 ⟨0, 0, 0, 0⟩⟩,
  ⟨0x40006100, 0x100000000, 1, 0x20, 13, [⟨0xFF, 0, 0, 0⟩]⟩,
  ⟨0x40006104, 0x100000000, 1, 0x20, 13, [⟨0, 0, 0, 0⟩]⟩,
  ⟨0x40006108, 0x100000000, 1, 0x20, 13, [⟨0, 7, 0, 0⟩]⟩,
  ⟨0x4000610C, 0x100000000, 1, 0x20, 13, [⟨0, 0, 0, 0⟩]⟩,
  ⟨0x40006110, 0x100000000, 1, 0x20, 13, [⟨0, 0, 0, 0⟩]⟩,
  ⟨0x40006114, 0x100000000, 1, 0x20, 13, [⟨0, 0, 0, 0⟩]⟩,
  ⟨0x40006118, 0x100000000, 1, 0x20, 13, [⟨0, 0, 0, 0⟩]⟩,
  ⟨0x40006400, 0x80, 13, 4, 32, [⟨0xFFFFFF, 0, 0, 0⟩]⟩]

/-- The register rows of CHH. -/
def regMapCHH : List RegRow := [
  ⟨0x40007000, 0x100000000, 1, 0x100000000, 1, [⟨0xF, 0, 0, 0⟩]⟩,
  ⟨0x40007004, 0x100000000, 1, 0x100000000, 1, [⟨0, 0x70000, 0, 0x188⟩]⟩,
  ⟨0x40007008, 0x100000000, 1, 0x100000000, 1, [⟨0, 0, 0, 0⟩]⟩,
  ⟨0x4000700C, 0x100000000, 1, 0x100000000, 1, [⟨0xFFFFC0, 0, 0, 0⟩]⟩,
  ⟨0x40007010, 0x100000000, 1, 0x100000000, 1, [⟨0xFFFFFFFF, 0, 0, 0x6433214⟩]⟩,
  ⟨0x40007014, 0x100000000, 1, 0x100000000, 1, [⟨0x3F03FF, 0, 0, 0x103FF⟩]⟩,
  ⟨0x40007018, 0x100000000, 1, 0x100000000, 1, [⟨0xFFFFFFFF, 0, 0, 0⟩]⟩,
  ⟨0x4000701C, 0x100000000, 1, 0x100000000, 1, [⟨0, 0, 0, 0⟩]⟩,
  ⟨0x40007020, 0x100000000, 1, 0x100000000, 1, [⟨0, 0, 0, 0⟩]⟩,
  ⟨0x40007024, 0x100000000, 1, 0x100000000, 1, [⟨0, 0, 0, 0⟩]⟩,
  ⟨0x40007028, 0x100000000, 1, 0x100000000, 1, [⟨0, 0, 0, 0⟩]⟩,
  ⟨0x4000702C, 0x100000000, 1, 0x100000000, 1, [⟨0, 0, 0, 0⟩]⟩,
  ⟨0x40007030, 0x100000000, 1, 0x100000000, 1, [⟨0, 0, 0, 0⟩]⟩,
  ⟨0x40007034, 0x100000000, 1, 0x100000000, 1, [⟨0, 0, 0, 0⟩]⟩,
  ⟨0x40007038, 0x100000000, 1, 0x100000000, 1, [⟨0, 0, 0, 0⟩]⟩,
  ⟨0x4000703C, 0x100000000, 1, 0x100000000, 1, [⟨0, 0, 0, 0⟩]⟩,
  ⟨0x40007040, 0x100000000, 1, 0x100000000, 1, [⟨0, 0, 0, 0⟩]⟩]

/-- The register rows of CGS. -/
def regMapCGS : List RegRow := [
  ⟨0x40008000, 0x100000000, 1, 0x100000000, 1, [⟨0, 0, 0, 0⟩]⟩,
  ⟨0x40008004, 0x100000000, 1, 0x100000000, 1, [⟨0, 2, 0, 1⟩]⟩,
  ⟨0x40008010, 0x100000000, 1, 0x100000000, 1, List.replicate 2 ⟨0xFFFFFFFF, 0, 0, 0⟩⟩,
  ⟨0x40008100, 0x100000000, 1, 0x40, 2, [⟨0xFFFF0F77, 0, 0, 0⟩]⟩,
  ⟨0x40008104, 0x100000000, 1, 0x40, 2, [⟨0, 0, 0, 0⟩]⟩,
  ⟨0x40008108, 0x100000000, 1, 0x40, 2, [⟨0, 0, 0, 0⟩]⟩,
  ⟨0x4000810C, 0x100000000, 1, 0x40, 2, [⟨0xFFFFFFFF, 0, 0, 0xFF00FF00⟩]⟩,
  ⟨0x40008110, 0x100000000, 1, 0x40, 2, [⟨0xFFF, 0, 0, 0x3C0⟩]⟩,
  ⟨0x40008114, 0x100000000, 1, 0x40, 2, [⟨0xFFFFFFFF, 0, 0, 0⟩]⟩,
  ⟨0x40008118, 0x100000000, 1, 0x40, 2, [⟨0xFFFFFFFF, 0, 0, 0⟩]⟩,
  ⟨0x4000811C, 0x100000000, 1, 0x40, 2, [⟨0xFFFFFFFF, 0, 0, 0⟩]⟩,
  ⟨0x40008120, 0x100000000, 1, 0x40, 2, [⟨0x1FFFFF, 0, 0, 0⟩]⟩,
  ⟨0x40008124, 0x100000000, 1, 0x40, 2, [⟨0xFFFFFFFF, 0, 0, 1⟩]⟩,
  ⟨0x40008128, 0x100000000, 1, 0x40, 2, [⟨0xFFFFFF, 0, 0, 0⟩]⟩,
  ⟨0x4000812C, 0x100000000, 1, 0x40, 2, [⟨0xFFFFFF, 0, 0, 0⟩]⟩,
  ⟨0x40008130, 0x100000000, 1, 0x40, 2, [⟨0, 0, 0, 0⟩]⟩,
  ⟨0x40008134, 0x100000000, 1, 0x40, 2, [⟨0, 0, 0, 0⟩]⟩,
  ⟨0x40008138, 0x100000000, 1, 0x40, 2, [⟨0, 0, 0, 0⟩]⟩,
  ⟨0x4000813C, 0x100000000, 1, 0x40, 2, [⟨0, 0, 0, 0⟩]⟩]

/-- The register rows of CLN. -/
def regMapCLN : List RegRow := [
  ⟨0x40009200, 0x100000000, 1, 0x100000000, 1, [⟨3, 0, 0, 0⟩]⟩,
  ⟨0x40009204, 0x100000000, 1, 0x100000000, 1, [⟨0, 0, 0, 0⟩]⟩,
  ⟨0x40009208, 0x100000000, 1, 0x100000000, 1, [⟨0xFFFFFFFF, 0, 0, 0⟩]⟩,
  ⟨0x4000920C, 0x100000000, 1, 0x100000000, 1, [⟨0, 0x80000000, 0, 0⟩]⟩,
  ⟨0x40009210, 0x100000000, 1, 0x100000000, 1, [⟨0xFFFFFFFF, 0, 0, 0⟩, ⟨0x3FFFFF, 0, 0, 0⟩]⟩]

/-- The register rows of LOD. -/
def regMapLOD : List RegRow := [
  ⟨0x4000A000, 0x100000000, 1, 0x100000000, 1, [⟨0, 0x5C, 0, 0⟩]⟩,
  ⟨0x4000A004, 0x100000000, 1, 0x100000000, 1, [⟨1, 0, 0, 1⟩]⟩,
  ⟨0x4000A008, 0x100000000, 1, 0x100000000, 1, [⟨0, 0, 0, 0⟩]⟩,
  ⟨0x4000A00C, 0x100000000, 1, 0x100000000, 1, [⟨0, 0, 0, 0⟩]⟩,
  ⟨0x4000A040, 0x100000000, 1, 4, 12, [⟨0xFFFFFFFF, 0, 0, 0⟩]⟩,
  ⟨0x4000A070, 0x100000000, 1, 4, 4, [⟨0, 0, 0, 0⟩]⟩]

/-- The register rows of LA and LB of the cell (R225, R226, R271). -/
def regMapLanesA : List RegRow := [
  ⟨0x40009000, 0x100000000, 1, 0x100, 2, [⟨0xFFFF003D, 0, 0, 0xFF40000C⟩]⟩,
  ⟨0x40009004, 0x100000000, 1, 0x100, 2, [⟨0, 0x1F0000, 0, 0⟩]⟩,
  ⟨0x40009008, 0x100000000, 1, 0x100, 2, [⟨0, 0, 0, 0⟩]⟩,
  ⟨0x4000900C, 0x100000000, 1, 0x100, 2, [⟨0, 0, 0, 0⟩]⟩,
  ⟨0x40009010, 0x100000000, 1, 0x100, 2, [⟨0x7F, 0, 0, 0⟩]⟩,
  ⟨0x40009014, 0x100000000, 1, 0x100, 2, [⟨0x1F07, 0, 0, 0⟩]⟩,
  ⟨0x40009018, 0x100000000, 1, 0x100, 2, List.replicate 2 ⟨0xFFFFFFFF, 0, 0, 0⟩⟩,
  ⟨0x40009020, 0x100000000, 1, 0x100, 2, List.replicate 2 ⟨0, 0, 0, 0⟩⟩,
  ⟨0x40009028, 0x100000000, 1, 0x100, 2, [⟨0, 0, 0, 0⟩]⟩,
  ⟨0x4000902C, 0x100000000, 1, 0x100, 2, [⟨0, 0, 0, 0⟩]⟩,
  ⟨0x40009030, 0x100000000, 1, 0x100, 2, [⟨0, 0, 0, 0⟩]⟩,
  ⟨0x40009034, 0x100000000, 1, 0x100, 2, [⟨0, 0, 0, 0⟩]⟩,
  ⟨0x40009038, 0x100000000, 1, 0x100, 2, [⟨0, 0, 0, 0⟩]⟩,
  ⟨0x4000903C, 0x100000000, 1, 0x100, 2, [⟨0, 0, 0, 0⟩]⟩,
  ⟨0x40009040, 0x100000000, 1, 0x100, 2, [⟨0, 0, 0, 0⟩]⟩,
  ⟨0x40009044, 0x100000000, 1, 0x100, 2, [⟨0, 0, 0, 0⟩]⟩,
  ⟨0x40009048, 0x100000000, 1, 0x100, 2, [⟨0, 0, 0, 0⟩]⟩,
  ⟨0x40009080, 0x100000000, 1, 0x100, 2, [⟨0x8007FFFF, 0, 0, 0x80040501⟩]⟩,
  ⟨0x40009084, 0x100000000, 1, 0x100, 2, [⟨0, 0, 0, 0⟩]⟩,
  ⟨0x40009088, 0x100000000, 1, 0x100, 2, [⟨0, 0, 0, 0⟩]⟩]

/-- The register rows of LA and LB of the cell (R225, R226, R271). -/
def regMapLanesB : List RegRow := [
  ⟨0x4000908C, 0x100000000, 1, 0x100, 2, [⟨0, 0, 0, 0⟩]⟩,
  ⟨0x40009090, 0x100000000, 1, 0x100, 2, [⟨0xFFFFFFFF, 0, 0, 0⟩]⟩,
  ⟨0x40009094, 0x100000000, 1, 0x100, 2, [⟨0xFFFFFFFF, 0, 0xFFFFFFFF, 0⟩]⟩,
  ⟨0x40009098, 0x100000000, 1, 0x100, 2, [⟨0, 0, 0, 0⟩]⟩,
  ⟨0x4000909C, 0x100000000, 1, 0x100, 2, [⟨0, 0, 0, 0⟩]⟩,
  ⟨0x400090A0, 0x100000000, 1, 0x100, 2, [⟨0, 0, 0, 0⟩]⟩]

/-- The register rows of LA and LB of the cell (R225, R226, R271). -/
def regMapLanes : List RegRow := regMapLanesA ++ regMapLanesB

/-- The debug registers of the Shed core (R180). -/
def regMapShed : List RegRow := [
  ⟨0x40000100, 0x100000000, 1, 0x100000000, 1, [⟨0x11, 0, 0, 0⟩]⟩,
  ⟨0x40000104, 0x100000000, 1, 0x100000000, 1, [⟨0, 0x7000000, 0, 0x502⟩]⟩,
  ⟨0x40000108, 0x100000000, 1, 0x100000000, 1, [⟨0xFFFFFFFF, 0, 0, 0⟩]⟩,
  ⟨0x4000010C, 0x100000000, 1, 0x100000000, 1, [⟨0xFFFFFFFF, 0, 0, 0⟩]⟩,
  ⟨0x40000110, 0x100000000, 1, 0x100000000, 1, [⟨0, 0, 0, 0⟩]⟩,
  ⟨0x40000114, 0x100000000, 1, 0x100000000, 1, [⟨0, 0, 0, 0⟩]⟩,
  ⟨0x40000118, 0x100000000, 1, 0x100000000, 1, [⟨0, 0, 0, 0⟩]⟩,
  ⟨0x4000011C, 0x100000000, 1, 0x100000000, 1, [⟨0, 0, 0, 0⟩]⟩]

end Sys2Proof.Machine
end

