-- ==== Sys2Proof/Machine/RegMapHub.lean ====
section
/-!
DEFINITION. The register map of the hub: the address of every register, the place of every field, and per register word
its access masks and reset value (Tables 2-5, 3-4, 5-8, 5-10, 7-13, 9-10, 10-10, 10-11, 11-6, 11-8, 11-9, 14-7, 15-11, 16-5,
16-7, 17-7, 18-9 and their field tables). Registers whose reset the tables give as U, or as set by a factory value, a strap,
a fuse or a cause, have 0 here (log entries 6 and 9).
-/
namespace Sys2Proof.Machine


/-- GLB ID, R396. -/
def GLB_ID : Nat := 0
/-- GLB RSTCMD, R396. -/
def GLB_RSTCMD : Nat := 4
/-- GLB RCAUSE, R396. -/
def GLB_RCAUSE : Nat := 8
/-- RCAUSE.POR [0], R396. -/
def GLB_RCAUSE_POR : Fld := ⟨GLB_RCAUSE, 0, 0⟩
/-- RCAUSE.SUPER [1], R396. -/
def GLB_RCAUSE_SUPER : Fld := ⟨GLB_RCAUSE, 1, 1⟩
/-- RCAUSE.COLD [2], R396. -/
def GLB_RCAUSE_COLD : Fld := ⟨GLB_RCAUSE, 2, 2⟩
/-- RCAUSE.RST [3], R396. -/
def GLB_RCAUSE_RST : Fld := ⟨GLB_RCAUSE, 3, 3⟩
/-- RCAUSE.WARM [4], R396. -/
def GLB_RCAUSE_WARM : Fld := ⟨GLB_RCAUSE, 4, 4⟩
/-- RCAUSE.WDOG [5], R396. -/
def GLB_RCAUSE_WDOG : Fld := ⟨GLB_RCAUSE, 5, 5⟩
/-- GLB STRAP, R396. -/
def GLB_STRAP : Nat := 0xC
/-- STRAP.BOOT [1:0], R396. -/
def GLB_STRAP_BOOT : Fld := ⟨GLB_STRAP, 1, 0⟩
/-- STRAP.LEAD_ELIG [2], R396. -/
def GLB_STRAP_LEAD_ELIG : Fld := ⟨GLB_STRAP, 2, 2⟩
/-- GLB GCTL, R396. -/
def GLB_GCTL : Nat := 0x10
/-- GCTL.SW_READY [31], R396. -/
def GLB_GCTL_SW_READY : Fld := ⟨GLB_GCTL, 31, 31⟩
/-- GCTL.RDYMASK [8:0], R396. -/
def GLB_GCTL_RDYMASK : Fld := ⟨GLB_GCTL, 8, 0⟩
/-- GLB RDYSTAT, R396. -/
def GLB_RDYSTAT : Nat := 0x14
/-- RDYSTAT.COND [8:0], R396. -/
def GLB_RDYSTAT_COND : Fld := ⟨GLB_RDYSTAT, 8, 0⟩
/-- RDYSTAT.ARM_READY [16], R396. -/
def GLB_RDYSTAT_ARM_READY : Fld := ⟨GLB_RDYSTAT, 16, 16⟩
/-- RDYSTAT.NREADY_SEEN [17], R396. -/
def GLB_RDYSTAT_NREADY_SEEN : Fld := ⟨GLB_RDYSTAT, 17, 17⟩
/-- RDYSTAT.REFUSED [18], R396. -/
def GLB_RDYSTAT_REFUSED : Fld := ⟨GLB_RDYSTAT, 18, 18⟩
/-- GLB WDT, R396. -/
def GLB_WDT : Nat := 0x18
/-- WDT.EN [31], R396. -/
def GLB_WDT_EN : Fld := ⟨GLB_WDT, 31, 31⟩
/-- WDT.PERIOD [15:0], R396. -/
def GLB_WDT_PERIOD : Fld := ⟨GLB_WDT, 15, 0⟩
/-- GLB TEMP, R396. -/
def GLB_TEMP : Nat := 0x1C
/-- TEMP.T [11:0], R396. -/
def GLB_TEMP_T : Fld := ⟨GLB_TEMP, 11, 0⟩
/-- GLB SERIAL, R396. -/
def GLB_SERIAL : Nat := 0x20

/-- SDL SCTL, R50. -/
def SDL_SCTL : Nat := 0x100000
/-- SCTL.SYNC_PER [29:16], R50. -/
def SDL_SCTL_SYNC_PER : Fld := ⟨SDL_SCTL, 29, 16⟩
/-- SCTL.ARM_BASE [5:4], R50. -/
def SDL_SCTL_ARM_BASE : Fld := ⟨SDL_SCTL, 5, 4⟩
/-- SCTL.SNAP [0], R50. -/
def SDL_SCTL_SNAP : Fld := ⟨SDL_SCTL, 0, 0⟩
/-- SDL SSTAT, R50. -/
def SDL_SSTAT : Nat := 0x100004
/-- SSTAT.SNAP_CNT [15:8], R50. -/
def SDL_SSTAT_SNAP_CNT : Fld := ⟨SDL_SSTAT, 15, 8⟩
/-- SSTAT.REFUSED [2], R50. -/
def SDL_SSTAT_REFUSED : Fld := ⟨SDL_SSTAT, 2, 2⟩
/-- SSTAT.TICK_LOST [1], R50. -/
def SDL_SSTAT_TICK_LOST : Fld := ⟨SDL_SSTAT, 1, 1⟩
/-- SSTAT.TICK_LOCK [0], R50. -/
def SDL_SSTAT_TICK_LOCK : Fld := ⟨SDL_SSTAT, 0, 0⟩
/-- SDL DCTL, R50. -/
def SDL_DCTL (i : Nat) : Nat := 0x100100 + 0x100 * i
/-- DCTL.RUN [0], R50. -/
def SDL_DCTL_RUN (i : Nat) : Fld := ⟨SDL_DCTL i, 0, 0⟩
/-- SDL DSTAT, R50. -/
def SDL_DSTAT (i : Nat) : Nat := 0x100104 + 0x100 * i
/-- DSTAT.SLEW_CUT [10], R50. -/
def SDL_DSTAT_SLEW_CUT (i : Nat) : Fld := ⟨SDL_DSTAT i, 10, 10⟩
/-- DSTAT.REFUSED [9], R50. -/
def SDL_DSTAT_REFUSED (i : Nat) : Fld := ⟨SDL_DSTAT i, 9, 9⟩
/-- DSTAT.LATE [8], R50. -/
def SDL_DSTAT_LATE (i : Nat) : Fld := ⟨SDL_DSTAT i, 8, 8⟩
/-- DSTAT.UNCAL [4], R50. -/
def SDL_DSTAT_UNCAL (i : Nat) : Fld := ⟨SDL_DSTAT i, 4, 4⟩
/-- DSTAT.LOAD_PEND [3], R50. -/
def SDL_DSTAT_LOAD_PEND (i : Nat) : Fld := ⟨SDL_DSTAT i, 3, 3⟩
/-- DSTAT.STEP_PEND [2], R50. -/
def SDL_DSTAT_STEP_PEND (i : Nat) : Fld := ⟨SDL_DSTAT i, 2, 2⟩
/-- DSTAT.INC_ARMED [1], R50. -/
def SDL_DSTAT_INC_ARMED (i : Nat) : Fld := ⟨SDL_DSTAT i, 1, 1⟩
/-- DSTAT.SLEW_ACT [0], R50. -/
def SDL_DSTAT_SLEW_ACT (i : Nat) : Fld := ⟨SDL_DSTAT i, 0, 0⟩
/-- SDL DCMD, R50. -/
def SDL_DCMD (i : Nat) : Nat := 0x100108 + 0x100 * i
/-- DCMD.CANCEL_SLEW [5], R50. -/
def SDL_DCMD_CANCEL_SLEW (i : Nat) : Fld := ⟨SDL_DCMD i, 5, 5⟩
/-- DCMD.SLEW [4], R50. -/
def SDL_DCMD_SLEW (i : Nat) : Fld := ⟨SDL_DCMD i, 4, 4⟩
/-- DCMD.CANCEL_INC [3], R50. -/
def SDL_DCMD_CANCEL_INC (i : Nat) : Fld := ⟨SDL_DCMD i, 3, 3⟩
/-- DCMD.ARM_INC [2], R50. -/
def SDL_DCMD_ARM_INC (i : Nat) : Fld := ⟨SDL_DCMD i, 2, 2⟩
/-- DCMD.STEP [1], R50. -/
def SDL_DCMD_STEP (i : Nat) : Fld := ⟨SDL_DCMD i, 1, 1⟩
/-- DCMD.LOAD [0], R50. -/
def SDL_DCMD_LOAD (i : Nat) : Fld := ⟨SDL_DCMD i, 0, 0⟩
/-- SDL VAL, R50. -/
def SDL_VAL (i : Nat) : Nat := 0x100110 + 0x100 * i
/-- SDL SETV, R50. -/
def SDL_SETV (i : Nat) : Nat := 0x100120 + 0x100 * i
/-- SDL STEP, R50. -/
def SDL_STEP (i : Nat) : Nat := 0x100130 + 0x100 * i
/-- SDL INC, R50. -/
def SDL_INC (i : Nat) : Nat := 0x100138 + 0x100 * i
/-- SDL INCA, R50. -/
def SDL_INCA (i : Nat) : Nat := 0x100338 + 0x100 * i
/-- SDL INC_NEXT, R50. -/
def SDL_INC_NEXT (i : Nat) : Nat := 0x100140 + 0x100 * i
/-- SDL INC_AT, R50. -/
def SDL_INC_AT (i : Nat) : Nat := 0x100148 + 0x100 * i
/-- SDL SLEW_INC, R50. -/
def SDL_SLEW_INC (i : Nat) : Nat := 0x100150 + 0x100 * i
/-- SDL SLEW_TICKS, R50. -/
def SDL_SLEW_TICKS (i : Nat) : Nat := 0x100158 + 0x100 * i
/-- SDL SLEW_LEFT, R50. -/
def SDL_SLEW_LEFT (i : Nat) : Nat := 0x10015C + 0x100 * i
/-- SDL SNAPV, R50. -/
def SDL_SNAPV (i : Nat) : Nat := 0x100160 + 0x100 * i
/-- SDL PCTL, R50. -/
def SDL_PCTL (i : Nat) : Nat := 0x100800 + 0x40 * i
/-- PCTL.POL [8], R50. -/
def SDL_PCTL_POL (i : Nat) : Fld := ⟨SDL_PCTL i, 8, 8⟩
/-- PCTL.DOM [6:4], R50. -/
def SDL_PCTL_DOM (i : Nat) : Fld := ⟨SDL_PCTL i, 6, 4⟩
/-- PCTL.MODE [1:0], R50. -/
def SDL_PCTL_MODE (i : Nat) : Fld := ⟨SDL_PCTL i, 1, 0⟩
/-- SDL PCMD, R50. -/
def SDL_PCMD (i : Nat) : Nat := 0x100804 + 0x40 * i
/-- PCMD.DISARM [1], R50. -/
def SDL_PCMD_DISARM (i : Nat) : Fld := ⟨SDL_PCMD i, 1, 1⟩
/-- PCMD.ARM [0], R50. -/
def SDL_PCMD_ARM (i : Nat) : Fld := ⟨SDL_PCMD i, 0, 0⟩
/-- SDL PSTAT, R50. -/
def SDL_PSTAT (i : Nat) : Nat := 0x100808 + 0x40 * i
/-- PSTAT.REFUSED [11], R50. -/
def SDL_PSTAT_REFUSED (i : Nat) : Fld := ⟨SDL_PSTAT i, 11, 11⟩
/-- PSTAT.WCLIP [10], R50. -/
def SDL_PSTAT_WCLIP (i : Nat) : Fld := ⟨SDL_PSTAT i, 10, 10⟩
/-- PSTAT.LATE [9], R50. -/
def SDL_PSTAT_LATE (i : Nat) : Fld := ⟨SDL_PSTAT i, 9, 9⟩
/-- PSTAT.FIRED [8], R50. -/
def SDL_PSTAT_FIRED (i : Nat) : Fld := ⟨SDL_PSTAT i, 8, 8⟩
/-- PSTAT.LEVEL [1], R50. -/
def SDL_PSTAT_LEVEL (i : Nat) : Fld := ⟨SDL_PSTAT i, 1, 1⟩
/-- PSTAT.ARMED [0], R50. -/
def SDL_PSTAT_ARMED (i : Nat) : Fld := ⟨SDL_PSTAT i, 0, 0⟩
/-- SDL PWID, R50. -/
def SDL_PWID (i : Nat) : Nat := 0x10080C + 0x40 * i
/-- PWID.WIDTH [19:0], R50. -/
def SDL_PWID_WIDTH (i : Nat) : Fld := ⟨SDL_PWID i, 19, 0⟩
/-- SDL PSTART, R50. -/
def SDL_PSTART (i : Nat) : Nat := 0x100810 + 0x40 * i
/-- SDL PPER, R50. -/
def SDL_PPER (i : Nat) : Nat := 0x100820 + 0x40 * i
/-- SDL PMISS, R50. -/
def SDL_PMISS (i : Nat) : Nat := 0x100828 + 0x40 * i
/-- SDL TDCFG, R270. -/
def SDL_TDCFG : Nat := 0x100C00
/-- TDCFG.TSYNC_PER [29:16], R270. -/
def SDL_TDCFG_TSYNC_PER : Fld := ⟨SDL_TDCFG, 29, 16⟩
/-- TDCFG.UNC_CLR [11:8], R270. -/
def SDL_TDCFG_UNC_CLR : Fld := ⟨SDL_TDCFG, 11, 8⟩
/-- TDCFG.UNC_MASK [7:4], R270. -/
def SDL_TDCFG_UNC_MASK : Fld := ⟨SDL_TDCFG, 7, 4⟩
/-- TDCFG.ST_VALID [2], R270. -/
def SDL_TDCFG_ST_VALID : Fld := ⟨SDL_TDCFG, 2, 2⟩
/-- TDCFG.TS_PLANE [1], R270. -/
def SDL_TDCFG_TS_PLANE : Fld := ⟨SDL_TDCFG, 1, 1⟩
/-- TDCFG.ROOT [0], R270. -/
def SDL_TDCFG_ROOT : Fld := ⟨SDL_TDCFG, 0, 0⟩
/-- SDL TDSTAT, R270. -/
def SDL_TDSTAT : Nat := 0x100C04
/-- TDSTAT.REFUSED [11], R270. -/
def SDL_TDSTAT_REFUSED : Fld := ⟨SDL_TDSTAT, 11, 11⟩
/-- TDSTAT.ROOT_CHG [10], R270. -/
def SDL_TDSTAT_ROOT_CHG : Fld := ⟨SDL_TDSTAT, 10, 10⟩
/-- TDSTAT.ROOT_CONFLICT [9], R270. -/
def SDL_TDSTAT_ROOT_CONFLICT : Fld := ⟨SDL_TDSTAT, 9, 9⟩
/-- TDSTAT.UNCAL_LONG [8], R270. -/
def SDL_TDSTAT_UNCAL_LONG : Fld := ⟨SDL_TDSTAT, 8, 8⟩
/-- TDSTAT.TS_LOST_B [3], R270. -/
def SDL_TDSTAT_TS_LOST_B : Fld := ⟨SDL_TDSTAT, 3, 3⟩
/-- TDSTAT.TS_LOST_A [2], R270. -/
def SDL_TDSTAT_TS_LOST_A : Fld := ⟨SDL_TDSTAT, 2, 2⟩
/-- TDSTAT.ALIGN [1:0], R270. -/
def SDL_TDSTAT_ALIGN : Fld := ⟨SDL_TDSTAT, 1, 0⟩
/-- SDL UNCTO, R270. -/
def SDL_UNCTO : Nat := 0x100C08
/-- UNCTO.UNCTO [7:0], R270. -/
def SDL_UNCTO_UNCTO : Fld := ⟨SDL_UNCTO, 7, 0⟩
/-- SDL TRES, R270. -/
def SDL_TRES (i : Nat) : Nat := 0x100C10 + 0x10 * i
/-- SDL TANNR, R270. -/
def SDL_TANNR : Nat := 0x100C40
/-- SDL PATHCTL, R270. -/
def SDL_PATHCTL : Nat := 0x100C60
/-- PATHCTL.PATH_GO [31], R270. -/
def SDL_PATHCTL_PATH_GO : Fld := ⟨SDL_PATHCTL, 31, 31⟩
/-- PATHCTL.PATH_DST [25:16], R270. -/
def SDL_PATHCTL_PATH_DST : Fld := ⟨SDL_PATHCTL, 25, 16⟩
/-- PATHCTL.PATH_PLANE [0], R270. -/
def SDL_PATHCTL_PATH_PLANE : Fld := ⟨SDL_PATHCTL, 0, 0⟩
/-- SDL PATHR, R270. -/
def SDL_PATHR : Nat := 0x100C68
/-- PATHR.RES [31:0], R270. -/
def SDL_PATHR_RES : Fld := ⟨SDL_PATHR, 31, 0⟩
/-- PATHR.VALID [32], R270. -/
def SDL_PATHR_VALID : Fld := ⟨SDL_PATHR + 4, 0, 0⟩
/-- PATHR.FAIL [33], R270. -/
def SDL_PATHR_FAIL : Fld := ⟨SDL_PATHR + 4, 1, 1⟩
/-- PATHR.UNCAL [34], R270. -/
def SDL_PATHR_UNCAL : Fld := ⟨SDL_PATHR + 4, 2, 2⟩
/-- SDL TS_OLD, R270. -/
def SDL_TS_OLD : Nat := 0x100C70
/-- SDL TS_FOREIGN, R270. -/
def SDL_TS_FOREIGN : Nat := 0x100C74

/-- ANG ASUSP, R68. -/
def ANG_ASUSP : Nat := 0x200000
/-- ASUSP.SUSP [3:0], R68. -/
def ANG_ASUSP_SUSP : Fld := ⟨ANG_ASUSP, 3, 0⟩
/-- ANG VEC, R68. -/
def ANG_VEC (i : Nat) : Nat := 0x200040 + 0x10 * i
/-- VEC.BETA [31:16], R68. -/
def ANG_VEC_BETA (i : Nat) : Fld := ⟨ANG_VEC i, 31, 16⟩
/-- VEC.ALPHA [15:0], R68. -/
def ANG_VEC_ALPHA (i : Nat) : Fld := ⟨ANG_VEC i, 15, 0⟩
/-- ANG VWIN, R68. -/
def ANG_VWIN (i : Nat) : Nat := 0x200044 + 0x10 * i
/-- VWIN.VHI [31:16], R68. -/
def ANG_VWIN_VHI (i : Nat) : Fld := ⟨ANG_VWIN i, 31, 16⟩
/-- VWIN.VLO [15:0], R68. -/
def ANG_VWIN_VLO (i : Nat) : Fld := ⟨ANG_VWIN i, 15, 0⟩
/-- ANG VIOL_CNT, R68. -/
def ANG_VIOL_CNT (i : Nat) : Nat := 0x200048 + 0x10 * i
/-- ANG ICTL, R68. -/
def ANG_ICTL (i : Nat) : Nat := 0x200100 + 0x100 * i
/-- ICTL.CONS [29:28], R68. -/
def ANG_ICTL_CONS (i : Nat) : Fld := ⟨ANG_ICTL i, 29, 28⟩
/-- ICTL.AVG [27:25], R68. -/
def ANG_ICTL_AVG (i : Nat) : Fld := ⟨ANG_ICTL i, 27, 25⟩
/-- ICTL.DIV_SYNC [24], R68. -/
def ANG_ICTL_DIV_SYNC (i : Nat) : Fld := ⟨ANG_ICTL i, 24, 24⟩
/-- ICTL.BASE [21:20], R68. -/
def ANG_ICTL_BASE (i : Nat) : Fld := ⟨ANG_ICTL i, 21, 20⟩
/-- ICTL.MARK [17:16], R68. -/
def ANG_ICTL_MARK (i : Nat) : Fld := ⟨ANG_ICTL i, 17, 16⟩
/-- ICTL.DIRINV [8], R68. -/
def ANG_ICTL_DIRINV (i : Nat) : Fld := ⟨ANG_ICTL i, 8, 8⟩
/-- ICTL.MODE [1], R68. -/
def ANG_ICTL_MODE (i : Nat) : Fld := ⟨ANG_ICTL i, 1, 1⟩
/-- ICTL.EN [0], R68. -/
def ANG_ICTL_EN (i : Nat) : Fld := ⟨ANG_ICTL i, 0, 0⟩
/-- ANG ISTAT, R68. -/
def ANG_ISTAT (i : Nat) : Nat := 0x200104 + 0x100 * i
/-- ISTAT.LOS_SEEN [9], R68. -/
def ANG_ISTAT_LOS_SEEN (i : Nat) : Fld := ⟨ANG_ISTAT i, 9, 9⟩
/-- ISTAT.REFUSED [8], R68. -/
def ANG_ISTAT_REFUSED (i : Nat) : Fld := ⟨ANG_ISTAT i, 8, 8⟩
/-- ISTAT.MARK_ERR [7], R68. -/
def ANG_ISTAT_MARK_ERR (i : Nat) : Fld := ⟨ANG_ISTAT i, 7, 7⟩
/-- ISTAT.CHATTER [6], R68. -/
def ANG_ISTAT_CHATTER (i : Nat) : Fld := ⟨ANG_ISTAT i, 6, 6⟩
/-- ISTAT.QERR [5], R68. -/
def ANG_ISTAT_QERR (i : Nat) : Fld := ⟨ANG_ISTAT i, 5, 5⟩
/-- ISTAT.LOS [4], R68. -/
def ANG_ISTAT_LOS (i : Nat) : Fld := ⟨ANG_ISTAT i, 4, 4⟩
/-- ISTAT.LOCKED [3], R68. -/
def ANG_ISTAT_LOCKED (i : Nat) : Fld := ⟨ANG_ISTAT i, 3, 3⟩
/-- ISTAT.DIR [2], R68. -/
def ANG_ISTAT_DIR (i : Nat) : Fld := ⟨ANG_ISTAT i, 2, 2⟩
/-- ISTAT.FVALID [1], R68. -/
def ANG_ISTAT_FVALID (i : Nat) : Fld := ⟨ANG_ISTAT i, 1, 1⟩
/-- ANG FILT, R68. -/
def ANG_FILT (i : Nat) : Nat := 0x200108 + 0x100 * i
/-- FILT.LOS_TO [31:16], R68. -/
def ANG_FILT_LOS_TO (i : Nat) : Fld := ⟨ANG_FILT i, 31, 16⟩
/-- FILT.FILT_N [9:0], R68. -/
def ANG_FILT_FILT_N (i : Nat) : Fld := ⟨ANG_FILT i, 9, 0⟩
/-- ANG CPR, R68. -/
def ANG_CPR (i : Nat) : Nat := 0x20010C + 0x100 * i
/-- CPR.COUNT [23:0], R68. -/
def ANG_CPR_COUNT (i : Nat) : Fld := ⟨ANG_CPR i, 23, 0⟩
/-- ANG POS, R68. -/
def ANG_POS (i : Nat) : Nat := 0x200110 + 0x100 * i
/-- ANG DIVR, R68. -/
def ANG_DIVR (i : Nat) : Nat := 0x200114 + 0x100 * i
/-- DIVR.DIV [15:0], R68. -/
def ANG_DIVR_DIV (i : Nat) : Fld := ⟨ANG_DIVR i, 15, 0⟩
/-- ANG FREQ, R68. -/
def ANG_FREQ (i : Nat) : Nat := 0x200118 + 0x100 * i
/-- FREQ.FREQ [31:0], R68. -/
def ANG_FREQ_FREQ (i : Nat) : Fld := ⟨ANG_FREQ i, 31, 0⟩
/-- ANG CHAT, R68. -/
def ANG_CHAT (i : Nat) : Nat := 0x20011C + 0x100 * i
/-- CHAT.CHAT_WIN [31:16], R68. -/
def ANG_CHAT_CHAT_WIN (i : Nat) : Fld := ⟨ANG_CHAT i, 31, 16⟩
/-- CHAT.CHAT_MAX [15:0], R68. -/
def ANG_CHAT_CHAT_MAX (i : Nat) : Fld := ⟨ANG_CHAT i, 15, 0⟩
/-- ANG QERR_CNT, R68. -/
def ANG_QERR_CNT (i : Nat) : Nat := 0x200120 + 0x100 * i
/-- ANG GLITCH_CNT, R68. -/
def ANG_GLITCH_CNT (i : Nat) : Nat := 0x200124 + 0x100 * i
/-- ANG MARK_ERR_CNT, R68. -/
def ANG_MARK_ERR_CNT (i : Nat) : Nat := 0x200128 + 0x100 * i
/-- ANG MARK_TS, R68. -/
def ANG_MARK_TS (i : Nat) : Nat := 0x200130 + 0x100 * i
/-- ANG MARK_AV, R68. -/
def ANG_MARK_AV (i : Nat) : Nat := 0x200138 + 0x100 * i

/-- BLV BCTL, R130. -/
def BLV_BCTL : Nat := 0x300000
/-- BCTL.TJW_EN [3], R130. -/
def BLV_BCTL_TJW_EN : Fld := ⟨BLV_BCTL, 3, 3⟩
/-- BCTL.PLANE [2], R130. -/
def BLV_BCTL_PLANE : Fld := ⟨BLV_BCTL, 2, 2⟩
/-- BCTL.MERGE [1], R130. -/
def BLV_BCTL_MERGE : Fld := ⟨BLV_BCTL, 1, 1⟩
/-- BCTL.EN [0], R130. -/
def BLV_BCTL_EN : Fld := ⟨BLV_BCTL, 0, 0⟩
/-- BLV BSTAT, R130. -/
def BLV_BSTAT : Nat := 0x300004
/-- BSTAT.RESEED_PEND [9], R130. -/
def BLV_BSTAT_RESEED_PEND : Fld := ⟨BLV_BSTAT, 9, 9⟩
/-- BSTAT.MEAS_LOST [8], R130. -/
def BLV_BSTAT_MEAS_LOST : Fld := ⟨BLV_BSTAT, 8, 8⟩
/-- BSTAT.OBS_ECC_F [7], R130. -/
def BLV_BSTAT_OBS_ECC_F : Fld := ⟨BLV_BSTAT, 7, 7⟩
/-- BSTAT.OBS_ECC_C [6], R130. -/
def BLV_BSTAT_OBS_ECC_C : Fld := ⟨BLV_BSTAT, 6, 6⟩
/-- BSTAT.SLOT_LONG [5], R130. -/
def BLV_BSTAT_SLOT_LONG : Fld := ⟨BLV_BSTAT, 5, 5⟩
/-- BSTAT.SLOT_SHORT [4], R130. -/
def BLV_BSTAT_SLOT_SHORT : Fld := ⟨BLV_BSTAT, 4, 4⟩
/-- BSTAT.SCATTER_MISS [3], R130. -/
def BLV_BSTAT_SCATTER_MISS : Fld := ⟨BLV_BSTAT, 3, 3⟩
/-- BSTAT.GATHER_MISS [2], R130. -/
def BLV_BSTAT_GATHER_MISS : Fld := ⟨BLV_BSTAT, 2, 2⟩
/-- BSTAT.FCST_MISS [1], R130. -/
def BLV_BSTAT_FCST_MISS : Fld := ⟨BLV_BSTAT, 1, 1⟩
/-- BSTAT.REP_MISS [0], R130. -/
def BLV_BSTAT_REP_MISS : Fld := ⟨BLV_BSTAT, 0, 0⟩
/-- BLV BCMD, R130. -/
def BLV_BCMD : Nat := 0x300008
/-- BCMD.RESEED [0], R130. -/
def BLV_BCMD_RESEED : Fld := ⟨BLV_BCMD, 0, 0⟩
/-- BLV GROUP, R130. -/
def BLV_GROUP : Nat := 0x30000C
/-- GROUP.LEAD_ID [31:22], R130. -/
def BLV_GROUP_LEAD_ID : Fld := ⟨BLV_GROUP, 31, 22⟩
/-- GROUP.KEY_ID [21:12], R130. -/
def BLV_GROUP_KEY_ID : Fld := ⟨BLV_GROUP, 21, 12⟩
/-- GROUP.NHUB [11:8], R130. -/
def BLV_GROUP_NHUB : Fld := ⟨BLV_GROUP, 11, 8⟩
/-- GROUP.SMALL [7], R130. -/
def BLV_GROUP_SMALL : Fld := ⟨BLV_GROUP, 7, 7⟩
/-- GROUP.ARM_ID [6:0], R130. -/
def BLV_GROUP_ARM_ID : Fld := ⟨BLV_GROUP, 6, 0⟩
/-- BLV SLOTS, R130. -/
def BLV_SLOTS : Nat := 0x300010
/-- SLOTS.S [15:0], R130. -/
def BLV_SLOTS_S : Fld := ⟨BLV_SLOTS, 15, 0⟩
/-- BLV SLOT_ORG, R130. -/
def BLV_SLOT_ORG : Nat := 0x300014
/-- SLOT_ORG.ORG [31:0], R130. -/
def BLV_SLOT_ORG_ORG : Fld := ⟨BLV_SLOT_ORG, 31, 0⟩
/-- BLV KEYCFG, R130. -/
def BLV_KEYCFG : Nat := 0x300018
/-- KEYCFG.TJ_GAIN [31:24], R130. -/
def BLV_KEYCFG_TJ_GAIN : Fld := ⟨BLV_KEYCFG, 31, 24⟩
/-- KEYCFG.TJ_REF [23:16], R130. -/
def BLV_KEYCFG_TJ_REF : Fld := ⟨BLV_KEYCFG, 23, 16⟩
/-- KEYCFG.HYST [11:0], R130. -/
def BLV_KEYCFG_HYST : Fld := ⟨BLV_KEYCFG, 11, 0⟩
/-- BLV OBSCFG, R130. -/
def BLV_OBSCFG : Nat := 0x30001C
/-- OBSCFG.REP_TO [23:16], R130. -/
def BLV_OBSCFG_REP_TO : Fld := ⟨BLV_OBSCFG, 23, 16⟩
/-- OBSCFG.ALPHA [15:0], R130. -/
def BLV_OBSCFG_ALPHA : Fld := ⟨BLV_OBSCFG, 15, 0⟩
/-- BLV KCAP, R130. -/
def BLV_KCAP : Nat := 0x300020
/-- KCAP.KCAP [31:0], R130. -/
def BLV_KCAP_KCAP : Fld := ⟨BLV_KCAP, 31, 0⟩
/-- BLV RSEED, R130. -/
def BLV_RSEED : Nat := 0x300024
/-- RSEED.RS_TAG [11:0], R130. -/
def BLV_RSEED_RS_TAG : Fld := ⟨BLV_RSEED, 11, 0⟩
/-- BLV MEASCFG, R130. -/
def BLV_MEASCFG : Nat := 0x300028
/-- MEASCFG.MEAS_TO [15:8], R130. -/
def BLV_MEASCFG_MEAS_TO : Fld := ⟨BLV_MEASCFG, 15, 8⟩
/-- MEASCFG.MSEL [1:0], R130. -/
def BLV_MEASCFG_MSEL : Fld := ⟨BLV_MEASCFG, 1, 0⟩
/-- BLV RCOUNT, R130. -/
def BLV_RCOUNT : Nat := 0x30002C
/-- RCOUNT.TAG [27:16], R130. -/
def BLV_RCOUNT_TAG : Fld := ⟨BLV_RCOUNT, 27, 16⟩
/-- RCOUNT.COUNT [11:0], R130. -/
def BLV_RCOUNT_COUNT : Fld := ⟨BLV_RCOUNT, 11, 0⟩
/-- BLV MSRC, R130. -/
def BLV_MSRC (i : Nat) : Nat := 0x300030 + 4 * i
/-- MSRC.EN [31], R130. -/
def BLV_MSRC_EN (i : Nat) : Fld := ⟨BLV_MSRC i, 31, 31⟩
/-- MSRC.NODE [25:16], R130. -/
def BLV_MSRC_NODE (i : Nat) : Fld := ⟨BLV_MSRC i, 25, 16⟩
/-- MSRC.LANE [7:0], R130. -/
def BLV_MSRC_LANE (i : Nat) : Fld := ⟨BLV_MSRC i, 7, 0⟩
/-- BLV MIN_CTL, R130. -/
def BLV_MIN_CTL (i : Nat) : Nat := 0x300040 + 8 * i
/-- MIN_CTL.EN [31], R130. -/
def BLV_MIN_CTL_EN (i : Nat) : Fld := ⟨BLV_MIN_CTL i, 31, 31⟩
/-- MIN_CTL.IPOL [30], R130. -/
def BLV_MIN_CTL_IPOL (i : Nat) : Fld := ⟨BLV_MIN_CTL i, 30, 30⟩
/-- MIN_CTL.GRP [23:16], R130. -/
def BLV_MIN_CTL_GRP (i : Nat) : Fld := ⟨BLV_MIN_CTL i, 23, 16⟩
/-- MIN_CTL.LANE [7:0], R130. -/
def BLV_MIN_CTL_LANE (i : Nat) : Fld := ⟨BLV_MIN_CTL i, 7, 0⟩
/-- BLV MIN_DLY, R130. -/
def BLV_MIN_DLY (i : Nat) : Nat := 0x300044 + 8 * i
/-- MIN_DLY.DLY [15:0], R130. -/
def BLV_MIN_DLY_DLY (i : Nat) : Fld := ⟨BLV_MIN_DLY i, 15, 0⟩
/-- BLV RANKEN, R130. -/
def BLV_RANKEN : Nat := 0x300060
/-- BLV REP_OLD, R130. -/
def BLV_REP_OLD : Nat := 0x300100
/-- BLV REP_DUP, R130. -/
def BLV_REP_DUP : Nat := 0x300104
/-- BLV REP_MISS_CNT, R130. -/
def BLV_REP_MISS_CNT : Nat := 0x300108
/-- BLV MEAS_GAP, R130. -/
def BLV_MEAS_GAP : Nat := 0x30010C
/-- BLV MEAS_LATE, R130. -/
def BLV_MEAS_LATE : Nat := 0x300110
/-- BLV MEAS_SEQ, R130. -/
def BLV_MEAS_SEQ : Nat := 0x300114
/-- BLV MEAS_BAD, R130. -/
def BLV_MEAS_BAD : Nat := 0x300118
/-- BLV MEAS_OVF, R130. -/
def BLV_MEAS_OVF : Nat := 0x30011C
/-- BLV GATHER_MISS_CNT, R130. -/
def BLV_GATHER_MISS_CNT : Nat := 0x300120
/-- BLV GATHER_LATE, R130. -/
def BLV_GATHER_LATE : Nat := 0x300124
/-- BLV SCATTER_MISS_CNT, R130. -/
def BLV_SCATTER_MISS_CNT : Nat := 0x300128
/-- BLV FCST_MISS_CNT, R130. -/
def BLV_FCST_MISS_CNT : Nat := 0x30012C
/-- BLV SLOT_SHORT_CNT, R130. -/
def BLV_SLOT_SHORT_CNT : Nat := 0x300130
/-- BLV SLOT_LONG_CNT, R130. -/
def BLV_SLOT_LONG_CNT : Nat := 0x300134
/-- BLV OBS_ECC_CNT, R130. -/
def BLV_OBS_ECC_CNT : Nat := 0x300138
/-- BLV DIGEST, R130. -/
def BLV_DIGEST (i : Nat) : Nat := 0x300400 + 0x10 * i
/-- BLV FCTAB, R130. -/
def BLV_FCTAB (i : Nat) : Nat := 0x300800 + 0x10 * i
/-- BLV OBSV, R130. -/
def BLV_OBSV (i : Nat) : Nat := 0x301000 + 0x10 * i

/-- BND NCTL, R131. -/
def BND_NCTL : Nat := 0x400000
/-- NCTL.GRP [15:8], R131. -/
def BND_NCTL_GRP : Fld := ⟨BND_NCTL, 15, 8⟩
/-- NCTL.RXPLANE [4], R131. -/
def BND_NCTL_RXPLANE : Fld := ⟨BND_NCTL, 4, 4⟩
/-- NCTL.REPL_B [3], R131. -/
def BND_NCTL_REPL_B : Fld := ⟨BND_NCTL, 3, 3⟩
/-- NCTL.REPL_A [2], R131. -/
def BND_NCTL_REPL_A : Fld := ⟨BND_NCTL, 2, 2⟩
/-- NCTL.LEAD [1], R131. -/
def BND_NCTL_LEAD : Fld := ⟨BND_NCTL, 1, 1⟩
/-- NCTL.EN [0], R131. -/
def BND_NCTL_EN : Fld := ⟨BND_NCTL, 0, 0⟩
/-- BND NSTAT, R131. -/
def BND_NSTAT : Nat := 0x400004
/-- NSTAT.FCST_LATE [4], R131. -/
def BND_NSTAT_FCST_LATE : Fld := ⟨BND_NSTAT, 4, 4⟩
/-- NSTAT.REPLAN_LATE [3], R131. -/
def BND_NSTAT_REPLAN_LATE : Fld := ⟨BND_NSTAT, 3, 3⟩
/-- NSTAT.CMT_MISS [2], R131. -/
def BND_NSTAT_CMT_MISS : Fld := ⟨BND_NSTAT, 2, 2⟩
/-- NSTAT.CMT_CONFLICT [1], R131. -/
def BND_NSTAT_CMT_CONFLICT : Fld := ⟨BND_NSTAT, 1, 1⟩
/-- NSTAT.TEST_FAIL [0], R131. -/
def BND_NSTAT_TEST_FAIL : Fld := ⟨BND_NSTAT, 0, 0⟩
/-- BND LASTFAIL, R131. -/
def BND_LASTFAIL : Nat := 0x400008
/-- LASTFAIL.NEG_MIS [49], R131. -/
def BND_LASTFAIL_NEG_MIS : Fld := ⟨BND_LASTFAIL + 4, 17, 17⟩
/-- LASTFAIL.DIR_MIS [48], R131. -/
def BND_LASTFAIL_DIR_MIS : Fld := ⟨BND_LASTFAIL + 4, 16, 16⟩
/-- LASTFAIL.FN [43:32], R131. -/
def BND_LASTFAIL_FN : Fld := ⟨BND_LASTFAIL + 4, 11, 0⟩
/-- LASTFAIL.N [27:16], R131. -/
def BND_LASTFAIL_N : Fld := ⟨BND_LASTFAIL, 27, 16⟩
/-- LASTFAIL.TAG [11:0], R131. -/
def BND_LASTFAIL_TAG : Fld := ⟨BND_LASTFAIL, 11, 0⟩
/-- BND LANEMAP, R131. -/
def BND_LANEMAP : Nat := 0x400010
/-- BND CMT_RELAYED, R131. -/
def BND_CMT_RELAYED : Nat := 0x400040
/-- BND CMT_DUP, R131. -/
def BND_CMT_DUP : Nat := 0x400044
/-- BND CMT_CONFLICT_CNT, R131. -/
def BND_CMT_CONFLICT_CNT : Nat := 0x400048
/-- BND CMT_MISS_CNT, R131. -/
def BND_CMT_MISS_CNT : Nat := 0x40004C
/-- BND TEST_FAIL, R131. -/
def BND_TEST_FAIL : Nat := 0x400050
/-- BND ABORT_SENT, R131. -/
def BND_ABORT_SENT : Nat := 0x400054
/-- BND REPAIR_ROUNDS, R131. -/
def BND_REPAIR_ROUNDS : Nat := 0x400058
/-- BND RESTARTS, R131. -/
def BND_RESTARTS : Nat := 0x40005C
/-- BND REPLAN_LATE_CNT, R131. -/
def BND_REPLAN_LATE_CNT : Nat := 0x400060
/-- BND FCST_LATE, R131. -/
def BND_FCST_LATE : Nat := 0x400064

/-- GTH GCTL, R250. -/
def GTH_GCTL : Nat := 0x500000
/-- GCTL.PREF_ID [29:20], R250. -/
def GTH_GCTL_PREF_ID : Fld := ⟨GTH_GCTL, 29, 20⟩
/-- GCTL.PREF_V [19], R250. -/
def GTH_GCTL_PREF_V : Fld := ⟨GTH_GCTL, 19, 19⟩
/-- GCTL.TTL_INIT [7:4], R250. -/
def GTH_GCTL_TTL_INIT : Fld := ⟨GTH_GCTL, 7, 4⟩
/-- GCTL.ALT_EN [3], R250. -/
def GTH_GCTL_ALT_EN : Fld := ⟨GTH_GCTL, 3, 3⟩
/-- GCTL.AUTOROUTE [2], R250. -/
def GTH_GCTL_AUTOROUTE : Fld := ⟨GTH_GCTL, 2, 2⟩
/-- GCTL.LEAD_FORCE [1], R250. -/
def GTH_GCTL_LEAD_FORCE : Fld := ⟨GTH_GCTL, 1, 1⟩
/-- GCTL.EN [0], R250. -/
def GTH_GCTL_EN : Fld := ⟨GTH_GCTL, 0, 0⟩
/-- GTH GSTAT, R250. -/
def GTH_GSTAT : Nat := 0x500004
/-- GSTAT.LEAD_LOST [27], R250. -/
def GTH_GSTAT_LEAD_LOST : Fld := ⟨GTH_GSTAT, 27, 27⟩
/-- GSTAT.NOLEAD [26], R250. -/
def GTH_GSTAT_NOLEAD : Fld := ⟨GTH_GSTAT, 26, 26⟩
/-- GSTAT.ID_CONFLICT [25], R250. -/
def GTH_GSTAT_ID_CONFLICT : Fld := ⟨GTH_GSTAT, 25, 25⟩
/-- GSTAT.LEAD_CONFLICT [24], R250. -/
def GTH_GSTAT_LEAD_CONFLICT : Fld := ⟨GTH_GSTAT, 24, 24⟩
/-- GSTAT.ROUTE_CHG [23], R250. -/
def GTH_GSTAT_ROUTE_CHG : Fld := ⟨GTH_GSTAT, 23, 23⟩
/-- GSTAT.SWAP_LATE [22], R250. -/
def GTH_GSTAT_SWAP_LATE : Fld := ⟨GTH_GSTAT, 22, 22⟩
/-- GSTAT.REFUSED [21], R250. -/
def GTH_GSTAT_REFUSED : Fld := ⟨GTH_GSTAT, 21, 21⟩
/-- GSTAT.ELIG [15], R250. -/
def GTH_GSTAT_ELIG : Fld := ⟨GTH_GSTAT, 15, 15⟩
/-- GSTAT.BANK [14], R250. -/
def GTH_GSTAT_BANK : Fld := ⟨GTH_GSTAT, 14, 14⟩
/-- GSTAT.ROUTED [13], R250. -/
def GTH_GSTAT_ROUTED : Fld := ⟨GTH_GSTAT, 13, 13⟩
/-- GSTAT.IS_LEAD [12], R250. -/
def GTH_GSTAT_IS_LEAD : Fld := ⟨GTH_GSTAT, 12, 12⟩
/-- GSTAT.ID_VALID [11], R250. -/
def GTH_GSTAT_ID_VALID : Fld := ⟨GTH_GSTAT, 11, 11⟩
/-- GSTAT.NODE_ID [9:0], R250. -/
def GTH_GSTAT_NODE_ID : Fld := ⟨GTH_GSTAT, 9, 0⟩
/-- GTH GCMD, R250. -/
def GTH_GCMD : Nat := 0x500008
/-- GCMD.SWAP [2], R250. -/
def GTH_GCMD_SWAP : Fld := ⟨GTH_GCMD, 2, 2⟩
/-- GCMD.REROUTE [1], R250. -/
def GTH_GCMD_REROUTE : Fld := ⟨GTH_GCMD, 1, 1⟩
/-- GCMD.REDISCOVER [0], R250. -/
def GTH_GCMD_REDISCOVER : Fld := ⟨GTH_GCMD, 0, 0⟩
/-- GTH DISCCFG, R250. -/
def GTH_DISCCFG : Nat := 0x50000C
/-- DISCCFG.SETTLE [15:8], R250. -/
def GTH_DISCCFG_SETTLE : Fld := ⟨GTH_DISCCFG, 15, 8⟩
/-- DISCCFG.HELLO_PER [7:0], R250. -/
def GTH_DISCCFG_HELLO_PER : Fld := ⟨GTH_DISCCFG, 7, 0⟩
/-- GTH SERIAL, R250. -/
def GTH_SERIAL : Nat := 0x500010
/-- GTH LEAD_SERIAL, R250. -/
def GTH_LEAD_SERIAL : Nat := 0x500018
/-- GTH SWAP_AT, R250. -/
def GTH_SWAP_AT : Nat := 0x500020
/-- GTH PORTS, R250. -/
def GTH_PORTS : Nat := 0x500028
/-- PORTS.NBR_V [27:16], R250. -/
def GTH_PORTS_NBR_V : Fld := ⟨GTH_PORTS, 27, 16⟩
/-- PORTS.UP [11:0], R250. -/
def GTH_PORTS_UP : Fld := ⟨GTH_PORTS, 11, 0⟩
/-- GTH MEMBER, R250. -/
def GTH_MEMBER : Nat := 0x500040
/-- GTH FWD_CNT, R250. -/
def GTH_FWD_CNT : Nat := 0x500080
/-- GTH HDR_DROP, R250. -/
def GTH_HDR_DROP : Nat := 0x500084
/-- GTH TTL_DROP, R250. -/
def GTH_TTL_DROP : Nat := 0x500088
/-- GTH NOROUTE_CNT, R250. -/
def GTH_NOROUTE_CNT : Nat := 0x50008C
/-- GTH ALT_USE, R250. -/
def GTH_ALT_USE : Nat := 0x500090
/-- GTH CRC_FWD, R250. -/
def GTH_CRC_FWD : Nat := 0x500094
/-- GTH PREEMPT_TX, R250. -/
def GTH_PREEMPT_TX : Nat := 0x500098
/-- GTH PREEMPT_RX, R250. -/
def GTH_PREEMPT_RX : Nat := 0x50009C
/-- GTH PREEMPT_DROP, R250. -/
def GTH_PREEMPT_DROP : Nat := 0x5000A0
/-- GTH DUP_DROP, R250. -/
def GTH_DUP_DROP : Nat := 0x5000A4
/-- GTH ORDER_DROP, R250. -/
def GTH_ORDER_DROP : Nat := 0x5000A8
/-- GTH UNK_KIND, R250. -/
def GTH_UNK_KIND : Nat := 0x5000AC
/-- GTH GATHER_CRC, R250. -/
def GTH_GATHER_CRC : Nat := 0x5000B0
/-- GTH NBR, R250. -/
def GTH_NBR (i : Nat) : Nat := 0x500100 + 8 * i
/-- GTH RT, R250. -/
def GTH_RT (i : Nat) (j : Nat) : Nat := 0x501000 + 0x1000 * i + 4 * j
/-- RT.LOCAL [12], R250. -/
def GTH_RT_LOCAL (i : Nat) (j : Nat) : Fld := ⟨GTH_RT i j, 12, 12⟩
/-- RT.HOPS [11:8], R250. -/
def GTH_RT_HOPS (i : Nat) (j : Nat) : Fld := ⟨GTH_RT i j, 11, 8⟩
/-- RT.ALT_V [7], R250. -/
def GTH_RT_ALT_V (i : Nat) (j : Nat) : Fld := ⟨GTH_RT i j, 7, 7⟩
/-- RT.ALT [6:4], R250. -/
def GTH_RT_ALT (i : Nat) (j : Nat) : Fld := ⟨GTH_RT i j, 6, 4⟩
/-- RT.PRI_V [3], R250. -/
def GTH_RT_PRI_V (i : Nat) (j : Nat) : Fld := ⟨GTH_RT i j, 3, 3⟩
/-- RT.PRI [2:0], R250. -/
def GTH_RT_PRI (i : Nat) (j : Nat) : Fld := ⟨GTH_RT i j, 2, 0⟩
/-- GTH RT_SH, R250. -/
def GTH_RT_SH (i : Nat) (j : Nat) : Nat := 0x503000 + 0x1000 * i + 4 * j
/-- RT_SH.LOCAL [12], R250. -/
def GTH_RT_SH_LOCAL (i : Nat) (j : Nat) : Fld := ⟨GTH_RT_SH i j, 12, 12⟩
/-- RT_SH.HOPS [11:8], R250. -/
def GTH_RT_SH_HOPS (i : Nat) (j : Nat) : Fld := ⟨GTH_RT_SH i j, 11, 8⟩
/-- RT_SH.ALT_V [7], R250. -/
def GTH_RT_SH_ALT_V (i : Nat) (j : Nat) : Fld := ⟨GTH_RT_SH i j, 7, 7⟩
/-- RT_SH.ALT [6:4], R250. -/
def GTH_RT_SH_ALT (i : Nat) (j : Nat) : Fld := ⟨GTH_RT_SH i j, 6, 4⟩
/-- RT_SH.PRI_V [3], R250. -/
def GTH_RT_SH_PRI_V (i : Nat) (j : Nat) : Fld := ⟨GTH_RT_SH i j, 3, 3⟩
/-- RT_SH.PRI [2:0], R250. -/
def GTH_RT_SH_PRI (i : Nat) (j : Nat) : Fld := ⟨GTH_RT_SH i j, 2, 0⟩
/-- GTH MC, R250. -/
def GTH_MC (i : Nat) : Nat := 0x505000 + 4 * i
/-- MC.LOCAL_B [14], R250. -/
def GTH_MC_LOCAL_B (i : Nat) : Fld := ⟨GTH_MC i, 14, 14⟩
/-- MC.MASK_B [13:8], R250. -/
def GTH_MC_MASK_B (i : Nat) : Fld := ⟨GTH_MC i, 13, 8⟩
/-- MC.LOCAL_A [6], R250. -/
def GTH_MC_LOCAL_A (i : Nat) : Fld := ⟨GTH_MC i, 6, 6⟩
/-- MC.MASK_A [5:0], R250. -/
def GTH_MC_MASK_A (i : Nat) : Fld := ⟨GTH_MC i, 5, 0⟩
/-- GTH MC_SH, R250. -/
def GTH_MC_SH (i : Nat) : Nat := 0x505400 + 4 * i
/-- MC_SH.LOCAL_B [14], R250. -/
def GTH_MC_SH_LOCAL_B (i : Nat) : Fld := ⟨GTH_MC_SH i, 14, 14⟩
/-- MC_SH.MASK_B [13:8], R250. -/
def GTH_MC_SH_MASK_B (i : Nat) : Fld := ⟨GTH_MC_SH i, 13, 8⟩
/-- MC_SH.LOCAL_A [6], R250. -/
def GTH_MC_SH_LOCAL_A (i : Nat) : Fld := ⟨GTH_MC_SH i, 6, 6⟩
/-- MC_SH.MASK_A [5:0], R250. -/
def GTH_MC_SH_MASK_A (i : Nat) : Fld := ⟨GTH_MC_SH i, 5, 0⟩

/-- ORG OCTL, R252. -/
def ORG_OCTL : Nat := 0x600000
/-- OCTL.RSV_CTL [12:0], R252. -/
def ORG_OCTL_RSV_CTL : Fld := ⟨ORG_OCTL, 12, 0⟩
/-- ORG OSTAT, R252. -/
def ORG_OSTAT : Nat := 0x600004
/-- OSTAT.FREE_REF [4], R252. -/
def ORG_OSTAT_FREE_REF : Fld := ⟨ORG_OSTAT, 4, 4⟩
/-- OSTAT.REFUSED [3], R252. -/
def ORG_OSTAT_REFUSED : Fld := ⟨ORG_OSTAT, 3, 3⟩
/-- OSTAT.CTL_EXH [2], R252. -/
def ORG_OSTAT_CTL_EXH : Fld := ⟨ORG_OSTAT, 2, 2⟩
/-- OSTAT.ECC_D [1], R252. -/
def ORG_OSTAT_ECC_D : Fld := ⟨ORG_OSTAT, 1, 1⟩
/-- OSTAT.ECC_C [0], R252. -/
def ORG_OSTAT_ECC_C : Fld := ⟨ORG_OSTAT, 0, 0⟩
/-- ORG OFREE, R252. -/
def ORG_OFREE : Nat := 0x600008
/-- OFREE.RSV_FREE [28:16], R252. -/
def ORG_OFREE_RSV_FREE : Fld := ⟨ORG_OFREE, 28, 16⟩
/-- OFREE.SHARED_FREE [12:0], R252. -/
def ORG_OFREE_SHARED_FREE : Fld := ⟨ORG_OFREE, 12, 0⟩
/-- ORG ALLOC, R252. -/
def ORG_ALLOC : Nat := 0x60000C
/-- ALLOC.VALID [31], R252. -/
def ORG_ALLOC_VALID : Fld := ⟨ORG_ALLOC, 31, 31⟩
/-- ALLOC.INDEX [12:0], R252. -/
def ORG_ALLOC_INDEX : Fld := ⟨ORG_ALLOC, 12, 0⟩
/-- ORG FREE, R252. -/
def ORG_FREE : Nat := 0x600010
/-- FREE.INDEX [12:0], R252. -/
def ORG_FREE_INDEX : Fld := ⟨ORG_FREE, 12, 0⟩
/-- ORG ECC_C_CNT, R252. -/
def ORG_ECC_C_CNT : Nat := 0x600014
/-- ORG ECC_D_CNT, R252. -/
def ORG_ECC_D_CNT : Nat := 0x600018
/-- ORG ECC_ADDR, R252. -/
def ORG_ECC_ADDR : Nat := 0x60001C
/-- ECC_ADDR.OFFSET [24:3], R252. -/
def ORG_ECC_ADDR_OFFSET : Fld := ⟨ORG_ECC_ADDR, 24, 3⟩
/-- ORG CTL_DROP, R252. -/
def ORG_CTL_DROP : Nat := 0x600020
/-- ORG ACCT0, R252. -/
def ORG_ACCT0 (i : Nat) : Nat := 0x601000 + 8 * i
/-- ACCT0.PEAK [60:48], R252. -/
def ORG_ACCT0_PEAK (i : Nat) : Fld := ⟨ORG_ACCT0 i + 4, 28, 16⟩
/-- ACCT0.USED [44:32], R252. -/
def ORG_ACCT0_USED (i : Nat) : Fld := ⟨ORG_ACCT0 i + 4, 12, 0⟩
/-- ACCT0.MAX [28:16], R252. -/
def ORG_ACCT0_MAX (i : Nat) : Fld := ⟨ORG_ACCT0 i, 28, 16⟩
/-- ACCT0.MIN [12:0], R252. -/
def ORG_ACCT0_MIN (i : Nat) : Fld := ⟨ORG_ACCT0 i, 12, 0⟩
/-- ORG ACCT192, R252. -/
def ORG_ACCT192 (i : Nat) : Nat := 0x601600 + 8 * i
/-- ACCT192.PEAK [60:48], R252. -/
def ORG_ACCT192_PEAK (i : Nat) : Fld := ⟨ORG_ACCT192 i + 4, 28, 16⟩
/-- ACCT192.USED [44:32], R252. -/
def ORG_ACCT192_USED (i : Nat) : Fld := ⟨ORG_ACCT192 i + 4, 12, 0⟩
/-- ACCT192.MAX [28:16], R252. -/
def ORG_ACCT192_MAX (i : Nat) : Fld := ⟨ORG_ACCT192 i, 28, 16⟩
/-- ACCT192.MIN [12:0], R252. -/
def ORG_ACCT192_MIN (i : Nat) : Fld := ⟨ORG_ACCT192 i, 12, 0⟩
/-- ORG ACCT204, R252. -/
def ORG_ACCT204 (i : Nat) : Nat := 0x601660 + 8 * i
/-- ACCT204.PEAK [60:48], R252. -/
def ORG_ACCT204_PEAK (i : Nat) : Fld := ⟨ORG_ACCT204 i + 4, 28, 16⟩
/-- ACCT204.USED [44:32], R252. -/
def ORG_ACCT204_USED (i : Nat) : Fld := ⟨ORG_ACCT204 i + 4, 12, 0⟩
/-- ACCT204.MAX [28:16], R252. -/
def ORG_ACCT204_MAX (i : Nat) : Fld := ⟨ORG_ACCT204 i, 28, 16⟩
/-- ACCT204.MIN [12:0], R252. -/
def ORG_ACCT204_MIN (i : Nat) : Fld := ⟨ORG_ACCT204 i, 12, 0⟩
/-- ORG ACCT268, R252. -/
def ORG_ACCT268 (i : Nat) : Nat := 0x601860 + 8 * i
/-- ACCT268.PEAK [60:48], R252. -/
def ORG_ACCT268_PEAK (i : Nat) : Fld := ⟨ORG_ACCT268 i + 4, 28, 16⟩
/-- ACCT268.USED [44:32], R252. -/
def ORG_ACCT268_USED (i : Nat) : Fld := ⟨ORG_ACCT268 i + 4, 12, 0⟩
/-- ACCT268.MAX [28:16], R252. -/
def ORG_ACCT268_MAX (i : Nat) : Fld := ⟨ORG_ACCT268 i, 28, 16⟩
/-- ACCT268.MIN [12:0], R252. -/
def ORG_ACCT268_MIN (i : Nat) : Fld := ⟨ORG_ACCT268 i, 12, 0⟩
/-- ORG ACCT284, R252. -/
def ORG_ACCT284 (i : Nat) : Nat := 0x6018E0 + 8 * i
/-- ACCT284.PEAK [60:48], R252. -/
def ORG_ACCT284_PEAK (i : Nat) : Fld := ⟨ORG_ACCT284 i + 4, 28, 16⟩
/-- ACCT284.USED [44:32], R252. -/
def ORG_ACCT284_USED (i : Nat) : Fld := ⟨ORG_ACCT284 i + 4, 12, 0⟩
/-- ACCT284.MAX [28:16], R252. -/
def ORG_ACCT284_MAX (i : Nat) : Fld := ⟨ORG_ACCT284 i, 28, 16⟩
/-- ACCT284.MIN [12:0], R252. -/
def ORG_ACCT284_MIN (i : Nat) : Fld := ⟨ORG_ACCT284 i, 12, 0⟩
/-- ORG ACCT286, R252. -/
def ORG_ACCT286 (i : Nat) : Nat := 0x6018F0 + 8 * i
/-- ACCT286.PEAK [60:48], R252. -/
def ORG_ACCT286_PEAK (i : Nat) : Fld := ⟨ORG_ACCT286 i + 4, 28, 16⟩
/-- ACCT286.USED [44:32], R252. -/
def ORG_ACCT286_USED (i : Nat) : Fld := ⟨ORG_ACCT286 i + 4, 12, 0⟩
/-- ACCT286.MAX [28:16], R252. -/
def ORG_ACCT286_MAX (i : Nat) : Fld := ⟨ORG_ACCT286 i, 28, 16⟩
/-- ACCT286.MIN [12:0], R252. -/
def ORG_ACCT286_MIN (i : Nat) : Fld := ⟨ORG_ACCT286 i, 12, 0⟩
/-- ORG DROP, R252. -/
def ORG_DROP (i : Nat) : Nat := 0x602000 + 4 * i

/-- HHA HCTL, R351. -/
def HHA_HCTL : Nat := 0x700000
/-- HCTL.TX_EN [8], R351. -/
def HHA_HCTL_TX_EN : Fld := ⟨HHA_HCTL, 8, 8⟩
/-- HCTL.RQSRC [7:4], R351. -/
def HHA_HCTL_RQSRC : Fld := ⟨HHA_HCTL, 7, 4⟩
/-- HCTL.SDD_EN [3], R351. -/
def HHA_HCTL_SDD_EN : Fld := ⟨HHA_HCTL, 3, 3⟩
/-- HCTL.SLI_EN [2], R351. -/
def HHA_HCTL_SLI_EN : Fld := ⟨HHA_HCTL, 2, 2⟩
/-- HCTL.ONECOPY [1], R351. -/
def HHA_HCTL_ONECOPY : Fld := ⟨HHA_HCTL, 1, 1⟩
/-- HCTL.RMODE [0], R351. -/
def HHA_HCTL_RMODE : Fld := ⟨HHA_HCTL, 0, 0⟩
/-- HHA HSTAT, R351. -/
def HHA_HSTAT : Nat := 0x700004
/-- HSTAT.REFUSED [20], R351. -/
def HHA_HSTAT_REFUSED : Fld := ⟨HHA_HSTAT, 20, 20⟩
/-- HSTAT.RESET_REF [19], R351. -/
def HHA_HSTAT_RESET_REF : Fld := ⟨HHA_HSTAT, 19, 19⟩
/-- HSTAT.DIS_NEG [18], R351. -/
def HHA_HSTAT_DIS_NEG : Fld := ⟨HHA_HSTAT, 18, 18⟩
/-- HSTAT.DIS_POS [17], R351. -/
def HHA_HSTAT_DIS_POS : Fld := ⟨HHA_HSTAT, 17, 17⟩
/-- HSTAT.RQ [16], R351. -/
def HHA_HSTAT_RQ : Fld := ⟨HHA_HSTAT, 16, 16⟩
/-- HSTAT.CAUSE [15:8], R351. -/
def HHA_HSTAT_CAUSE : Fld := ⟨HHA_HSTAT, 15, 8⟩
/-- HSTAT.STATE [1:0], R351. -/
def HHA_HSTAT_STATE : Fld := ⟨HHA_HSTAT, 1, 0⟩
/-- HHA HCMD, R351. -/
def HHA_HCMD : Nat := 0x700008
/-- HCMD.SBK_REQ [0], R351. -/
def HHA_HCMD_SBK_REQ : Fld := ⟨HHA_HCMD, 0, 0⟩
/-- HHA TXCFG, R351. -/
def HHA_TXCFG : Nat := 0x70000C
/-- TXCFG.SPER [15:0], R351. -/
def HHA_TXCFG_SPER : Fld := ⟨HHA_TXCFG, 15, 0⟩
/-- TXCFG.TXWD [31:16], R351. -/
def HHA_TXCFG_TXWD : Fld := ⟨HHA_TXCFG, 31, 16⟩
/-- HHA RXCFG, R351. -/
def HHA_RXCFG : Nat := 0x700010
/-- RXCFG.DW [7:0], R351. -/
def HHA_RXCFG_DW : Fld := ⟨HHA_RXCFG, 7, 0⟩
/-- RXCFG.AGE_MAX [15:8], R351. -/
def HHA_RXCFG_AGE_MAX : Fld := ⟨HHA_RXCFG, 15, 8⟩
/-- RXCFG.SKIPMAX [19:16], R351. -/
def HHA_RXCFG_SKIPMAX : Fld := ⟨HHA_RXCFG, 19, 16⟩
/-- RXCFG.WD_MAX [31:20], R351. -/
def HHA_RXCFG_WD_MAX : Fld := ⟨HHA_RXCFG, 31, 20⟩
/-- HHA TXID, R351. -/
def HHA_TXID : Nat := 0x700014
/-- TXID.CONN [23:0], R351. -/
def HHA_TXID_CONN : Fld := ⟨HHA_TXID, 23, 0⟩
/-- TXID.SGRP [31:24], R351. -/
def HHA_TXID_SGRP : Fld := ⟨HHA_TXID, 31, 24⟩
/-- HHA PEER, R351. -/
def HHA_PEER : Nat := 0x700018
/-- PEER.PARTNER [9:0], R351. -/
def HHA_PEER_PARTNER : Fld := ⟨HHA_PEER, 9, 0⟩
/-- PEER.ROLE [16], R351. -/
def HHA_PEER_ROLE : Fld := ⟨HHA_PEER, 16, 16⟩
/-- PEER.PARTNER_V [17], R351. -/
def HHA_PEER_PARTNER_V : Fld := ⟨HHA_PEER, 17, 17⟩
/-- HHA SLILIM, R351. -/
def HHA_SLILIM : Nat := 0x70001C
/-- SLILIM.CODE [22:0], R351. -/
def HHA_SLILIM_CODE : Fld := ⟨HHA_SLILIM, 22, 0⟩
/-- HHA SLICFG, R351. -/
def HHA_SLICFG : Nat := 0x700020
/-- SLICFG.SLI_TO [15:0], R351. -/
def HHA_SLICFG_SLI_TO : Fld := ⟨HHA_SLICFG, 15, 0⟩
/-- SLICFG.SLI_N [19:16], R351. -/
def HHA_SLICFG_SLI_N : Fld := ⟨HHA_SLICFG, 19, 16⟩
/-- HHA SLIDISC, R351. -/
def HHA_SLIDISC : Nat := 0x700024
/-- SLIDISC.CODE [22:0], R351. -/
def HHA_SLIDISC_CODE : Fld := ⟨HHA_SLIDISC, 22, 0⟩
/-- HHA SDDHYS, R351. -/
def HHA_SDDHYS : Nat := 0x700028
/-- SDDHYS.CODE [22:0], R351. -/
def HHA_SDDHYS_CODE : Fld := ⟨HHA_SDDHYS, 22, 0⟩
/-- HHA SINCFG, R351. -/
def HHA_SINCFG : Nat := 0x70002C
/-- SINCFG.SFILT [7:0], R351. -/
def HHA_SINCFG_SFILT : Fld := ⟨HHA_SINCFG, 7, 0⟩
/-- SINCFG.SIN_DISC [23:16], R351. -/
def HHA_SINCFG_SIN_DISC : Fld := ⟨HHA_SINCFG, 23, 16⟩
/-- HHA CFG_CRC, R351. -/
def HHA_CFG_CRC : Nat := 0x700030
/-- HHA RXCONN, R351. -/
def HHA_RXCONN (i : Nat) : Nat := 0x700040 + 4 * i
/-- RXCONN.CONN [23:0], R351. -/
def HHA_RXCONN_CONN (i : Nat) : Fld := ⟨HHA_RXCONN i, 23, 0⟩
/-- RXCONN.EN [31], R351. -/
def HHA_RXCONN_EN (i : Nat) : Fld := ⟨HHA_RXCONN i, 31, 31⟩
/-- HHA SLANES, R351. -/
def HHA_SLANES : Nat := 0x700060
/-- HHA DISC_CNT, R351. -/
def HHA_DISC_CNT : Nat := 0x700100
/-- HHA WD_CNT, R351. -/
def HHA_WD_CNT : Nat := 0x700104
/-- HHA SEQ_CNT, R351. -/
def HHA_SEQ_CNT : Nat := 0x700108
/-- HHA AGE_CNT, R351. -/
def HHA_AGE_CNT : Nat := 0x70010C
/-- HHA DUP_CNT, R351. -/
def HHA_DUP_CNT : Nat := 0x700110
/-- HHA FORM_CNT, R351. -/
def HHA_FORM_CNT : Nat := 0x700114
/-- HHA RESET_REF_CNT, R351. -/
def HHA_RESET_REF_CNT : Nat := 0x700118
/-- HHA RXSTAT, R351. -/
def HHA_RXSTAT (i : Nat) : Nat := 0x700200 + 4 * i
/-- RXSTAT.STATE [1:0], R351. -/
def HHA_RXSTAT_STATE (i : Nat) : Fld := ⟨HHA_RXSTAT i, 1, 0⟩
/-- RXSTAT.CAUSE [15:8], R351. -/
def HHA_RXSTAT_CAUSE (i : Nat) : Fld := ⟨HHA_RXSTAT i, 15, 8⟩
/-- RXSTAT.CSTATE [18:16], R351. -/
def HHA_RXSTAT_CSTATE (i : Nat) : Fld := ⟨HHA_RXSTAT i, 18, 16⟩
/-- RXSTAT.SAFE [19], R351. -/
def HHA_RXSTAT_SAFE (i : Nat) : Fld := ⟨HHA_RXSTAT i, 19, 19⟩
/-- RXSTAT.LOCK [20], R351. -/
def HHA_RXSTAT_LOCK (i : Nat) : Fld := ⟨HHA_RXSTAT i, 20, 20⟩
/-- RXSTAT.CCAUSE [31:24], R351. -/
def HHA_RXSTAT_CCAUSE (i : Nat) : Fld := ⟨HHA_RXSTAT i, 31, 24⟩
/-- HHA SLSTAT, R351. -/
def HHA_SLSTAT (i : Nat) : Nat := 0x701000 + 4 * i
/-- SLSTAT.STATE [1:0], R351. -/
def HHA_SLSTAT_STATE (i : Nat) : Fld := ⟨HHA_SLSTAT i, 1, 0⟩
/-- SLSTAT.CAUSE [15:8], R351. -/
def HHA_SLSTAT_CAUSE (i : Nat) : Fld := ⟨HHA_SLSTAT i, 15, 8⟩
/-- SLSTAT.CSTATE [18:16], R351. -/
def HHA_SLSTAT_CSTATE (i : Nat) : Fld := ⟨HHA_SLSTAT i, 18, 16⟩
/-- SLSTAT.SAFE [19], R351. -/
def HHA_SLSTAT_SAFE (i : Nat) : Fld := ⟨HHA_SLSTAT i, 19, 19⟩
/-- SLSTAT.LOCK [20], R351. -/
def HHA_SLSTAT_LOCK (i : Nat) : Fld := ⟨HHA_SLSTAT i, 20, 20⟩
/-- SLSTAT.CCAUSE [31:24], R351. -/
def HHA_SLSTAT_CCAUSE (i : Nat) : Fld := ⟨HHA_SLSTAT i, 31, 24⟩

/-- GLS GCTL, R370. -/
def GLS_GCTL : Nat := 0x800000
/-- GCTL.XEN [16], R370. -/
def GLS_GCTL_XEN : Fld := ⟨GLS_GCTL, 16, 16⟩
/-- GCTL.XGRP [15:8], R370. -/
def GLS_GCTL_XGRP : Fld := ⟨GLS_GCTL, 15, 8⟩
/-- GLS GSTAT, R370. -/
def GLS_GSTAT : Nat := 0x800004
/-- GSTAT.REFUSED [1], R370. -/
def GLS_GSTAT_REFUSED : Fld := ⟨GLS_GSTAT, 1, 1⟩
/-- GSTAT.READY [0], R370. -/
def GLS_GSTAT_READY : Fld := ⟨GLS_GSTAT, 0, 0⟩
/-- GLS WINBASE, R370. -/
def GLS_WINBASE : Nat := 0x800008
/-- WINBASE.BASE [13:0], R370. -/
def GLS_WINBASE_BASE : Fld := ⟨GLS_WINBASE, 13, 0⟩
/-- GLS CCTL, R370. -/
def GLS_CCTL (i : Nat) : Nat := 0x800100 + 0x40 * i
/-- CCTL.CHIN [31:16], R370. -/
def GLS_CCTL_CHIN (i : Nat) : Fld := ⟨GLS_CCTL i, 31, 16⟩
/-- CCTL.XOUT [12], R370. -/
def GLS_CCTL_XOUT (i : Nat) : Fld := ⟨GLS_CCTL i, 12, 12⟩
/-- CCTL.XIN [11], R370. -/
def GLS_CCTL_XIN (i : Nat) : Fld := ⟨GLS_CCTL i, 11, 11⟩
/-- CCTL.TMODE [10:8], R370. -/
def GLS_CCTL_TMODE (i : Nat) : Fld := ⟨GLS_CCTL i, 10, 8⟩
/-- CCTL.SRC [6:4], R370. -/
def GLS_CCTL_SRC (i : Nat) : Fld := ⟨GLS_CCTL i, 6, 4⟩
/-- CCTL.MODE [2:1], R370. -/
def GLS_CCTL_MODE (i : Nat) : Fld := ⟨GLS_CCTL i, 2, 1⟩
/-- CCTL.EN [0], R370. -/
def GLS_CCTL_EN (i : Nat) : Fld := ⟨GLS_CCTL i, 0, 0⟩
/-- GLS CSTAT, R370. -/
def GLS_CSTAT (i : Nat) : Nat := 0x800104 + 0x40 * i
/-- CSTAT.DONE [23:8], R370. -/
def GLS_CSTAT_DONE (i : Nat) : Fld := ⟨GLS_CSTAT i, 23, 8⟩
/-- CSTAT.SLOT [7:4], R370. -/
def GLS_CSTAT_SLOT (i : Nat) : Fld := ⟨GLS_CSTAT i, 7, 4⟩
/-- CSTAT.STATE [2:0], R370. -/
def GLS_CSTAT_STATE (i : Nat) : Fld := ⟨GLS_CSTAT i, 2, 0⟩
/-- GLS CCMD, R370. -/
def GLS_CCMD (i : Nat) : Nat := 0x800108 + 0x40 * i
/-- CCMD.RELEASE [31:16], R370. -/
def GLS_CCMD_RELEASE (i : Nat) : Fld := ⟨GLS_CCMD i, 31, 16⟩
/-- CCMD.FORCE [0], R370. -/
def GLS_CCMD_FORCE (i : Nat) : Fld := ⟨GLS_CCMD i, 0, 0⟩
/-- GLS SEL, R370. -/
def GLS_SEL (i : Nat) : Nat := 0x80010C + 0x40 * i
/-- SEL.TSRC [31:24], R370. -/
def GLS_SEL_TSRC (i : Nat) : Fld := ⟨GLS_SEL i, 31, 24⟩
/-- SEL.KMASK [23:16], R370. -/
def GLS_SEL_KMASK (i : Nat) : Fld := ⟨GLS_SEL i, 23, 16⟩
/-- SEL.LAST [15:8], R370. -/
def GLS_SEL_LAST (i : Nat) : Fld := ⟨GLS_SEL i, 15, 8⟩
/-- SEL.FIRST [7:0], R370. -/
def GLS_SEL_FIRST (i : Nat) : Fld := ⟨GLS_SEL i, 7, 0⟩
/-- GLS TFIELD, R370. -/
def GLS_TFIELD (i : Nat) : Nat := 0x800110 + 0x40 * i
/-- TFIELD.SIGNED [11], R370. -/
def GLS_TFIELD_SIGNED (i : Nat) : Fld := ⟨GLS_TFIELD i, 11, 11⟩
/-- TFIELD.WIDTH [10:6], R370. -/
def GLS_TFIELD_WIDTH (i : Nat) : Fld := ⟨GLS_TFIELD i, 10, 6⟩
/-- TFIELD.POS [5:0], R370. -/
def GLS_TFIELD_POS (i : Nat) : Fld := ⟨GLS_TFIELD i, 5, 0⟩
/-- GLS TLEVEL, R370. -/
def GLS_TLEVEL (i : Nat) : Nat := 0x800114 + 0x40 * i
/-- GLS TMASK, R370. -/
def GLS_TMASK (i : Nat) : Nat := 0x800118 + 0x40 * i
/-- GLS TVAL, R370. -/
def GLS_TVAL (i : Nat) : Nat := 0x80011C + 0x40 * i
/-- GLS RBASE, R370. -/
def GLS_RBASE (i : Nat) : Nat := 0x800120 + 0x40 * i
/-- RBASE.BASE [20:0], R370. -/
def GLS_RBASE_BASE (i : Nat) : Fld := ⟨GLS_RBASE i, 20, 0⟩
/-- GLS RSIZE, R370. -/
def GLS_RSIZE (i : Nat) : Nat := 0x800124 + 0x40 * i
/-- RSIZE.HOLDOFF [31:20], R370. -/
def GLS_RSIZE_HOLDOFF (i : Nat) : Fld := ⟨GLS_RSIZE i, 31, 20⟩
/-- RSIZE.NSLOT [19:16], R370. -/
def GLS_RSIZE_NSLOT (i : Nat) : Fld := ⟨GLS_RSIZE i, 19, 16⟩
/-- RSIZE.SLOTSZ [15:0], R370. -/
def GLS_RSIZE_SLOTSZ (i : Nat) : Fld := ⟨GLS_RSIZE i, 15, 0⟩
/-- GLS PRE, R370. -/
def GLS_PRE (i : Nat) : Nat := 0x800128 + 0x40 * i
/-- PRE.N [23:0], R370. -/
def GLS_PRE_N (i : Nat) : Fld := ⟨GLS_PRE i, 23, 0⟩
/-- GLS POST, R370. -/
def GLS_POST (i : Nat) : Nat := 0x80012C + 0x40 * i
/-- POST.N [23:0], R370. -/
def GLS_POST_N (i : Nat) : Fld := ⟨GLS_POST i, 23, 0⟩
/-- GLS MISSED, R370. -/
def GLS_MISSED (i : Nat) : Nat := 0x800130 + 0x40 * i
/-- GLS DROPPED, R370. -/
def GLS_DROPPED (i : Nat) : Nat := 0x800134 + 0x40 * i
/-- GLS GAPS, R370. -/
def GLS_GAPS (i : Nat) : Nat := 0x800138 + 0x40 * i
/-- GLS RECORDS, R370. -/
def GLS_RECORDS (i : Nat) : Nat := 0x80013C + 0x40 * i

/-- FLT FCTL, R318. -/
def FLT_FCTL : Nat := 0x900000
/-- FCTL.FN_SW [8], R318. -/
def FLT_FCTL_FN_SW : Fld := ⟨FLT_FCTL, 8, 8⟩
/-- FCTL.FN_WIDTH [7:0], R318. -/
def FLT_FCTL_FN_WIDTH : Fld := ⟨FLT_FCTL, 7, 0⟩
/-- FLT FSTAT, R318. -/
def FLT_FSTAT : Nat := 0x900004
/-- FSTAT.ALREADY_DONE [10], R318. -/
def FLT_FSTAT_ALREADY_DONE : Fld := ⟨FLT_FSTAT, 10, 10⟩
/-- FSTAT.INJ_DONE [9], R318. -/
def FLT_FSTAT_INJ_DONE : Fld := ⟨FLT_FSTAT, 9, 9⟩
/-- FSTAT.REFUSED [8], R318. -/
def FLT_FSTAT_REFUSED : Fld := ⟨FLT_FSTAT, 8, 8⟩
/-- FSTAT.FN_DRIVE [2], R318. -/
def FLT_FSTAT_FN_DRIVE : Fld := ⟨FLT_FSTAT, 2, 2⟩
/-- FSTAT.FN_PULSE [1], R318. -/
def FLT_FSTAT_FN_PULSE : Fld := ⟨FLT_FSTAT, 1, 1⟩
/-- FSTAT.FN_PIN [0], R318. -/
def FLT_FSTAT_FN_PIN : Fld := ⟨FLT_FSTAT, 0, 0⟩
/-- FLT FCMD, R318. -/
def FLT_FCMD : Nat := 0x900008
/-- FCMD.TAKE [1], R318. -/
def FLT_FCMD_TAKE : Fld := ⟨FLT_FCMD, 1, 1⟩
/-- FCMD.RELEASE [0], R318. -/
def FLT_FCMD_RELEASE : Fld := ⟨FLT_FCMD, 0, 0⟩
/-- FLT INJ, R318. -/
def FLT_INJ : Nat := 0x90000C
/-- INJ.CHKMASK [23:16], R318. -/
def FLT_INJ_CHKMASK : Fld := ⟨FLT_INJ, 23, 16⟩
/-- INJ.MODE [9:8], R318. -/
def FLT_INJ_MODE : Fld := ⟨FLT_INJ, 9, 8⟩
/-- INJ.MEM [7:0], R318. -/
def FLT_INJ_MEM : Fld := ⟨FLT_INJ, 7, 0⟩
/-- FLT SILBY, R318. -/
def FLT_SILBY : Nat := 0x900010
/-- FLT FSIL, R318. -/
def FLT_FSIL : Nat := 0x900014
/-- FLT SILENCED, R318. -/
def FLT_SILENCED : Nat := 0x900020
/-- FLT TKCTL, R318. -/
def FLT_TKCTL : Nat := 0x900040
/-- TKCTL.DONE [3], R318. -/
def FLT_TKCTL_DONE : Fld := ⟨FLT_TKCTL, 3, 3⟩
/-- TKCTL.CNT [2:1], R318. -/
def FLT_TKCTL_CNT : Fld := ⟨FLT_TKCTL, 2, 1⟩
/-- TKCTL.ARMED [0], R318. -/
def FLT_TKCTL_ARMED : Fld := ⟨FLT_TKCTL, 0, 0⟩
/-- FLT TKLIST, R318. -/
def FLT_TKLIST (i : Nat) : Nat := 0x900048 + 8 * i
/-- FLT LOGCTL, R318. -/
def FLT_LOGCTL (i : Nat) : Nat := 0x980000 + 0x8000 * i
/-- LOGCTL.WR_IDX [25:16], R318. -/
def FLT_LOGCTL_WR_IDX (i : Nat) : Fld := ⟨FLT_LOGCTL i, 25, 16⟩
/-- LOGCTL.RD_IDX [9:0], R318. -/
def FLT_LOGCTL_RD_IDX (i : Nat) : Fld := ⟨FLT_LOGCTL i, 9, 0⟩
/-- FLT LOST, R318. -/
def FLT_LOST (i : Nat) : Nat := 0x980004 + 0x8000 * i
/-- FLT IRQDST, R318. -/
def FLT_IRQDST (i : Nat) : Nat := 0x980008 + 0x8000 * i
/-- IRQDST.HOST [31], R318. -/
def FLT_IRQDST_HOST (i : Nat) : Fld := ⟨FLT_IRQDST i, 31, 31⟩
/-- IRQDST.VEC [26:16], R318. -/
def FLT_IRQDST_VEC (i : Nat) : Fld := ⟨FLT_IRQDST i, 26, 16⟩
/-- IRQDST.CORES [15:0], R318. -/
def FLT_IRQDST_CORES (i : Nat) : Fld := ⟨FLT_IRQDST i, 15, 0⟩
/-- FLT CNT_C, R318. -/
def FLT_CNT_C (i : Nat) : Nat := 0x980010 + 0x8000 * i
/-- FLT CNT_K, R318. -/
def FLT_CNT_K (i : Nat) : Nat := 0x980014 + 0x8000 * i
/-- FLT CNT_F, R318. -/
def FLT_CNT_F (i : Nat) : Nat := 0x980018 + 0x8000 * i
/-- FLT ESC_CNT, R318. -/
def FLT_ESC_CNT (i : Nat) : Nat := 0x98001C + 0x8000 * i
/-- FLT ENTRY, R306. -/
def FLT_ENTRY (i : Nat) (j : Nat) : Nat := 0x980100 + 0x8000 * i + 4 * j
/-- ENTRY.RF [23:16], R306. -/
def FLT_ENTRY_RF (i : Nat) (j : Nat) : Fld := ⟨FLT_ENTRY i j, 23, 16⟩
/-- ENTRY.RK [15:8], R306. -/
def FLT_ENTRY_RK (i : Nat) (j : Nat) : Fld := ⟨FLT_ENTRY i j, 15, 8⟩
/-- ENTRY.RC [7:0], R306. -/
def FLT_ENTRY_RC (i : Nat) (j : Nat) : Fld := ⟨FLT_ENTRY i j, 7, 0⟩
/-- FLT CSTATE, R318. -/
def FLT_CSTATE (i : Nat) (j : Nat) : Nat := 0x980400 + 0x8000 * i + 4 * j
/-- CSTATE.IRQ [6:4], R318. -/
def FLT_CSTATE_IRQ (i : Nat) (j : Nat) : Fld := ⟨FLT_CSTATE i j, 6, 4⟩
/-- CSTATE.PEND_F [2], R318. -/
def FLT_CSTATE_PEND_F (i : Nat) (j : Nat) : Fld := ⟨FLT_CSTATE i j, 2, 2⟩
/-- CSTATE.PEND_K [1], R318. -/
def FLT_CSTATE_PEND_K (i : Nat) (j : Nat) : Fld := ⟨FLT_CSTATE i j, 1, 1⟩
/-- CSTATE.PEND_C [0], R318. -/
def FLT_CSTATE_PEND_C (i : Nat) (j : Nat) : Fld := ⟨FLT_CSTATE i j, 0, 0⟩
/-- FLT LOGE, R315. -/
def FLT_LOGE (i : Nat) (j : Nat) : Nat := 0x984000 + 0x8000 * i + 0x10 * j

/-- ETH ECTL, R272. -/
def ETH_ECTL (i : Nat) : Nat := 0xA00000 + 0x1000 * i
/-- ECTL.PTP_EN [2], R272. -/
def ETH_ECTL_PTP_EN (i : Nat) : Fld := ⟨ETH_ECTL i, 2, 2⟩
/-- ECTL.MODE [1], R272. -/
def ETH_ECTL_MODE (i : Nat) : Fld := ⟨ETH_ECTL i, 1, 1⟩
/-- ECTL.EN [0], R272. -/
def ETH_ECTL_EN (i : Nat) : Fld := ⟨ETH_ECTL i, 0, 0⟩
/-- ETH ESTAT, R272. -/
def ETH_ESTAT (i : Nat) : Nat := 0xA00004 + 0x1000 * i
/-- ESTAT.RX_FULL [10], R272. -/
def ETH_ESTAT_RX_FULL (i : Nat) : Fld := ⟨ETH_ESTAT i, 10, 10⟩
/-- ESTAT.OS_REF [9], R272. -/
def ETH_ESTAT_OS_REF (i : Nat) : Fld := ⟨ETH_ESTAT i, 9, 9⟩
/-- ESTAT.TS_OVF [8], R272. -/
def ETH_ESTAT_TS_OVF (i : Nat) : Fld := ⟨ETH_ESTAT i, 8, 8⟩
/-- ESTAT.LINK [0], R272. -/
def ETH_ESTAT_LINK (i : Nat) : Fld := ⟨ETH_ESTAT i, 0, 0⟩
/-- ETH TX_LAT, R272. -/
def ETH_TX_LAT (i : Nat) : Nat := 0xA00008 + 0x1000 * i
/-- TX_LAT.LAT [15:0], R272. -/
def ETH_TX_LAT_LAT (i : Nat) : Fld := ⟨ETH_TX_LAT i, 15, 0⟩
/-- ETH RX_LAT, R272. -/
def ETH_RX_LAT (i : Nat) : Nat := 0xA0000C + 0x1000 * i
/-- RX_LAT.LAT [15:0], R272. -/
def ETH_RX_LAT_LAT (i : Nat) : Fld := ⟨ETH_RX_LAT i, 15, 0⟩
/-- ETH ETXD, R272. -/
def ETH_ETXD (i : Nat) : Nat := 0xA00010 + 0x1000 * i
/-- ETH ERXQ, R272. -/
def ETH_ERXQ (i : Nat) : Nat := 0xA00020 + 0x1000 * i
/-- ETH ETXTS, R272. -/
def ETH_ETXTS (i : Nat) : Nat := 0xA00030 + 0x1000 * i
/-- ETH TS_OVF, R272. -/
def ETH_TS_OVF (i : Nat) : Nat := 0xA00040 + 0x1000 * i
/-- ETH RX_DROP, R272. -/
def ETH_RX_DROP (i : Nat) : Nat := 0xA00044 + 0x1000 * i
/-- ETH MDIO, R376. -/
def ETH_MDIO : Nat := 0xA02000
/-- MDIO.GO [31], R376. -/
def ETH_MDIO_GO : Fld := ⟨ETH_MDIO, 31, 31⟩
/-- MDIO.C45 [30], R376. -/
def ETH_MDIO_C45 : Fld := ⟨ETH_MDIO, 30, 30⟩
/-- MDIO.OP [29:28], R376. -/
def ETH_MDIO_OP : Fld := ⟨ETH_MDIO, 29, 28⟩
/-- MDIO.PHYAD [27:23], R376. -/
def ETH_MDIO_PHYAD : Fld := ⟨ETH_MDIO, 27, 23⟩
/-- MDIO.REG [20:16], R376. -/
def ETH_MDIO_REG : Fld := ⟨ETH_MDIO, 20, 16⟩
/-- MDIO.DATA [15:0], R376. -/
def ETH_MDIO_DATA : Fld := ⟨ETH_MDIO, 15, 0⟩

/-- PCI PSTAT, R384. -/
def PCI_PSTAT : Nat := 0xB00000
/-- PSTAT.WIDTH [3:0], R384. -/
def PCI_PSTAT_WIDTH : Fld := ⟨PCI_PSTAT, 3, 0⟩
/-- PSTAT.GEN [6:4], R384. -/
def PCI_PSTAT_GEN : Fld := ⟨PCI_PSTAT, 6, 4⟩
/-- PSTAT.LINK [8], R384. -/
def PCI_PSTAT_LINK : Fld := ⟨PCI_PSTAT, 8, 8⟩
/-- PSTAT.DOWN_SEEN [9], R384. -/
def PCI_PSTAT_DOWN_SEEN : Fld := ⟨PCI_PSTAT, 9, 9⟩
/-- PCI BOOTCTL, R384. -/
def PCI_BOOTCTL : Nat := 0xB00004
/-- PCI BOOTSTAT, R384. -/
def PCI_BOOTSTAT : Nat := 0xB00008
/-- BOOTSTAT.DONE [0], R384. -/
def PCI_BOOTSTAT_DONE : Fld := ⟨PCI_BOOTSTAT, 0, 0⟩
/-- BOOTSTAT.FAIL [1], R384. -/
def PCI_BOOTSTAT_FAIL : Fld := ⟨PCI_BOOTSTAT, 1, 1⟩
/-- BOOTSTAT.SRC [3:2], R384. -/
def PCI_BOOTSTAT_SRC : Fld := ⟨PCI_BOOTSTAT, 3, 2⟩
/-- BOOTSTAT.CODE_A [11:8], R384. -/
def PCI_BOOTSTAT_CODE_A : Fld := ⟨PCI_BOOTSTAT, 11, 8⟩
/-- BOOTSTAT.CODE_B [15:12], R384. -/
def PCI_BOOTSTAT_CODE_B : Fld := ⟨PCI_BOOTSTAT, 15, 12⟩
/-- BOOTSTAT.CODE_P [19:16], R384. -/
def PCI_BOOTSTAT_CODE_P : Fld := ⟨PCI_BOOTSTAT, 19, 16⟩
/-- BOOTSTAT.SOFT [22:20], R384. -/
def PCI_BOOTSTAT_SOFT : Fld := ⟨PCI_BOOTSTAT, 22, 20⟩
/-- PCI IMG_VER, R384. -/
def PCI_IMG_VER : Nat := 0xB0000C
/-- PCI OTPSTAT, R384. -/
def PCI_OTPSTAT : Nat := 0xB00010
/-- OTPSTAT.SB_EN [0], R384. -/
def PCI_OTPSTAT_SB_EN : Fld := ⟨PCI_OTPSTAT, 0, 0⟩
/-- OTPSTAT.KEYP [4:1], R384. -/
def PCI_OTPSTAT_KEYP : Fld := ⟨PCI_OTPSTAT, 4, 1⟩
/-- OTPSTAT.REVOKE [8:5], R384. -/
def PCI_OTPSTAT_REVOKE : Fld := ⟨PCI_OTPSTAT, 8, 5⟩
/-- OTPSTAT.SEC_MIN [22:16], R384. -/
def PCI_OTPSTAT_SEC_MIN : Fld := ⟨PCI_OTPSTAT, 22, 16⟩
/-- PCI OTPCMD, R384. -/
def PCI_OTPCMD : Nat := 0xB00014
/-- PCI QCTL, R384. -/
def PCI_QCTL : Nat := 0xB00100
/-- QCTL.UNLOCK [0], R384. -/
def PCI_QCTL_UNLOCK : Fld := ⟨PCI_QCTL, 0, 0⟩
/-- PCI QCMD, R384. -/
def PCI_QCMD : Nat := 0xB00104
/-- PCI QADDR, R384. -/
def PCI_QADDR : Nat := 0xB00108
/-- PCI QSTAT, R384. -/
def PCI_QSTAT : Nat := 0xB0010C
/-- QSTAT.REFUSED [1], R384. -/
def PCI_QSTAT_REFUSED : Fld := ⟨PCI_QSTAT, 1, 1⟩
/-- QSTAT.BUSY [0], R384. -/
def PCI_QSTAT_BUSY : Fld := ⟨PCI_QSTAT, 0, 0⟩
/-- PCI QDATA, R384. -/
def PCI_QDATA (i : Nat) : Nat := 0xB00200 + 4 * i
/-- PCI MSIX, R373. -/
def PCI_MSIX (i : Nat) : Nat := 0xB10000 + 0x10 * i
/-- PCI PBA, R373. -/
def PCI_PBA (i : Nat) : Nat := 0xB18000 + 4 * i

/-- LDD LDCTL, R372. -/
def LDD_LDCTL : Nat := 0xC00000
/-- LDCTL.RATE_LIM [1], R372. -/
def LDD_LDCTL_RATE_LIM : Fld := ⟨LDD_LDCTL, 1, 1⟩
/-- LDCTL.EN [0], R372. -/
def LDD_LDCTL_EN : Fld := ⟨LDD_LDCTL, 0, 0⟩
/-- LDD LDSTAT, R372. -/
def LDD_LDSTAT : Nat := 0xC00004
/-- LDSTAT.MR4 [15:8], R372. -/
def LDD_LDSTAT_MR4 : Fld := ⟨LDD_LDSTAT, 15, 8⟩
/-- LDSTAT.RATE [5], R372. -/
def LDD_LDSTAT_RATE : Fld := ⟨LDD_LDSTAT, 5, 5⟩
/-- LDSTAT.SIZE [4:2], R372. -/
def LDD_LDSTAT_SIZE : Fld := ⟨LDD_LDSTAT, 4, 2⟩
/-- LDSTAT.TRAIN_FAIL [1], R372. -/
def LDD_LDSTAT_TRAIN_FAIL : Fld := ⟨LDD_LDSTAT, 1, 1⟩
/-- LDSTAT.READY [0], R372. -/
def LDD_LDSTAT_READY : Fld := ⟨LDD_LDSTAT, 0, 0⟩

/-- Lane LCTL, R225. -/
def LN_LCTL (b : Nat) : Nat := b + 0
/-- LCTL.BER_MAX [31:24], R225. -/
def LN_LCTL_BER_MAX (b : Nat) : Fld := ⟨LN_LCTL b, 31, 24⟩
/-- LCTL.FOM_MIN [23:16], R225. -/
def LN_LCTL_FOM_MIN (b : Nat) : Fld := ⟨LN_LCTL b, 23, 16⟩
/-- LCTL.RXINV [5], R225. -/
def LN_LCTL_RXINV (b : Nat) : Fld := ⟨LN_LCTL b, 5, 5⟩
/-- LCTL.TXINV [4], R225. -/
def LN_LCTL_TXINV (b : Nat) : Fld := ⟨LN_LCTL b, 4, 4⟩
/-- LCTL.MAXRATE [3:2], R225. -/
def LN_LCTL_MAXRATE (b : Nat) : Fld := ⟨LN_LCTL b, 3, 2⟩
/-- LCTL.MEAS [1], R225. -/
def LN_LCTL_MEAS (b : Nat) : Fld := ⟨LN_LCTL b, 1, 1⟩
/-- LCTL.EN [0], R225. -/
def LN_LCTL_EN (b : Nat) : Fld := ⟨LN_LCTL b, 0, 0⟩
/-- Lane LSTAT, R225. -/
def LN_LSTAT (b : Nat) : Nat := b + 4
/-- LSTAT.ROLE_MIS [20], R225. -/
def LN_LSTAT_ROLE_MIS (b : Nat) : Fld := ⟨LN_LSTAT b, 20, 20⟩
/-- LSTAT.REFUSED [19], R225. -/
def LN_LSTAT_REFUSED (b : Nat) : Fld := ⟨LN_LSTAT b, 19, 19⟩
/-- LSTAT.BER_HIGH [18], R225. -/
def LN_LSTAT_BER_HIGH (b : Nat) : Fld := ⟨LN_LSTAT b, 18, 18⟩
/-- LSTAT.FOM_LOW [17], R225. -/
def LN_LSTAT_FOM_LOW (b : Nat) : Fld := ⟨LN_LSTAT b, 17, 17⟩
/-- LSTAT.LINK_DOWN [16], R225. -/
def LN_LSTAT_LINK_DOWN (b : Nat) : Fld := ⟨LN_LSTAT b, 16, 16⟩
/-- LSTAT.MTX_BUSY [14], R225. -/
def LN_LSTAT_MTX_BUSY (b : Nat) : Fld := ⟨LN_LSTAT b, 14, 14⟩
/-- LSTAT.MRX_VALID [13], R225. -/
def LN_LSTAT_MRX_VALID (b : Nat) : Fld := ⟨LN_LSTAT b, 13, 13⟩
/-- LSTAT.CHK_LOCK [12], R225. -/
def LN_LSTAT_CHK_LOCK (b : Nat) : Fld := ⟨LN_LSTAT b, 12, 12⟩
/-- LSTAT.PEER_MAX [11:10], R225. -/
def LN_LSTAT_PEER_MAX (b : Nat) : Fld := ⟨LN_LSTAT b, 11, 10⟩
/-- LSTAT.PEER_ROLE [9:8], R225. -/
def LN_LSTAT_PEER_ROLE (b : Nat) : Fld := ⟨LN_LSTAT b, 9, 8⟩
/-- LSTAT.LOCK [6], R225. -/
def LN_LSTAT_LOCK (b : Nat) : Fld := ⟨LN_LSTAT b, 6, 6⟩
/-- LSTAT.RATE [5:4], R225. -/
def LN_LSTAT_RATE (b : Nat) : Fld := ⟨LN_LSTAT b, 5, 4⟩
/-- LSTAT.STATE [3:0], R225. -/
def LN_LSTAT_STATE (b : Nat) : Fld := ⟨LN_LSTAT b, 3, 0⟩
/-- Lane LCMD, R225. -/
def LN_LCMD (b : Nat) : Nat := b + 8
/-- LCMD.MRX_DONE [6], R225. -/
def LN_LCMD_MRX_DONE (b : Nat) : Fld := ⟨LN_LCMD b, 6, 6⟩
/-- LCMD.MSG_SEND [5], R225. -/
def LN_LCMD_MSG_SEND (b : Nat) : Fld := ⟨LN_LCMD b, 5, 5⟩
/-- LCMD.INJ_ONCE [4], R225. -/
def LN_LCMD_INJ_ONCE (b : Nat) : Fld := ⟨LN_LCMD b, 4, 4⟩
/-- LCMD.WAKE [3], R225. -/
def LN_LCMD_WAKE (b : Nat) : Fld := ⟨LN_LCMD b, 3, 3⟩
/-- LCMD.ENTER_L2 [2], R225. -/
def LN_LCMD_ENTER_L2 (b : Nat) : Fld := ⟨LN_LCMD b, 2, 2⟩
/-- LCMD.ENTER_L1 [1], R225. -/
def LN_LCMD_ENTER_L1 (b : Nat) : Fld := ⟨LN_LCMD b, 1, 1⟩
/-- LCMD.RETRAIN [0], R225. -/
def LN_LCMD_RETRAIN (b : Nat) : Fld := ⟨LN_LCMD b, 0, 0⟩
/-- Lane FOMR, R225. -/
def LN_FOMR (b : Nat) : Nat := b + 0xC
/-- FOMR.PEER_FOM [31:24], R225. -/
def LN_FOMR_PEER_FOM (b : Nat) : Fld := ⟨LN_FOMR b, 31, 24⟩
/-- FOMR.HM [23:16], R225. -/
def LN_FOMR_HM (b : Nat) : Fld := ⟨LN_FOMR b, 23, 16⟩
/-- FOMR.VM [15:8], R225. -/
def LN_FOMR_VM (b : Nat) : Fld := ⟨LN_FOMR b, 15, 8⟩
/-- FOMR.FOM [7:0], R225. -/
def LN_FOMR_FOM (b : Nat) : Fld := ⟨LN_FOMR b, 7, 0⟩
/-- Lane TCTL, R225. -/
def LN_TCTL (b : Nat) : Nat := b + 0x10
/-- TCTL.CHK_EN [6], R225. -/
def LN_TCTL_CHK_EN (b : Nat) : Fld := ⟨LN_TCTL b, 6, 6⟩
/-- TCTL.TRATE [5:4], R225. -/
def LN_TCTL_TRATE (b : Nat) : Fld := ⟨LN_TCTL b, 5, 4⟩
/-- TCTL.PAT [3:1], R225. -/
def LN_TCTL_PAT (b : Nat) : Fld := ⟨LN_TCTL b, 3, 1⟩
/-- TCTL.TEST [0], R225. -/
def LN_TCTL_TEST (b : Nat) : Fld := ⟨LN_TCTL b, 0, 0⟩
/-- Lane INJ, R225. -/
def LN_INJ (b : Nat) : Nat := b + 0x14
/-- INJ.RATE_EXP [12:8], R225. -/
def LN_INJ_RATE_EXP (b : Nat) : Fld := ⟨LN_INJ b, 12, 8⟩
/-- INJ.MODE [2:0], R225. -/
def LN_INJ_MODE (b : Nat) : Fld := ⟨LN_INJ b, 2, 0⟩
/-- Lane UPAT, R225. -/
def LN_UPAT (b : Nat) : Nat := b + 0x18
/-- Lane TBITS, R225. -/
def LN_TBITS (b : Nat) : Nat := b + 0x20
/-- Lane TERR, R225. -/
def LN_TERR (b : Nat) : Nat := b + 0x28
/-- Lane HDR_ERR, R225. -/
def LN_HDR_ERR (b : Nat) : Nat := b + 0x2C
/-- Lane CHK_ERR, R225. -/
def LN_CHK_ERR (b : Nat) : Nat := b + 0x30
/-- Lane CRC_ERR, R225. -/
def LN_CRC_ERR (b : Nat) : Nat := b + 0x34
/-- Lane MSG_ERR, R225. -/
def LN_MSG_ERR (b : Nat) : Nat := b + 0x38
/-- Lane UNK_CNT, R225. -/
def LN_UNK_CNT (b : Nat) : Nat := b + 0x3C
/-- Lane LOCK_LOSS, R225. -/
def LN_LOCK_LOSS (b : Nat) : Nat := b + 0x40
/-- Lane FALLBACK_CNT, R225. -/
def LN_FALLBACK_CNT (b : Nat) : Nat := b + 0x44
/-- Lane BAL_CNT, R225. -/
def LN_BAL_CNT (b : Nat) : Nat := b + 0x48
/-- Lane MTX, R225. -/
def LN_MTX (b : Nat) : Nat := b + 0x50
/-- Lane MRX, R225. -/
def LN_MRX (b : Nat) : Nat := b + 0x58
/-- Lane PRBCTL, R271. -/
def LN_PRBCTL (b : Nat) : Nat := b + 0x80
/-- PRBCTL.PROBE_EN [31], R271. -/
def LN_PRBCTL_PROBE_EN (b : Nat) : Fld := ⟨LN_PRBCTL b, 31, 31⟩
/-- PRBCTL.DAVG [18:16], R271. -/
def LN_PRBCTL_DAVG (b : Nat) : Fld := ⟨LN_PRBCTL b, 18, 16⟩
/-- PRBCTL.DJUMP [15:8], R271. -/
def LN_PRBCTL_DJUMP (b : Nat) : Fld := ⟨LN_PRBCTL b, 15, 8⟩
/-- PRBCTL.PROBE_PER [7:0], R271. -/
def LN_PRBCTL_PROBE_PER (b : Nat) : Fld := ⟨LN_PRBCTL b, 7, 0⟩
/-- Lane PRBSTAT, R271. -/
def LN_PRBSTAT (b : Nat) : Nat := b + 0x84
/-- PRBSTAT.NVALID [14:8], R271. -/
def LN_PRBSTAT_NVALID (b : Nat) : Fld := ⟨LN_PRBSTAT b, 14, 8⟩
/-- PRBSTAT.CAL [0], R271. -/
def LN_PRBSTAT_CAL (b : Nat) : Fld := ⟨LN_PRBSTAT b, 0, 0⟩
/-- Lane DLY_LAST, R271. -/
def LN_DLY_LAST (b : Nat) : Nat := b + 0x88
/-- Lane DLY_MEAN, R271. -/
def LN_DLY_MEAN (b : Nat) : Nat := b + 0x8C
/-- Lane DLY_NOM, R271. -/
def LN_DLY_NOM (b : Nat) : Nat := b + 0x90
/-- Lane ASYM, R271. -/
def LN_ASYM (b : Nat) : Nat := b + 0x94
/-- Lane DLY_USE, R271. -/
def LN_DLY_USE (b : Nat) : Nat := b + 0x98
/-- Lane DLY_DROP, R271. -/
def LN_DLY_DROP (b : Nat) : Nat := b + 0x9C
/-- Lane DLY_RESTART, R271. -/
def LN_DLY_RESTART (b : Nat) : Nat := b + 0xA0

/-- Kiosk and Shed control KCTL, R179. -/
def KS_KCTL (b : Nat) : Nat := b + 0
/-- KCTL.CORE_RST [5], R179. -/
def KS_KCTL_CORE_RST (b : Nat) : Fld := ⟨KS_KCTL b, 5, 5⟩
/-- KCTL.DBGEN [4], R179. -/
def KS_KCTL_DBGEN (b : Nat) : Fld := ⟨KS_KCTL b, 4, 4⟩
/-- KCTL.RESUME [3], R179. -/
def KS_KCTL_RESUME (b : Nat) : Fld := ⟨KS_KCTL b, 3, 3⟩
/-- KCTL.STEP [2], R179. -/
def KS_KCTL_STEP (b : Nat) : Fld := ⟨KS_KCTL b, 2, 2⟩
/-- KCTL.HALT_REQ [1], R179. -/
def KS_KCTL_HALT_REQ (b : Nat) : Fld := ⟨KS_KCTL b, 1, 1⟩
/-- KCTL.RUN [0], R179. -/
def KS_KCTL_RUN (b : Nat) : Fld := ⟨KS_KCTL b, 0, 0⟩
/-- Kiosk and Shed control KSTAT, R179. -/
def KS_KSTAT (b : Nat) : Nat := b + 4
/-- KSTAT.IMW_REF [26], R179. -/
def KS_KSTAT_IMW_REF (b : Nat) : Fld := ⟨KS_KSTAT b, 26, 26⟩
/-- KSTAT.REFUSED [25], R179. -/
def KS_KSTAT_REFUSED (b : Nat) : Fld := ⟨KS_KSTAT b, 25, 25⟩
/-- KSTAT.DOUBLE [24], R179. -/
def KS_KSTAT_DOUBLE (b : Nat) : Fld := ⟨KS_KSTAT b, 24, 24⟩
/-- KSTAT.DCAUSE [23:16], R179. -/
def KS_KSTAT_DCAUSE (b : Nat) : Fld := ⟨KS_KSTAT b, 23, 16⟩
/-- KSTAT.HALT_WHY [10:8], R179. -/
def KS_KSTAT_HALT_WHY (b : Nat) : Fld := ⟨KS_KSTAT b, 10, 8⟩
/-- KSTAT.SPEC [4], R179. -/
def KS_KSTAT_SPEC (b : Nat) : Fld := ⟨KS_KSTAT b, 4, 4⟩
/-- KSTAT.EXL [3], R179. -/
def KS_KSTAT_EXL (b : Nat) : Fld := ⟨KS_KSTAT b, 3, 3⟩
/-- KSTAT.WFI [2], R179. -/
def KS_KSTAT_WFI (b : Nat) : Fld := ⟨KS_KSTAT b, 2, 2⟩
/-- KSTAT.HALTED [1], R179. -/
def KS_KSTAT_HALTED (b : Nat) : Fld := ⟨KS_KSTAT b, 1, 1⟩
/-- KSTAT.RUNNING [0], R179. -/
def KS_KSTAT_RUNNING (b : Nat) : Fld := ⟨KS_KSTAT b, 0, 0⟩
/-- Kiosk and Shed control KPC, R179. -/
def KS_KPC (b : Nat) : Nat := b + 8
/-- Kiosk and Shed control KRST_PC, R179. -/
def KS_KRST_PC (b : Nat) : Nat := b + 0xC
/-- Kiosk and Shed control KDBELL, R179. -/
def KS_KDBELL (b : Nat) : Nat := b + 0x10
/-- Kiosk and Shed control KDBV, R179. -/
def KS_KDBV (b : Nat) : Nat := b + 0x14
/-- Kiosk and Shed control KECC_C, R179. -/
def KS_KECC_C (b : Nat) : Nat := b + 0x18
/-- Kiosk and Shed control KECC_D, R179. -/
def KS_KECC_D (b : Nat) : Nat := b + 0x1C

/-- The register rows of GLB. -/
def regMapGLB : List RegRow := [
  ⟨0, 0x100000000, 1, 0x100000000, 1, [⟨0, 0, 0, 0x10192000⟩]⟩,
  ⟨4, 0x100000000, 1, 0x100000000, 1, [⟨0, 0, 0, 0⟩]⟩,
  ⟨8, 0x100000000, 1, 0x100000000, 1, [⟨0, 0x3F, 0, 1⟩]⟩,
  ⟨0xC, 0x100000000, 1, 0x100000000, 1, [⟨0, 0, 0, 0⟩]⟩,
  ⟨0x10, 0x100000000, 1, 0x100000000, 1, [⟨0x800001FF, 0, 0, 0x1FF⟩]⟩,
  ⟨0x14, 0x100000000, 1, 0x100000000, 1, [⟨0, 0x60000, 0, 0⟩]⟩,
  ⟨0x18, 0x100000000, 1, 0x100000000, 1, [⟨0x8000FFFF, 0, 0, 0⟩]⟩,
  ⟨0x1C, 0x100000000, 1, 0x100000000, 1, [⟨0, 0, 0, 0⟩]⟩,
  ⟨0x20, 0x100000000, 1, 0x100000000, 1, List.replicate 2 ⟨0, 0, 0, 0⟩⟩]

/-- The register rows of SDL. -/
def regMapSDLA : List RegRow := [
  ⟨0x100000, 0x100000000, 1, 0x100000000, 1, [⟨0x3FFF0030, 0, 0, 0x640000⟩]⟩,
  ⟨0x100004, 0x100000000, 1, 0x100000000, 1, [⟨0, 6, 0, 0⟩]⟩,
  ⟨0x100100, 0x100000000, 1, 0x100, 6, [⟨1, 0, 0, 0⟩]⟩,
  ⟨0x100104, 0x100000000, 1, 0x100, 6, [⟨0, 0x700, 0, 0⟩]⟩,
  ⟨0x100108, 0x100000000, 1, 0x100, 6, [⟨0, 0, 0, 0⟩]⟩,
  ⟨0x100110, 0x100000000, 1, 0x100, 6, List.replicate 4 ⟨0, 0, 0, 0⟩⟩,
  ⟨0x100120, 0x100000000, 1, 0x100, 1, [⟨0xFFFF0000, 0, 0, 0⟩, ⟨0xFFFFFFFF, 0, 0, 0⟩, ⟨0xFFFFFFFF, 0, 0, 0⟩, ⟨0xFFFF, 0, 0, 0⟩]⟩,
  ⟨0x100220, 0x100000000, 1, 0x100, 5, [⟨0xFFFFFF00, 0, 0, 0⟩, ⟨0xFFFFFFFF, 0, 0, 0⟩, ⟨0xFFFFFFFF, 0, 0, 0⟩, ⟨0, 0, 0, 0⟩]⟩,
  ⟨0x100130, 0x100000000, 1, 0x100, 6, List.replicate 2 ⟨0xFFFFFFFF, 0, 0, 0⟩⟩,
  ⟨0x100138, 0x100000000, 1, 0x100, 2, [⟨0xFFFFFFFF, 0, 0, 0⟩, ⟨0xFFFFFFFF, 0, 0, 0x100⟩]⟩,
  ⟨0x100338, 0x100000000, 1, 0x100, 4, List.replicate 2 ⟨0xFFFFFFFF, 0, 0, 0⟩⟩,
  ⟨0x100140, 0x100000000, 1, 0x100, 6, List.replicate 2 ⟨0xFFFFFFFF, 0, 0, 0⟩⟩,
  ⟨0x100148, 0x100000000, 1, 0x100, 6, List.replicate 2 ⟨0xFFFFFFFF, 0, 0, 0⟩⟩,
  ⟨0x100150, 0x100000000, 1, 0x100, 6, List.replicate 2 ⟨0xFFFFFFFF, 0, 0, 0⟩⟩,
  ⟨0x100158, 0x100000000, 1, 0x100, 6, [⟨0xFFFFFFFF, 0, 0, 0⟩]⟩,
  ⟨0x10015C, 0x100000000, 1, 0x100, 6, [⟨0, 0, 0, 0⟩]⟩,
  ⟨0x100160, 0x100000000, 1, 0x100, 6, List.replicate 4 ⟨0, 0, 0, 0⟩⟩,
  ⟨0x100800, 0x100000000, 1, 0x40, 4, [⟨0x173, 0, 0, 0⟩]⟩,
  ⟨0x100804, 0x100000000, 1, 0x40, 4, [⟨0, 0, 0, 0⟩]⟩,
  ⟨0x100808, 0x100000000, 1, 0x40, 4, [⟨0, 0xF00, 0, 0⟩]⟩,
  ⟨0x10080C, 0x100000000, 1, 0x40, 4, [⟨0xFFFFF, 0, 0, 1⟩]⟩]

/-- The register rows of SDL. -/
def regMapSDLB : List RegRow := [
  ⟨0x100810, 0x100000000, 1, 0x40, 4, [⟨0xFFFFFF00, 0, 0, 0⟩, ⟨0xFFFFFFFF, 0, 0, 0⟩, ⟨0xFFFFFFFF, 0, 0, 0⟩, ⟨0xFFFF, 0, 0, 0⟩]⟩,
  ⟨0x100820, 0x100000000, 1, 0x40, 4, List.replicate 2 ⟨0xFFFFFFFF, 0, 0, 0⟩⟩,
  ⟨0x100828, 0x100000000, 1, 0x40, 4, [⟨0, 0, 0, 0⟩]⟩,
  ⟨0x100C00, 0x100000000, 1, 0x100000000, 1, [⟨0x3FFF0FF7, 0, 0, 0x3E804F0⟩]⟩,
  ⟨0x100C04, 0x100000000, 1, 0x100000000, 1, [⟨0, 0xF00, 0, 0⟩]⟩,
  ⟨0x100C08, 0x100000000, 1, 0x100000000, 1, [⟨0xFF, 0, 0, 0xA⟩]⟩,
  ⟨0x100C10, 0x100000000, 1, 0x10, 2, List.replicate 4 ⟨0, 0, 0, 0⟩⟩,
  ⟨0x100C40, 0x100000000, 1, 0x100000000, 1, List.replicate 8 ⟨0, 0, 0, 0⟩⟩,
  ⟨0x100C60, 0x100000000, 1, 0x100000000, 1, [⟨0x3FF0001, 0, 0, 0⟩]⟩,
  ⟨0x100C68, 0x100000000, 1, 0x100000000, 1, List.replicate 2 ⟨0, 0, 0, 0⟩⟩,
  ⟨0x100C70, 0x100000000, 1, 0x100000000, 1, [⟨0, 0, 0, 0⟩]⟩,
  ⟨0x100C74, 0x100000000, 1, 0x100000000, 1, [⟨0, 0, 0, 0⟩]⟩]

/-- The register rows of SDL. -/
def regMapSDL : List RegRow := regMapSDLA ++ regMapSDLB

/-- The register rows of ANG. -/
def regMapANG : List RegRow := [
  ⟨0x200000, 0x100000000, 1, 0x100000000, 1, [⟨0, 0xF, 0, 0⟩]⟩,
  ⟨0x200040, 0x100000000, 1, 0x10, 4, [⟨0xFFFFFFFF, 0, 0, 0⟩]⟩,
  ⟨0x200044, 0x100000000, 1, 0x10, 4, [⟨0xFFFFFFFF, 0, 0, 0x4666399A⟩]⟩,
  ⟨0x200048, 0x100000000, 1, 0x10, 4, [⟨0, 0, 0, 0⟩]⟩,
  ⟨0x200100, 0x100000000, 1, 0x100, 4, [⟨0x3F330103, 0, 0, 0x26000000⟩]⟩,
  ⟨0x200104, 0x100000000, 1, 0x100, 4, [⟨0, 0x3E0, 0, 0⟩]⟩,
  ⟨0x200108, 0x100000000, 1, 0x100, 4, [⟨0xFFFF03FF, 0, 0, 0x3E80008⟩]⟩,
  ⟨0x20010C, 0x100000000, 1, 0x100, 4, [⟨0xFFFFFF, 0, 0, 0x168⟩]⟩,
  ⟨0x200110, 0x100000000, 1, 0x100, 4, [⟨0, 0, 0, 0⟩]⟩,
  ⟨0x200114, 0x100000000, 1, 0x100, 4, [⟨0xFFFF, 0, 0, 0⟩]⟩,
  ⟨0x200118, 0x100000000, 1, 0x100, 4, [⟨0, 0, 0, 0⟩]⟩,
  ⟨0x20011C, 0x100000000, 1, 0x100, 4, [⟨0xFFFFFFFF, 0, 0, 0x3E80010⟩]⟩,
  ⟨0x200120, 0x100000000, 1, 0x100, 4, [⟨0, 0, 0, 0⟩]⟩,
  ⟨0x200124, 0x100000000, 1, 0x100, 4, [⟨0, 0, 0, 0⟩]⟩,
  ⟨0x200128, 0x100000000, 1, 0x100, 4, [⟨0, 0, 0, 0⟩]⟩,
  ⟨0x200130, 0x100000000, 1, 0x100, 4, List.replicate 2 ⟨0, 0, 0, 0⟩⟩,
  ⟨0x200138, 0x100000000, 1, 0x100, 4, List.replicate 2 ⟨0, 0, 0, 0⟩⟩]

/-- The register rows of BLV. -/
def regMapBLVA : List RegRow := [
  ⟨0x300000, 0x100000000, 1, 0x100000000, 1, [⟨0xF, 0, 0, 0⟩]⟩,
  ⟨0x300004, 0x100000000, 1, 0x100000000, 1, [⟨0, 0xFF, 0, 0⟩]⟩,
  ⟨0x300008, 0x100000000, 1, 0x100000000, 1, [⟨0, 0, 0, 0⟩]⟩,
  ⟨0x30000C, 0x100000000, 1, 0x100000000, 1, [⟨0xFFFFFFFF, 0, 0, 0x100⟩]⟩,
  ⟨0x300010, 0x100000000, 1, 0x100000000, 1, [⟨0xFFFF, 0, 0, 0x7D0⟩]⟩,
  ⟨0x300014, 0x100000000, 1, 0x100000000, 1, [⟨0xFFFFFFFF, 0, 0, 0⟩]⟩,
  ⟨0x300018, 0x100000000, 1, 0x100000000, 1, [⟨0xFFFF0FFF, 0, 0, 0x5A0020⟩]⟩,
  ⟨0x30001C, 0x100000000, 1, 0x100000000, 1, [⟨0xFFFFFF, 0, 0, 0x101000⟩]⟩,
  ⟨0x300020, 0x100000000, 1, 0x100000000, 1, [⟨0xFFFFFFFF, 0, 0, 0⟩]⟩,
  ⟨0x300024, 0x100000000, 1, 0x100000000, 1, [⟨0xFFF, 0, 0, 0⟩]⟩,
  ⟨0x300028, 0x100000000, 1, 0x100000000, 1, [⟨0xFF03, 0, 0, 0x800⟩]⟩,
  ⟨0x30002C, 0x100000000, 1, 0x100000000, 1, [⟨0, 0, 0, 0⟩]⟩,
  ⟨0x300030, 0x100000000, 1, 4, 2, [⟨0x83FF00FF, 0, 0, 0⟩]⟩,
  ⟨0x300040, 0x100000000, 1, 8, 4, [⟨0xC0FF00FF, 0, 0, 0⟩]⟩,
  ⟨0x300044, 0x100000000, 1, 8, 4, [⟨0xFFFF, 0, 0, 0⟩]⟩,
  ⟨0x300060, 0x100000000, 1, 0x100000000, 1, List.replicate 6 ⟨0xFFFFFFFF, 0, 0, 0xFFFFFFFF⟩⟩,
  ⟨0x300100, 0x100000000, 1, 0x100000000, 1, [⟨0, 0, 0, 0⟩]⟩,
  ⟨0x300104, 0x100000000, 1, 0x100000000, 1, [⟨0, 0, 0, 0⟩]⟩,
  ⟨0x300108, 0x100000000, 1, 0x100000000, 1, [⟨0, 0, 0, 0⟩]⟩,
  ⟨0x30010C, 0x100000000, 1, 0x100000000, 1, [⟨0, 0, 0, 0⟩]⟩]

/-- The register rows of BLV. -/
def regMapBLVB : List RegRow := [
  ⟨0x300110, 0x100000000, 1, 0x100000000, 1, [⟨0, 0, 0, 0⟩]⟩,
  ⟨0x300114, 0x100000000, 1, 0x100000000, 1, [⟨0, 0, 0, 0⟩]⟩,
  ⟨0x300118, 0x100000000, 1, 0x100000000, 1, [⟨0, 0, 0, 0⟩]⟩,
  ⟨0x30011C, 0x100000000, 1, 0x100000000, 1, [⟨0, 0, 0, 0⟩]⟩,
  ⟨0x300120, 0x100000000, 1, 0x100000000, 1, [⟨0, 0, 0, 0⟩]⟩,
  ⟨0x300124, 0x100000000, 1, 0x100000000, 1, [⟨0, 0, 0, 0⟩]⟩,
  ⟨0x300128, 0x100000000, 1, 0x100000000, 1, [⟨0, 0, 0, 0⟩]⟩,
  ⟨0x30012C, 0x100000000, 1, 0x100000000, 1, [⟨0, 0, 0, 0⟩]⟩,
  ⟨0x300130, 0x100000000, 1, 0x100000000, 1, [⟨0, 0, 0, 0⟩]⟩,
  ⟨0x300134, 0x100000000, 1, 0x100000000, 1, [⟨0, 0, 0, 0⟩]⟩,
  ⟨0x300138, 0x100000000, 1, 0x100000000, 1, [⟨0, 0, 0, 0⟩]⟩,
  ⟨0x300400, 0x100000000, 1, 0x10, 16, List.replicate 3 ⟨0, 0, 0, 0⟩⟩,
  ⟨0x300800, 0x100000000, 1, 0x10, 8, List.replicate 3 ⟨0, 0, 0, 0⟩⟩,
  ⟨0x301000, 0x100000000, 1, 0x10, 192, List.replicate 4 ⟨0, 0, 0, 0⟩⟩]

/-- The register rows of BLV. -/
def regMapBLV : List RegRow := regMapBLVA ++ regMapBLVB

/-- The register rows of BND. -/
def regMapBND : List RegRow := [
  ⟨0x400000, 0x100000000, 1, 0x100000000, 1, [⟨0xFF1F, 0, 0, 4⟩]⟩,
  ⟨0x400004, 0x100000000, 1, 0x100000000, 1, [⟨0, 0x1F, 0, 0⟩]⟩,
  ⟨0x400008, 0x100000000, 1, 0x100000000, 1, List.replicate 2 ⟨0, 0, 0, 0⟩⟩,
  ⟨0x400010, 0x100000000, 1, 0x100000000, 1, List.replicate 6 ⟨0xFFFFFFFF, 0, 0, 0⟩⟩,
  ⟨0x400040, 0x100000000, 1, 0x100000000, 1, [⟨0, 0, 0, 0⟩]⟩,
  ⟨0x400044, 0x100000000, 1, 0x100000000, 1, [⟨0, 0, 0, 0⟩]⟩,
  ⟨0x400048, 0x100000000, 1, 0x100000000, 1, [⟨0, 0, 0, 0⟩]⟩,
  ⟨0x40004C, 0x100000000, 1, 0x100000000, 1, [⟨0, 0, 0, 0⟩]⟩,
  ⟨0x400050, 0x100000000, 1, 0x100000000, 1, [⟨0, 0, 0, 0⟩]⟩,
  ⟨0x400054, 0x100000000, 1, 0x100000000, 1, [⟨0, 0, 0, 0⟩]⟩,
  ⟨0x400058, 0x100000000, 1, 0x100000000, 1, [⟨0, 0, 0, 0⟩]⟩,
  ⟨0x40005C, 0x100000000, 1, 0x100000000, 1, [⟨0, 0, 0, 0⟩]⟩,
  ⟨0x400060, 0x100000000, 1, 0x100000000, 1, [⟨0, 0, 0, 0⟩]⟩,
  ⟨0x400064, 0x100000000, 1, 0x100000000, 1, [⟨0, 0, 0, 0⟩]⟩]

/-- The register rows of GTH. -/
def regMapGTHA : List RegRow := [
  ⟨0x500000, 0x100000000, 1, 0x100000000, 1, [⟨0x3FF800FF, 0, 0x3FF80000, 0xF0⟩]⟩,
  ⟨0x500004, 0x100000000, 1, 0x100000000, 1, [⟨0, 0xFE00000, 0, 0⟩]⟩,
  ⟨0x500008, 0x100000000, 1, 0x100000000, 1, [⟨0, 0, 0, 0⟩]⟩,
  ⟨0x50000C, 0x100000000, 1, 0x100000000, 1, [⟨0xFFFF, 0, 0, 0x320A⟩]⟩,
  ⟨0x500010, 0x100000000, 1, 0x100000000, 1, List.replicate 2 ⟨0, 0, 0, 0⟩⟩,
  ⟨0x500018, 0x100000000, 1, 0x100000000, 1, List.replicate 2 ⟨0, 0, 0, 0⟩⟩,
  ⟨0x500020, 0x100000000, 1, 0x100000000, 1, List.replicate 2 ⟨0xFFFFFFFF, 0, 0, 0⟩⟩,
  ⟨0x500028, 0x100000000, 1, 0x100000000, 1, [⟨0, 0, 0, 0⟩]⟩,
  ⟨0x500040, 0x100000000, 1, 0x100000000, 1, [⟨0xFFFFFFFF, 0, 0, 0⟩, ⟨0xFFFFFFFF, 0, 0, 0⟩, ⟨0xFFFFFFFF, 0, 0, 0⟩, ⟨0xFFFFFFFF, 0, 0, 0⟩, ⟨0xFFFFFFFF, 0, 0, 0⟩, ⟨0xFFFFFFFF, 0, 0, 0⟩, ⟨0xFFFFFFFF, 0, 0, 0⟩, ⟨0xFFFFFFFF, 0, 0, 0x80000000⟩]⟩,
  ⟨0x500080, 0x100000000, 1, 0x100000000, 1, [⟨0, 0, 0, 0⟩]⟩,
  ⟨0x500084, 0x100000000, 1, 0x100000000, 1, [⟨0, 0, 0, 0⟩]⟩,
  ⟨0x500088, 0x100000000, 1, 0x100000000, 1, [⟨0, 0, 0, 0⟩]⟩,
  ⟨0x50008C, 0x100000000, 1, 0x100000000, 1, [⟨0, 0, 0, 0⟩]⟩,
  ⟨0x500090, 0x100000000, 1, 0x100000000, 1, [⟨0, 0, 0, 0⟩]⟩,
  ⟨0x500094, 0x100000000, 1, 0x100000000, 1, [⟨0, 0, 0, 0⟩]⟩,
  ⟨0x500098, 0x100000000, 1, 0x100000000, 1, [⟨0, 0, 0, 0⟩]⟩,
  ⟨0x50009C, 0x100000000, 1, 0x100000000, 1, [⟨0, 0, 0, 0⟩]⟩,
  ⟨0x5000A0, 0x100000000, 1, 0x100000000, 1, [⟨0, 0, 0, 0⟩]⟩,
  ⟨0x5000A4, 0x100000000, 1, 0x100000000, 1, [⟨0, 0, 0, 0⟩]⟩,
  ⟨0x5000A8, 0x100000000, 1, 0x100000000, 1, [⟨0, 0, 0, 0⟩]⟩]

/-- The register rows of GTH. -/
def regMapGTHB : List RegRow := [
  ⟨0x5000AC, 0x100000000, 1, 0x100000000, 1, [⟨0, 0, 0, 0⟩]⟩,
  ⟨0x5000B0, 0x100000000, 1, 0x100000000, 1, [⟨0, 0, 0, 0⟩]⟩,
  ⟨0x500100, 0x100000000, 1, 8, 12, List.replicate 2 ⟨0, 0, 0, 0⟩⟩,
  ⟨0x501000, 0x1000, 2, 4, 1024, [⟨0, 0, 0, 0⟩]⟩,
  ⟨0x503000, 0x1000, 2, 4, 1024, [⟨0x1FFF, 0, 0, 0⟩]⟩,
  ⟨0x505000, 0x100000000, 1, 4, 256, [⟨0, 0, 0, 0⟩]⟩,
  ⟨0x505400, 0x100000000, 1, 4, 256, [⟨0x7F7F, 0, 0, 0⟩]⟩]

/-- The register rows of GTH. -/
def regMapGTH : List RegRow := regMapGTHA ++ regMapGTHB

/-- The register rows of ORG. -/
def regMapORG : List RegRow := [
  ⟨0x600000, 0x100000000, 1, 0x100000000, 1, [⟨0x1FFF, 0, 0, 0x200⟩]⟩,
  ⟨0x600004, 0x100000000, 1, 0x100000000, 1, [⟨0, 0x1F, 0, 0⟩]⟩,
  ⟨0x600008, 0x100000000, 1, 0x100000000, 1, [⟨0, 0, 0, 0x20014C0⟩]⟩,
  ⟨0x60000C, 0x100000000, 1, 0x100000000, 1, [⟨0, 0, 0, 0⟩]⟩,
  ⟨0x600010, 0x100000000, 1, 0x100000000, 1, [⟨0, 0, 0, 0⟩]⟩,
  ⟨0x600014, 0x100000000, 1, 0x100000000, 1, [⟨0, 0, 0, 0⟩]⟩,
  ⟨0x600018, 0x100000000, 1, 0x100000000, 1, [⟨0, 0, 0, 0⟩]⟩,
  ⟨0x60001C, 0x100000000, 1, 0x100000000, 1, [⟨0, 0, 0, 0⟩]⟩,
  ⟨0x600020, 0x100000000, 1, 0x100000000, 1, [⟨0, 0, 0, 0⟩]⟩,
  ⟨0x601000, 0x100000000, 1, 8, 192, [⟨0x1FFF1FFF, 0, 0, 0x4000002⟩, ⟨0, 0, 0, 0⟩]⟩,
  ⟨0x601600, 0x100000000, 1, 8, 12, [⟨0x1FFF1FFF, 0, 0, 0x4000040⟩, ⟨0, 0, 0, 0⟩]⟩,
  ⟨0x601660, 0x100000000, 1, 8, 64, [⟨0x1FFF1FFF, 0, 0, 0x4000010⟩, ⟨0, 0, 0, 0⟩]⟩,
  ⟨0x601860, 0x100000000, 1, 8, 16, [⟨0x1FFF1FFF, 0, 0, 0x4000008⟩, ⟨0, 0, 0, 0⟩]⟩,
  ⟨0x6018E0, 0x100000000, 1, 8, 2, [⟨0x1FFF1FFF, 0, 0, 0x4000020⟩, ⟨0, 0, 0, 0⟩]⟩,
  ⟨0x6018F0, 0x100000000, 1, 8, 2, [⟨0x1FFF1FFF, 0, 0, 0x4000000⟩, ⟨0, 0, 0, 0⟩]⟩,
  ⟨0x602000, 0x100000000, 1, 4, 288, [⟨0, 0, 0, 0⟩]⟩]

/-- The register rows of HHA. -/
def regMapHHAA : List RegRow := [
  ⟨0x700000, 0x100000000, 1, 0x100000000, 1, [⟨0x1FF, 0, 0, 0⟩]⟩,
  ⟨0x700004, 0x100000000, 1, 0x100000000, 1, [⟨0, 0x180000, 0, 0x10100⟩]⟩,
  ⟨0x700008, 0x100000000, 1, 0x100000000, 1, [⟨0, 0, 0, 0⟩]⟩,
  ⟨0x70000C, 0x100000000, 1, 0x100000000, 1, [⟨0xFFFFFFFF, 0, 0, 0x320028⟩]⟩,
  ⟨0x700010, 0x100000000, 1, 0x100000000, 1, [⟨0xFFFFFFFF, 0, 0, 0x6433214⟩]⟩,
  ⟨0x700014, 0x100000000, 1, 0x100000000, 1, [⟨0xFFFFFFFF, 0, 0, 0⟩]⟩,
  ⟨0x700018, 0x100000000, 1, 0x100000000, 1, [⟨0x303FF, 0, 0, 0⟩]⟩,
  ⟨0x70001C, 0x100000000, 1, 0x100000000, 1, [⟨0x7FFFFF, 0, 0, 0⟩]⟩,
  ⟨0x700020, 0x100000000, 1, 0x100000000, 1, [⟨0xFFFFF, 0, 0, 0x30064⟩]⟩,
  ⟨0x700024, 0x100000000, 1, 0x100000000, 1, [⟨0x7FFFFF, 0, 0, 0⟩]⟩,
  ⟨0x700028, 0x100000000, 1, 0x100000000, 1, [⟨0x7FFFFF, 0, 0, 0⟩]⟩,
  ⟨0x70002C, 0x100000000, 1, 0x100000000, 1, [⟨0xFF00FF, 0, 0, 0xA0002⟩]⟩,
  ⟨0x700030, 0x100000000, 1, 0x100000000, 1, [⟨0xFFFFFFFF, 0, 0, 0⟩]⟩,
  ⟨0x700040, 0x100000000, 1, 4, 8, [⟨0x80FFFFFF, 0, 0, 0⟩]⟩,
  ⟨0x700060, 0x100000000, 1, 0x100000000, 1, List.replicate 6 ⟨0xFFFFFFFF, 0, 0, 0⟩⟩,
  ⟨0x700100, 0x100000000, 1, 0x100000000, 1, [⟨0, 0, 0, 0⟩]⟩,
  ⟨0x700104, 0x100000000, 1, 0x100000000, 1, [⟨0, 0, 0, 0⟩]⟩,
  ⟨0x700108, 0x100000000, 1, 0x100000000, 1, [⟨0, 0, 0, 0⟩]⟩,
  ⟨0x70010C, 0x100000000, 1, 0x100000000, 1, [⟨0, 0, 0, 0⟩]⟩,
  ⟨0x700110, 0x100000000, 1, 0x100000000, 1, [⟨0, 0, 0, 0⟩]⟩]

/-- The register rows of HHA. -/
def regMapHHAB : List RegRow := [
  ⟨0x700114, 0x100000000, 1, 0x100000000, 1, [⟨0, 0, 0, 0⟩]⟩,
  ⟨0x700118, 0x100000000, 1, 0x100000000, 1, [⟨0, 0, 0, 0⟩]⟩,
  ⟨0x700200, 0x100000000, 1, 4, 8, [⟨0, 0, 0, 0⟩]⟩,
  ⟨0x701000, 0x100000000, 1, 4, 192, [⟨0, 0, 0, 0⟩]⟩]

/-- The register rows of HHA. -/
def regMapHHA : List RegRow := regMapHHAA ++ regMapHHAB

/-- The register rows of GLS. -/
def regMapGLS : List RegRow := [
  ⟨0x800000, 0x100000000, 1, 0x100000000, 1, [⟨0x1FF00, 0, 0, 0⟩]⟩,
  ⟨0x800004, 0x100000000, 1, 0x100000000, 1, [⟨0, 2, 0, 0⟩]⟩,
  ⟨0x800008, 0x100000000, 1, 0x100000000, 1, [⟨0x3FFF, 0, 0, 0⟩]⟩,
  ⟨0x800100, 0x100000000, 1, 0x40, 16, [⟨0xFFFF1F77, 0, 0, 0⟩]⟩,
  ⟨0x800104, 0x100000000, 1, 0x40, 16, [⟨0, 0, 0, 0⟩]⟩,
  ⟨0x800108, 0x100000000, 1, 0x40, 16, [⟨0, 0, 0, 0⟩]⟩,
  ⟨0x80010C, 0x100000000, 1, 0x40, 16, [⟨0xFFFFFFFF, 0, 0, 0xFF00FF00⟩]⟩,
  ⟨0x800110, 0x100000000, 1, 0x40, 16, [⟨0xFFF, 0, 0, 0x3C0⟩]⟩,
  ⟨0x800114, 0x100000000, 1, 0x40, 16, [⟨0xFFFFFFFF, 0, 0, 0⟩]⟩,
  ⟨0x800118, 0x100000000, 1, 0x40, 16, [⟨0xFFFFFFFF, 0, 0, 0⟩]⟩,
  ⟨0x80011C, 0x100000000, 1, 0x40, 16, [⟨0xFFFFFFFF, 0, 0, 0⟩]⟩,
  ⟨0x800120, 0x100000000, 1, 0x40, 16, [⟨0x1FFFFF, 0, 0, 0⟩]⟩,
  ⟨0x800124, 0x100000000, 1, 0x40, 16, [⟨0xFFFFFFFF, 0, 0, 1⟩]⟩,
  ⟨0x800128, 0x100000000, 1, 0x40, 16, [⟨0xFFFFFF, 0, 0, 0⟩]⟩,
  ⟨0x80012C, 0x100000000, 1, 0x40, 16, [⟨0xFFFFFF, 0, 0, 0⟩]⟩,
  ⟨0x800130, 0x100000000, 1, 0x40, 16, [⟨0, 0, 0, 0⟩]⟩,
  ⟨0x800134, 0x100000000, 1, 0x40, 16, [⟨0, 0, 0, 0⟩]⟩,
  ⟨0x800138, 0x100000000, 1, 0x40, 16, [⟨0, 0, 0, 0⟩]⟩,
  ⟨0x80013C, 0x100000000, 1, 0x40, 16, [⟨0, 0, 0, 0⟩]⟩]

/-- The register rows of FLT. -/
def regMapFLT : List RegRow := [
  ⟨0x900000, 0x100000000, 1, 0x100000000, 1, [⟨0x1FF, 0, 0, 0xA⟩]⟩,
  ⟨0x900004, 0x100000000, 1, 0x100000000, 1, [⟨0, 0x700, 0, 0⟩]⟩,
  ⟨0x900008, 0x100000000, 1, 0x100000000, 1, [⟨0, 0, 0, 0⟩]⟩,
  ⟨0x90000C, 0x100000000, 1, 0x100000000, 1, [⟨0xFF03FF, 0, 0, 0⟩]⟩,
  ⟨0x900010, 0x100000000, 1, 0x100000000, 1, [⟨0, 0, 0, 0⟩]⟩,
  ⟨0x900014, 0x100000000, 1, 0x100000000, 1, [⟨0, 0, 0, 0⟩]⟩,
  ⟨0x900020, 0x100000000, 1, 0x100000000, 1, List.replicate 6 ⟨0, 0, 0, 0⟩⟩,
  ⟨0x900040, 0x100000000, 1, 0x100000000, 1, [⟨7, 0, 0, 0⟩]⟩,
  ⟨0x900048, 0x100000000, 1, 8, 4, List.replicate 2 ⟨0xFFFFFFFF, 0, 0, 0⟩⟩,
  ⟨0x980000, 0x100000000, 1, 0x8000, 16, [⟨0x3FF, 0, 0, 0⟩]⟩,
  ⟨0x980004, 0x100000000, 1, 0x8000, 16, [⟨0, 0, 0, 0⟩]⟩,
  ⟨0x980008, 0x100000000, 1, 0x8000, 16, [⟨0x87FFFFFF, 0, 0, 0⟩]⟩,
  ⟨0x980010, 0x100000000, 1, 0x8000, 16, [⟨0, 0, 0, 0⟩]⟩,
  ⟨0x980014, 0x100000000, 1, 0x8000, 16, [⟨0, 0, 0, 0⟩]⟩,
  ⟨0x980018, 0x100000000, 1, 0x8000, 16, [⟨0, 0, 0, 0⟩]⟩,
  ⟨0x98001C, 0x100000000, 1, 0x8000, 16, [⟨0, 0, 0, 0⟩]⟩,
  ⟨0x980100, 0x8000, 16, 4, 32, [⟨0xFFFFFF, 0, 0, 0⟩]⟩,
  ⟨0x980400, 0x8000, 16, 4, 192, [⟨0, 7, 0, 0⟩]⟩,
  ⟨0x984000, 0x8000, 16, 0x10, 1024, List.replicate 4 ⟨0, 0, 0, 0⟩⟩]

/-- The register rows of ETH. -/
def regMapETH : List RegRow := [
  ⟨0xA00000, 0x100000000, 1, 0x1000, 2, [⟨7, 0, 0, 0⟩]⟩,
  ⟨0xA00004, 0x100000000, 1, 0x1000, 2, [⟨0, 0x700, 0, 0⟩]⟩,
  ⟨0xA00008, 0x100000000, 1, 0x1000, 2, [⟨0xFFFF, 0, 0xFFFF, 0⟩]⟩,
  ⟨0xA0000C, 0x100000000, 1, 0x1000, 2, [⟨0xFFFF, 0, 0xFFFF, 0⟩]⟩,
  ⟨0xA00010, 0x100000000, 1, 0x1000, 2, List.replicate 4 ⟨0xFFFFFFFF, 0, 0, 0⟩⟩,
  ⟨0xA00020, 0x100000000, 1, 0x1000, 2, List.replicate 4 ⟨0, 0, 0, 0⟩⟩,
  ⟨0xA00030, 0x100000000, 1, 0x1000, 2, List.replicate 4 ⟨0, 0, 0, 0⟩⟩,
  ⟨0xA00040, 0x100000000, 1, 0x1000, 2, [⟨0, 0, 0, 0⟩]⟩,
  ⟨0xA00044, 0x100000000, 1, 0x1000, 2, [⟨0, 0, 0, 0⟩]⟩,
  ⟨0xA02000, 0x100000000, 1, 0x100000000, 1, [⟨0x7F9FFFFF, 0, 0, 0⟩]⟩]

/-- The register rows of PCI. -/
def regMapPCI : List RegRow := [
  ⟨0xB00000, 0x100000000, 1, 0x100000000, 1, [⟨0, 0x200, 0, 0⟩]⟩,
  ⟨0xB00004, 0x100000000, 1, 0x100000000, 1, [⟨0, 0, 0, 0⟩]⟩,
  ⟨0xB00008, 0x100000000, 1, 0x100000000, 1, [⟨0, 0, 0, 0⟩]⟩,
  ⟨0xB0000C, 0x100000000, 1, 0x100000000, 1, [⟨0, 0, 0, 0⟩]⟩,
  ⟨0xB00010, 0x100000000, 1, 0x100000000, 1, [⟨0, 0, 0, 0⟩]⟩,
  ⟨0xB00014, 0x100000000, 1, 0x100000000, 1, [⟨0, 0, 0, 0⟩]⟩,
  ⟨0xB00100, 0x100000000, 1, 0x100000000, 1, [⟨1, 0, 0, 0⟩]⟩,
  ⟨0xB00104, 0x100000000, 1, 0x100000000, 1, [⟨0, 0, 0, 0⟩]⟩,
  ⟨0xB00108, 0x100000000, 1, 0x100000000, 1, [⟨0xFFFFFFFF, 0, 0, 0⟩]⟩,
  ⟨0xB0010C, 0x100000000, 1, 0x100000000, 1, [⟨0, 2, 0, 0⟩]⟩,
  ⟨0xB00200, 0x100000000, 1, 4, 64, [⟨0xFFFFFFFF, 0, 0, 0⟩]⟩,
  ⟨0xB10000, 0x100000000, 1, 4, 8192, [⟨0xFFFFFFFF, 0, 0, 0⟩]⟩,
  ⟨0xB18000, 0x100000000, 1, 4, 64, [⟨0, 0, 0, 0⟩]⟩]

/-- The register rows of LDD. -/
def regMapLDD : List RegRow := [
  ⟨0xC00000, 0x100000000, 1, 0x100000000, 1, [⟨3, 0, 0, 0⟩]⟩,
  ⟨0xC00004, 0x100000000, 1, 0x100000000, 1, [⟨0, 2, 0, 0⟩]⟩]

/-- The register rows of the cell lanes CL0 to CL191 (R225, R271). -/
def regMapCLA : List RegRow := [
  ⟨0x1000000, 0x100000000, 1, 0x10000, 192, [⟨0xFFFF003F, 0, 0, 0xFF40000C⟩]⟩,
  ⟨0x1000004, 0x100000000, 1, 0x10000, 192, [⟨0, 0x1F0000, 0, 0⟩]⟩,
  ⟨0x1000008, 0x100000000, 1, 0x10000, 192, [⟨0, 0, 0, 0⟩]⟩,
  ⟨0x100000C, 0x100000000, 1, 0x10000, 192, [⟨0, 0, 0, 0⟩]⟩,
  ⟨0x1000010, 0x100000000, 1, 0x10000, 192, [⟨0x7F, 0, 0, 0⟩]⟩,
  ⟨0x1000014, 0x100000000, 1, 0x10000, 192, [⟨0x1F07, 0, 0, 0⟩]⟩,
  ⟨0x1000018, 0x100000000, 1, 0x10000, 192, List.replicate 2 ⟨0xFFFFFFFF, 0, 0, 0⟩⟩,
  ⟨0x1000020, 0x100000000, 1, 0x10000, 192, List.replicate 2 ⟨0, 0, 0, 0⟩⟩,
  ⟨0x1000028, 0x100000000, 1, 0x10000, 192, [⟨0, 0, 0, 0⟩]⟩,
  ⟨0x100002C, 0x100000000, 1, 0x10000, 192, [⟨0, 0, 0, 0⟩]⟩,
  ⟨0x1000030, 0x100000000, 1, 0x10000, 192, [⟨0, 0, 0, 0⟩]⟩,
  ⟨0x1000034, 0x100000000, 1, 0x10000, 192, [⟨0, 0, 0, 0⟩]⟩,
  ⟨0x1000038, 0x100000000, 1, 0x10000, 192, [⟨0, 0, 0, 0⟩]⟩,
  ⟨0x100003C, 0x100000000, 1, 0x10000, 192, [⟨0, 0, 0, 0⟩]⟩,
  ⟨0x1000040, 0x100000000, 1, 0x10000, 192, [⟨0, 0, 0, 0⟩]⟩,
  ⟨0x1000044, 0x100000000, 1, 0x10000, 192, [⟨0, 0, 0, 0⟩]⟩,
  ⟨0x1000048, 0x100000000, 1, 0x10000, 192, [⟨0, 0, 0, 0⟩]⟩,
  ⟨0x1000050, 0x100000000, 1, 0x10000, 192, List.replicate 2 ⟨0xFFFFFFFF, 0, 0, 0⟩⟩,
  ⟨0x1000058, 0x100000000, 1, 0x10000, 192, List.replicate 2 ⟨0, 0, 0, 0⟩⟩,
  ⟨0x1000080, 0x100000000, 1, 0x10000, 192, [⟨0x8007FFFF, 0, 0, 0x80040501⟩]⟩]

/-- The register rows of the cell lanes CL0 to CL191 (R225, R271). -/
def regMapCLB : List RegRow := [
  ⟨0x1000084, 0x100000000, 1, 0x10000, 192, [⟨0, 0, 0, 0⟩]⟩,
  ⟨0x1000088, 0x100000000, 1, 0x10000, 192, [⟨0, 0, 0, 0⟩]⟩,
  ⟨0x100008C, 0x100000000, 1, 0x10000, 192, [⟨0, 0, 0, 0⟩]⟩,
  ⟨0x1000090, 0x100000000, 1, 0x10000, 192, [⟨0xFFFFFFFF, 0, 0, 0⟩]⟩,
  ⟨0x1000094, 0x100000000, 1, 0x10000, 192, [⟨0xFFFFFFFF, 0, 0xFFFFFFFF, 0⟩]⟩,
  ⟨0x1000098, 0x100000000, 1, 0x10000, 192, [⟨0, 0, 0, 0⟩]⟩,
  ⟨0x100009C, 0x100000000, 1, 0x10000, 192, [⟨0, 0, 0, 0⟩]⟩,
  ⟨0x10000A0, 0x100000000, 1, 0x10000, 192, [⟨0, 0, 0, 0⟩]⟩]

/-- The register rows of the cell lanes CL0 to CL191 (R225, R271). -/
def regMapCL : List RegRow := regMapCLA ++ regMapCLB

/-- The register rows of the fabric lanes (R225, R271). -/
def regMapFabA : List RegRow := [
  ⟨0x1C00000, 0x100000000, 1, 0x10000, 12, [⟨0xFFFF0035, 0, 0, 0xFF400004⟩]⟩,
  ⟨0x1C00004, 0x100000000, 1, 0x10000, 12, [⟨0, 0x1F0000, 0, 0⟩]⟩,
  ⟨0x1C00008, 0x100000000, 1, 0x10000, 12, [⟨0, 0, 0, 0⟩]⟩,
  ⟨0x1C0000C, 0x100000000, 1, 0x10000, 12, [⟨0, 0, 0, 0⟩]⟩,
  ⟨0x1C00010, 0x100000000, 1, 0x10000, 12, [⟨0x7F, 0, 0, 0⟩]⟩,
  ⟨0x1C00014, 0x100000000, 1, 0x10000, 12, [⟨0x1F07, 0, 0, 0⟩]⟩,
  ⟨0x1C00018, 0x100000000, 1, 0x10000, 12, List.replicate 2 ⟨0xFFFFFFFF, 0, 0, 0⟩⟩,
  ⟨0x1C00020, 0x100000000, 1, 0x10000, 12, List.replicate 2 ⟨0, 0, 0, 0⟩⟩,
  ⟨0x1C00028, 0x100000000, 1, 0x10000, 12, [⟨0, 0, 0, 0⟩]⟩,
  ⟨0x1C0002C, 0x100000000, 1, 0x10000, 12, [⟨0, 0, 0, 0⟩]⟩,
  ⟨0x1C00030, 0x100000000, 1, 0x10000, 12, [⟨0, 0, 0, 0⟩]⟩,
  ⟨0x1C00034, 0x100000000, 1, 0x10000, 12, [⟨0, 0, 0, 0⟩]⟩,
  ⟨0x1C00038, 0x100000000, 1, 0x10000, 12, [⟨0, 0, 0, 0⟩]⟩,
  ⟨0x1C0003C, 0x100000000, 1, 0x10000, 12, [⟨0, 0, 0, 0⟩]⟩,
  ⟨0x1C00040, 0x100000000, 1, 0x10000, 12, [⟨0, 0, 0, 0⟩]⟩,
  ⟨0x1C00044, 0x100000000, 1, 0x10000, 12, [⟨0, 0, 0, 0⟩]⟩,
  ⟨0x1C00048, 0x100000000, 1, 0x10000, 12, [⟨0, 0, 0, 0⟩]⟩,
  ⟨0x1C00080, 0x100000000, 1, 0x10000, 12, [⟨0x8007FFFF, 0, 0, 0x80040501⟩]⟩,
  ⟨0x1C00084, 0x100000000, 1, 0x10000, 12, [⟨0, 0, 0, 0⟩]⟩,
  ⟨0x1C00088, 0x100000000, 1, 0x10000, 12, [⟨0, 0, 0, 0⟩]⟩]

/-- The register rows of the fabric lanes (R225, R271). -/
def regMapFabB : List RegRow := [
  ⟨0x1C0008C, 0x100000000, 1, 0x10000, 12, [⟨0, 0, 0, 0⟩]⟩,
  ⟨0x1C00090, 0x100000000, 1, 0x10000, 12, [⟨0xFFFFFFFF, 0, 0, 0⟩]⟩,
  ⟨0x1C00094, 0x100000000, 1, 0x10000, 12, [⟨0xFFFFFFFF, 0, 0xFFFFFFFF, 0⟩]⟩,
  ⟨0x1C00098, 0x100000000, 1, 0x10000, 12, [⟨0, 0, 0, 0⟩]⟩,
  ⟨0x1C0009C, 0x100000000, 1, 0x10000, 12, [⟨0, 0, 0, 0⟩]⟩,
  ⟨0x1C000A0, 0x100000000, 1, 0x10000, 12, [⟨0, 0, 0, 0⟩]⟩]

/-- The register rows of the fabric lanes (R225, R271). -/
def regMapFab : List RegRow := regMapFabA ++ regMapFabB

/-- The register rows of the Kiosk control blocks (Table 7-13). KGREG is the register file itself. -/
def regMapKiosk : List RegRow := [
  ⟨0x2000000, 0x100000000, 1, 0x10000, 16, [⟨0x11, 0, 0, 0⟩]⟩,
  ⟨0x2000004, 0x100000000, 1, 0x10000, 16, [⟨0, 0x7000000, 0, 0x502⟩]⟩,
  ⟨0x2000008, 0x100000000, 1, 0x10000, 16, [⟨0xFFFFFFFF, 0, 0, 0⟩]⟩,
  ⟨0x200000C, 0x100000000, 1, 0x10000, 16, [⟨0xFFFFFFFF, 0, 0, 0⟩]⟩,
  ⟨0x2000010, 0x100000000, 1, 0x10000, 16, [⟨0, 0, 0, 0⟩]⟩,
  ⟨0x2000014, 0x100000000, 1, 0x10000, 16, [⟨0, 0, 0, 0⟩]⟩,
  ⟨0x2000018, 0x100000000, 1, 0x10000, 16, [⟨0, 0, 0, 0⟩]⟩,
  ⟨0x200001C, 0x100000000, 1, 0x10000, 16, [⟨0, 0, 0, 0⟩]⟩]

end Sys2Proof.Machine
end

