-- ==== Sys2Proof/Machine/State.lean ====
section
/-!
DEFINITION. The state of the chipset: one FH-192 hub and one FC-4 cell, as plain data. Every architectural register lives
in `Chip.regs` under its address (an unlisted address reads as its reset value); what the spec gives the parts beside
their registers is in the named structures below; `State.pending` is the queue of the commands that wait.
-/
namespace Sys2Proof.Machine

/-- The rows of the register map that can hold word address `a` (Table 0-5). -/
def regRows (a : Nat) : List RegRow :=
  if a < 0x1000000 then
    match a / 0x100000 with
    | 0 => regMapGLB | 1 => regMapSDL | 2 => regMapANG | 3 => regMapBLV | 4 => regMapBND | 5 => regMapGTH
    | 6 => regMapORG | 7 => regMapHHA | 8 => regMapGLS | 9 => regMapFLT | 10 => regMapETH | 11 => regMapPCI
    | 12 => regMapLDD | _ => []
  else if a < 0x1C00000 then regMapCL
  else if a < 0x2000000 then regMapFab
  else if a < 0x2100000 then regMapKiosk
  else if a < 0x40000000 then []
  else
    match (a - 0x40000000) / 0x1000 with
    | 0 => regMapCGL ++ regMapShed | 1 => regMapCSD | 2 => regMapLDG | 3 => regMapPWM | 4 => regMapADC
    | 5 => regMapTRL | 6 => regMapCFL | 7 => regMapCHH | 8 => regMapCGS | 9 => regMapCLN ++ regMapLanes
    | 10 => regMapLOD | _ => []

/-- The register of word address `a`: the address of its first word, the number of the word, and its words. -/
def regAt (a : Nat) : Option (Nat × Nat × List RegWord) := findReg (regRows a) a

/-- A word of no register: it reads zero and takes nothing. -/
def noWord : RegWord := ⟨0, 0, 0, 0⟩

/-- The masks and reset value of the register word at address `a`. -/
def regWord (a : Nat) : RegWord :=
  match regAt a with
  | some (_, i, ws) => ws.getD i noWord
  | none => noWord

/-- What the register word at address `a` reads as until something writes it: its reset value (R5). -/
def regReset (a : Nat) : Word := BitVec.ofNat 32 (regWord a).reset

/-- A stretch of a domain's past: the tick at which it began, the accumulator at that tick, and what each further tick added. -/
structure Seg where
  at' : Nat
  acc : Nat
  rate : Nat
deriving DecidableEq, Repr

/-- A domain of Sundial: the accumulator in units of 2^-40 (R25), and the operands captured by commands that wait
(R32). DSTAT holds which of them wait. -/
structure Dom where
  acc : Nat := 0
  /-- The model's own: the domain's past, latest stretch first, for values at ticks that have gone by (R52, R109). -/
  segs : List Seg := []
  setv : Nat := 0
  stepv : Int := 0
  incNext : Nat := 0
  incAt : Nat := 0
  slewInc : Nat := 0
deriving DecidableEq, Repr

/-- A pulse output: the values captured at ARM (R41), the next instant, and the pulse in progress. -/
structure Pulse where
  /-- PCTL.POL: pulses are low. -/
  pol : Bool := false
  mode : Nat := 0
  dom : Nat := 0
  wid : Nat := 0
  per : Nat := 0
  /-- The next instant, in the accumulator's unit. -/
  next : Nat := 0
  /-- The hub tick at which the pulse in progress began. -/
  began : Nat := 0
  /-- A DISARM waits for the end of the pulse (R45). -/
  disarm : Bool := false
deriving DecidableEq, Repr

/-- A sync block's corrected value, in units of 2^-40, and the cell tick and time of its arrival (R47 to R49). -/
structure SyncRec where
  val : Nat
  tick : Nat
  at' : Nat
deriving DecidableEq, Repr

/-- What a cell lane has received of sync blocks (R49, R210). -/
structure CellSync where
  /-- FT [63:40], cycle count [31:12] and arrival of the latest SYNC_EPOCH, in half nanoseconds. -/
  epoch : Option (Nat × Nat × Nat) := none
  ft : Option SyncRec := none
  ang : Option SyncRec := none
  /-- The replica as latched at the arrival of a block whose result is still to be stored, and whether the lane was then the active
  one (R47). -/
  ftLatch : Option (Nat × Bool) := none
  angLatch : Option (Nat × Bool) := none
  /-- SYNC_LOST has been raised for the want of a block that still lasts (R49). -/
  lost : Bool := false
deriving DecidableEq, Repr

/-- The replicas of the cell (R46 to R48): values in units of 2^-40 and the steps and loads that wait for the tick. -/
structure Csd where
  ft : Nat := 0
  ang : Nat := 0
  ftStep : Option Int := none
  angStep : Option Int := none
  ftLoad : Option SyncRec := none
  angLoad : Option SyncRec := none
  la : CellSync := {}
  lb : CellSync := {}
deriving DecidableEq, Repr

/-- A gate output beside its level in PSTAT: the tick since which it is off, the tick of its latest edge, and the tick at
which a pending turn-on falls due (R134). -/
structure Gate where
  offAt : Nat := 0
  edgeAt : Option Nat := none
  due : Option Nat := none
deriving DecidableEq, Repr

/-- What a resolved slot does at its execution instant (R87 to R93, R137). -/
inductive Act where
  /-- Nothing: the slot was resolved while firing was suppressed. -/
  | idle
  /-- The gate state is held. -/
  | hold
  /-- A transition to the pattern of the state (coded as LSTAT.STATE). -/
  | go (state : Nat)
  /-- A vernier pulse of `w` ticks in the pattern of the state, then BYPASS. -/
  | pulse (state w : Nat)
deriving DecidableEq, Repr

/-- A resolved slot that waits for its execution instant: its number, counted as in R70 without the reduction to a tag. -/
structure Plan where
  slot : Nat
  act : Act
deriving DecidableEq, Repr

/-- The firing path of the cell beside its registers. -/
structure Fire where
  plans : List Plan := []
  /-- The number of slot T; the ticks at which the replica reached the starts of slots not yet executed (R71); ranges of slots after T
  that replica moves have carried over (R77). -/
  num : Nat := 0
  starts : Assoc (Option Nat) := []
  carried : List (Nat × Nat) := []
  /-- The tick at which the vernier pulse in progress ends. -/
  vernEnd : Option Nat := none
  /-- EVENT codes sent in the present slot (R81). -/
  evtCodes : List Nat := []
  /-- Execution instants since the latest REPORT (R80). -/
  repCnt : Nat := 0
  /-- REP_DIV and LAPSE_MAX in force (R150). -/
  repDiv : Nat := 0
  lapseMax : Nat := 3
  /-- The tick of the latest deadline, or of the latest released DEBLOCK (R74). -/
  lastDl : Nat := 0
  /-- Tags whose deadlines passed during the halt (R148). -/
  haltTags : List Nat := []
  /-- PCNT, and captured values that wait for a boundary (R141). -/
  pcnt : Nat := 0
  sealPer : Option Nat := none
  sealCmp : Option (Nat × Nat × Nat × Nat) := none
  /-- Occurrences counted per event source (R143). -/
  evCnt : Assoc Nat := []
  /-- Blanking windows, per input: the ticks of the edges that started one, latest first, as far back as the driver-status filter
  reaches and one more; and whether the end of the latest has still to be acted on (R144, R145). -/
  blankAt : Assoc (List Nat) := []
  blankOpen : Assoc Bool := []
  /-- Free mode: a pulse of leg A or B is in progress (R140). -/
  legPulse : Assoc Bool := []
  /-- STALL stands (R74). -/
  stalled : Bool := false
  /-- The timing clock is stopped (R147). -/
  clkStop : Bool := false
  /-- The active lane in force is LB (R224). -/
  activeB : Bool := false
  /-- A debug halt freezes the outputs, and a BYPASS reaction has moved them since (R147). -/
  haltByp : Bool := false
  /-- The state that an SDD mask holds off (coded as LSTAT.STATE), to return when the mask ends (R346). -/
  sddHeld : Option Nat := none
deriving DecidableEq, Repr

/-- A fault source: block and source number, class (1 C, 2 K, 3 F), and its flag in the block's status register
(R302, R303). -/
structure Src where
  blk : Nat
  src : Nat
  cls : Nat
  flag : Fld
deriving DecidableEq, Repr

/-- A message or frame that a lane sends (R211, R223): its first block, its data blocks still to be sent, and its last block; for a frame
every word of it, those of earlier parts included, and whether its end is not known yet (R230). -/
structure TxMsg where
  start : DWord
  words : List DWord
  fin : DWord
  begun : Bool := false
  all : List DWord := []
  hold : Bool := false
deriving DecidableEq, Repr

/-- The test checker of a lane (R221): the bits received since it last seeded (at most the latest 128, latest lowest) and how many; the
pattern state that predicts the next bit once it has locked, and which of the latest 64 bits since were wrong. -/
structure Checker where
  hist : Nat := 0
  n : Nat := 0
  pat : Option Nat := none
  wrong : Nat := 0
deriving DecidableEq, Repr

/-- A lane end beside its registers. -/
structure Lane where
  /-- Queued control blocks, each with its priority in the list of R207, in the order queued; the clock in which the latest was queued, and
  how many at the end of the queue were queued in that clock. -/
  q : List (Nat × DWord) := []
  newAt : Nat := 0
  newN : Nat := 0
  /-- Messages to send; the first is in progress once its first block has been sent. -/
  msgs : List TxMsg := []
  /-- Scrambler state (R204); the last 1,024 line bits, latest lowest, and the ones among them (R206); whether each of the last
  three blocks was BALANCE, latest first. -/
  scr : Nat := 0
  line : Nat := 0x5555555555555555555555555555555555555555555555555555555555555555555555555555555555555555555555555555555555555555555555555555555555555555555555555555555555555555555555555555555555555555555555555555555555555555555555555555555555555555555555555555555555555555
  ones : Nat := 512
  lastBal : List Bool := []
  /-- INJ_ONCE has been written and not yet been used, and line bits since the latest inversion of MODE 2 (R222). -/
  injOnce : Bool := false
  injCnt : Nat := 0
  /-- Bring-up (R216): block slots until the next CAP; own and peer's NONCE; the rate limit of earlier FALLBACKs; the rate
  agreed; a CAP has come in this step; the peer's FOK; this end is the initiator; the RATE block that waits for its answer
  (operation and rate) and how often it has been repeated; this end has adapted; an ACCEPT has been exchanged; the hunt is that
  of step 4. -/
  capCnt : Nat := 0
  nonce : Nat := 0
  peerNonce : Nat := 0
  limit : Nat := 3
  rate : Nat := 0
  capRx : Bool := false
  peerFok : Bool := false
  initiator : Bool := false
  req : Option (Nat × Nat) := none
  props : Nat := 0
  adapted : Bool := false
  accepted : Bool := false
  relock : Bool := false
  /-- An L2_REQ waits for its answer; the hunt is that of an exit from L2 (R219). -/
  l2Req : Bool := false
  l2Exit : Bool := false
  /-- The lane has been in L0 since reset, and the time at which it first entered it. -/
  upOnce : Bool := false
  upAt : Nat := 0
  /-- Consecutive FOM updates below FOM_MIN (R218), and HDR_ERR + CHK_ERR at the window's start. -/
  fomLow : Nat := 0
  berBase : Nat := 0
  /-- Receiver: the time since which it has hunted without an invalid header, the times of the invalid headers among the last 64, the time
  of its lock while the first block after it has not come (R204, R214); a message or frame in progress, true when it has been discarded for
  its LEN (R212). -/
  huntAt : Nat := 0
  badAt : List Nat := []
  fresh : Option Nat := none
  rx : Option Bool := none
  /-- Test (R221): the state of the transmitted pattern, the part of a line bit not sent yet in 1/32 bit, and the checker. -/
  pat : Nat := 0
  patFrac : Nat := 0
  chk : Checker := {}
  /-- Delay measurement (R253 to R257): the valid delays of the history, latest first; DLY_MEAN at the last moment CAL was 1
  since EN was set; the number of the next PROBE; the PID of the PROBE outstanding. -/
  dlyHist : List Nat := []
  dlyKept : Option Nat := none
  pid : Nat := 0
  probe : Option Nat := none
deriving DecidableEq, Repr

/-- What the parts have sent, in the order sent, latest first: the model's own record of outputs that no register
holds. -/
inductive Sent where
  /-- A control block on a lane. -/
  | block (lane : Nat) (w : DWord)
  /-- A data block on a lane. -/
  | data (lane : Nat) (w : DWord)
  /-- One line bit of the next block of a lane is inverted (R222). -/
  | flip (lane : Nat)
  /-- An MSI-X message. -/
  | msix (vec : Nat)
  /-- A fabric frame started on a port: header words, time extension and payload. -/
  | frame (port : Nat) (hdr : List Word) (ext payload : List Byte)
  /-- A JTAG register shifted out. -/
  | jtag (part : Part) (v : DWord)
  /-- An Ethernet frame of a port. -/
  | eth (port : Nat) (fr : List Byte)
  /-- An MDIO frame. -/
  | mdio (w : Word)
deriving DecidableEq, Repr

/-- Read access to a wide register: the register last latched by a requester and the words latched (R7). -/
structure Latch where
  reg : Nat
  words : List Nat
deriving DecidableEq, Repr

/-- The read-back of one output (R289, R290): the run of mismatching ticks that goes on (0: none) and its first tick, whether GATE_RB has
been raised for it, and the output that has named this one as its partner. -/
structure Rb where
  run : Nat := 0
  first : Nat := 0
  told : Bool := false
  bar : Option Nat := none
deriving DecidableEq, Repr

/-- Trellis beside its registers (R289 to R300). -/
structure Trl where
  /-- The bypass sequence: the tick of its start, the ticks at which BYPF and BYPC were asserted, and the stage of each: 0 not
  yet asserted, 1 asserted, 2 released. -/
  bypStart : Nat := 0
  bypfAt : Nat := 0
  bypcAt : Nat := 0
  bypfSt : Nat := 2
  bypcSt : Nat := 2
  /-- Read-back: the runs of the outputs, and the pins that do not follow their output, with the level each is held at. -/
  rb : Assoc Rb := []
  stuck : Assoc (Option Bool) := []
  /-- Filtered driver status: asserted inputs (R291), and those whose present assertion has been a trip (R292). -/
  drv : Assoc Bool := []
  tripped : Assoc Bool := []
  /-- The wetting periods: the tick at which they began, and the period that has had its sample (R296). -/
  cinAt : Nat := 0
  cinPer : Option Nat := none
  /-- Contact inputs: the zone has passed the filter since CIN_EN, the new zone being counted and its samples, the rejected changes of the
  window and the tick at which the window began (R297, R299). -/
  known : Assoc Bool := []
  cand : Assoc (Nat × Nat) := []
  rej : Assoc Nat := []
  chatAt : Nat := 0
  /-- WIRE_BRK stands for the input. -/
  brk : Assoc Bool := []
  /-- Pairs: the discrepancy timer (ticks gathered, and since which tick it runs) while a DISAGREE has not been resolved, the lock, and
  whether the first state has been taken since CIN_EN (R298, R299). -/
  disT : Assoc (Option (Nat × Option Nat)) := []
  locked : Assoc Bool := []
  first : Assoc Bool := []
  /-- Closure was confirmed in the running sequence, at this tick. -/
  confAt : Option Nat := none
  /-- VAUX fell below UV_TH and has not risen above UV_TH + UV_HYS since; the time at which the dip in progress began and whether it has
  lasted 2 us; the time since which VAUX has been above (R300). -/
  low : Bool := false
  dipAt : Option Nat := none
  dipUv : Bool := false
  riseAt : Nat := 0
deriving DecidableEq, Repr

/-- A filter of the sequencer (R279, R280): integrators and combs of the sinc decimator in units of half a code, conversions
in the present window, outputs since the restart, delayed conversions with their conditions (latest first), conditions
gathered in the window (SETTLING, OVR, RECOV), and the ages of the conversions made without a settled reference. -/
structure Filt where
  integ : List Int := []
  comb : List Int := []
  count : Nat := 0
  outs : Nat := 0
  past : List (Int × Nat) := []
  conds : Nat := 0
  bad : List Nat := []
deriving DecidableEq, Repr

/-- The converter beside its registers (R273 to R286). -/
structure Adc where
  /-- Rounds started since EN was set, and the entry being converted. -/
  rounds : Nat := 0
  ent : Nat := 0
  /-- NENT, ENTA and ENTB in force in the round (R278), and entries whose filter restarts at the next round. -/
  nent : Nat := 0
  entA : Assoc Nat := []
  entB : Assoc Nat := []
  restart : Assoc Bool := []
  filts : Assoc Filt := []
  /-- Gain of the previous conversion, and whether its input was beyond the clamp (R283). -/
  prevGain : Option Nat := none
  prevBeyond : Bool := false
  /-- An injected conversion has the converter (R281). -/
  injRun : Bool := false
  /-- REF_SETTLED has read 1 since EN was set, so that rounds start (R274, R275); EN was cleared in the round in progress, which ends with
  the conversion in progress (R278). -/
  live : Bool := false
  ending : Bool := false
  /-- The ticks at which TDLY delays in progress run out (R276). -/
  tdly : List Nat := []
  fifo : List Nat := []
  /-- The two latest usable words per entry since EN was set that were completed at different ticks, latest first: code, time and tick of
  completion (R286); and when EN was last set or the cell last reset. -/
  usable : Assoc (List (Int × Nat × Nat)) := []
  enAt : Nat := 0
  /-- The internal reference stands outside its window (R275); the time at which it was switched on or returned (R274). -/
  refOut : Bool := false
  refAt : Nat := 0
deriving DecidableEq, Repr

/-- A buffer of the Orangery pool in use: the account it is charged to, whether it came from the control reserve, and how many
copies and consumers still hold it (R230, R244). -/
structure Buf where
  acct : Nat
  rsv : Bool
  refs : Nat
deriving DecidableEq, Repr

/-- A frame queued for or in transmission on a port (R230 to R233): its buffer, its level (0 urgent, 1 control, 2 bulk), its header, time
extension and payload; the CRC field of its EOF as received, where that fails; how often it has been preempted; the 8-byte words sent before
a suspension; where only a part has come, the words of it, and whether the rest of that part is still to come; for a forwarded frame its
arrival port and arrival time in half nanoseconds (R259); and for a PATHRSP the arrival time of its request (R266). -/
structure QFrame where
  buf : Nat
  level : Nat
  hdr : List Word
  ext : List Byte
  payload : List Byte
  eof : Option Nat := none
  pre : Nat := 0
  off : Nat := 0
  upto : Option Nat := none
  hold : Bool := false
  from_ : Option (Nat × Nat) := none
  req : Option Nat := none
deriving DecidableEq, Repr

/-- A suspended frame at its receiver (R232): SEQ modulo 256, the words received, its buffer, the ports that pass its parts on, the ports
that get it whole, and whether this hub consumes it. -/
structure Suspended where
  seq : Nat
  off : Nat
  buf : Nat
  outs : List Nat
  rest : List Nat
  loc : Bool
deriving DecidableEq, Repr

/-- A fabric port: the frames queued in order of arrival, the frame in transmission, and SEQ and length in words of a part that has been sent,
whose continuation must come next; of the frames received, the buffer of one whose EOF has not come, and the suspended one. -/
structure Port where
  q : List QFrame := []
  cur : Option QFrame := none
  await : Option (Nat × Nat) := none
  rxBuf : Option Nat := none
  part : Option Suspended := none
deriving DecidableEq, Repr

/-- What a hub has heard of another by HELLO on one plane (R236), and when. -/
structure Heard where
  plane : Nat
  serial : Nat
  flags : Nat
  nodeId : Nat
  prefId : Nat
  epoch : Nat
  path : List Nat
  nbr : List Nat
  member : Nat
  at' : Nat
deriving DecidableEq, Repr

/-- Delivery to Kiosk queues from one source (R235): the highest SEQ delivered per plane, and the SEQs on record below the
highest of either plane. -/
structure Dlv where
  hiA : Option Nat := none
  hiB : Option Nat := none
  seen : List Nat := []
deriving DecidableEq, Repr

/-- Gatehouse beside its registers. -/
structure Gth where
  ports : Assoc Port := []
  bufs : Assoc (Option Buf) := []
  /-- Free buffers of the shared remainder and of the control reserve; OFREE shows them (R244, R245). -/
  shared : Int := 5312
  rsv : Int := 512
  /-- Buffers of each account that came from the control reserve. -/
  rsvHeld : Assoc Nat := []
  /-- The SEQ of the next frame originated (R234). -/
  seq : Nat := 0
  dlv : Assoc Dlv := []
  heard : List Heard := []
  /-- The time of the latest HELLO of the neighbour on each port, and that of the latest change in what is heard (R236, R237). -/
  nbrAt : Assoc Nat := []
  setAt : Nat := 0
  /-- HELLOs forwarded: plane, serial, SEQ (R236). -/
  fwd : List (Nat × Nat × Nat) := []
  epoch : Nat := 0
  /-- PREF_V, PREF_ID and LEAD_FORCE in force while the node ID stands (R251). -/
  pref : Option (Nat × Nat × Nat) := none
  /-- At the lead: the IDs assigned, serial and ID in ascending order of serial (R238). -/
  ids : List (Nat × Nat) := []
  /-- No tables have come since the node ID was assigned (R241); a swap waits for SWAP_AT. -/
  firstLoad : Bool := true
  swapArmed : Bool := false
  /-- Frames that the hub sends and delivers to itself without a port (R229): plane, header, time extension, payload, and the
  buffer (8192: none). -/
  loopq : List (Plane × List Word × List Byte × List Byte × Nat) := []
deriving DecidableEq, Repr

/-- Time distribution at the hub beside its registers (R258 to R269). -/
structure Td where
  /-- Per plane: the TSEQ, arrival port and HOPS of the latest TSYNC accepted. -/
  last : Assoc (Option (Nat × Nat × Nat)) := []
  /-- Consecutive clean results from TS_PLANE with the port and HOPS of the latest (R265). -/
  clean : Nat := 0
  /-- The root serial of the latest TANN. -/
  root : Option Nat := none
  /-- TSEQ of the next TSYNC or TANN originated. -/
  tseq : Nat := 0
  /-- A PATHREQ is outstanding, on this plane (R266). -/
  path : Option Nat := none
deriving DecidableEq, Repr

/-- A held effect of a speculative region (R194). Stores keep the address, the width in bytes and the value. -/
inductive Eff where
  | store (a n v : Nat)
  | send (mc : Bool) (len desc buf : Nat)
  | fcst (ra rb : Nat)
  | tord (ra rb : Nat)
  | cmit (ra rb : Nat)
  | abrt (ra : Nat)
  | mts (sr v : Nat)
  | recv (q : Nat)
deriving DecidableEq, Repr

/-- An instruction in flight that holds a core (R183 to R189). -/
inductive Wait where
  | tmw (rd target : Nat)
  | angw (rd dom target : Nat) (slot : Bool)
  | recv (rd a q : Nat)
  | send (mc : Bool) (len desc buf : Nat)
deriving DecidableEq, Repr

/-- An open speculative region (R193): the snapshot of g1 to g31 and FSR, CKPT's rd, the held effects in order, the loop
levels written (bit 0, bit 1), and the cycle count at CKPT. -/
structure Spec where
  g : Assoc Word
  fsr : Nat
  rd : Nat
  porch : List Eff := []
  loops : Nat := 0
  start : Nat
deriving DecidableEq, Repr

/-- A message in a receive queue: its bytes and its buffer. -/
structure RxMsg where
  bytes : List Byte
  buf : Nat
deriving DecidableEq, Repr

/-- A core beside its control registers (R154, R168, R170): KPC holds the program counter. -/
structure Core where
  /-- g0 to g31. -/
  g : Assoc Word := []
  /-- Special registers by number; IPEND holds the latched lines. -/
  sr : Assoc Nat := []
  /-- The cycle at which CYCLE was 0; the upper words latched by reads of CYCLE and FTL. -/
  cycBase : Nat := 0
  cycLatch : Nat := 0
  ftLatch : Nat := 0
  /-- TCMPH has been written and the timer has not fired since. -/
  tArmed : Bool := false
  wait : Option Wait := none
  spec : Option Spec := none
  /-- Q0 to Q3, oldest message first. -/
  rxq : Assoc (List RxMsg) := []
  /-- An accepted halt request, and RUN = 0, that wait for a boundary; STEP executes one instruction. -/
  haltReq : Bool := false
  holdReq : Bool := false
  stepping : Bool := false
  /-- The halt that waits is that of an EBREAK inside a region. -/
  brk : Bool := false
  /-- An instruction is performing an effect; a reset of the core ends it. -/
  acting : Bool := false
deriving DecidableEq, Repr


/-- An angle reference input beside its registers (R52 to R65): filtered levels, changes discarded per line in the present chatter
window and the tick at which it began, the ticks of the last counted rising edge of line A, of the last counted edge and of the setting
of EN, single-position intervals in half nanoseconds (latest first), marks
without error in a row, the next counted edge takes position 0, counted edges since the latest toggle, and the level of the
divided output. -/
structure AngIn where
  lines : Lines := ⟨false, false, false⟩
  drop : List Nat := [0, 0, 0]
  winAt : Nat := 0
  last : Option Nat := none
  lastCnt : Option Nat := none
  enAt : Nat := 0
  hist : List Nat := []
  good : Nat := 0
  zeroNext : Bool := false
  div : Nat := 0
  out : Bool := false
deriving DecidableEq, Repr

/-- A REPORT as Belvedere keeps it (R104): slot number, VCAP, TJ field, STATE, SUPP and FB. -/
structure Rep where
  slot : Nat
  vcap : Nat
  tj : Nat
  state : Nat
  supp : Bool
  fb : Bool
deriving DecidableEq, Repr

/-- An observer beside its view (R100 to R105, R112); the settled estimate is word 0 of the view. History entries and modelled
insertion factors by slot number, waiting and held reports, slots reported, the latest applied report with the slot at whose
start it was applied; whether it is to be seeded, was ranked in the latest plan, has raised REP_MISS, and is unranked by an ECC
error. -/
structure Obs where
  hist : Assoc (Option Nat) := []
  q : Assoc (Option Int) := []
  queue : List Rep := []
  kept : Option Rep := none
  seen : List Nat := []
  info : Option Rep := none
  applied : Nat := 0
  seed : Bool := true
  ranked : Bool := false
  miss : Bool := false
  bad : Bool := false
deriving DecidableEq, Repr

/-- A forecast record (Table 5-2). -/
structure Fcast where
  n : Nat := 0
  dir : Bool := false
  neg : Bool := false
  tol : Nat := 0
  iarm : Int := 0
deriving DecidableEq, Repr

/-- A ranked cell among the inputs of a plan (R106, R113, R114): its lane, temperature weight, key base when expected inserted
at negative polarity, not inserted, and inserted, and the ranks that decide its expected state. -/
structure PCell where
  lane : Nat
  w : Int
  baseN : Nat
  base0 : Nat
  baseP : Nat
  rank : Option (Nat × Nat)
deriving DecidableEq, Repr

/-- The inputs of a plan, kept for its re-plans (R123): the lanes of the arm, the ranked cells, HYST, KEY_ID. -/
structure PInput where
  lanes : List Nat
  cells : List PCell
  hyst : Nat
  keyId : Nat
deriving DecidableEq, Repr

/-- A running plan or re-plan (R119 to R125): slot, the tick at which its planning started, generation, whether it is a re-plan, the lanes whose order was handed before
it, the two lists as (key, lane), and the lanes with a temperature weight. -/
structure PRun where
  slot : Nat
  at' : Nat
  gen : Nat
  replan : Bool
  repair : List Nat
  lc : List (Nat × Nat)
  ld : List (Nat × Nat)
  tjw : List Nat
deriving DecidableEq, Repr

/-- A merge at the merging hub (R116 to R119): lists as source node, KEY_ID and the two lists of (key, lane); all lists present
or closed at the deadline; published; whether it was closed at the deadline, and the late hubs that have been sent their ranks; the tick at
which it began. -/
structure Merge where
  slot : Nat
  at' : Nat
  answered : List Nat := []
  replan : Bool
  lists : List (Nat × Nat × List (Nat × Nat) × List (Nat × Nat)) := []
  closed : Bool := false
  late : Bool := false
  done : Bool := false
deriving DecidableEq, Repr

/-- Samples of a slot: how many have been received, and of the two sources how many were usable and their sum (R110). -/
structure Samp where
  rx : Nat := 0
  n : Nat × Nat := (0, 0)
  sum : Int × Int := (0, 0)
deriving DecidableEq, Repr

/-- Commits relayed for a slot: the first, every content relayed, as bits [55:16], the tick at which the first was relayed, whether it has
been tested, and whether its test waits for the record to freeze (R121, R122). -/
structure Cmt where
  first : Nat
  seen : List Nat
  at' : Nat
  tested : Bool := false
  waits : Bool := false
deriving DecidableEq, Repr

/-- Belvedere and Bandstand beside their registers, by slot number counted as in R70. -/
structure Blv where
  /-- The next slot whose start the base is to reach, a slot whose start it had reached before a load or step moved it, the lowest
  slot whose start has not been acted on, the last slot planned, and the slot at whose start planning resumes (R76); the latest slot
  acted on, and the ticks of slot starts. -/
  next : Nat := 1
  due : Option Nat := none
  acted : Nat := 1
  planned : Nat := 0
  resume : Nat := 0
  cur : Nat := 0
  theta : Assoc (Option Nat) := []
  obs : Assoc Obs := []
  /-- Forecast records held and frozen (R107, R108). -/
  fc : Assoc (Option Fcast) := []
  fz : Assoc Fcast := []
  frozen : List Nat := []
  ms : Assoc Samp := []
  formed : Option Nat := none
  gaps : Nat := 0
  /-- The latest SEQ of each measurement input. -/
  mseq : Assoc (Option Nat) := []
  /-- RS_TAG and the lanes that a RESEED waits for. -/
  reseed : Option (Nat × List Nat) := none
  inputs : Assoc (Option PInput) := []
  gen : Assoc Nat := []
  /-- Ranks of the latest completed plan of a slot, as (lane, RANK_C, RANK_D), and the orders handed: (lane, RANK_C, RANK_D,
  aborted). -/
  ranks : Assoc (Option (List (Nat × Nat × Nat))) := []
  sent : Assoc (List (Nat × Nat × Nat × Bool)) := []
  runs : List PRun := []
  merges : List Merge := []
  /-- Hubs whose lists have come to a merge here (R119). -/
  sources : List Nat := []
  dig : Nat := 0
  cms : Assoc (Option Cmt) := []
  missed : List Nat := []
deriving DecidableEq, Repr

/-- An Ethernet port beside its registers (R268, R272): received entries and transmit timestamps, oldest first, each as its four
words, and the descriptors submitted. -/
structure Eth where
  rxq : List (List Nat) := []
  tsq : List (List Nat) := []
  tx : List (List Nat) := []
deriving DecidableEq, Repr

/-- A safety frame opened and awaiting its second copy (R331): its first copy, the path of that copy (true for B), and its
arrival in half nanoseconds. -/
structure HFrame where
  pdu : SafetyPdu
  second : Bool
  at' : Nat
deriving DecidableEq, Repr

/-- A safety connection at its receiver (R331 to R334): the SEQ of the last frame opened (none: the next copy opens a frame whatever
its SEQ), the frames awaiting their second copy, oldest first, the SEQs of the last four frames opened, the latest accepted frame with
the time of its acceptance, the watchdog while it runs as (time of its restart, WD in us), and whether the latest first copy carried a
demand. -/
structure HConn where
  last : Option Nat := none
  wait : List HFrame := []
  opened : List Nat := []
  acc : Option (SafetyPdu × Nat) := none
  wd : Option (Nat × Nat) := none
  dem : Bool := false
deriving DecidableEq, Repr

/-- A reset request in progress (R337, R338): RQ fell in the mode in force, and when, in half nanoseconds. -/
structure Rq where
  live : Bool := false
  fell : Nat := 0
deriving DecidableEq, Repr

/-- Ha-ha beside its registers. Connections: 0 the cell's, 1 + n the hub's RX connection n, 16 + n the connection from cell lane n;
the SEQ of the last frame sent, per lane of the hub (192: hub to hub) and at 200 for the cell. -/
structure Hh where
  conns : Assoc HConn := []
  txSeq : Assoc Nat := []
  hub : Rq := {}
  cell : Rq := {}
  /-- SLI and SDD (R344, R345): latest samples without INV of the two sources, consecutive samples beyond SLI_LIM of each, consecutive
  pairs beyond SLI_DISC, and sources without a sample for SLI_TO us. -/
  smp : Option Int × Option Int := (none, none)
  beyond : Nat × Nat := (0, 0)
  disc : Nat := 0
  lost : Bool × Bool := (false, false)
  /-- When the latest sample without INV of each source came, or SLI was enabled (R344), in half nanoseconds. -/
  smpAt : Nat × Nat := (0, 0)
  /-- The tick in which each SDD mask of the cell began, positive and negative (R347). -/
  maskAt : Nat × Nat := (0, 0)
  /-- An SSTOP input has asserted, or the inputs have differed; VSAFE has exceeded SLV_TH. Whether that still holds is told by no
  command. -/
  sin : Bool := false
  slv : Bool := false
  /-- Samples taken, as (source node, SEQ), latest first (R109). -/
  taken : List (Nat × Nat) := []
deriving DecidableEq, Repr

/-- A trigger taken by a recorder channel (R359 to R366): the number of the trigger entry since arming, f, TRIG_SRC, XT_EARLY, TRIG_FT,
entries kept before it, the XTRIG's node, channel and XSEQ, ALIGN, the tick it was decided in, and that every source of it was received. -/
structure RTrig where
  idx : Nat
  f : Nat := 0
  src : Nat
  early : Bool := false
  ft : Nat
  pre : Nat
  org : Nat × Nat × Nat := (0, 0, 0)
  align : Nat := 0
  at' : Nat := 0
  quiet : Bool := false
deriving DecidableEq, Repr

/-- A stamp that a recorder channel waits for: FT, its bit of TRIG_SRC, the XTRIG's node, channel and XSEQ, that it goes back to a received
trigger, and that it was older than the oldest entry held. -/
structure RStamp where
  ft : Nat
  bit : Nat
  org : Nat × Nat × Nat := (0, 0, 0)
  quiet : Bool := false
  early : Bool := false
deriving DecidableEq, Repr

/-- Entries lost in a row: how many, FT of the first and of the last. -/
structure RLost where
  n : Nat
  first : Nat
  last : Nat
deriving DecidableEq, Repr

/-- An entry in the input FIFO of a recorder channel: FT in ns, ETYPE, SRCID, payload, and the entries lost just before it (R355, R363). -/
structure RIn where
  ft : Nat
  etype : Nat
  srcid : Nat
  pay : Nat
  lost : Option RLost := none
deriving DecidableEq, Repr

/-- A recorder channel beside its registers (R356 to R366): entries written since arming, the previous entry of each SRCID as (payload,
FT), GAP entries as (number since arming, entries lost), a FORCE and stamps that wait, the trigger taken, MISSED since the previous
record, records closed since EN, the input FIFO, oldest first, the entries lost after its newest, and when REARM was entered. -/
structure Recd where
  n : Nat := 0
  prev : Assoc (Option (Nat × Nat)) := []
  gaps : List (Nat × Nat) := []
  force : Bool := false
  stamps : List RStamp := []
  trig : Option RTrig := none
  missed : Nat := 0
  rseq : Nat := 0
  fifo : List RIn := []
  lost : Option RLost := none
  heldAt : Nat := 0
deriving DecidableEq, Repr

/-- Glasshouse and LDD beside their registers: hub channel c is c, cell channel c is 16 + c; the SEQ of the next XTRIG, the last eight
XTRIGs accepted as (node, XSEQ), the memory temperature stands outside the range, and DSTAT [4:0] and ALIGN of each domain as the recorder
saw them last. -/
structure Gls where
  ch : Assoc Recd := []
  xseq : Nat := 0
  seen : List (Nat × Nat) := []
  hot : Bool := false
  dst : List Nat := []
deriving DecidableEq, Repr

/-- A boot record of the cell (R380). -/
structure BootRec where
  seq : Nat := 0
  active : Nat := 0
  prev : Nat := 0
  trial : Bool := false
  tries : Nat := 0
deriving DecidableEq, Repr

/-- Boot, fuses, resets and test access of both parts (R377 to R396). -/
structure Sys where
  /-- Fuse bits blown (Table 17-7), of the hub and of the cell. -/
  otpHub : List Nat := []
  otpCell : List Nat := []
  /-- The strap pins of the hub as the latest cold reset latched them: BOOT and LEAD_ELIGIBLE (R378, Table 18-4, STRAP of GLB). -/
  bootPins : BitVec 2 := 0
  leadPin : Bool := false
  /-- The source whose checked image the hub's ROM loads next: 0 A, 1 B, 2 PCIe; or none passed. -/
  loading : Option (Option Nat) := none
  /-- The two copies of the boot record, and the physical bank that the running window shows. -/
  rec0 : Option BootRec := none
  rec1 : Option BootRec := none
  bank : Nat := 0
  /-- When the boot watchdog of a trial expires (R381), and when WDT was last written with EN = 1 (R396), in half nanoseconds. -/
  bootWd : Option Nat := none
  wdtAt : Nat := 0
  /-- A reset is in force: none, or whether it is a cold one. For the cell the third value says that its cause is POWER_ON. -/
  hubRst : Option Bool := some true
  cellRst : Option (Bool × Bool) := some (true, true)
  /-- A warm reset of the cell waits for the end of the bypass sequence (R391), or for a SWAP's answer (R382). -/
  heldWarm : Bool := false
  swapDue : Bool := false
  /-- The answer to the latest IMAGE, while it may still wait: its lane, its first block and its data blocks (R382). -/
  imgAns : Option (Nat × DWord × List DWord) := none
  /-- A record may have been left unwritten (R394). -/
  late : Bool := false
  /-- ARM_READY when it was last examined (R392). -/
  ready : Bool := false
  /-- VIN is at or above VWAKE (R387). -/
  vin : Bool := true
  /-- The TAP: the instruction of each part (0 BYPASS, 1 IDCODE, 2 SAMPLE/PRELOAD, 3 EXTEST, 4 CLAMP, 5 HIGHZ) and the boundary
  register as preloaded; the part has been under EXTEST, CLAMP or HIGHZ and needs a warm reset (R383). -/
  tapHub : Nat := 1
  tapCell : Nat := 1
  bsrHub : DWord := 0
  bsrCell : DWord := 0
  stopHub : Bool := false
  stopCell : Bool := false
  /-- The die temperature of hub and cell stands above 145 degrees (Table 18-8). -/
  hotHub : Bool := false
  hotCell : Bool := false
deriving DecidableEq, Repr

/-- The chipset: everything but the queue of commands. -/
structure Chip where
  /-- Time since the model's start, in half nanoseconds (the model's own), and the cell's ticks since its reset. -/
  time : Nat := 0
  ctick : Nat := 0
  /-- How many free values have been drawn (the model's own). -/
  free : Nat := 0
  /-- The words of every register of both parts, by address. -/
  regs : Assoc Word := []
  /-- Kiosk memories and the Orangery pool (hub addresses). -/
  hubMem : List Host.Cell := []
  /-- MRAM, SRAM and recorder SRAM (cell addresses). -/
  cellMem : List Host.Cell := []
  /-- What the latest read of a register or memory answered. -/
  rdata : Word := 0
  /-- The read latch and the write hold of each requester (R7), by requester number. -/
  latch : Assoc (Option Latch) := []
  hold : Assoc (Option (Nat × List (Nat × Nat))) := []
  doms : Assoc Dom := []
  pulses : Assoc Pulse := []
  csd : Csd := {}
  fire : Fire := {}
  gates : Assoc Gate := []
  lanes : Assoc Lane := []
  /-- Log entries of the cell (R315), by 256 * block + index. -/
  cellLog : Assoc (BitVec 128) := []
  /-- Inverted check bits of memory words (R316): by address in the hub, by address in the cell. -/
  hubEcc : Assoc Nat := []
  cellEcc : Assoc Nat := []
  /-- Faults held while the timing clock is stopped (R314). -/
  held : List Src := []
  /-- FAULT_N pulses: the time at which each ends (R312). -/
  fnEndHub : Nat := 0
  fnEndCell : Nat := 0
  /-- A TAKE reaction waits to be carried out (R313). -/
  takeDue : Bool := false
  sent : List Sent := []
  trl : Trl := {}
  adc : Adc := {}
  gth : Gth := {}
  td : Td := {}
  /-- Kiosk k is core k, the Shed core is core 16. -/
  cores : Assoc Core := []
  angin : Assoc AngIn := []
  blv : Blv := {}
  eth : Assoc Eth := []
  hh : Hh := {}
  gls : Gls := {}
  sys : Sys := {}
  /-- The memory of the LPDDR4X devices, from 0, and the QSPI flash. -/
  lddMem : List Host.Cell := []
  flash : List Host.Cell := []
deriving DecidableEq, Repr

/-- The state: the chipset and the queue of the commands that wait, first in, first out. -/
structure State where
  chip : Chip
  pending : List Instr
deriving DecidableEq, Repr

/-- The state with the chipset changed by `f`; the queue stays. -/
def State.on (s : State) (f : Chip → Chip) : State := { s with chip := f s.chip }

/-- Why a command stops the model. No command of this chipset does. -/
inductive Fault where
  /-- No command raises it: safe. -/
  | none
deriving DecidableEq, Repr

/-- Why a command has no meaning in the model. -/
inductive Refusal where
  /-- The row of the table has no meaning yet; raised by the dispatch: safe. -/
  | notModelled (mnemonic : String)
deriving DecidableEq, Repr

/-- The chipset right after reset: every register at its reset value, every memory empty. -/
def Chip.reset : Chip := {}

/-- The machine right after reset. -/
def State.reset : State := { chip := Chip.reset, pending := [] }

end Sys2Proof.Machine
end

