-- ==== Sys2Proof/Machine/Ops.lean ====
section
/-!
DEFINITION. The named operations over the state: registers and their fields, counters, memories, free values, block checks
and queued blocks.
-/
namespace Sys2Proof.Machine

-- Registers

/-- The register word at address `a`, as a number. -/
def Chip.reg (c : Chip) (a : Nat) : Nat := (Assoc.get regReset c.regs a).toNat

/-- The chipset with `v` (modulo 2^32) in the register word at `a`. -/
def Chip.setReg (c : Chip) (a v : Nat) : Chip :=
  { c with regs := Assoc.set regReset c.regs a (BitVec.ofNat 32 v) }

/-- `v` with bits [hi:lo] replaced by the low bits of `x`. -/
def insertBits (v hi lo x : Nat) : Nat :=
  v % 2 ^ lo + (x % 2 ^ (hi + 1 - lo)) * 2 ^ lo + v / 2 ^ (hi + 1) * 2 ^ (hi + 1)

/-- A field of a register. -/
def Chip.fld (c : Chip) (f : Fld) : Nat := bits (c.reg f.addr) f.hi f.lo

/-- A one-bit field as a Bool. -/
def Chip.flag (c : Chip) (f : Fld) : Bool := c.fld f == 1

/-- The chipset with `x` in a field. -/
def Chip.setFld (c : Chip) (f : Fld) (x : Nat) : Chip :=
  c.setReg f.addr (insertBits (c.reg f.addr) f.hi f.lo x)

/-- The chipset with a one-bit field set. -/
def Chip.raiseFlag (c : Chip) (f : Fld) : Chip := c.setFld f 1

/-- The chipset with a one-bit field clear. -/
def Chip.clrFlag (c : Chip) (f : Fld) : Chip := c.setFld f 0

/-- A two-word register. -/
def Chip.reg64 (c : Chip) (a : Nat) : Nat := c.reg a + c.reg (a + 4) * 2 ^ 32

/-- The chipset with `v` (modulo 2^64) in a two-word register. -/
def Chip.setReg64 (c : Chip) (a v : Nat) : Chip := (c.setReg a v).setReg (a + 4) (v / 2 ^ 32)

/-- The words of a register from `a` on. -/
def Chip.regWords (c : Chip) (a n : Nat) : List Nat := (List.range n).map fun i => c.reg (a + 4 * i)

/-- The chipset with a list of words in the registers from `a` on. -/
def Chip.setWords (c : Chip) (a : Nat) : List Nat → Chip
  | [] => c
  | w :: ws => (c.setReg a w).setWords (a + 4) ws

/-- A 32-bit counter increased by `n`, saturating at 0xFFFF_FFFF. -/
def Chip.bumpBy (c : Chip) (a n : Nat) : Chip := c.setReg a (Nat.min (c.reg a + n) 0xFFFFFFFF)

/-- A 32-bit counter increased by one, saturating. -/
def Chip.bump (c : Chip) (a : Nat) : Chip := c.bumpBy a 1

/-- A field counter increased by one, saturating at its width. -/
def Chip.bumpFld (c : Chip) (f : Fld) : Chip := c.setFld f (Nat.min (c.fld f + 1) (2 ^ (f.hi + 1 - f.lo) - 1))

/-- `f` applied when the condition holds. -/
def Chip.when (c : Chip) (b : Bool) (f : Chip → Chip) : Chip := if b then f c else c

/-- `f` applied for each element of a list in turn. -/
def Chip.forEach {α : Type} (c : Chip) (l : List α) (f : α → Chip → Chip) : Chip := l.foldl (fun c x => f x c) c

/-- What a plain write of `v` makes of the register word at `a`: RW and RWS bits take the value, W1C bits clear where `v`
has a 1, every other bit stays (Table 0-4, R4). -/
def writtenWord (m : RegWord) (old v : Nat) : Nat :=
  let kept := old - (old &&& m.rw)
  let set := kept + (v &&& m.rw)
  set - (set &&& m.w1c &&& v)

/-- A plain write of one register word. -/
def Chip.plainWrite (c : Chip) (a v : Nat) : Chip := c.setReg a (writtenWord (regWord a) (c.reg a) v)

/-- A write of `v` would change a field of the register word at `a` (R432). -/
def Chip.changes (c : Chip) (a v : Nat) : Bool := (v &&& (regWord a).rw) != (c.reg a &&& (regWord a).rw)

/-- A free value of 32 bits, and the chipset that has drawn it. -/
def Chip.draw (c : Chip) : Nat × Chip := ((Config.freeValue c.free).toNat, { c with free := c.free + 1 })

-- Memories

/-- What a byte of memory that nothing has written reads as (DESIGN CHOICE, log entry 7). -/
def memReset (_ : Nat) : Byte := 0

/-- A byte of a memory. -/
def memByte (m : List Host.Cell) (a : Nat) : Nat := (Assoc.get memReset m a).toNat

/-- The memory with a byte at `a`. -/
def memSetByte (m : List Host.Cell) (a v : Nat) : List Host.Cell := Assoc.set memReset m a (BitVec.ofNat 8 v)

/-- `n` bytes of a memory from `a` on. -/
def memBytes (m : List Host.Cell) (a n : Nat) : List Byte := (List.range n).map fun i => BitVec.ofNat 8 (memByte m (a + i))

/-- The memory with a list of bytes from `a` on. -/
def memSetBytes (m : List Host.Cell) (a : Nat) : List Byte → List Host.Cell
  | [] => m
  | b :: bs => memSetBytes (memSetByte m a b.toNat) (a + 1) bs

/-- A little-endian number of `n` bytes. -/
def memNat (m : List Host.Cell) (a : Nat) : Nat → Nat
  | 0 => 0
  | n + 1 => memByte m a + memNat m (a + 1) n * 256

/-- The memory with a little-endian number of `n` bytes at `a`. -/
def memSetNat (m : List Host.Cell) (a : Nat) : Nat → Nat → List Host.Cell
  | 0, _ => m
  | n + 1, v => memSetNat (memSetByte m a (v % 256)) (a + 1) n (v / 256)

/-- The bytes of a number, least significant first. -/
def bytesLE : Nat → Nat → List Byte
  | 0, _ => []
  | n + 1, v => BitVec.ofNat 8 v :: bytesLE n (v / 256)

/-- The bytes of a number, most significant first. -/
def bytesBE (n v : Nat) : List Byte := (bytesLE n v).reverse

/-- The number of a list of bytes, least significant first. -/
def natLE : List Byte → Nat
  | [] => 0
  | b :: bs => b.toNat + natLE bs * 256

/-- The number of a list of bytes, most significant first. -/
def natBE (l : List Byte) : Nat := natLE l.reverse

/-- A list of bytes as little-endian 32-bit words; a last part word is filled with zeros. -/
def wordsLE : Nat → List Byte → List Nat
  | 0, _ => []
  | n + 1, l => natLE (l.take 4) :: wordsLE n (l.drop 4)

/-- Hub memory read and written as little-endian words. -/
def Chip.hubWord (c : Chip) (a : Nat) : Nat := memNat c.hubMem a 4
def Chip.setHubWord (c : Chip) (a v : Nat) : Chip := { c with hubMem := memSetNat c.hubMem a 4 v }
def Chip.cellWord (c : Chip) (a : Nat) : Nat := memNat c.cellMem a 4
def Chip.setCellWord (c : Chip) (a v : Nat) : Chip := { c with cellMem := memSetNat c.cellMem a 4 v }

-- Checks

/-- The bits [hi:lo] of a number, from bit `hi` down: `n` = hi + 1 - lo of them. -/
def bitsDown (v lo : Nat) : Nat → List Bool
  | 0 => []
  | n + 1 => bit v (lo + n) :: bitsDown v lo n

/-- A CRC of width `w` taken most significant bit first. -/
def crcMsb (w poly : Nat) (crc : Nat) : List Bool → Nat
  | [] => crc
  | b :: bs =>
    let s := crc * 2 % 2 ^ w
    crcMsb w poly (if xor (bit crc (w - 1)) b then s ^^^ poly else s) bs

/-- The check of a control block: the CRC-12 of R205 over bits [63:12]. -/
def crc12 (v : Nat) : Nat := crcMsb 12 0x80F 0xFFF (bitsDown v 12 52)

/-- One byte of a reflected CRC-32, least significant bit first. -/
def crc32Byte (crc : Nat) : Nat → Nat → Nat
  | 0, _ => crc
  | n + 1, b =>
    let s := crc / 2
    crc32Byte (if xor (bit crc 0) (bit b 0) then s ^^^ 0xEDB88320 else s) n (b / 2)

/-- The CRC-32 of IEEE 802.3 over a list of bytes (R211). -/
def crc32 (l : List Byte) : Nat := (l.foldl (fun crc b => crc32Byte crc 8 b.toNat) 0xFFFFFFFF) ^^^ 0xFFFFFFFF

/-- The CRC-16 of the frame header (Table 10-1). -/
def crc16 (l : List Byte) : Nat :=
  l.foldl (fun crc b => crcMsb 16 0x1021 crc (bitsDown b.toNat 0 8)) 0xFFFF

/-- SCRC of a safety PDU (R325), over its bits in order. -/
def scrc (l : List Bool) : Nat := crcMsb 32 0xF4ACFB13 0xFFFFFFFF l ^^^ 0xFFFFFFFF

/-- A control block of type `t` whose content [55:12] is `x`, with its check (R205). -/
def mkBlock (t x : Nat) : DWord :=
  let v := t % 2 ^ 8 * 2 ^ 56 + x % 2 ^ 44 * 2 ^ 12
  BitVec.ofNat 64 (v + crc12 v)

/-- The check of a received control block passes. -/
def blockOk (w : DWord) : Bool := bits w.toNat 11 0 == crc12 w.toNat

/-- The type of a control block. -/
def blockType (w : DWord) : Nat := bits w.toNat 63 56

/-- Bits [hi:lo] of a block. -/
def wbits (w : DWord) (hi lo : Nat) : Nat := bits w.toNat hi lo

-- Time and arrays

def Chip.dom (c : Chip) (d : Nat) : Dom := Assoc.get (fun _ => {}) c.doms d
def Chip.setDom (c : Chip) (d : Nat) (x : Dom) : Chip := { c with doms := Assoc.set (fun _ => {}) c.doms d x }
def Chip.pulse (c : Chip) (n : Nat) : Pulse := Assoc.get (fun _ => {}) c.pulses n
def Chip.setPulse (c : Chip) (n : Nat) (x : Pulse) : Chip :=
  { c with pulses := Assoc.set (fun _ => {}) c.pulses n x }
def Chip.gate (c : Chip) (g : Nat) : Gate := Assoc.get (fun _ => {}) c.gates g
def Chip.setGateSt (c : Chip) (g : Nat) (x : Gate) : Chip := { c with gates := Assoc.set (fun _ => {}) c.gates g x }
def Chip.lane (c : Chip) (l : Nat) : Lane := Assoc.get (fun _ => {}) c.lanes l
def Chip.setLane (c : Chip) (l : Nat) (x : Lane) : Chip := { c with lanes := Assoc.set (fun _ => {}) c.lanes l x }

/-- The hub's time in its own ticks of 1 ns. -/
def Chip.tick (c : Chip) : Nat := c.time / 2

/-- Whole nanoseconds of the hub's FT. -/
def Chip.ftNs (c : Chip) : Nat := (c.dom 1).acc / 2 ^ 40

/-- Whole nanoseconds of the cell's FT replica. -/
def Chip.cellFtNs (c : Chip) : Nat := c.csd.ft / 2 ^ 40

/-- TCNT (R132): the cell's ticks modulo 2^32. -/
def Chip.tcnt (c : Chip) : Nat := c.ctick % 2 ^ 32

/-- An output put on record. -/
def Chip.emit (c : Chip) (o : Sent) : Chip := { c with sent := o :: c.sent }

-- Lanes

/-- The number of a lane end: CL0 to CL191 are 0 to 191, the fabric lanes 192 to 203, LA 204 and LB 205. -/
def laneNum : LaneId → Nat
  | .cl n => n.val
  | .fab p => 192 + p.val
  | .cell .la => 204
  | .cell .lb => 205

def cellLaneNum : CellLane → Nat
  | .la => 204
  | .lb => 205

/-- The address of a lane's register set (R225). -/
def laneBase (l : Nat) : Nat :=
  if l < 192 then 0x1000000 + 0x10000 * l
  else if l < 204 then 0x1C00000 + 0x10000 * (l - 192)
  else 0x40009000 + 0x100 * (l - 204)

/-- The lane's state code in LSTAT (Table 9-10). -/
def Chip.laneState (c : Chip) (l : Nat) : Nat := c.fld (LN_LSTAT_STATE (laneBase l))

/-- A reaction silences the lane (R310). -/
def Chip.silenced (c : Chip) (l : Nat) : Bool :=
  if l < 192 then bit (c.reg (FLT_SILENCED + 4 * (l / 32))) (l % 32)
  else if l < 204 then bit (c.reg FLT_FSIL) (l - 192)
  else if l = 204 then c.flag CFL_REACT_SIL_A
  else c.flag CFL_REACT_SIL_B

/-- Link blocks of Table 9-2: IDLE, BALANCE, CAP, RATE and PWR. A silenced lane still sends them (R310), and bring-up sends
them in every lane state. -/
def linkType (t : Nat) : Bool := t == 1 || t == 2 || t == 8 || t == 9 || t == 10

/-- The clock of a lane's part: 1 ns in the hub, 2.5 ns in the cell (R207). -/
def Chip.laneClock (c : Chip) (l : Nat) : Nat := if l < 204 then c.time / 2 else c.time / 5

/-- A block put at the end of a lane's queue in clock `now` (R207). -/
def Lane.push (ln : Lane) (now p : Nat) (w : DWord) : Lane :=
  { ln with q := ln.q ++ [(p, w)], newAt := now, newN := if ln.newAt == now then ln.newN + 1 else 1 }

/-- The queue with the blocks of which `f` holds. -/
def Lane.keep (ln : Lane) (f : DWord → Bool) : Lane :=
  let n := ln.q.length - ln.newN
  let new := (ln.q.drop n).filter fun x => f x.2
  { ln with q := (ln.q.take n).filter (fun x => f x.2) ++ new, newN := new.length }

/-- The blocks that were queued before clock `now`, and those queued in it. -/
def Lane.available (ln : Lane) (now : Nat) : List (Nat × DWord) × List (Nat × DWord) :=
  ln.q.splitAt (ln.q.length - if ln.newAt == now then ln.newN else 0)

/-- A block put at the end of a lane's queue in this clock (R207). -/
def Chip.pushBlock (c : Chip) (l p : Nat) (w : DWord) : Chip := c.setLane l ((c.lane l).push (c.laneClock l) p w)

/-- A control block queued for sending at priority `p` of R207. A silenced lane discards what it may not send (R310); a
lane that is neither in L0 nor in L1 sends link blocks only; a block queued in L1 returns the lane to L0 (R219). -/
def Chip.queueBlock (c : Chip) (l p : Nat) (w : DWord) : Chip :=
  let st := c.laneState l
  if linkType (blockType w) then c.pushBlock l p w
  else if c.silenced l || !(st == 5 || st == 6) then c
  else (c.when (st == 6) fun c => c.setFld (LN_LSTAT_STATE (laneBase l)) 5).pushBlock l p w

-- The recorder's input (R355, R363)

def isCellCh (ch : Nat) : Bool := 16 ≤ ch
/-- A channel that exists: sixteen in the hub, two in the cell. -/
def chNum (p : Part) (c : Fin 16) : Option Nat := match p with
  | .hub => some c.val
  | .cell => if c.val < 2 then some (16 + c.val) else none
/-- The address of CCTL of a channel; the other registers stand at the offsets of GLS. -/
def chBase (ch : Nat) : Nat := if isCellCh ch then CGS_CCTL (ch - 16) else GLS_CCTL ch
def Chip.chFld (c : Chip) (ch off hi lo : Nat) : Nat := c.fld ⟨chBase ch + off, hi, lo⟩

def Chip.chEn (c : Chip) (ch : Nat) : Bool := c.chFld ch 0 0 0 == 1
def Chip.chMode (c : Chip) (ch : Nat) : Nat := c.chFld ch 0 2 1
def Chip.chState (c : Chip) (ch : Nat) : Nat := c.chFld ch 4 2 0
def Chip.recd (c : Chip) (ch : Nat) : Recd := Assoc.get (fun _ => {}) c.gls.ch ch
def Chip.recdUp (c : Chip) (ch : Nat) (f : Recd → Recd) : Chip :=
  { c with gls := { c.gls with ch := Assoc.set (fun _ => {}) c.gls.ch ch (f (c.recd ch)) } }

/-- ETYPE of a channel's source (Table 16-2). -/
def srcType (cell : Bool) (src : Nat) : Option Nat :=
  if cell then (match src with
    | 0 => some 0x11
    | 1 => some 0x12
    | 2 => some 0x13
    | 3 => some 0x14
    | 4 => some 0x05
    | 5 => some 0x15
    | _ => none)
  else if src < 6 then some (src + 1) else none

/-- The bit of KMASK that selects a block type. -/
def kmaskBit (t : Nat) : Option Nat :=
  if t == 0x41 then some 0 else if t == 0x42 then some 1 else if t == 0x44 then some 2 else if t == 0x48 then some 3
  else if t == 0x51 then some 4 else if t == 0x52 then some 5 else if t == 0x60 then some 6
  else if t == 0x20 || t == 0x21 || (0x24 ≤ t && t ≤ 0x27) then some 7 else none

/-- A channel takes an entry: ETYPE, SRCID and, for lane sources, the block type. -/
def Chip.takes (c : Chip) (ch etype srcid pay : Nat) : Bool :=
  let src := c.chFld ch 0 6 4
  let lane := src < 2
  srcType (isCellCh ch) src == some etype && c.chFld ch 0xC 7 0 ≤ srcid && srcid ≤ c.chFld ch 0xC 15 8
    && (!lane || match kmaskBit (bits pay 63 56) with
      | some i => bit (c.chFld ch 0xC 23 16) i
      | none => false)

/-- An entry joins a channel's input FIFO of 256 entries, or is lost. -/
def Recd.queue (x : Recd) (e : RIn) : Recd :=
  if x.fifo.length < 256 then { x with fifo := x.fifo ++ [{ e with lost := x.lost }], lost := none }
  else { x with lost := some (match x.lost with
    | none => ⟨1, e.ft, e.ft⟩
    | some l => { l with n := l.n + 1, last := e.ft }) }

/-- Entries lost that no GAP stands for yet. -/
def Recd.lostSum (x : Recd) : Nat := (x.fifo.filterMap (·.lost) ++ x.lost.toList).foldl (fun v l => v + l.n) 0

/-- An event reaches the recorder of the hub, or of the cell while its clock runs: each enabled channel that takes it queues it with FT. -/
def Chip.record (c : Chip) (cell : Bool) (etype srcid pay : Nat) : Chip :=
  if cell && c.fire.clkStop then c
  else
    let e : RIn := { ft := if cell then c.cellFtNs else c.ftNs, etype := etype, srcid := srcid, pay := pay }
    c.forEach ((if cell then [16, 17] else List.range 16).filter fun ch => c.chEn ch && c.takes ch etype srcid pay) fun ch c =>
      c.recdUp ch (·.queue e)

/-- A block received or sent on a lane reaches the recorder: cell lanes of the hub, and the lanes of the cell. -/
def Chip.recordBlock (c : Chip) (sent : Bool) (l : Nat) (w : DWord) : Chip :=
  if l < 192 then c.record false (if sent then 2 else 1) l w.toNat
  else if 204 ≤ l then c.record true (if sent then 0x12 else 0x11) (l - 204) w.toNat
  else c

-- Reception

/-- Line rate of a lane in 1/32 bit per nanosecond (Table 9-1). -/
def lineRate (l r : Nat) : Nat :=
  if 192 ≤ l && l < 204 then (if r == 0 then 330 else 825)
  else (match r with
    | 0 => 40
    | 1 => 80
    | 2 => 160
    | _ => 200)

/-- Fewer than `n` blocks of 66 bits have come on a lane since time `t`. -/
def Chip.fewerBlocks (c : Chip) (l n t : Nat) : Bool := (c.time - t) * lineRate l (c.fld (LN_LSTAT_RATE (laneBase l))) < n * 66 * 64

/-- What comes on the lane now is the first block after lock (R204). -/
def Chip.laneFresh (c : Chip) (l : Nat) : Bool := (c.lane l).fresh.any fun t => c.fewerBlocks l 1 t

/-- The first block after lock is gone. -/
def Chip.firstGone (c : Chip) (l : Nat) : Chip := c.setLane l { c.lane l with fresh := none }

/-- A control block received: the first after lock is discarded (R204), one whose check fails is discarded and counted in CHK_ERR (R205). -/
def Chip.rxBlock (c : Chip) (l : Nat) (w : DWord) (f : Chip → Chip) : Chip :=
  if c.laneFresh l then c.firstGone l else if blockOk w then f c else c.bump (LN_CHK_ERR (laneBase l))

/-- As `Chip.rxBlock`, of the types that KMASK names: the block reaches the recorder first (Table 16-2). -/
def Chip.rxSeen (c : Chip) (l : Nat) (w : DWord) (f : Chip → Chip) : Chip := c.rxBlock l w fun c => f (c.recordBlock false l w)

-- Cores

/-- A core's record: Kiosk k is k, the Shed core 16. -/
def Chip.core (c : Chip) (k : Nat) : Core := Assoc.get (fun _ => {}) c.cores k
def Chip.coreUp (c : Chip) (k : Nat) (f : Core → Core) : Chip :=
  { c with cores := Assoc.set (fun _ => {}) c.cores k (f (c.core k)) }

/-- The reset value of a special register (Tables 7-9, 8-6). -/
def srReset (n : Nat) : Nat := if n == 0x23 then 0x20000 else if 0x28 ≤ n && n < 0x2C then 0x40 else 0

/-- A special register of a core as stored. -/
def Chip.sr (c : Chip) (k n : Nat) : Nat := Assoc.get srReset (c.core k).sr n
def Chip.setSr (c : Chip) (k n v : Nat) : Chip :=
  c.coreUp k fun x => { x with sr := Assoc.set srReset x.sr n (v % 2 ^ 32) }

/-- A latched interrupt line of a core becomes pending (Table 7-12). -/
def Chip.latchLine (c : Chip) (k line : Nat) : Chip := c.setSr k 6 (c.sr k 6 ||| 2 ^ line)

-- Orangery pool and ports: what needs no fault

/-- The address of account `a`'s ACCT register (Table 10-11). -/
def acctAddr (a : Nat) : Nat := 0x601000 + 8 * a
def Chip.acctMin (c : Chip) (a : Nat) : Nat := bits (c.reg (acctAddr a)) 12 0
def Chip.acctMax (c : Chip) (a : Nat) : Nat := bits (c.reg (acctAddr a)) 28 16
def Chip.acctUsed (c : Chip) (a : Nat) : Nat := bits (c.reg (acctAddr a + 4)) 12 0

/-- USED set; PEAK follows it upward. -/
def Chip.setUsed (c : Chip) (a n : Nat) : Chip :=
  let v := c.reg (acctAddr a + 4)
  c.setReg (acctAddr a + 4) (insertBits (insertBits v 12 0 n) 28 16 (Nat.max n (bits v 28 16)))

/-- The free counts of the pool, and OFREE with them. -/
def Chip.setFree (c : Chip) (shared rsv : Int) : Chip :=
  ({ c with gth := { c.gth with shared := shared, rsv := rsv } }).setReg ORG_OFREE (rsv.toNat * 2 ^ 16 + shared.toNat)

/-- Buffers of an account that did not come from the reserve. -/
def Chip.plainHeld (c : Chip) (a : Nat) : Nat := c.acctUsed a - Assoc.get (fun _ => 0) c.gth.rsvHeld a

/-- An account's own part of the pool: its minimum, or what it holds beyond it (R244). -/
def ownPart (min held : Nat) : Int := Nat.max min held

/-- Buffer `b` of the pool. -/
def Chip.buf (c : Chip) (b : Nat) : Option Buf := Assoc.get (fun _ => none) c.gth.bufs b
def Chip.setBuf (c : Chip) (b : Nat) (x : Option Buf) : Chip :=
  { c with gth := { c.gth with bufs := Assoc.set (fun _ => none) c.gth.bufs b x } }

/-- A charge taken off an account; a buffer of the reserve returns to the reserve (R244). -/
def Chip.uncharge (c : Chip) (a : Nat) (rsv : Bool) : Chip :=
  if rsv then
    let h := Assoc.get (fun _ => 0) c.gth.rsvHeld a
    let c := { c with gth := { c.gth with rsvHeld := Assoc.set (fun _ => 0) c.gth.rsvHeld a (h - 1) } }
    (c.setUsed a (c.acctUsed a - 1)).setFree c.gth.shared (c.gth.rsv + 1)
  else
    let h := c.plainHeld a
    (c.setUsed a (c.acctUsed a - 1)).setFree
      (c.gth.shared + ownPart (c.acctMin a) h - ownPart (c.acctMin a) (h - 1)) c.gth.rsv

/-- One holder of a buffer lets it go; the last one frees it. -/
def Chip.releaseBuf (c : Chip) (b : Nat) : Chip :=
  match c.buf b with
  | none => c
  | some x => if x.refs ≤ 1 then (c.setBuf b none).uncharge x.acct x.rsv else c.setBuf b (some { x with refs := x.refs - 1 })

def Chip.port (c : Chip) (p : Nat) : Port := Assoc.get (fun _ => {}) c.gth.ports p
def Chip.setPort (c : Chip) (p : Nat) (x : Port) : Chip :=
  { c with gth := { c.gth with ports := Assoc.set (fun _ => {}) c.gth.ports p x } }

/-- The cell is dual-homed (R17). -/
def Chip.dual (c : Chip) : Bool := c.flag CGL_CCFG_HOMING

/-- The active lane in force is LB (R224); a single-homed cell uses LA only (R17). -/
def Chip.activeB (c : Chip) : Bool := c.dual && c.fire.activeB

end Sys2Proof.Machine
end

