-- ==== Sys2Proof/Machine/Frames.lean ====
section
/-!
DEFINITION. Fabric frames as words and bytes (R227, R228), and the ends of their copies at the output ports (R230, R233, R243).
-/
namespace Sys2Proof.Machine

-- Header and bytes

/-- A header word. -/
def hw (h : List Word) (i : Nat) : Nat := (h.getD i 0).toNat
def fKind (h : List Word) : Nat := bits (hw h 0) 7 0
def fCtl (h : List Word) : Bool := bit (hw h 0) 8
def fMc (h : List Word) : Bool := bit (hw h 0) 9
def fTtl (h : List Word) : Nat := bits (hw h 0) 15 12
def fDst (h : List Word) : Nat := bits (hw h 0) 25 16
def fSrc (h : List Word) : Nat := bits (hw h 1) 9 0
def fQueue (h : List Word) : Nat := bits (hw h 1) 15 14
def fCore (h : List Word) : Nat := bits (hw h 1) 19 16
def fTx (h : List Word) : Bool := bit (hw h 1) 20
def fSeq (h : List Word) : Nat := bits (hw h 2) 23 0
def fPlen (h : List Word) : Nat := bits (hw h 3) 11 0

/-- The level of a frame (Table 10-2): 0 urgent, 1 control, 2 bulk. -/
def fLevel (h : List Word) : Nat :=
  let k := fKind h
  if k == 0x18 || k == 0x19 || k == 0x28 then 0 else if fCtl h then 1 else 2

/-- The bytes of a header's words 0 to 6, over which HCHK is taken. -/
def hdrBytes (h : List Word) : List Byte := ((List.range 7).map fun i => bytesLE 4 (hw h i)).flatten

/-- A header with word `i` replaced. -/
def setHw (h : List Word) (i v : Nat) : List Word := h.set i (BitVec.ofNat 32 v)

/-- A header with its HCHK. -/
def withHchk (h : List Word) : List Word := setHw h 7 (crc16 (hdrBytes h))

/-- The header of a forwarded copy: TTL decreased by one, HCHK recomputed (R229). -/
def fwdHdr (h : List Word) : List Word := withHchk (setHw h 0 (insertBits (hw h 0) 15 12 (fTtl h - 1)))

/-- A header of a frame that this hub originates (Table 10-1). -/
def mkHdr (kind : Nat) (ctl mc : Bool) (planes ttl dst src score queue core : Nat) (tx : Bool) (seq plen k4 k5 : Nat) : List Word :=
  withHchk ([kind + b2n ctl * 2 ^ 8 + b2n mc * 2 ^ 9 + planes * 2 ^ 10 + ttl * 2 ^ 12 + dst * 2 ^ 16,
    src + score * 2 ^ 10 + queue * 2 ^ 14 + core * 2 ^ 16 + b2n tx * 2 ^ 20, seq, plen, k4, k5, 0, 0].map (BitVec.ofNat 32))

/-- A frame length from the bytes it holds: padded to a multiple of 8 and to 64 (R227). -/
def padLen (n : Nat) : Nat := Nat.max 64 ((n + 7) / 8 * 8)

/-- The length of the frame that a header announces. -/
def frameLen (h : List Word) : Nat := padLen (32 + (if fTx h then 32 else 0) + fPlen h)

/-- The bytes of a whole frame: header, time extension, payload, and padding (R227). -/
def frameBytes (h : List Word) (ext payload : List Byte) : List Byte :=
  let l := ((List.range 8).map fun i => bytesLE 4 (hw h i)).flatten ++ ext ++ payload
  l ++ List.replicate (padLen l.length - l.length) 0

/-- Bytes as data blocks, eight to a block from bit 63 down, the last padded with zeros. -/
def dataWords : Nat → List Byte → List DWord
  | 0, _ => []
  | n + 1, l =>
    let h := l.take 8
    BitVec.ofNat 64 (natBE (h ++ List.replicate (8 - h.length) 0)) :: dataWords n (l.drop 8)

/-- The bytes that data blocks carry. -/
def wordsBytes (l : List DWord) : List Byte := l.flatMap fun w => bytesBE 8 w.toNat

/-- EOF of a frame: its CRC field and SUSP. -/
def mkEof (crc : Nat) (susp : Bool) : DWord := mkBlock 0x13 (crc * 2 ^ 12 + b2n susp * 2 ^ 11)

/-- An EOF that fails, after the bytes `l` (R231, R233). -/
def failEof (l : List Byte) : DWord := mkEof (crc32 l ^^^ 0xFFFFFFFF) false

/-- An EOF that suspends a frame after the bytes `l` (R232). -/
def suspEof (l : List Byte) : DWord := mkEof (crc32 l) true

/-- GATHER and RANKS are suspended, not sent again (R232). -/
def QFrame.planning (f : QFrame) : Bool := fKind f.hdr == 0x10 || fKind f.hdr == 0x11

/-- The data words of a copy: all of them, or those of what has come. -/
def QFrame.words (f : QFrame) : List DWord :=
  let n := f.upto.getD (frameLen f.hdr / 8)
  dataWords n (frameBytes f.hdr f.ext f.payload)

/-- What must follow a part of a frame that has been sent on its port: SEQ and OFF of the continuation (R232). -/
def QFrame.awaits (f : QFrame) : Option (Nat × Nat) :=
  match f.upto, f.eof with
  | some n, none => if f.hold then none else some (fSeq f.hdr, n)
  | _, _ => none

/-- The copy of a frame from port `src` whose EOF will not come (R233, R243). -/
def QFrame.opened (src : Nat) (f : QFrame) : Bool := f.hold && f.from_.any fun y => y.1 == src

/-- The copy of a suspended part from port `src`. -/
def QFrame.partOf (src : Nat) (f : QFrame) : Bool := f.upto.isSome && !f.hold && f.from_.any fun y => y.1 == src

-- Output ports: ends of transmissions

/-- Every frame queued for a port discarded, the one in transmission apart. -/
def Chip.clearPortQ (c : Chip) (p : Nat) : Chip :=
  let x := c.port p
  (c.setPort p { x with q := [] }).forEach x.q fun f c => c.releaseBuf f.buf

/-- The transmission on a port has ended: its copy has left the buffer. -/
def Chip.portDone (c : Chip) (p : Nat) : Chip :=
  let x := c.port p
  match x.cur with
  | none => c
  | some f => (c.setPort p { x with cur := none, await := if f.level == 0 then x.await else f.awaits }).releaseBuf f.buf

/-- A frame whose SOF has not left is taken off its lane. -/
def Chip.unsend (c : Chip) (p : Nat) : Chip :=
  let ln := c.lane (192 + p)
  c.setLane (192 + p) ({ ln with msgs := [] }.keep fun w => blockType w != 0x12)

/-- What has been sent of the frame in transmission on a port. -/
def TxMsg.sent (m : TxMsg) : List DWord := m.all.take (m.all.length - m.words.length)

/-- The frame in transmission on a port ends after the words sent, with the EOF that `fin` gives for their bytes. -/
def Chip.cutCur (c : Chip) (p : Nat) (fin : List Byte → DWord) : Chip :=
  let ln := c.lane (192 + p)
  match ln.msgs with
  | [] => c
  | m :: ms =>
    let e := fin (wordsBytes m.sent)
    let ln := { ln with msgs := { m with words := [], fin := e, hold := false } :: ms }.keep fun w => blockType w != 0x13
    c.setLane (192 + p) (ln.push (c.laneClock (192 + p)) 6 e)

/-- The copies on port `p` that `mine` names are given up: those that wait are discarded, one in transmission is ended with an EOF that
fails. -/
def Chip.endCopiesOn (c : Chip) (mine : QFrame → Bool) (p : Nat) : Chip :=
  let x := c.port p
  let c := (c.setPort p { x with q := x.q.filter fun f => !mine f }).forEach (x.q.filter mine) fun f c => c.releaseBuf f.buf
  match x.cur, (c.lane (192 + p)).msgs with
  | some f, m :: _ =>
    if !mine f then c
    else if m.begun then (c.setPort p { c.port p with cur := some { f with hold := false, upto := none } }).cutCur p failEof
    else ((c.unsend p).setPort p { c.port p with cur := none }).releaseBuf f.buf
  | _, _ => c

/-- The reception of a frame on a port ends without its EOF: so do its copies. -/
def Chip.dropComing (c : Chip) (p : Nat) : Chip :=
  match (c.port p).rxBuf with
  | none => c
  | some b =>
    let c := c.forEach (List.range 12) fun q c => c.endCopiesOn (QFrame.opened p) q
    (c.setPort p { c.port p with rxBuf := none }).releaseBuf b

/-- A port awaits no continuation any more. -/
def Chip.awaitsNot (c : Chip) (p : Nat) : Chip := c.setPort p { c.port p with await := none }

/-- The suspended part received on a port is discarded with its copies: no port awaits its continuation any more. -/
def Chip.dropPart (c : Chip) (p : Nat) : Chip :=
  match (c.port p).part with
  | none => c
  | some x =>
    let c := c.forEach x.outs fun q c => (c.endCopiesOn (QFrame.partOf p) q).awaitsNot q
    (c.setPort p { c.port p with part := none }).releaseBuf x.buf

end Sys2Proof.Machine
end

