-- ==== Sys2Proof/Machine/Gates.lean ====
section
/-!
DEFINITION. The gate outputs of the cell: patterns, transitions with dead time, BLOCK, the bypass pattern, and the start of
the bypass sequence (R132 to R136, R144, R147, R293 to R295).
-/
namespace Sys2Proof.Machine

/-- The cell is full-bridge (R82). -/
def Chip.fullBridge (c : Chip) : Bool := c.flag CGL_CCFG_FB

/-- The cell state, coded as LSTAT.STATE (Table 4-5). -/
def Chip.cellState (c : Chip) : Nat := c.fld LDG_LSTAT_STATE

/-- The cell is in BLOCK or OFFLINE: every state but these is a switching state. -/
def Chip.blocked (c : Chip) : Bool := c.cellState == 0 || c.cellState == 1

/-- Gate levels of a state, bit g for GATEg (Table 6-1). -/
def Chip.pattern (c : Chip) (state : Nat) : Nat :=
  match state with
  | 2 => if c.fullBridge then (if c.flag PWM_PCTL_FB_BYP then 0b0101 else 0b1010) else 0b0010
  | 3 => if c.fullBridge then 0b1001 else 0b0001
  | 4 => if c.fullBridge then 0b0110 else 0b0000
  | _ => 0

/-- The outputs are frozen by a debug halt or a stopped timing clock (R147). -/
def Chip.frozen (c : Chip) : Bool := c.flag PWM_PSTAT_HALTED || c.fire.clkStop

/-- The level driven on a gate output. -/
def Chip.gateLevel (c : Chip) (g : Nat) : Bool := bit (c.fld PWM_PSTAT_GATE) g

/-- The other gate of the leg. -/
def partner (g : Nat) : Nat := if g % 2 == 0 then g + 1 else g - 1

/-- The edges of an input's blanking windows with one more at tick `t`: the earlier ones that a filtered assertion can still fall behind
stay (R144, R291). -/
def edgeAdd (t : Nat) (l : List Nat) : List Nat :=
  t :: (l.filter (fun e => t ≤ e + 64) ++ (l.filter fun e => e + 64 < t).take 1)

/-- An edge of output `g` at this tick: blanking windows whose GMASK has the output start (R144), and the read-back pause
starts (R289). The edge reaches the recorder with the levels before and after (Table 16-2). -/
def Chip.gateEdge (c : Chip) (g : Nat) : Chip :=
  let now := c.fld PWM_PSTAT_GATE
  let c := c.record true 0x14 0 ((now ^^^ 2 ^ g) + now * 2 ^ 4 + c.tcnt * 2 ^ 32)
  let c := c.setGateSt g { c.gate g with edgeAt := some c.ctick }
  c.forEach [0, 1, 2, 3] fun n c =>
    c.when (bit (c.reg (PWM_TB0 + 4 * n)) (16 + g) && bits (c.reg (PWM_TB0 + 4 * n)) 11 0 != 0) fun c =>
      { c with fire := { c.fire with
          blankAt := Assoc.set (fun _ => []) c.fire.blankAt n (edgeAdd c.ctick (Assoc.get (fun _ => []) c.fire.blankAt n))
          blankOpen := Assoc.set (fun _ => false) c.fire.blankOpen n true } }

/-- PSTAT.GATE with the level of output `g` set. -/
def Chip.putLevel (c : Chip) (g : Nat) (h : Bool) : Chip :=
  let v := c.fld PWM_PSTAT_GATE
  c.setFld PWM_PSTAT_GATE (if h then v ||| 2 ^ g else v &&& (15 - 2 ^ g))

/-- An output driven L: a pending turn-on is cancelled, and an output that was H has an edge. -/
def Chip.gateOff (c : Chip) (g : Nat) : Chip :=
  let c := c.setGateSt g { c.gate g with due := none }
  if c.gateLevel g then
    ((c.putLevel g false).setGateSt g { c.gate g with offAt := c.ctick }).gateEdge g
  else c

/-- An output driven H: an output that was L has an edge, counted in SWCNT (R153). -/
def Chip.gateOn (c : Chip) (g : Nat) : Chip :=
  let c := c.setGateSt g { c.gate g with due := none }
  if c.gateLevel g then c
  else
    let n := Nat.min ((c.reg64 PWM_SWCNT) % 2 ^ 48 + 1) (2 ^ 48 - 1)
    ((c.putLevel g true).setReg64 PWM_SWCNT n).gateEdge g

/-- An H-bound output: on at once when its partner has been off for DEAD ticks or more, else pending until then (R134), or until the
timing clock returns (R132). -/
def Chip.gateWant (c : Chip) (g : Nat) : Chip :=
  if c.gateLevel g then c
  else
    let due := (c.gate (partner g)).offAt + c.fld PWM_DEADT_DEAD
    if due ≤ c.ctick && !c.fire.clkStop then c.gateOn g else c.setGateSt g { c.gate g with due := some due }

/-- Some gate edge is pending: a turn-on, the end of a vernier pulse, or that of a free-mode pulse (R140). -/
def Chip.edgePending (c : Chip) : Bool :=
  [0, 1, 2, 3].any (fun g => (c.gate g).due.isSome) || c.fire.vernEnd.isSome
    || (c.flag PWM_PCTL_MODE && [0, 1].any fun n => Assoc.get (fun _ => false) c.fire.legPulse n)

/-- PSTAT.PEND as it now stands. -/
def Chip.refreshPend (c : Chip) : Chip := c.setFld PWM_PSTAT_PEND (b2n c.edgePending)

/-- A transition to a pattern (R134): first every L-bound gate off, then every H-bound gate on or pending. -/
def Chip.transition (c : Chip) (pat : Nat) : Chip :=
  let c := c.forEach [0, 1, 2, 3] fun g c => c.when (!bit pat g) (·.gateOff g)
  let c := c.forEach [0, 1, 2, 3] fun g c => c.when (bit pat g) (·.gateWant g)
  c.refreshPend

/-- The levels of the outputs with the pending turn-ons that `p` picks; a vernier pulse in progress counts by the bypass pattern after
its end (R137). -/
def Chip.patternBy (c : Chip) (p : Nat → Bool) : Nat :=
  if c.fire.vernEnd.isSome then c.pattern 2
  else [0, 1, 2, 3].foldl (fun v g => if (c.gate g).due.any p then v ||| 2 ^ g else v) (c.fld PWM_PSTAT_GATE)

/-- The levels that the outputs are to drive once every planned edge has come. -/
def Chip.patternNow (c : Chip) : Nat := c.patternBy fun _ => true

/-- pattern_now of R137: the levels that the outputs are to drive in the tick before tick `e`, by the edges already planned and by the
slots resolved that are to be executed before it. -/
def Chip.patternAt (c : Chip) (e : Nat) : Nat :=
  c.fire.plans.foldl (fun v (p : Plan) => match p.act with
    | .go st => c.pattern st
    | .pulse .. => c.pattern 2
    | _ => v) (c.patternBy fun d => d < e)

/-- The cell state set, with SUPP as a REPORT gives it: suppressed in BLOCK, OFFLINE, under a latched reaction, in free mode,
or in a debug halt (Table 4-5, R80, R139). -/
def Chip.setState (c : Chip) (st : Nat) : Chip :=
  let c := { c.setFld LDG_LSTAT_STATE st with fire := { c.fire with sddHeld := none } }
  let supp := st == 0 || st == 1 || c.flag CFL_REACT_BLK || c.flag CFL_REACT_BYP || c.flag CFL_REACT_HLD
    || c.flag PWM_PCTL_MODE || c.flag PWM_PSTAT_HALTED
  c.setFld LDG_LSTAT_SUPP (b2n supp)

/-- A vernier end that is still pending, cancelled. -/
def Chip.dropVern (c : Chip) : Chip := { c with fire := { c.fire with vernEnd := none } }

/-- Resolved slots that wait execute nothing. -/
def Chip.idlePlans (c : Chip) : Chip :=
  { c with fire := { c.fire with plans := c.fire.plans.map fun (p : Plan) => { p with act := Act.idle } } }

/-- An SDD mask applies to a polarity (R346): positive, or negative. -/
def Chip.sddMasked (c : Chip) (neg : Bool) : Bool := if neg then c.flag CHH_HSTAT_MASK_NEG else c.flag CHH_HSTAT_MASK_POS

/-- State `st` inserts at a polarity that a mask removes. -/
def Chip.sddOff (c : Chip) (st : Nat) : Bool := (st == 3 && c.sddMasked false) || (st == 4 && c.sddMasked true)

/-- The gates taken to the pattern of a state, or to BYPASS where a mask removes its polarity (R346). -/
def Chip.goState (c : Chip) (st : Nat) : Chip :=
  let c := c.dropVern
  if c.sddOff st then
    let c := (c.transition (c.pattern 2)).setState 2
    { c with fire := { c.fire with sddHeld := some st } }
  else (c.transition (c.pattern st)).setState st

/-- BLOCK (R135): every gate output L in one tick, every pending edge cancelled. An OFFLINE cell stays OFFLINE. -/
def Chip.blockGates (c : Chip) : Chip :=
  let c := (c.forEach [0, 1, 2, 3] fun g c => c.gateOff g).dropVern
  let c := c.idlePlans
  (c.setState (if c.cellState == 0 then 0 else 1)).refreshPend

/-- The start of the bypass sequence (R293, R294): ignored and counted while a sequence runs; nothing starts while the timing
clock is stopped (R295), or while the TAP holds the outputs inactive (R383). -/
def Chip.startBypass (c : Chip) : Chip :=
  if c.flag TRL_TSTAT_BYP_RUN then c.bump TRL_BYP_REPEAT
  else if c.fire.clkStop || c.sys.stopCell then c
  else { c.raiseFlag TRL_TSTAT_BYP_RUN with
    trl := { c.trl with bypStart := c.ctick, bypfSt := 0, bypcSt := 0, confAt := none } }

/-- The gate side of a BYPASS reaction (R136, R147): to the bypass pattern from this tick, a pending vernier end cancelled; in a debug
halt the pending edges of that move still come.
A cell in BLOCK or OFFLINE keeps its gates L (R13, R23). A stopped clock carries out nothing (R149). -/
def Chip.bypassGates (c : Chip) : Chip :=
  if c.fire.clkStop || c.blocked then c
  else
    let c := c.dropVern
    let c := c.idlePlans
    let c := c.when (c.flag PWM_PSTAT_HALTED) fun c => { c with fire := { c.fire with haltByp := true } }
    (c.transition (c.pattern 2)).setState 2

end Sys2Proof.Machine
end

