-- ==== Sys2Proof/Machine/Raise.lean ====
section
/-!
DEFINITION. Raising a fault source: flag, class state and escalation, counters, log, and the standing order's reactions
(R302 to R315). Every command that detects a fault calls `Chip.raiseHub` or `Chip.raiseCell`.
-/
namespace Sys2Proof.Machine

/-- A field that is no bit of the register: for a source without a flag of its own. -/
def noFlag (a : Nat) : Fld := ⟨a, 0, 1⟩

/-- An MSI-X message: sent, or put off in the PBA while its vector is masked or the link is down (R375). -/
def Chip.msix (c : Chip) (v : Nat) : Chip :=
  if bit (c.reg (PCI_MSIX v + 12)) 0 || !c.flag PCI_PSTAT_LINK then
    c.setReg (PCI_PBA (v / 32)) (c.reg (PCI_PBA (v / 32)) ||| 2 ^ (v % 32))
  else c.emit (.msix v)

/-- A FAULT_N reaction: the pin is asserted until FN_WIDTH us from now (R312). -/
def Chip.faultNPulse (c : Chip) (p : Part) : Chip :=
  match p with
  | .hub =>
    let w := Nat.max (c.fld FLT_FCTL_FN_WIDTH) 1
    { (((c.raiseFlag FLT_FSTAT_FN_PULSE).raiseFlag FLT_FSTAT_FN_DRIVE).raiseFlag FLT_FSTAT_FN_PIN) with
      fnEndHub := c.time + 2000 * w }
  | .cell =>
    let w := Nat.max (c.fld CFL_FCTL_FN_WIDTH) 1
    { (((c.raiseFlag CFL_FSTAT_FN_PULSE).raiseFlag CFL_FSTAT_FN_DRIVE).raiseFlag CFL_FSTAT_FN_PIN) with
      fnEndCell := c.time + 2000 * w }

/-- MSG_END or EOF with its CRC-32 inverted (R310). -/
def badEnd (w : DWord) : DWord := mkBlock (blockType w) ((wbits w 55 12) ^^^ 0xFFFFFFFF000)

/-- A lane falls silent: what it may not send is discarded; a message in transmission is ended with an inverted CRC-32 (R310). -/
def Chip.muteLane (c : Chip) (l : Nat) : Chip :=
  let ln := (c.lane l).keep fun w => linkType (blockType w)
  match ln.msgs with
  | m :: _ =>
    if m.begun then
      let fin := badEnd m.fin
      c.setLane l ({ ln with msgs := [{ m with words := [], fin := fin, hold := false }] }.push (c.laneClock l) 6 fin)
    else (c.setLane l { ln with msgs := [] }).when (l < 192) fun c => c.clrFlag (LN_LSTAT_MTX_BUSY (laneBase l))
  | [] => c.setLane l ln

/-- A fabric port falls silent: its queued frames are discarded, and a frame in transmission that has not begun (R310). -/
def Chip.mutePort (c : Chip) (p : Nat) : Chip :=
  let c := (c.clearPortQ p).muteLane (192 + p)
  if (c.lane (192 + p)).msgs.isEmpty then c.portDone p else c

/-- GO of MBX_TX clears once no copy of the message waits on either lane (R226, R310). -/
def Chip.mbxDone (c : Chip) : Chip :=
  if ((c.lane 204).msgs ++ (c.lane 205).msgs).any (fun m => wbits m.start 43 40 == 4) then c
  else c.clrFlag CLN_MBX_TX_GO

/-- The cell lanes of BND LANEMAP. -/
def Chip.laneMap (c : Chip) : List Nat :=
  (List.range 192).filter fun n => bit (c.reg (BND_LANEMAP + 4 * (n / 32))) (n % 32)

/-- LANE_SILENCE ordered by hub block `b`, instance `i` (R310). -/
def Chip.silenceHub (c : Chip) (b i : Nat) : Chip :=
  let ls := if b == 13 then [i] else if b == 14 then [192 + i] else c.laneMap
  let c := c.forEach ls fun l c =>
    if l < 192 then
      (c.setReg (FLT_SILENCED + 4 * (l / 32)) (c.reg (FLT_SILENCED + 4 * (l / 32)) ||| 2 ^ (l % 32))).muteLane l
    else (c.setReg FLT_FSIL (c.reg FLT_FSIL ||| 2 ^ (l - 192))).mutePort (l - 192)
  c.setReg FLT_SILBY (c.reg FLT_SILBY ||| 2 ^ b)

/-- LANE_SILENCE ordered by cell block `b` (R310). -/
def Chip.silenceCell (c : Chip) (b : Nat) : Chip :=
  let c := c.when (b != 10) fun c => (c.raiseFlag CFL_REACT_SIL_A).muteLane 204
  let c := c.when (b != 9) fun c => (c.raiseFlag CFL_REACT_SIL_B).muteLane 205
  (c.setReg CFL_SIL_BY (c.reg CFL_SIL_BY ||| 2 ^ b)).mbxDone

/-- The class a fault takes, and whether it was escalated (R304). `pend` holds PEND_C, PEND_K, PEND_F in bits 0 to 2. -/
def escalate (cls pend : Nat) : Nat × Bool :=
  if cls < 3 && bit pend (cls - 1) then (cls + 1, true) else (cls, false)

/-- CSTATE with the pending bit of the class set, and its IRQ bit where the reaction asks for it. -/
def pendWord (v cls : Nat) (irq : Bool) : Nat :=
  let v := v ||| 2 ^ (cls - 1)
  if irq then v ||| 2 ^ (cls + 3) else v

/-- Reactions of a standing-order entry for a class (Table 14-3). -/
def entryField (entry cls : Nat) : Nat := bits entry (8 * cls - 1) (8 * cls - 8)

/-- How many check bits of an entry are inverted: 0 none, 1 single-bit, 2 double-bit (R316, R317). -/
def eccKind (mask : Nat) : Nat := Nat.min 2 (((List.range 8).filter fun i => bit mask i).length)

/-- Word 2 of a log entry (Table 14-5). -/
def logWord2 (s cls : Nat) (esc : Bool) (i acts : Nat) (rc : Bool) (upb : Nat) : Nat :=
  s + cls * 2 ^ 5 + b2n esc * 2 ^ 7 + i % 256 * 2 ^ 8 + acts * 2 ^ 16 + b2n rc * 2 ^ 24 + upb * 2 ^ 25

/-- A log entry of hub block `b` (R315). -/
def Chip.logHub (c : Chip) (b w2 w3 : Nat) : Chip :=
  let wr := c.fld (FLT_LOGCTL_WR_IDX b)
  let c := (c.setWords (FLT_LOGE b wr) [c.ftNs, c.ftNs / 2 ^ 32, w2, w3]).record false 5 b (w2 % 2 ^ 32 + w3 % 2 ^ 32 * 2 ^ 32)
  let wr := (wr + 1) % 1024
  let c := c.setFld (FLT_LOGCTL_WR_IDX b) wr
  if wr == c.fld (FLT_LOGCTL_RD_IDX b) then
    (c.setFld (FLT_LOGCTL_RD_IDX b) ((wr + 1) % 1024)).bump (FLT_LOST b)
  else c

/-- A log entry of cell block `b` (R315). -/
def Chip.logCell (c : Chip) (b w2 w3 : Nat) : Chip :=
  let wr := c.fld (CFL_LOGCTL_WR_IDX b)
  let v := c.cellFtNs % 2 ^ 64 + w2 * 2 ^ 64 + w3 * 2 ^ 96
  let c := { c with cellLog := Assoc.set (fun _ => 0) c.cellLog (256 * b + wr) (BitVec.ofNat 128 v) }
  let c := c.record true 5 b (w2 % 2 ^ 32 + w3 % 2 ^ 32 * 2 ^ 32)
  let wr := (wr + 1) % 256
  let c := c.setFld (CFL_LOGCTL_WR_IDX b) wr
  if wr == c.fld (CFL_LOGCTL_RD_IDX b) then
    (c.setFld (CFL_LOGCTL_RD_IDX b) ((wr + 1) % 256)).bump (CFL_LOST b)
  else c

/-- The number of a block's class state: only the lanes and the cores keep one per instance (R303). -/
def stateNum (b i : Nat) : Nat := if 13 ≤ b then i else 0

/-- Class state, counts, reactions and log of one fault in hub block `b`, with the standing-order entry given: the new
chipset, the class after escalation, and word 2 of the log entry. -/
def Chip.reactHub (c : Chip) (b s i cls entry upb w3 : Nat) : Chip × Nat × Nat :=
  let st := FLT_CSTATE b (stateNum b i)
  let old := c.reg st
  let e := escalate cls old
  let acts := entryField entry e.1
  let c := c.setReg st (pendWord old e.1 (bit acts 0))
  let c := c.when e.2 (·.bump (FLT_ESC_CNT b))
  let c := c.bump (if e.1 == 1 then FLT_CNT_C b else if e.1 == 2 then FLT_CNT_K b else FLT_CNT_F b)
  let c := c.when (bit acts 0 && !bit old (e.1 + 3) && c.flag (FLT_IRQDST_HOST b)) fun c =>
    c.msix (c.fld (FLT_IRQDST_VEC b))
  let c := c.when (bit acts 1) (·.faultNPulse .hub)
  let c := c.when (bit acts 5) (·.silenceHub b i)
  let c := c.when (bit acts 7 && b == 9) fun c => { c with takeDue := true }
  let w2 := logWord2 s e.1 e.2 i acts false upb
  (c.logHub b w2 w3, e.1, w2)

/-- The entry of a source as looked up, the class of the SO_ECC that this raises in FLT (0: none), and the chipset: a single-bit error is
corrected, a double-bit error reads as NONE (R317). -/
def Chip.lookupHub (c : Chip) (b s : Nat) : Nat × Nat × Chip :=
  let a := FLT_ENTRY b s
  if b == 9 && s == 16 then (c.reg a, 0, c)
  else
    match eccKind (Assoc.get (fun _ => 0) c.hubEcc a) with
    | 0 => (c.reg a, 0, c)
    | 1 => (c.reg a, 1, { c with hubEcc := Assoc.set (fun _ => 0) c.hubEcc a 0 })
    | _ => (0, 3, c)

/-- SO_ECC of FLT, of class `cls`; none for 0. -/
def Chip.soEccHub (c : Chip) (cls : Nat) : Chip :=
  if cls == 0 then c else (c.reactHub 9 16 0 cls (c.reg (FLT_ENTRY 9 16)) 0 (c.reg FLT_FSTAT)).1

/-- The source number of UP_b in FLT and CFL (R311). -/
def upSource (b : Nat) : Nat := if b == 0 then 17 else b

/-- A source raised in a hub block, instance `i` (R302): its flag, then class state and standing order, then REPORT_UP. What it raises in FLT is
handled in ascending order of source number (R305). -/
def Chip.raiseHub (c : Chip) (x : Src) (i : Nat := 0) : Chip :=
  let c := c.setFld x.flag 1
  let l := c.lookupHub x.blk x.src
  let r := l.2.2.reactHub x.blk x.src i x.cls l.1 0 (l.2.2.reg x.flag.addr)
  if bit (entryField l.1 r.2.1) 6 && x.blk != 9 then
    let s := upSource x.blk
    let l' := r.1.lookupHub 9 s
    let ecc (c : Chip) : Chip := (c.soEccHub l.2.1).soEccHub l'.2.1
    let c := if 16 < s then ecc l'.2.2 else l'.2.2
    let c := (c.reactHub 9 s i r.2.1 l'.1 x.blk r.2.2).1
    if 16 < s then c else ecc c
  else r.1.soEccHub l.2.1

/-- The gate reactions and latches of a cell block (R308, R309, R23). -/
def Chip.gateReactions (c : Chip) (b acts : Nat) : Chip :=
  let c := c.when (bit acts 2) fun c =>
    ((c.raiseFlag CFL_REACT_BLK).setReg CFL_BLK_BY (c.reg CFL_BLK_BY ||| 2 ^ b)).blockGates
  let c := c.when (bit acts 4) fun c =>
    let c := (c.raiseFlag CFL_REACT_HLD).setReg CFL_HLD_BY (c.reg CFL_HLD_BY ||| 2 ^ b)
    c.setState c.cellState
  c.when (bit acts 3 && !c.fire.clkStop) fun c =>
    let c := (c.raiseFlag CFL_REACT_BYP).bypassGates
    (c.setState c.cellState).startBypass

/-- As `Chip.reactHub`, for a cell block. -/
def Chip.reactCell (c : Chip) (b s cls entry : Nat) (rc : Bool) (upb w3 : Nat) : Chip × Nat × Nat :=
  let old := c.reg (CFL_CSTATE b)
  let e := escalate cls old
  let acts := entryField entry e.1
  let c := c.setReg (CFL_CSTATE b) (pendWord old e.1 (bit acts 0))
  let c := c.when e.2 (·.bump (CFL_ESC_CNT b))
  let c := c.bump (if e.1 == 1 then CFL_CNT_C b else if e.1 == 2 then CFL_CNT_K b else CFL_CNT_F b)
  let c := c.when (bit acts 1) (·.faultNPulse .cell)
  let c := c.gateReactions b acts
  let c := c.when (bit acts 5) (·.silenceCell b)
  let w2 := logWord2 s e.1 e.2 0 acts rc upb
  (c.logCell b w2 w3, e.1, w2)

/-- As `Chip.lookupHub`, for CFL. -/
def Chip.lookupCell (c : Chip) (b s : Nat) : Nat × Nat × Chip :=
  let a := CFL_ENTRY b s
  if b == 6 && s == 16 then (c.reg a, 0, c)
  else
    match eccKind (Assoc.get (fun _ => 0) c.cellEcc a) with
    | 0 => (c.reg a, 0, c)
    | 1 => (c.reg a, 1, { c with cellEcc := Assoc.set (fun _ => 0) c.cellEcc a 0 })
    | _ => (0, 3, c)

/-- SO_ECC of CFL, of class `cls`; none for 0. -/
def Chip.soEccCell (c : Chip) (cls : Nat) (rc : Bool) : Chip :=
  if cls == 0 then c else (c.reactCell 6 16 cls (c.reg (CFL_ENTRY 6 16)) rc 0 (c.reg CFL_FSTAT)).1

/-- A source raised in a cell block while the timing clock runs, or on its return with `rc`; as `Chip.raiseHub`. -/
def Chip.raiseCellNow (c : Chip) (x : Src) (rc : Bool := false) : Chip :=
  let c := c.setFld x.flag 1
  let l := c.lookupCell x.blk x.src
  let r := l.2.2.reactCell x.blk x.src x.cls l.1 rc 0 (l.2.2.reg x.flag.addr)
  if bit (entryField l.1 r.2.1) 6 && x.blk != 6 then
    let s := upSource x.blk
    let l' := r.1.lookupCell 6 s
    let ecc (c : Chip) : Chip := (c.soEccCell l.2.1 rc).soEccCell l'.2.1 rc
    let c := if 16 < s then ecc l'.2.2 else l'.2.2
    let c := (c.reactCell 6 s r.2.1 l'.1 rc x.blk r.2.2).1
    if 16 < s then c else ecc c
  else r.1.soEccCell l.2.1 rc

/-- CLK_STOP of PWM and VAUX_UV of TRL: the sources with a copy of their native-class BLOCK bit in the RC domain (R314). -/
def rcPath (x : Src) : Bool := (x.blk == 3 && x.src == 0) || (x.blk == 5 && x.src == 7)

/-- A source raised in a cell block (R302). While the timing clock is stopped the fault is held, one per source, and only an
armed native-class BLOCK of CLK_STOP and VAUX_UV is carried out (R314). -/
def Chip.raiseCell (c : Chip) (x : Src) : Chip :=
  if c.fire.clkStop then
    let known := c.held.any fun y => y.blk == x.blk && y.src == x.src
    let c := if known then c else { c with held := c.held ++ [x] }
    let c := c.when (rcPath x) fun c => c.setFld x.flag 1
    c.when (rcPath x && bit (entryField (c.reg (CFL_ENTRY x.blk x.src)) x.cls) 2) fun c =>
      ((c.raiseFlag CFL_REACT_BLK).setReg CFL_BLK_BY (c.reg CFL_BLK_BY ||| 2 ^ x.blk)).blockGates
  else c.raiseCellNow x

-- Check bits of memories (R316)

/-- A word of hub memory `mem` is written: its check bits are stored as they are, or inverted as INJ says. `key` is the word's
address. -/
def Chip.eccHubWrite (c : Chip) (mem key width : Nat) : Chip :=
  let put (c : Chip) (m : Nat) : Chip := { c with hubEcc := Assoc.set (fun _ => 0) c.hubEcc key m }
  if c.fld FLT_INJ_MODE == 0 || c.fld FLT_INJ_MEM != mem then put c 0
  else
    let c := put c (c.fld FLT_INJ_CHKMASK % 2 ^ width)
    c.when (c.fld FLT_INJ_MODE == 1) fun c => (c.setFld FLT_INJ_MODE 0).raiseFlag FLT_FSTAT_INJ_DONE

/-- As `Chip.eccHubWrite`, for the cell's memories, all of 7 check bits. -/
def Chip.eccCellWrite (c : Chip) (mem key : Nat) : Chip :=
  let put (c : Chip) (m : Nat) : Chip := { c with cellEcc := Assoc.set (fun _ => 0) c.cellEcc key m }
  if c.fld CFL_INJ_MODE == 0 || c.fld CFL_INJ_MEM != mem then put c 0
  else
    let c := put c (c.fld CFL_INJ_CHKMASK % 2 ^ 7)
    c.when (c.fld CFL_INJ_MODE == 1) fun c => (c.setFld CFL_INJ_MODE 0).raiseFlag CFL_FSTAT_INJ_DONE

-- The fabric's time and routes as sources (R263)

/-- UNCAL set, unless the hub is the time root (R263). -/
def Chip.setUncal (c : Chip) : Chip :=
  if c.flag SDL_TDCFG_ROOT then c
  else
    let c := c.forEach [0, 1, 2, 3] fun b c => c.when (bit (c.fld SDL_TDCFG_UNC_MASK) b) (·.raiseFlag (SDL_DSTAT_UNCAL (2 + b)))
    ({ c with td := { c.td with clean := 0 } } : Chip).setFld SDL_TDSTAT_ALIGN 1 |>.raiseHub ⟨1, 2, 2, SDL_DSTAT_UNCAL 1⟩

/-- ROUTE_CHG (R242, R243): becoming set, it is an input of Sundial. -/
def Chip.routeChg (c : Chip) : Chip :=
  if c.flag GTH_GSTAT_ROUTE_CHG then c else (c.raiseFlag GTH_GSTAT_ROUTE_CHG).setUncal

/-- A frame discarded under R243. -/
def Chip.noRoute (c : Chip) : Chip := (c.bump GTH_NOROUTE_CNT).raiseHub ⟨5, 4, 2, noFlag GTH_GSTAT⟩

/-- A port leaves L0: the frame in transmission is lost, the frames queued are discarded and counted, and copies of a frame that was coming in
are ended (R243). -/
def Chip.portDrop (c : Chip) (p : Nat) : Chip :=
  let n := (c.port p).q.length
  let c := ((c.portDone p).clearPortQ p).forEach (List.range n) fun _ c => c.noRoute
  let c := (c.dropComing p).dropPart p
  c.setPort p { c.port p with await := none }

-- ARM_READY (R392, Table 18-10)

/-- The conditions of RDYMASK as they now hold, as RDYSTAT shows them. -/
def Chip.readyConds (c : Chip) : Nat :=
  let base := c.fld SDL_SCTL_ARM_BASE
  let angs := [0, 1, 2, 3].all fun n =>
    !c.flag (ANG_ICTL_EN n) || (c.flag (ANG_ISTAT_LOCKED n) && !c.flag (ANG_ISTAT_LOS n))
  b2n (c.flag SDL_SSTAT_TICK_LOCK)
    + b2n (c.flag PCI_BOOTSTAT_DONE) * 2
    + b2n (c.flag GTH_GSTAT_ID_VALID && c.flag GTH_GSTAT_ROUTED) * 2 ^ 2
    + b2n (c.laneMap.all fun l => c.laneState l == 5) * 2 ^ 3
    + b2n (!c.flag (SDL_DSTAT_UNCAL 1) && c.fld SDL_TDSTAT_ALIGN == 0) * 2 ^ 4
    + b2n (!c.flag (SDL_DSTAT_UNCAL (2 + base)) && !bit (c.reg ANG_ASUSP) base) * 2 ^ 5
    + b2n angs * 2 ^ 6
    + b2n (c.flag BLV_BCTL_EN && c.flag BND_NCTL_EN) * 2 ^ 7
    + b2n (c.fld HHA_HSTAT_STATE == 1) * 2 ^ 8

/-- ARM_READY: SW_READY and every condition of RDYMASK. -/
def Chip.armReady (c : Chip) : Bool :=
  c.flag GLB_GCTL_SW_READY && c.readyConds &&& c.fld GLB_GCTL_RDYMASK == c.fld GLB_GCTL_RDYMASK

/-- RDYSTAT as it reads. -/
def Chip.rdystatWord (c : Chip) : Nat :=
  insertBits (insertBits (c.reg GLB_RDYSTAT) 8 0 c.readyConds) 16 16 (b2n c.armReady)

/-- ARM_READY examined: a fall from 1 to 0 since it was last examined raises ARM_NREADY. -/
def Chip.readyCheck (c : Chip) : Chip :=
  let now := c.armReady
  let was := c.sys.ready
  ({ c with sys := { c.sys with ready := now } }).when (was && !now) (·.raiseHub ⟨0, 0, 2, GLB_RDYSTAT_NREADY_SEEN⟩)

-- The fault sources by name (Table 14-2 and the source tables of the chapters)

def srcTickLost : Src := ⟨1, 0, 3, SDL_SSTAT_TICK_LOST⟩
def srcIncRefused (f : Fld) : Src := ⟨1, 1, 2, f⟩
def srcSyncLost : Src := ⟨1, 0, 2, CSD_RSTAT_SYNC_LOST⟩
def srcReplicaRefused : Src := ⟨1, 1, 2, CSD_RSTAT_REFUSED⟩
def srcLapseFault : Src := ⟨2, 0, 2, LDG_LFLAG_LAPSE_FAULT⟩
def srcDiverge : Src := ⟨2, 1, 2, LDG_LFLAG_DIVERGE⟩
def srcSingle : Src := ⟨2, 2, 2, LDG_LFLAG_SINGLE⟩
def srcLedgerFull : Src := ⟨2, 3, 2, LDG_LFLAG_LEDGER_FULL⟩
def srcNegHb : Src := ⟨2, 4, 2, LDG_LFLAG_NEG_HB⟩
def srcStall : Src := ⟨2, 5, 2, LDG_LFLAG_STALL⟩
def srcStaggerLong : Src := ⟨2, 6, 2, LDG_LFLAG_STAGGER_LONG⟩
def srcLdgRefused : Src := ⟨2, 7, 2, LDG_LFLAG_REFUSED⟩
def srcClkStop : Src := ⟨3, 0, 3, PWM_PSTAT_CLK_STOP⟩
def srcPwmRefused : Src := ⟨3, 1, 2, PWM_PSTAT_REFUSED⟩

end Sys2Proof.Machine
end

