-- ==== Sys2Proof/Machine/Adc.lean ====
section
/-!
DEFINITION. Cell measurement: the sequencer, its filters, injected conversions, the sample FIFO, and the capacitor sample
of the REPORT (R273 to R288).
-/
namespace Sys2Proof.Machine

def srcAdcOvr : Src := ⟨4, 0, 2, ADC_ASTAT_OVR⟩
def srcFifoOvf : Src := ⟨4, 1, 2, ADC_ASTAT_FIFO_OVF⟩
def srcVcapStale : Src := ⟨4, 2, 2, ADC_ASTAT_VCAP_STALE⟩
def srcRefLost : Src := ⟨4, 3, 3, ADC_ASTAT_REF_LOST⟩
def srcAdcRefused : Src := ⟨4, 4, 2, ADC_ASTAT_REFUSED⟩

/-- The converter's hidden state changed. -/
def Chip.adcUp (c : Chip) (f : Adc → Adc) : Chip := { c with adc := f c.adc }

/-- A write or command of ADC refused (R288). -/
def Chip.refuseAdc (c : Chip) : Chip := c.raiseCell srcAdcRefused

/-- The start of a round (R276, R278): entry registers and NENT taken, filters whose entries were written restarted. -/
def Chip.startRound (c : Chip) : Chip :=
  let a := c.adc
  let es := List.range 16
  let filts := es.foldl (fun m e =>
    if Assoc.get (fun _ => false) a.restart e then Assoc.set (fun _ => {}) m e ({} : Filt) else m) a.filts
  let entA := es.foldl (fun m e => Assoc.set (fun _ => 0) m e (c.reg (ADC_ENTA e))) ([] : Assoc Nat)
  let entB := es.foldl (fun m e => Assoc.set (fun _ => 0) m e (c.reg (ADC_ENTB e))) ([] : Assoc Nat)
  (c.adcUp fun a => { a with
    rounds := a.rounds + 1, ent := 0, nent := c.fld ADC_ACTL_NENT, entA := entA, entB := entB,
    restart := [], filts := filts }).raiseFlag ADC_ASTAT_BUSY

/-- A trigger (R274, R276): ignored and counted while a round runs; no round starts before the reference has settled since EN was set. -/
def Chip.adcTrigger (c : Chip) : Chip :=
  if !c.flag ADC_ACTL_EN then c
  else if c.flag ADC_ASTAT_BUSY then (c.bump ADC_TRIG_MISS_CNT).raiseFlag ADC_ASTAT_TRIG_MISS
  else if c.adc.live then c.startRound
  else c

/-- Continuous rounds (TRIG = 1) start whenever nothing holds them. -/
def Chip.adcContinue (c : Chip) : Chip :=
  c.when (c.fld ADC_ACTL_TRIG == 1 && !c.flag ADC_ASTAT_BUSY) (·.adcTrigger)

/-- GO (R276): a trigger under TRIG 0, 2 and 3. -/
def Chip.adcGo (c : Chip) : Chip := c.when (c.fld ADC_ACTL_TRIG != 1) (·.adcTrigger)

/-- A ZERO event of the PWM counter starts a delay of TDLY ticks under TRIG 2 (R276). -/
def Chip.adcZero (c : Chip) : Chip :=
  c.when (c.fld ADC_ACTL_TRIG == 2 && c.flag ADC_ACTL_EN) fun c =>
    c.adcUp fun a => { a with tdly := a.tdly ++ [c.ctick + c.fld ADC_TRIGCFG_TDLY] }

/-- A delay of TRIG 2 has run out: the first that is due triggers. -/
def Chip.tdlyExpiry (c : Chip) : Chip :=
  match c.adc.tdly.find? fun d => d ≤ c.ctick with
  | some d => (c.adcUp fun a => { a with tdly := a.tdly.erase d }).when (c.fld ADC_ACTL_TRIG == 2) (·.adcTrigger)
  | none => c

/-- A period of TRIG 3 has run out. -/
def Chip.tperExpiry (c : Chip) : Chip := c.when (c.fld ADC_ACTL_TRIG == 3) (·.adcTrigger)

/-- A request for an injection (R281): dropped and counted while another is pending. -/
def Chip.injRequest (c : Chip) : Chip :=
  if c.flag ADC_ASTAT_INJ_PEND then (c.bump ADC_INJ_MISS_CNT).raiseFlag ADC_ASTAT_INJ_MISS
  else c.raiseFlag ADC_ASTAT_INJ_PEND

/-- INJ_GO (R281) is refused while the reference has not settled. -/
def Chip.injGoRefused (c : Chip) : Bool := !c.flag ADC_ASTAT_REF_SETTLED
def Chip.injGo (c : Chip) : Chip := if c.injGoRefused then c.refuseAdc else c.injRequest

/-- A pending injection takes the converter. -/
def Chip.injStart (c : Chip) : Chip :=
  c.when (c.flag ADC_ASTAT_INJ_PEND) fun c => c.adcUp fun a => { a with injRun := true }

/-- A CMP2 event requests an injection when SRC = 1 (R281). -/
def Chip.adcCmp2 (c : Chip) : Chip := c.when (c.flag ADC_INJCFG_SRC) (·.injRequest)

/-- A word enters the FIFO, or is dropped when it holds 64 (R285). -/
def Chip.fifoPush (c : Chip) (w : Nat) : Chip :=
  if 64 ≤ c.adc.fifo.length then (c.bump ADC_FIFO_OVF_CNT).raiseCell srcFifoOvf
  else
    let q := c.adc.fifo ++ [w]
    (c.adcUp fun a => { a with fifo := q }).setFld ADC_FLEVEL_LEVEL q.length

/-- Conditions of one conversion (R283): SETTLING 1, OVR 2, RECOV 4. -/
def convConds (prevGain : Option Nat) (prevBeyond : Bool) (gain acq : Nat) (ovr : Bool) : Nat :=
  let settling := match prevGain with
    | some g => g != gain && acq < 11
    | none => false
  b2n settling + 2 * b2n ovr + 4 * b2n prevBeyond

/-- The code range of R273. -/
def codeSat (x : Int) : Int := clampInt (-131072) 131071 x

/-- Rounding to the nearest integer of `n / d`, ties toward +infinity. -/
def roundDiv (n : Int) (d : Nat) : Int := (2 * n + d) / (2 * d : Nat)

/-- V of a conversion in nV with INP and DIFF in bits 3:0 and 4 of `a` (R273): of one input, or of a pair. -/
def convVolt (v : Nat → Int) (a : Nat) : Int :=
  let i := bits a 3 0
  if bit a 4 then v i - v (i + 1) else v i

/-- VREF in nV by REFSEL (R274): 2.500 V, the voltage at REFIN, or VDDA at 1.8 V. -/
def Chip.vref (c : Chip) (refin : Nat) : Nat :=
  match c.fld ADC_ACTL_REFSEL with
  | 0 => 2500000000
  | 1 => refin
  | _ => 1800000000

/-- The code of R273 before saturation, with the gain code in bits 6:5 of `a`. -/
def convCode (v : Nat → Int) (vref a : Nat) : Int := roundDiv (convVolt v a * 2 ^ bits a 6 5 * 2 ^ 17) vref

/-- The input of a conversion is beyond the clamp (R283, R422): past 113 % of full scale at the sample instant it is, and elsewhere the
clamp detector, which watches the whole acquisition and has a tolerance, tells. -/
def convBeyond (v : Nat → Int) (vref a : Nat) (clamp : Bool) : Bool :=
  clamp || 113 * (vref : Int) < 100 * (convVolt v a * 2 ^ bits a 6 5).natAbs

/-- A sample word (Table 12-1). -/
def sampleWord (code : Int) (e : Nat) (invalid : Bool) (conds : Nat) (inj : Bool) (round : Nat) : Nat :=
  wrapNat 18 code * 2 ^ 14 + e * 2 ^ 10 + b2n invalid * 2 ^ 9 + b2n (bit conds 0) * 2 ^ 8
    + b2n (bit conds 1) * 2 ^ 7 + b2n (bit conds 2) * 2 ^ 6 + b2n inj * 2 ^ 5 + round % 32

/-- One step of the integrators. -/
def integrate (x : Int) : List Int → List Int
  | [] => []
  | i :: is => (i + x) :: integrate (i + x) is

/-- One step of the combs: the output and the new delays. -/
def combine (x : Int) : List Int → Int × List Int
  | [] => (x, [])
  | d :: ds => let r := combine (x - d) ds; (r.1, x :: r.2)

/-- One conversion into a filter with ENTB `b`: the filter, and at the end of a window its output in codes (not yet
saturated), whether it is INVALID, and the conditions it carries (R279, R280, R284). -/
def filtStep (f : Filt) (b : Nat) (x : Int) (conds : Nat) (settled : Bool) : Filt × Option (Int × Bool × Nat) :=
  let k := bits b 1 0 + 1
  let d := bits b 15 8 + 1
  let nen := bit b 31
  let m := Nat.max (bits b 25 16) 1
  let old := f.past.getD (m - 1) (0, 0)
  let x2 := if nen then x + old.1 else 2 * x
  let conds' := f.conds ||| conds ||| (if nen then old.2 else 0)
  let past := if nen then ((x, conds) :: f.past).take m else []
  let bad := ((if settled then [] else [0]) ++ f.bad.map (· + 1)).filter (· < k * d + m)
  let integ := integrate x2 (if f.integ.isEmpty then List.replicate k 0 else f.integ)
  if f.count + 1 < d then ({ f with integ, count := f.count + 1, past, conds := conds', bad }, none)
  else
    let r := combine (integ.getLastD 0) (if f.comb.isEmpty then List.replicate k 0 else f.comb)
    let w := k * (d - 1) + 1
    let early := f.outs < k + (if nen then (m + d - 1) / d else 0)
    let unref := bad.any fun a => a < w || (nen && m ≤ a && a < m + w)
    ({ integ, comb := r.2, count := 0, outs := f.outs + 1, past, conds := 0, bad },
      some (roundDiv r.1 (2 * d ^ k), early || unref, conds'))

/-- An output word of entry `e` (R284 to R286). -/
def Chip.adcWord (c : Chip) (e : Nat) (y : Int) (invalid : Bool) (conds : Nat) : Chip :=
  let code := codeSat y
  let conds := if code == y then conds else conds ||| 2
  let w := sampleWord code e invalid conds false (c.adc.rounds - 1)
  let c := (c.setReg (ADC_LATEST e) w).record true 0x13 e w
  let c := c.when (bit conds 1) (·.bump ADC_OVR_CNT)
  let c := c.when (bit conds 1 && bit (c.fld ADC_MASKS_OVRMASK) e) (·.raiseCell srcAdcOvr)
  let c := c.when (bit (c.fld ADC_MASKS_FIFOMASK) e) (·.fifoPush w)
  c.when (!invalid && !bit conds 0 && !bit conds 2) fun c =>
    let before := ((Assoc.get (fun _ => []) c.adc.usable e).filter fun x => x.2.2 != c.ctick).take 1
    c.adcUp fun a => { a with usable := Assoc.set (fun _ => []) a.usable e ((code, c.time, c.ctick) :: before) }

/-- Conditions counted per conversion (R284). -/
def Chip.countConds (c : Chip) (conds : Nat) : Chip :=
  (c.when (bit conds 0) (·.bump ADC_SETTLE_CNT)).when (bit conds 2) (·.bump ADC_RECOV_CNT)

/-- A round that EN = 0 has ended: BUSY clears, and if EN has been set again the next may start (R278). -/
def Chip.roundStop (c : Chip) : Chip := ((c.adcUp fun a => { a with ending := false }).clrFlag ADC_ASTAT_BUSY).adcContinue

/-- The end of an injected conversion (R281 to R285) with its code before saturation. A sequencer whose EN was cleared ends with it. -/
def Chip.injEnd (c : Chip) (raw : Int) (beyond : Bool) : Chip :=
  let gain := c.fld ADC_INJCFG_GAIN
  let code := codeSat raw
  let conds := convConds c.adc.prevGain c.adc.prevBeyond gain (c.fld ADC_INJCFG_ACQ) (code != raw || beyond)
  let w := sampleWord code 0 (!c.flag ADC_ASTAT_REF_SETTLED) conds true (c.adc.rounds - 1)
  let c := (c.countConds conds).adcUp fun a => { a with injRun := false, prevGain := some gain, prevBeyond := beyond }
  let c := (((c.setReg ADC_INJ_LAST w).record true 0x13 0x10 w).clrFlag ADC_ASTAT_INJ_PEND).raiseFlag ADC_ASTAT_INJ_DONE
  let c := c.when (bit conds 1) (·.bump ADC_OVR_CNT)
  let c := c.when (c.flag ADC_INJCFG_INJ_FIFO) (·.fifoPush w)
  c.when c.adc.ending (·.roundStop)

/-- ENTA in force of the entry being converted. -/
def Adc.entaNow (a : Adc) : Nat := Assoc.get (fun _ => 0) a.entA a.ent

/-- The end of a sequenced conversion with its code before saturation: into its filter, then the next entry or the end of the round (R276
to R280); nothing more comes of it when EN was cleared in the round. -/
def Chip.seqEnd (c : Chip) (raw : Int) (beyond : Bool) : Chip :=
  let a := c.adc
  let e := a.ent
  let ea := a.entaNow
  let eb := Assoc.get (fun _ => 0) a.entB e
  let code := codeSat raw
  let conds := convConds a.prevGain a.prevBeyond (bits ea 6 5) (bits ea 16 8) (code != raw || beyond)
  let c := (c.countConds conds).adcUp fun a => { a with prevGain := some (bits ea 6 5), prevBeyond := beyond }
  if a.ending then c.roundStop
  else
    let r := filtStep (Assoc.get (fun _ => {}) a.filts e) eb code conds (c.flag ADC_ASTAT_REF_SETTLED)
    let c := c.adcUp fun a => { a with filts := Assoc.set (fun _ => {}) a.filts e r.1 }
    let c := match r.2 with
      | some (y, inv, cs) => c.adcWord e y inv cs
      | none => c
    if e < a.nent then c.adcUp fun a => { a with ent := e + 1 }
    else (c.clrFlag ADC_ASTAT_BUSY).adcContinue

/-- CONVERSION_END, with the input voltages and the voltage at REFIN at the sample instant in nV, and whether the clamp detector has
tripped (R273, R283). -/
def Chip.conversionEnd (c : Chip) (v : Nat → Int) (refin : Nat) (clamp : Bool) : Chip :=
  let vref := c.vref refin
  let a := if c.adc.injRun then c.reg ADC_INJCFG else c.adc.entaNow
  let raw := convCode v vref a
  let beyond := convBeyond v vref a clamp
  if c.adc.injRun then c.injEnd raw beyond
  else if c.flag ADC_ASTAT_BUSY then c.seqEnd raw beyond
  else c

/-- The reference has returned into its window: the count of 2 ms to REF_SETTLED starts (R275). -/
def Chip.refReturn (c : Chip) : Chip := c.adcUp fun a => { a with refOut := false, refAt := c.time }

/-- A write of ACTL (R274, R276, R278, R279). -/
def Chip.actlWrite (c : Chip) (w : Nat) : Chip :=
  let old := c.reg ADC_ACTL
  let en := bit old 0
  let guarded := bits old 6 4 != bits w 6 4 || bits old 2 1 != bits w 2 1
  if (en && guarded) || bits w 5 4 == 3 || (bit w 0 && bits w 5 4 == 0 && !bit w 6) then c.refuseAdc
  else
    let c := c.plainWrite ADC_ACTL w
    let c := if bits w 5 4 != 0 then c.raiseFlag ADC_ASTAT_REF_SETTLED
      else c.when (bits old 5 4 != 0 || !bit w 6) (·.clrFlag ADC_ASTAT_REF_SETTLED)
    let c := c.when (bits w 5 4 != 0 || !bit w 6 || bits old 6 4 != bits w 6 4) (·.refReturn)
    if bit w 0 && !en then
      (c.adcUp fun a => { a with
        filts := [], restart := [], rounds := 0, usable := [], enAt := c.time, live := c.flag ADC_ASTAT_REF_SETTLED }).adcContinue
    else if en && !bit w 0 then
      c.adcUp fun a => { a with filts := [], tdly := [], live := false, ending := c.flag ADC_ASTAT_BUSY }
    else c

/-- The internal reference has settled, 2 ms after it was switched on or has returned (R274, R275). -/
def Chip.refSettled (c : Chip) : Chip :=
  c.when (c.fld ADC_ACTL_REFSEL == 0 && c.flag ADC_ACTL_REFEN && !c.adc.refOut && c.adc.refAt + 4000000 ≤ c.time) fun c =>
    ((c.raiseFlag ADC_ASTAT_REF_SETTLED).adcUp fun a => { a with live := c.flag ADC_ACTL_EN }).adcContinue

/-- The settled internal reference has left its window (R275). -/
def Chip.refLost (c : Chip) : Chip :=
  c.when (c.fld ADC_ACTL_REFSEL == 0 && c.flag ADC_ASTAT_REF_SETTLED) fun c =>
    ((c.clrFlag ADC_ASTAT_REF_SETTLED).adcUp fun a => { a with refOut := true }).raiseCell srcRefLost

/-- A read of FIFO (R285): the oldest word, or the empty word. -/
def Chip.fifoRead (c : Chip) : Nat × Chip :=
  match c.adc.fifo with
  | [] => (0x200, c)
  | w :: q => (w, (c.adcUp fun a => { a with fifo := q }).setFld ADC_FLEVEL_LEVEL q.length)

/-- The word that a REPORT formed at this tick uses: the latest usable one of VENT that was completed at an earlier tick (R286). -/
def Chip.vcapWord (c : Chip) : Option (Int × Nat × Nat) :=
  (Assoc.get (fun _ => []) c.adc.usable (c.fld ADC_VCAPCFG_VENT)).find? fun x => x.2.2 != c.ctick

/-- The capacitor field of a REPORT, with VCAP_STALE (R286). -/
def Chip.vcapField (c : Chip) : Nat × Chip :=
  let at_ := match c.vcapWord with
    | some x => x.2.1
    | none => c.adc.enAt
  let v := match c.vcapWord with
    | some x =>
      (clampInt 0 0xFFFF ((x.1 - toSigned 18 (c.fld ADC_VOFF_VOFF)) * (c.fld ADC_VGAIN_VGAIN : Nat) / 65536)).toNat
    | none => 0
  let stale := Nat.max (c.fld ADC_VCAPCFG_VAGE) 1 * 2000 < c.time - at_
  let c := if stale then (if c.flag ADC_ASTAT_VCAP_STALE then c else c.raiseCell srcVcapStale)
    else c.clrFlag ADC_ASTAT_VCAP_STALE
  (v, c)

/-- A write of ENTA or INJCFG with DIFF = 1 and an odd INP is refused (R288). -/
def Chip.pairWrite (c : Chip) (a w : Nat) : Chip := if bit w 4 && bit w 0 then c.refuseAdc else c.plainWrite a w

/-- A write of ENTB: the entry's filter restarts at the next round (R278, R279). -/
def Chip.entbWrite (c : Chip) (e w : Nat) : Chip :=
  (c.plainWrite (ADC_ENTB e) w).adcUp fun a => { a with restart := Assoc.set (fun _ => false) a.restart e true }

/-- FIFO_CLR. -/
def Chip.fifoClear (c : Chip) : Chip := (c.adcUp fun a => { a with fifo := [] }).setFld ADC_FLEVEL_LEVEL 0

/-- A write of ACMD: one whose INJ_GO is refused does nothing else (R288). -/
def Chip.acmdWrite (c : Chip) (w : Nat) : Chip :=
  if bit w 1 && c.injGoRefused then c.refuseAdc
  else ((c.when (bit w 0) (·.adcGo)).when (bit w 1) (·.injGo)).when (bit w 2) (·.fifoClear)

/-- The ADC interrupt line (R285). -/
def Chip.adcLine (c : Chip) : Bool :=
  (c.flag ADC_AIEN_FIFO_THR && Nat.max (c.fld ADC_ACTL_FTHR) 1 ≤ c.fld ADC_FLEVEL_LEVEL)
  || (c.flag ADC_AIEN_INJ_DONE && c.flag ADC_ASTAT_INJ_DONE)
  || (c.flag ADC_AIEN_FIFO_OVF && c.flag ADC_ASTAT_FIFO_OVF)
  || (c.flag ADC_AIEN_OVR && c.flag ADC_ASTAT_OVR)
  || (c.flag ADC_AIEN_REF_LOST && c.flag ADC_ASTAT_REF_LOST)

-- The commands

def execActlWrite (w : Word) (s : State) : Host.Outcome State Fault Refusal := .next (s.on fun c => c.actlWrite w.toNat)
def execGo (s : State) : Host.Outcome State Fault Refusal := .next (s.on (·.adcGo))
def execTdlyExpiry (s : State) : Host.Outcome State Fault Refusal := .next (s.on (·.tdlyExpiry))
def execTperExpiry (s : State) : Host.Outcome State Fault Refusal := .next (s.on (·.tperExpiry))
def execConversionEnd (v : Vector Int 16) (refin : Nat) (clamp : Bool) (s : State) : Host.Outcome State Fault Refusal :=
  .next (s.on fun c => c.conversionEnd (fun i => v.toList.getD i 0) refin clamp)
def execInjGo (s : State) : Host.Outcome State Fault Refusal := .next (s.on (·.injGo))
def execInjectionStart (s : State) : Host.Outcome State Fault Refusal := .next (s.on (·.injStart))
def execFifoClr (s : State) : Host.Outcome State Fault Refusal :=
  .next (s.on (·.fifoClear))
def execFifoRead (_ : Requester) (s : State) : Host.Outcome State Fault Refusal :=
  .next (s.on fun c => let r := c.fifoRead; { r.2 with rdata := BitVec.ofNat 32 r.1 })
def execRefSettled (s : State) : Host.Outcome State Fault Refusal := .next (s.on (·.refSettled))
def execRefLost (s : State) : Host.Outcome State Fault Refusal := .next (s.on (·.refLost))
def execRefReturn (s : State) : Host.Outcome State Fault Refusal := .next (s.on (·.refReturn))

end Sys2Proof.Machine
end

