-- ==== Sys2Proof/Machine/Sundial.lean ====
section
/-!
DEFINITION. Sundial and the cell replicas: the tick of the six domains, the correction commands, the snapshot, the pulse
outputs, and the replicas with their sync blocks (R25 to R51, R210, R257, R262).
-/
namespace Sys2Proof.Machine

-- Values (Table 2-2)

/-- Sundial's unit of fraction. -/
def one40 : Nat := 2 ^ 40

/-- What a domain's accumulator wraps at (R26, R27). -/
def domMod (d : Nat) : Nat := if d == 0 then 2 ^ 48 * 10 ^ 9 * one40 else 2 ^ 64 * one40

/-- The accumulator of a value laid out as Table 2-2: words `w0` to `w3`. -/
def accOfWords (d w0 w1 w2 w3 : Nat) : Nat :=
  if d == 0 then ((w2 + bits w3 15 0 * 2 ^ 32) * 10 ^ 9 + w1) * one40 + bits w0 31 16 * 2 ^ 24
  else (w1 + w2 * 2 ^ 32) * one40 + bits w0 31 8 * 2 ^ 16

/-- The four words of a value (Table 2-2). -/
def wordsOfAcc (d acc : Nat) : List Nat :=
  let whole := acc / one40
  let frac := acc % one40
  if d == 0 then
    [frac / 2 ^ 24 * 2 ^ 16, whole % 10 ^ 9, whole / 10 ^ 9 % 2 ^ 32, whole / 10 ^ 9 / 2 ^ 32]
  else [frac / 2 ^ 16 * 2 ^ 8, whole % 2 ^ 32, whole / 2 ^ 32, 0]

/-- The accumulator of a value register at `a`. -/
def Chip.accAt (c : Chip) (d a : Nat) : Nat := accOfWords d (c.reg a) (c.reg (a + 4)) (c.reg (a + 8)) (c.reg (a + 12))

/-- An accumulator moved by a signed amount, wrapping. -/
def moveAcc (d acc : Nat) (by_ : Int) : Nat := ((acc + by_) % (domMod d : Nat)).toNat

/-- A signed Q40.24 register in units of 2^-40. -/
def q4024 (v : Nat) : Int := toSigned 64 v * 2 ^ 16

/-- An increment is in the range of R29 for domain `d`. -/
def incOk (d v : Nat) : Bool :=
  if d < 2 then 0x8000000000 ≤ v && v ≤ 0x18000000000 else v ≤ 0x8000000000000

-- Domains

/-- A refused write or command of domain `d` (R29, R35). -/
def Chip.refuseDom (c : Chip) (d : Nat) : Chip := c.raiseHub (srcIncRefused (SDL_DSTAT_REFUSED d))

/-- Some command of a DCMD write of `w` is refused (R27, R29, R33). -/
def Chip.dcmdRefused (c : Chip) (d w : Nat) : Bool :=
  (bit w 0 && d == 0 && 10 ^ 9 ≤ c.reg (SDL_SETV 0 + 4))
  || (bit w 2 && !incOk d (c.reg64 (SDL_INC_NEXT d)))
  || (bit w 4 && (c.reg (SDL_SLEW_TICKS d) == 0 || !incOk d (c.reg64 (SDL_SLEW_INC d))))

/-- A running slew ended before its end (R33). -/
def Chip.cutSlew (c : Chip) (d : Nat) : Chip :=
  if c.flag (SDL_DSTAT_SLEW_ACT d) then
    ((c.clrFlag (SDL_DSTAT_SLEW_ACT d)).setReg (SDL_SLEW_LEFT d) 0).raiseFlag (SDL_DSTAT_SLEW_CUT d)
  else c

/-- ARM_INC: the operands captured, LATE when INC_AT is already earlier than FT (R32 to R34). -/
def Chip.armInc (c : Chip) (d : Nat) : Chip :=
  let c := c.setDom d { c.dom d with incNext := c.reg64 (SDL_INC_NEXT d), incAt := c.reg64 (SDL_INC_AT d) }
  let c := c.when (c.reg64 (SDL_INC_AT d) < c.ftNs) (·.raiseFlag (SDL_DSTAT_LATE d))
  c.raiseFlag (SDL_DSTAT_INC_ARMED d)

/-- SLEW: a running slew is replaced, the operands captured (R33). -/
def Chip.startSlew (c : Chip) (d : Nat) : Chip :=
  let c := c.cutSlew d
  let c := c.setDom d { c.dom d with slewInc := c.reg64 (SDL_SLEW_INC d) }
  (c.setReg (SDL_SLEW_LEFT d) (c.reg (SDL_SLEW_TICKS d))).raiseFlag (SDL_DSTAT_SLEW_ACT d)

/-- A write of DCMD: refused as a whole, or each command set in it, cancels first (R35). -/
def Chip.dcmdWrite (c : Chip) (d w : Nat) : Chip :=
  if c.dcmdRefused d w then c.refuseDom d
  else
    let c := c.when (bit w 3) (·.clrFlag (SDL_DSTAT_INC_ARMED d))
    let c := c.when (bit w 5) (·.cutSlew d)
    let c := c.when (bit w 2) (·.armInc d)
    let c := c.when (bit w 4) (·.startSlew d)
    let c := c.when (bit w 1) fun c =>
      (c.setDom d { c.dom d with stepv := q4024 (c.reg64 (SDL_STEP d)) }).raiseFlag (SDL_DSTAT_STEP_PEND d)
    c.when (bit w 0) fun c =>
      (c.setDom d { c.dom d with setv := c.accAt d (SDL_SETV d) }).raiseFlag (SDL_DSTAT_LOAD_PEND d)

/-- A direct write of INC (R29, R32). -/
def Chip.incWrite (c : Chip) (d v : Nat) : Chip := if incOk d v then c.setReg64 (SDL_INC d) v else c.refuseDom d

/-- An armed increment change that has fallen due: INC takes the armed value once FT has reached INC_AT (R31). -/
def Chip.incDue (c : Chip) (d ft : Nat) : Chip :=
  if c.flag (SDL_DSTAT_INC_ARMED d) && (c.dom d).incAt ≤ ft then
    (c.setReg64 (SDL_INC d) (c.dom d).incNext).clrFlag (SDL_DSTAT_INC_ARMED d)
  else c

/-- The end of a slew: its count has reached zero, and the domain resumes with INC (R31). -/
def Chip.slewEnd (c : Chip) (d : Nat) : Chip :=
  if c.flag (SDL_DSTAT_SLEW_ACT d) && c.reg (SDL_SLEW_LEFT d) == 0 then c.clrFlag (SDL_DSTAT_SLEW_ACT d) else c

/-- What a tick adds to a domain: the slew's increment while a slew runs, else INC; nothing at RUN = 0 (R30, R31). -/
def Chip.tickAdd (c : Chip) (d : Nat) : Nat :=
  if !c.flag (SDL_DCTL_RUN d) then 0
  else if c.flag (SDL_DSTAT_SLEW_ACT d) then (c.dom d).slewInc
  else c.reg64 (SDL_INC d)

/-- The additions of one tick (R31, lines two to four; not at RUN = 0). -/
def Chip.domAdvance (c : Chip) (d : Nat) : Chip :=
  if c.flag (SDL_DCTL_RUN d) then
    let use := c.tickAdd d
    let c := c.when (c.flag (SDL_DSTAT_SLEW_ACT d)) fun c =>
      (c.setReg (SDL_SLEW_LEFT d) (c.reg (SDL_SLEW_LEFT d) - 1)).slewEnd d
    c.setDom d { c.dom d with acc := moveAcc d (c.dom d).acc use }
  else c

/-- The accumulator that a stretch gives for tick `t`. -/
def Seg.val (d : Nat) (x : Seg) (t : Nat) : Nat := moveAcc d x.acc (x.rate * (t - x.at') : Nat)

/-- How many ticks of the past of a domain are kept: more than FILT_N and MIN_DLY reach back. -/
def pastLen : Nat := 131072

/-- A past with the accumulator of tick `t` in it: a new stretch begins where the latest one does not give that value. -/
def segAdd (d t acc rate : Nat) (l : List Seg) : List Seg :=
  if (match l with | x :: _ => x.val d t | [] => 0) == acc then l
  else ⟨t, acc, rate⟩ :: (l.filter (fun x => t ≤ x.at' + pastLen) ++ (l.filter fun x => x.at' + pastLen < t).take 1)

/-- The past of a domain goes on to the present tick, in which `use` was added. -/
def Chip.noteSeg (c : Chip) (d use : Nat) : Chip :=
  c.setDom d { c.dom d with segs := segAdd d c.tick (c.dom d).acc use (c.dom d).segs }

/-- The accumulator of a domain as it stood after tick `t`. -/
def Chip.accAtTick (c : Chip) (d t : Nat) : Nat :=
  if c.tick ≤ t then (c.dom d).acc
  else match (c.dom d).segs.find? fun x => x.at' ≤ t with
    | some x => x.val d t
    | none => 0

-- The slot grid (R70)

/-- The number of the slot that contains angle value `v` (whole units), counted from the grid origin. -/
def slotIndex (slots org v : Nat) : Nat :=
  let x := (v + 2 ^ 64 - org % 2 ^ 64) % 2 ^ 64
  x / 2 ^ 32 * slots + x % 2 ^ 32 * slots / 2 ^ 32

/-- The start angle of slot number `n`. -/
def slotStart (slots org n : Nat) : Nat :=
  (org + n / slots * 2 ^ 32 + (n % slots * 2 ^ 32 + slots - 1) / slots) % 2 ^ 64

/-- Slots per cycle and origin of the hub's grid; S = 0 is treated as 1 (R69, R130). -/
def Chip.slotsH (c : Chip) : Nat := Nat.max (c.fld BLV_SLOTS_S) 1

/-- The number of the slot that contains the present value of the arm's base. -/
def Chip.slotNow (c : Chip) : Nat :=
  slotIndex c.slotsH (c.reg BLV_SLOT_ORG) ((c.dom (2 + c.fld SDL_SCTL_ARM_BASE)).acc / one40)

/-- The grid of the hub has changed: the next slot start to act on is that after the present slot. -/
def Chip.regrid (c : Chip) : Chip :=
  { c with blv := { c.blv with next := c.slotNow + 1, due := none, acted := c.slotNow + 1, planned := 0, resume := 0 } }

/-- The slot of the hub's grid that contains an accumulator value of the arm's base. -/
def Chip.hubSlotOf (c : Chip) (acc : Nat) : Nat := slotIndex c.slotsH (c.reg BLV_SLOT_ORG) (acc / one40)

/-- A load or step has moved the arm's base from `old` (R76): the starts it carries the base over are not reached, one reached before it
stays due, and after a backward move planning waits for the start of the slot after the last slot planned. -/
def Chip.baseMoved (c : Chip) (d old : Nat) : Chip :=
  if d == 2 + c.fld SDL_SCTL_ARM_BASE then
    { c with blv := { c.blv with
        due := if c.blv.next ≤ c.hubSlotOf old then some (c.hubSlotOf old) else c.blv.due
        next := c.slotNow + 1
        resume := if (c.dom d).acc < old then c.blv.planned + 1 else c.blv.resume } }
  else c

/-- A step and a load that wait (R31, last two lines): a load overrides. -/
def Chip.domMove (c : Chip) (d : Nat) : Chip :=
  let old := (c.dom d).acc
  let moved := c.flag (SDL_DSTAT_STEP_PEND d) || c.flag (SDL_DSTAT_LOAD_PEND d)
  let c := c.when (c.flag (SDL_DSTAT_STEP_PEND d)) fun c =>
    (c.setDom d { c.dom d with acc := moveAcc d (c.dom d).acc (c.dom d).stepv }).clrFlag (SDL_DSTAT_STEP_PEND d)
  let c := c.when (c.flag (SDL_DSTAT_LOAD_PEND d)) fun c =>
    (c.setDom d { c.dom d with acc := (c.dom d).setv }).clrFlag (SDL_DSTAT_LOAD_PEND d)
  c.when moved (·.baseMoved d old)

/-- One tick of domain `d` (R31), with FT as it was before the tick. -/
def Chip.domTick (c : Chip) (ft d : Nat) : Chip :=
  let c := c.incDue d ft
  ((c.domAdvance d).domMove d).noteSeg d (c.tickAdd d)

/-- A write of SCTL: a SYNC_PER out of range is refused and changes nothing (R50); SNAP latches all domains (R39). -/
def Chip.sctlWrite (c : Chip) (w : Nat) : Chip :=
  if bits w 29 16 < 10 || 10000 < bits w 29 16 then c.raiseFlag SDL_SSTAT_REFUSED
  else
    let old := c.fld SDL_SCTL_ARM_BASE
    let c := c.plainWrite SDL_SCTL w
    let c := c.when (old != c.fld SDL_SCTL_ARM_BASE) (·.regrid)
    c.when (bit w 0) fun c =>
      let c := c.forEach (List.range 6) fun d c => c.setWords (SDL_SNAPV d) (wordsOfAcc d (c.dom d).acc)
      c.setFld SDL_SSTAT_SNAP_CNT (c.fld SDL_SSTAT_SNAP_CNT + 1)

-- Pulse outputs

/-- ARM of output `n` is refused (R41). -/
def Chip.armRefused (c : Chip) (n : Nat) : Bool :=
  let m := c.fld (SDL_PCTL_MODE n)
  let d := c.fld (SDL_PCTL_DOM n)
  let w := c.fld (SDL_PWID_WIDTH n)
  m == 0 || m == 3 || 5 < d || w == 0 || 1000000 < w
  || (d == 0 && 10 ^ 9 ≤ c.reg (SDL_PSTART n + 4)) || (m == 2 && d < 2 && c.reg64 (SDL_PPER n) == 0)

/-- The first of start, start + per, start + 2 per ... above `v`, and how many instants after `start` lie up to `v`. Instants wrap as the
domain's value does: one beyond the wrap lies behind it (R37, R399). -/
def nextInstant (d start per v : Nat) : Nat × Nat :=
  if v < start then (start, 0) else ((start + ((v - start) / per + 1) * per) % domMod d, (v - start) / per)

/-- ARM of output `n` (R41, R42). An ARM written during a pulse gives that pulse its width and polarity, and one written while a DISARM
waits withdraws that DISARM (DESIGN CHOICE, log entry 91). -/
def Chip.armPulse (c : Chip) (n : Nat) : Chip :=
  let m := c.fld (SDL_PCTL_MODE n)
  let d := c.fld (SDL_PCTL_DOM n)
  let start := c.accAt d (SDL_PSTART n)
  let per := (if c.reg64 (SDL_PPER n) == 0 then 2 ^ 32 else c.reg64 (SDL_PPER n)) * one40
  let v := (c.dom d).acc
  let next := if m == 2 then (nextInstant d start per v).1 else start
  let c := c.when (start ≤ v) (·.raiseFlag (SDL_PSTAT_LATE n))
  let c := c.setPulse n { c.pulse n with
    pol := c.flag (SDL_PCTL_POL n), mode := m, dom := d, wid := c.fld (SDL_PWID_WIDTH n), per := per, next := next, disarm := false }
  c.raiseFlag (SDL_PSTAT_ARMED n)

/-- DISARM of output `n`: at once, or after the pulse in progress (R45). -/
def Chip.disarmPulse (c : Chip) (n : Nat) : Chip :=
  if c.flag (SDL_PSTAT_LEVEL n) then c.setPulse n { c.pulse n with disarm := true }
  else c.clrFlag (SDL_PSTAT_ARMED n)

/-- A write of PCMD: refused as a whole when its ARM is refused (R41), else DISARM before ARM when both are set. -/
def Chip.pcmdWrite (c : Chip) (n w : Nat) : Chip :=
  if bit w 0 && c.armRefused n then c.raiseHub (srcIncRefused (SDL_PSTAT_REFUSED n))
  else (c.when (bit w 1) (·.disarmPulse n)).when (bit w 0) (·.armPulse n)

/-- The level of the pin PPOn: that of a pulse while one is in progress, else the other (R50). -/
def Chip.ppo (c : Chip) (n : Nat) : Bool := c.flag (SDL_PSTAT_LEVEL n) != (c.pulse n).pol

/-- The end of a pulse: WCLIP when it comes before PWID ns (R44), and a DISARM that waited (R45). -/
def Chip.pulseEnd (c : Chip) (n : Nat) : Chip :=
  if c.flag (SDL_PSTAT_LEVEL n) then
    let p := c.pulse n
    let c := c.clrFlag (SDL_PSTAT_LEVEL n)
    let c := c.when (c.tick < p.began + p.wid) (·.raiseFlag (SDL_PSTAT_WCLIP n))
    c.when p.disarm fun c => (c.setPulse n { p with disarm := false }).clrFlag (SDL_PSTAT_ARMED n)
  else c

/-- The start of a pulse of an armed output whose running domain has reached the next instant (R40, R43, R45): one pulse,
the next instant the first not yet reached, instants skipped counted. A one-shot output is armed no longer once its pulse has begun
(DESIGN CHOICE, log entry 91). -/
def Chip.pulseStart (c : Chip) (n : Nat) : Chip :=
  let p := c.pulse n
  let v := (c.dom p.dom).acc
  if c.flag (SDL_PSTAT_ARMED n) && c.flag (SDL_DCTL_RUN p.dom) && p.next ≤ v && !p.disarm then
    let c := c.pulseEnd n
    let c := (c.raiseFlag (SDL_PSTAT_LEVEL n)).raiseFlag (SDL_PSTAT_FIRED n)
    let p := { p with began := c.tick }
    if p.mode == 2 then
      let x := nextInstant p.dom p.next p.per v
      (c.setPulse n { p with next := x.1 }).bumpBy (SDL_PMISS n) x.2
    else (c.setPulse n p).clrFlag (SDL_PSTAT_ARMED n)
  else c

/-- The value that the next tick gives a domain if no command comes before it (R31). -/
def Chip.nextAcc (c : Chip) (d : Nat) : Nat := ((c.domTick c.ftNs d).dom d).acc

/-- A pulse in progress ends at this tick: its width has passed, or the next tick reaches the next instant (R44). In the tick of its
start no pulse ends (DESIGN CHOICE, log entry 91). -/
def Chip.pulseOver (c : Chip) (n : Nat) : Bool :=
  let p := c.pulse n
  c.flag (SDL_PSTAT_LEVEL n) && p.began < c.tick
    && (p.began + p.wid ≤ c.tick
        || (c.flag (SDL_PSTAT_ARMED n) && c.flag (SDL_DCTL_RUN p.dom) && p.next ≤ c.nextAcc p.dom))

/-- One tick of a pulse output. -/
def Chip.pulseTick (c : Chip) (n : Nat) : Chip := (c.when (c.pulseOver n) (·.pulseEnd n)).pulseStart n

-- Replicas

/-- The receive delay of a lane end in 1/16 ns, signed (R257). -/
def Chip.dlyUse (c : Chip) (l : Nat) : Int :=
  let b := laneBase l
  let d := if c.flag (LN_PRBSTAT_CAL b) then c.reg (LN_DLY_MEAN b)
    else match (c.lane l).dlyKept with
      | some m => m
      | none => c.reg (LN_DLY_NOM b)
  (d : Int) + toSigned 32 (c.reg (LN_ASYM b))

/-- A refused replica write or command (R46, R48). -/
def Chip.refuseRep (c : Chip) : Chip := c.raiseCell srcReplicaRefused

/-- A write of FT_INC or ANG_INC (R46). -/
def Chip.repIncWrite (c : Chip) (ang : Bool) (v : Nat) : Chip :=
  if ang then (if v ≤ 0x14000000000000 then c.setReg64 CSD_ANG_INC v else c.refuseRep)
  else if 0x14000000000 ≤ v && v ≤ 0x3C000000000 then c.setReg64 CSD_FT_INC v else c.refuseRep

/-- What the active lane has received of sync blocks. -/
def Chip.syncOf (c : Chip) (b : Bool) : CellSync := if b then c.csd.lb else c.csd.la

/-- A write of SYNC_TO: a value outside 20 to 160,000 is refused and changes nothing (R51). -/
def Chip.syncToWrite (c : Chip) (w : Nat) : Chip :=
  if bits w 17 0 < 20 || 160000 < bits w 17 0 then c else c.plainWrite CSD_SYNC_TO w

/-- A write of RCMD (R48): refused as a whole when a load has no sync block of its kind from the present active lane. -/
def Chip.rcmdWrite (c : Chip) (w : Nat) : Chip :=
  let y := c.syncOf c.activeB
  if (bit w 2 && y.ft.isNone) || (bit w 3 && y.ang.isNone) then c.refuseRep
  else
    let c := c.when (bit w 0) fun c => { c with csd := { c.csd with ftStep := some (q4024 (c.reg64 CSD_FT_STEP)) } }
    let c := c.when (bit w 1) fun c => { c with csd := { c.csd with angStep := some (q4024 (c.reg64 CSD_ANG_STEP)) } }
    let c := c.when (bit w 2) fun c => { c with csd := { c.csd with ftLoad := y.ft } }
    c.when (bit w 3) fun c => { c with csd := { c.csd with angLoad := y.ang } }

/-- One tick of a replica in the order of R31: the increment, a step, then a load advanced from the arrival of its sync block to this
tick, `now` (R48). A load of a stopped replica is advanced at its increment too (DESIGN CHOICE, log entry 92). -/
def repTick (run : Bool) (inc now v : Nat) (step : Option Int) (load : Option SyncRec) : Nat :=
  match load with
  | some r => moveAcc 1 r.val (inc * (now - r.tick) : Nat)
  | none =>
    let v := if run then moveAcc 1 v inc else v
    match step with
    | some x => moveAcc 1 v x
    | none => v

/-- The signed Q40.24 result of R47: corrected value less replica value, on visible fractions, saturated. -/
def syncErr (val rep : Nat) : Nat :=
  wrapNat 64 (clampInt (-2 ^ 63) (2 ^ 63 - 1) (toSigned 88 (wrapNat 88 ((val / 2 ^ 16 : Nat) - (rep / 2 ^ 16 : Nat) : Int))))

/-- The result of a sync block whose replica was latched at arrival (R47): a step since then is added, a load since then leaves none. -/
def syncResult (rec : Option SyncRec) (latch : Option (Nat × Bool)) (step : Option Int) (load : Option SyncRec) : Option (Nat × Bool) :=
  match rec, latch, load with
  | some r, some (rep, act), none => some (syncErr r.val (moveAcc 1 rep (step.getD 0)), act)
  | _, _, _ => none

/-- A result stored in the register of the active lane or in that of the other. -/
def Chip.storeErr (c : Chip) (active other : Nat) (x : Option (Nat × Bool)) : Chip :=
  match x with
  | some (e, act) => c.setReg64 (if act then active else other) e
  | none => c

/-- The results that wait are stored, at the tick after the arrival of their blocks (DESIGN CHOICE, log entry 92). -/
def Chip.storeErrs (c : Chip) (y : CellSync) : Chip :=
  let x := c.csd
  (c.storeErr CSD_FT_ERR CSD_FT_ERR_ALT (syncResult y.ft y.ftLatch x.ftStep x.ftLoad)).storeErr CSD_ANG_ERR CSD_ANG_ERR_ALT
    (syncResult y.ang y.angLatch x.angStep x.angLoad)

/-- No result waits. -/
def CellSync.settled (y : CellSync) : CellSync := { y with ftLatch := none, angLatch := none }

/-- One tick of both replicas. -/
def Chip.replicaTick (c : Chip) : Chip :=
  let x := c.csd
  let c := (c.storeErrs x.la).storeErrs x.lb
  { c with csd := { x with
      ft := repTick (c.flag CSD_RCTL_RUN_FT) (c.reg64 CSD_FT_INC) (c.ctick + 1) x.ft x.ftStep x.ftLoad
      ang := repTick (c.flag CSD_RCTL_RUN_ANG) (c.reg64 CSD_ANG_INC) (c.ctick + 1) x.ang x.angStep x.angLoad
      ftStep := none, ftLoad := none, angStep := none, angLoad := none, la := x.la.settled, lb := x.lb.settled } }

/-- The lane brings sync, firing and management blocks to the cell: LA always, LB only in a dual-homed cell (R17). -/
def Chip.hears (c : Chip) (l : CellLane) : Bool := l == .la || c.dual

/-- The record of a lane's sync blocks, replaced. -/
def Chip.setSync (c : Chip) (l : CellLane) (y : CellSync) : Chip :=
  match l with
  | .la => { c with csd := { c.csd with la := y } }
  | .lb => { c with csd := { c.csd with lb := y } }

/-- The lane is the active one. -/
def Chip.isActive (c : Chip) (l : CellLane) : Bool := (l == .lb) == c.activeB

/-- SYNC_EPOCH (R210). -/
def Chip.syncEpoch (c : Chip) (l : CellLane) (w : DWord) : Chip :=
  c.rxSeen (cellLaneNum l) w fun c =>
    c.when (c.hears l) fun c =>
      (c.setSync l { c.syncOf (l == .lb) with epoch := some (wbits w 55 32, wbits w 31 12, c.time) }).when (c.isActive l)
        (·.latchLine 16 5)

/-- A SYNC_FT or SYNC_ANG with no epoch of the same lane within the preceding 1 us: counted in SYNC_NOEP and raised. -/
def Chip.syncNoEp (c : Chip) (l : CellLane) : Chip :=
  (c.bump CLN_SYNC_NOEP).raiseCell ⟨if l == .la then 9 else 10, 4, 2, noFlag CLN_SYNC_NOEP⟩

/-- The epoch of a lane, when it arrived within the preceding 1 us (R210). -/
def Chip.freshEpoch (c : Chip) (y : CellSync) : Option (Nat × Nat) :=
  match y.epoch with
  | some (f, g, t) => if c.time - t ≤ 2000 then some (f, g) else none
  | none => none

/-- SYNC_FT (R47, R210, R262): the corrected value, and the replica latched at arrival. -/
def Chip.syncFt (c : Chip) (l : CellLane) (w : DWord) : Chip :=
  c.rxSeen (cellLaneNum l) w fun c =>
    c.when (c.hears l) fun c =>
      let y := c.syncOf (l == .lb)
      match c.freshEpoch y with
      | none => c.syncNoEp l
      | some (hi, _) =>
        let raw := (hi * 2 ^ 40 + wbits w 55 16) * 16 + wbits w 15 12
        let val := moveAcc 1 (raw * 2 ^ 36) (c.dlyUse (cellLaneNum l) * 2 ^ 36)
        (c.setSync l { y with ft := some ⟨val, c.ctick, c.time⟩, ftLatch := some (c.csd.ft, c.isActive l), lost := false }).when
          (c.isActive l) (·.latchLine 16 5)

/-- SYNC_ANG (R47, R210, R262): as SYNC_FT, with the delay turned into au at the replica's increment. -/
def Chip.syncAng (c : Chip) (l : CellLane) (w : DWord) : Chip :=
  c.rxSeen (cellLaneNum l) w fun c =>
    c.when (c.hears l) fun c =>
      let y := c.syncOf (l == .lb)
      match c.freshEpoch y with
      | none => c.syncNoEp l
      | some (_, hi) =>
        let raw := (hi * 2 ^ 12 + wbits w 23 12) * 2 ^ 32 + wbits w 55 24
        let cor := (c.dlyUse (cellLaneNum l) * (c.reg64 CSD_ANG_INC : Nat)) / (40 * 2 ^ 40)
        let val := moveAcc 1 (raw * one40) (cor * 2 ^ 40)
        (c.setSync l { y with ang := some ⟨val, c.ctick, c.time⟩, angLatch := some (c.csd.ang, c.isActive l), lost := false }).when
          (c.isActive l) fun c => (c.setFld CSD_RSTAT_BASE (blockType w % 4)).latchLine 16 5

/-- SYNC_TO in half nanoseconds. -/
def Chip.syncTo (c : Chip) : Nat := 2000 * c.fld CSD_SYNC_TO_TIMEOUT

/-- A sync block of a kind has arrived within SYNC_TO (R51). -/
def Chip.syncedBy (c : Chip) (r : Option SyncRec) : Bool := r.any fun (x : SyncRec) => c.time < x.at' + c.syncTo

/-- RSTAT as it reads: FT_SYNC and ANG_SYNC tell of the blocks of the active lane (R51). -/
def Chip.rstatWord (c : Chip) : Nat :=
  let y := c.syncOf c.activeB
  c.reg CSD_RSTAT / 4 * 4 + b2n (c.syncedBy y.ang) * 2 + b2n (c.syncedBy y.ft)

/-- The time from which SYNC_TO is measured (R49): the latest sync block of the active lane, or that lane's first entry to L0. -/
def Chip.syncFrom (c : Chip) : Nat :=
  let y := c.syncOf c.activeB
  match y.ft, y.ang with
  | some f, some a => Nat.max f.at' a.at'
  | some f, none => f.at'
  | none, some a => a.at'
  | none, none => (c.lane (if c.activeB then 205 else 204)).upAt

/-- SYNC_TO has passed without a sync block on the active lane, which has reached L0 since reset (R49). -/
def Chip.syncOverdue (c : Chip) : Bool :=
  (c.lane (if c.activeB then 205 else 204)).upOnce && c.syncFrom + c.syncTo ≤ c.time && !(c.syncOf c.activeB).lost

/-- The loss of sync is raised once for each want of blocks (R49). -/
def Chip.syncLost (c : Chip) : Chip :=
  if c.syncOverdue then
    (c.setSync (if c.activeB then .lb else .la) { c.syncOf c.activeB with lost := true }).raiseCell srcSyncLost
  else c

-- The commands

def execLoad (d : Fin 6) (w : Word) (s : State) : Host.Outcome State Fault Refusal :=
  .next (s.on fun c => c.dcmdWrite d (w.toNat ||| 1))
def execStep (d : Fin 6) (w : Word) (s : State) : Host.Outcome State Fault Refusal :=
  .next (s.on fun c => c.dcmdWrite d (w.toNat ||| 2))
def execArmInc (d : Fin 6) (w : Word) (s : State) : Host.Outcome State Fault Refusal :=
  .next (s.on fun c => c.dcmdWrite d (w.toNat ||| 4))
def execCancelInc (d : Fin 6) (w : Word) (s : State) : Host.Outcome State Fault Refusal :=
  .next (s.on fun c => c.dcmdWrite d (w.toNat ||| 8))
def execSlew (d : Fin 6) (w : Word) (s : State) : Host.Outcome State Fault Refusal :=
  .next (s.on fun c => c.dcmdWrite d (w.toNat ||| 16))
def execCancelSlew (d : Fin 6) (w : Word) (s : State) : Host.Outcome State Fault Refusal :=
  .next (s.on fun c => c.dcmdWrite d (w.toNat ||| 32))
def execIncWrite (d : Fin 6) (v : DWord) (s : State) : Host.Outcome State Fault Refusal :=
  .next (s.on fun c => c.incWrite d v.toNat)
def execIncChangeDue (d : Fin 6) (s : State) : Host.Outcome State Fault Refusal :=
  .next (s.on fun c => c.incDue d c.ftNs)
def execSlewEnd (d : Fin 6) (s : State) : Host.Outcome State Fault Refusal := .next (s.on fun c => c.slewEnd d)
def execSnap (w : Word) (s : State) : Host.Outcome State Fault Refusal :=
  .next (s.on fun c => c.sctlWrite (w.toNat ||| 1))
def execArm (n : Fin 4) (w : Word) (s : State) : Host.Outcome State Fault Refusal :=
  .next (s.on fun c => c.pcmdWrite n (w.toNat ||| 1))
def execDisarm (n : Fin 4) (w : Word) (s : State) : Host.Outcome State Fault Refusal :=
  .next (s.on fun c => c.pcmdWrite n (w.toNat ||| 2))
def execPulseStart (n : Fin 4) (s : State) : Host.Outcome State Fault Refusal := .next (s.on fun c => c.pulseStart n)
def execPulseEnd (n : Fin 4) (s : State) : Host.Outcome State Fault Refusal := .next (s.on fun c => c.when (c.pulseOver n) (·.pulseEnd n))
def execPllLockLoss (s : State) : Host.Outcome State Fault Refusal :=
  .next (s.on fun c => (c.clrFlag SDL_SSTAT_TICK_LOCK).raiseHub srcTickLost)
def execReplicaIncWrite (ang : Bool) (v : DWord) (s : State) : Host.Outcome State Fault Refusal :=
  .next (s.on fun c => c.repIncWrite ang v.toNat)
def execStepFt (w : Word) (s : State) : Host.Outcome State Fault Refusal :=
  .next (s.on fun c => c.rcmdWrite (w.toNat ||| 1))
def execStepAng (w : Word) (s : State) : Host.Outcome State Fault Refusal :=
  .next (s.on fun c => c.rcmdWrite (w.toNat ||| 2))
def execLoadFt (w : Word) (s : State) : Host.Outcome State Fault Refusal :=
  .next (s.on fun c => c.rcmdWrite (w.toNat ||| 4))
def execLoadAng (w : Word) (s : State) : Host.Outcome State Fault Refusal :=
  .next (s.on fun c => c.rcmdWrite (w.toNat ||| 8))
def execSyncEpoch (l : CellLane) (w : DWord) (s : State) : Host.Outcome State Fault Refusal :=
  .next (s.on fun c => c.syncEpoch l w)
def execSyncFt (l : CellLane) (w : DWord) (s : State) : Host.Outcome State Fault Refusal :=
  .next (s.on fun c => c.syncFt l w)
def execSyncAng (l : CellLane) (w : DWord) (s : State) : Host.Outcome State Fault Refusal :=
  .next (s.on fun c => c.syncAng l w)
def execSyncLost (s : State) : Host.Outcome State Fault Refusal := .next (s.on (·.syncLost))

end Sys2Proof.Machine
end

