-- ==== Sys2Proof/Machine/Angle.lean ====
section
/-!
DEFINITION. The angle reference inputs: the edge filter, position and zero marks, frequency and direction, loss of signal, the
divided output, and the grid-vector check (R52 to R68).
-/
namespace Sys2Proof.Machine

def Chip.ain (c : Chip) (n : Nat) : AngIn := Assoc.get (fun _ => {}) c.angin n
def Chip.ainUp (c : Chip) (n : Nat) (f : AngIn → AngIn) : Chip :=
  { c with angin := Assoc.set (fun _ => {}) c.angin n (f (c.ain n)) }

/-- A source of input `n`: 0 QERR, 1 LOS, 2 CHATTER, 3 MARK_ERR, 4 REFUSED (Table 14-2). -/
def angSrc (n k : Nat) (f : Fld) : Src := ⟨2, 1 + 5 * n + k, 2, f⟩

/-- Positions per cycle. -/
def Chip.cpr (c : Chip) (n : Nat) : Nat := Nat.max (c.fld (ANG_CPR_COUNT n)) 1

/-- LOCKED cleared, and with it the marks counted towards it (R57). -/
def Chip.unlock (c : Chip) (n : Nat) : Chip :=
  (c.clrFlag (ANG_ISTAT_LOCKED n)).ainUp n fun x => { x with good := 0 }

/-- FREQ and FVALID read 0 and the interval history is discarded (R62 to R64). -/
def Chip.freqRestart (c : Chip) (n : Nat) : Chip :=
  ((c.setReg (ANG_FREQ n) 0).clrFlag (ANG_ISTAT_FVALID n)).ainUp n fun x => { x with last := none, hist := [] }

-- Marks

/-- The expected position before a mark, for position `pos` (Table 3-2). -/
def markOk (mark pos cpr : Nat) : Bool :=
  match mark with
  | 0 => pos ≤ 2 || cpr ≤ pos + 2
  | 1 => pos + 2 == cpr
  | _ => pos + 1 == cpr

/-- A mark at tick `t`, with the position before it and before a count of the same tick (R52, R56 to R58, R65). -/
def Chip.mark (c : Chip) (n t pos : Nat) : Chip :=
  let ok := markOk (c.fld (ANG_ICTL_MARK n)) pos (c.cpr n)
  let c := (c.setReg (ANG_POS n) 0).setReg64 (ANG_MARK_TS n) (c.accAtTick 1 t / one40)
  let c := c.setReg64 (ANG_MARK_AV n) (c.accAtTick (2 + c.fld (ANG_ICTL_BASE n)) t / one40)
  let c := c.when (c.flag (ANG_ICTL_DIV_SYNC n) && !c.flag (ANG_ISTAT_LOS n)) fun c =>
    c.ainUp n fun x => { x with out := c.fld (ANG_DIVR_DIV n) != 0, div := 0 }
  if ok then
    let g := (c.ain n).good + 1
    (c.ainUp n fun x => { x with good := Nat.min g 2 }).when (2 ≤ g) (·.raiseFlag (ANG_ISTAT_LOCKED n))
  else ((c.bump (ANG_MARK_ERR_CNT n)).unlock n).raiseHub (angSrc n 3 (ANG_ISTAT_MARK_ERR n))

-- Frequency (R60 to R63)

/-- The intervals of the mean: 2^AVG of them, 7 being treated as 6. -/
def Chip.avgLen (c : Chip) (n : Nat) : Nat := 2 ^ Nat.min (c.fld (ANG_ICTL_AVG n)) 6

/-- FREQ from intervals in half nanoseconds, as Q16.16 Hz, truncated and saturated. -/
def freqOf (hist : List Nat) (p : Nat) : Nat :=
  let s := hist.foldl (· + ·) 0 * p
  if s == 0 then 0xFFFFFFFF else Nat.min (10 ^ 9 * 2 ^ 16 * 2 * hist.length / s) 0xFFFFFFFF

/-- An interval is consistent with the one before it (R61). -/
def consistent (cons before now : Nat) : Bool :=
  (if before ≤ now then now - before else before - now) * 2 ^ (4 - cons) ≤ before

/-- An edge ends the gap of a missing tooth, or is an extra tooth: intervals in half nanoseconds (R59, Table 3-2). -/
def Chip.gapEdge (c : Chip) (n iv : Nat) : Bool :=
  c.fld (ANG_ICTL_MARK n) == 1 && c.flag (ANG_ISTAT_FVALID n) && (c.ain n).hist.head?.any fun p => 3 * p ≤ 2 * iv
def Chip.extraEdge (c : Chip) (n iv : Nat) : Bool :=
  c.fld (ANG_ICTL_MARK n) == 2 && c.flag (ANG_ISTAT_FVALID n) && (c.ain n).hist.head?.any fun p => 4 * iv ≤ 3 * p

/-- The next position in the direction DIR, and whether it is that of the missing tooth, CPR - 1 (Table 3-2, R64). -/
def Chip.nextPos (c : Chip) (n : Nat) : Nat :=
  let p := c.reg (ANG_POS n)
  let m := c.cpr n
  if (c.ain n).zeroNext then 0 else if c.flag (ANG_ISTAT_DIR n) then (p + m - 1) % m else (p + 1) % m
def Chip.nextMissing (c : Chip) (n : Nat) : Bool := c.fld (ANG_ICTL_MARK n) == 1 && c.nextPos n == c.cpr n - 1

/-- A counted rising edge of line A at tick `t` enters the frequency measurement; an interval that spans the missing tooth is halved: it
counts as two positions (R60, R61). -/
def Chip.tooth (c : Chip) (n t : Nat) (iv : Option Nat) (span : Bool) : Chip :=
  let c := c.ainUp n fun x => { x with last := some t }
  match iv with
  | none => c
  | some iv =>
    let iv := if span then iv / 2 else iv
    let h := (c.ain n).hist
    let valid := c.flag (ANG_ISTAT_FVALID n)
    let keep := valid || h.head?.any fun p => consistent (c.fld (ANG_ICTL_CONS n)) p iv
    let h := (iv :: if keep then h else []).take 64
    let c := c.ainUp n fun x => { x with hist := h }
    if valid || 2 ≤ h.length then
      let p := if c.flag (ANG_ICTL_MODE n) then c.cpr n else c.cpr n / 4
      (c.raiseFlag (ANG_ISTAT_FVALID n)).setReg (ANG_FREQ n) (freqOf (h.take (c.avgLen n)) p)
    else c

/-- The direction of travel is `rev` before DIRINV: a change discards the history (R60, R63). -/
def Chip.direction (c : Chip) (n : Nat) (rev : Bool) : Chip :=
  let d := xor rev (c.flag (ANG_ICTL_DIRINV n))
  if d == c.flag (ANG_ISTAT_DIR n) then c else (c.setFld (ANG_ISTAT_DIR n) (b2n d)).freqRestart n

-- Counting

/-- An edge of tick `t` is counted: POS moves by one in the direction DIR; LOS clears (R55, R64). -/
def Chip.countEdge (c : Chip) (n t : Nat) : Chip :=
  ((c.setReg (ANG_POS n) (c.nextPos n)).clrFlag (ANG_ISTAT_LOS n)).ainUp n fun x => { x with zeroNext := false, lastCnt := some t }

/-- The divided output counts an edge (R65). -/
def Chip.divide (c : Chip) (n : Nat) : Chip :=
  let d := c.fld (ANG_DIVR_DIV n)
  let x := c.ain n
  if d == 0 then c.ainUp n fun x => { x with out := false, div := 0 }
  else if d ≤ x.div + 1 then c.ainUp n fun x => { x with out := !x.out, div := 0 }
  else c.ainUp n fun x => { x with div := x.div + 1 }

/-- A rising edge of line A at tick `t`: an extra tooth is a mark and is not counted; else it is counted, timed and divided, and the edge
that ends a missing tooth's gap is a mark after its count. While no valid interval exists, the position tells the gap (R59, R61). -/
def Chip.riseA (c : Chip) (n t : Nat) : Chip :=
  let pos := c.reg (ANG_POS n)
  let iv := (c.ain n).last.map fun u => 2 * (t - u)
  if iv.any (c.extraEdge n) then (c.mark n t pos).ainUp n fun x => { x with zeroNext := true }
  else
    let gap := iv.any (c.gapEdge n)
    let span := gap || (!c.flag (ANG_ISTAT_FVALID n) && c.nextMissing n)
    ((((c.countEdge n t).tooth n t iv span).divide n)).when gap (·.mark n t pos)

/-- The filtered levels of an enabled input change at tick `t`: QERR on a double change (R56), else direction and count, then the index
(R58). -/
def Chip.angLevels (c : Chip) (n t : Nat) (v : Lines) : Chip :=
  let old := (c.ain n).lines
  let da := old.a != v.a
  let db := old.b != v.b
  let pos := c.reg (ANG_POS n)
  let rise := !old.a && v.a
  let c := c.ainUp n fun x => { x with lines := v }
  let c :=
    if c.flag (ANG_ICTL_MODE n) then (c.direction n v.b).when rise (·.riseA n t)
    else if da && db then
      let c := ((c.bump (ANG_QERR_CNT n)).setReg ANG_ASUSP (c.reg ANG_ASUSP ||| 2 ^ c.fld (ANG_ICTL_BASE n))).unlock n
      c.raiseHub (angSrc n 0 (ANG_ISTAT_QERR n))
    else if da || db then
      let c := c.direction n (if da then v.a == v.b else v.a != v.b)
      if rise then c.riseA n t else c.countEdge n t
    else c
  c.when (c.fld (ANG_ICTL_MARK n) == 0 && !old.z && v.z) (·.mark n t pos)

/-- Levels that have changed for `held` samples, that of the present tick the last (R52): fewer than FILT_N are discarded and counted;
else the edge has the tick of the first of them. A disabled input follows its lines without any other effect. -/
def Chip.anginEdge (c : Chip) (n : Nat) (v : Lines) (held : Nat) : Chip :=
  let old := (c.ain n).lines
  if !c.flag (ANG_ICTL_EN n) then (if held < c.fld (ANG_FILT_FILT_N n) then c else c.ainUp n fun x => { x with lines := v })
  else if held < c.fld (ANG_FILT_FILT_N n) then
    let ch := [b2n (old.a != v.a), b2n (old.b != v.b), b2n (old.z != v.z)]
    (c.ainUp n fun x => { x with drop := List.zipWith (· + ·) x.drop ch }).bumpBy (ANG_GLITCH_CNT n) (ch.foldl (· + ·) 0)
  else c.angLevels n (c.tick + 1 - held) v

/-- CHAT_WIN in ticks; 0 is treated as 1. -/
def Chip.chatWin (c : Chip) (n : Nat) : Nat := 1000 * Nat.max (c.fld (ANG_CHAT_CHAT_WIN n)) 1

/-- A chatter window of CHAT_WIN ends and the next begins (R53). -/
def Chip.chatterEnd (c : Chip) (n : Nat) : Chip :=
  if !c.flag (ANG_ICTL_EN n) || c.tick < (c.ain n).winAt + c.chatWin n then c
  else
    let beyond := (c.ain n).drop.any fun d => c.fld (ANG_CHAT_CHAT_MAX n) < d
    (c.ainUp n fun x => { x with drop := [0, 0, 0], winAt := x.winAt + c.chatWin n }).when beyond
      (·.raiseHub (angSrc n 2 (ANG_ISTAT_CHATTER n)))

/-- No counted edge has arrived in the time that R64 allows: three expected periods from the last counted edge, or, while FVALID = 0,
LOS_TO from the last counted edge or the setting of EN. -/
def Chip.losDue (c : Chip) (n : Nat) : Bool :=
  let x := c.ain n
  let from_ := match x.lastCnt with
    | some t => Nat.max t x.enAt
    | none => x.enAt
  let gone := 2 * (c.tick - from_)
  if c.flag (ANG_ISTAT_FVALID n) then
    let h := x.hist.take (c.avgLen n)
    3 * (if c.nextMissing n then 2 else 1) * h.foldl (· + ·) 0 ≤ gone * h.length
  else 2000 * Nat.max (c.fld (ANG_FILT_LOS_TO n)) 1 ≤ gone

/-- Loss of signal (R64). -/
def Chip.angLos (c : Chip) (n : Nat) : Chip :=
  if !c.flag (ANG_ICTL_EN n) || c.flag (ANG_ISTAT_LOS n) || !c.losDue n then c
  else (((c.raiseFlag (ANG_ISTAT_LOS n)).freqRestart n).unlock n).raiseHub (angSrc n 1 (ANG_ISTAT_LOS_SEEN n))

-- Register writes (R54, R65)

def Chip.angRefused (c : Chip) (n : Nat) : Chip := c.raiseHub (angSrc n 4 (ANG_ISTAT_REFUSED n))

/-- DIR after a write of ICTL (R60): a change of DIRINV inverts it, and an enabled toothed input shows the level of line B. -/
def Chip.dirAfter (c : Chip) (n : Nat) (inv : Bool) : Bool :=
  if c.flag (ANG_ICTL_EN n) && c.flag (ANG_ICTL_MODE n) then xor (c.ain n).lines.b (c.flag (ANG_ICTL_DIRINV n))
  else xor (c.flag (ANG_ISTAT_DIR n)) (inv != c.flag (ANG_ICTL_DIRINV n))

/-- A write of ICTL: a change of MODE or MARK while EN is 1 is refused; setting EN restarts the measurement; a change of DIR restarts it
too (R60, R63). A change of MODE is taken whatever CPR holds (DESIGN CHOICE, log entry 94). -/
def Chip.ictlWrite (c : Chip) (n w : Nat) : Chip :=
  let en := c.flag (ANG_ICTL_EN n)
  let inv := c.flag (ANG_ICTL_DIRINV n)
  if en && (bit w 1 != c.flag (ANG_ICTL_MODE n) || bits w 17 16 != c.fld (ANG_ICTL_MARK n)) then c.angRefused n
  else
    let c := c.plainWrite (ANG_ICTL n) w
    let c := c.when (!en && bit w 0) fun c =>
      (c.freqRestart n).ainUp n fun x => { x with drop := [0, 0, 0], zeroNext := false, winAt := c.tick, enAt := c.tick, lastCnt := none }
    let d := c.dirAfter n inv
    let c := c.when (d != c.flag (ANG_ISTAT_DIR n)) fun c => (c.setFld (ANG_ISTAT_DIR n) (b2n d)).freqRestart n
    c.when (en && !bit w 0) (·.unlock n)

/-- A write of FILT. -/
def Chip.filtWrite (c : Chip) (n w : Nat) : Chip :=
  if bits w 9 0 == 0 || (c.flag (ANG_ICTL_EN n) && bits w 9 0 != c.fld (ANG_FILT_FILT_N n)) then c.angRefused n
  else c.plainWrite (ANG_FILT n) w

/-- A write of CPR: a change while EN is 1 or to an illegal value is refused (R54, R432). POS stays as it is until the next counted edge
(DESIGN CHOICE, log entry 94). -/
def Chip.cprWrite (c : Chip) (n w : Nat) : Chip :=
  let v := bits w 23 0
  let bad := if c.flag (ANG_ICTL_MODE n) then v < 3 else v == 0 || v % 4 != 0
  if v != c.fld (ANG_CPR_COUNT n) && (c.flag (ANG_ICTL_EN n) || bad) then c.angRefused n else c.plainWrite (ANG_CPR n) w

/-- A write of DIVR: DIV = 0 holds ANGOUTn low, of a disabled input and in LOS too; another value goes on with the edges counted (DESIGN
CHOICE, log entry 94). -/
def Chip.divrWrite (c : Chip) (n w : Nat) : Chip :=
  (c.plainWrite (ANG_DIVR n) w).when (bits w 15 0 == 0) fun c => c.ainUp n fun x => { x with out := false, div := 0 }

/-- The squared magnitude of a grid vector, unsigned Q2.14, truncated and saturated (R66). -/
def vecMag (w : Nat) : Nat :=
  let a := toSigned 16 (bits w 15 0)
  let b := toSigned 16 (bits w 31 16)
  Nat.min ((a * a + b * b).toNat / 2 ^ 14) 0xFFFF

/-- A write of VEC of base `b` (R66). -/
def Chip.vecWrite (c : Chip) (b w : Nat) : Chip :=
  let c := c.plainWrite (ANG_VEC b) w
  let m := vecMag w
  if m < c.fld (ANG_VWIN_VLO b) || c.fld (ANG_VWIN_VHI b) < m then
    (c.bump (ANG_VIOL_CNT b)).raiseHub ⟨2, 0, 2, ⟨ANG_ASUSP, b, b⟩⟩
  else c

-- The commands

def execAnginEdge (n : Fin 4) (v : Lines) (held : BitVec 10) (s : State) : Host.Outcome State Fault Refusal :=
  .next (s.on fun c => c.anginEdge n v held.toNat)
def execChatterWindow (n : Fin 4) (s : State) : Host.Outcome State Fault Refusal := .next (s.on fun c => c.chatterEnd n)
def execLos (n : Fin 4) (s : State) : Host.Outcome State Fault Refusal := .next (s.on fun c => c.angLos n)
def execIctlWrite (n : Fin 4) (w : Word) (s : State) : Host.Outcome State Fault Refusal :=
  .next (s.on fun c => c.ictlWrite n w.toNat)
def execVec (b : Fin 4) (w : Word) (s : State) : Host.Outcome State Fault Refusal := .next (s.on fun c => c.vecWrite b w.toNat)

end Sys2Proof.Machine
end

