-- ==== Sys2Proof/Machine/Pwm.lean ====
section
/-!
DEFINITION. The PWM block of the cell: counter events, shadow registers and seals, free-running mode, pending gate edges and
the vernier end, guarded writes, and the freeze of a debug halt or a stopped clock (R132 to R153, R314).
-/
namespace Sys2Proof.Machine

def Chip.fireUp (c : Chip) (f : Fire → Fire) : Chip := { c with fire := f c.fire }

/-- A refused write of PWM (R139, R142, R150). -/
def Chip.refusePwm (c : Chip) : Chip := c.raiseCell srcPwmRefused

/-- A counter event of source `k`: 0 ZERO, 1 PERIOD, 2 to 5 CMP0 to CMP3 (R143). Events count occurrences while enabled; each
PSC-th sets the flag, or OVR where the flag is still set. None comes during a debug halt (R147). -/
def Chip.pwmEvent (c : Chip) (k : Nat) : Chip :=
  if c.frozen then c
  else
    let c := c.when (k == 0) (·.adcZero)
    let c := c.when (k == 4) (·.adcCmp2)
    if !bit (c.fld PWM_EVCTL_EN) k then c
    else
      let n := Assoc.get (fun _ => 0) c.fire.evCnt k + 1
      if n ≤ c.fld PWM_EVCTL_PSC then c.fireUp fun f => { f with evCnt := Assoc.set (fun _ => 0) f.evCnt k n }
      else
        let c := c.fireUp fun f => { f with evCnt := Assoc.set (fun _ => 0) f.evCnt k 0 }
        let v := c.reg PWM_EVSTAT
        c.setReg PWM_EVSTAT (if bit v k then v ||| 2 ^ (8 + k) else v ||| 2 ^ k)

/-- A write of EVCTL restarts every occurrence count (R143). -/
def Chip.evctlWrite (c : Chip) (w : Nat) : Chip := (c.plainWrite PWM_EVCTL w).fireUp fun f => { f with evCnt := [] }

/-- AON0 and AON1 as they now stand (R142). -/
def Chip.refreshAon (c : Chip) : Chip :=
  let per := c.reg PWM_PER
  (c.setFld PWM_SSTAT_AON0 (b2n (per ≤ c.reg (PWM_CMP 0)))).setFld PWM_SSTAT_AON1 (b2n (per ≤ c.reg (PWM_CMP 1)))

/-- SEAL_PER (R141, R142). -/
def Chip.sealPer (c : Chip) : Chip :=
  if c.fld PWM_PER_SH_T < 2 then c.refusePwm
  else (c.fireUp fun f => { f with sealPer := some (c.fld PWM_PER_SH_T) }).raiseFlag PWM_SSTAT_PER_PEND

/-- SEAL_CMP (R141, R142). -/
def Chip.sealCmp (c : Chip) : Chip :=
  (c.fireUp fun f => { f with sealCmp := some (c.fld (PWM_CMP_SH_T 0), c.fld (PWM_CMP_SH_T 1), c.fld (PWM_CMP_SH_T 2),
    c.fld (PWM_CMP_SH_T 3)) }).raiseFlag PWM_SSTAT_CMP_PEND

/-- A write of SEAL. -/
def Chip.sealWrite (c : Chip) (w : Nat) : Chip :=
  (c.when (bit w 0) (·.sealPer)).when (bit w 1) (·.sealCmp)

/-- Sealed values become active (R141). -/
def Chip.transfer (c : Chip) : Chip :=
  let c := match c.fire.sealPer with
    | some v => c.setReg PWM_PER v
    | none => c
  let c := match c.fire.sealCmp with
    | some (a, b, d, e) => c.setWords (PWM_CMP 0) [a, b, d, e]
    | none => c
  let c := c.fireUp fun f => { f with sealPer := none, sealCmp := none }
  ((c.clrFlag PWM_SSTAT_PER_PEND).clrFlag PWM_SSTAT_CMP_PEND).refreshAon

/-- The two bits of a leg (0 A, 1 B) in a pattern. -/
def legBits (pat n : Nat) : Nat := bits pat (2 * n + 1) (2 * n)

/-- A leg driven to its bypass side, or to the opposite, inserting side (R140), which an SDD mask of its polarity forbids (R346,
Table 15-8); the other leg stays. -/
def Chip.driveLeg (c : Chip) (n : Nat) (ins : Bool) : Chip :=
  let byp := legBits (c.pattern 2) n
  let neg := c.fullBridge && ((n == 0) == c.flag PWM_PCTL_FB_BYP)
  let want := if ins && !c.sddMasked neg then 3 - byp else byp
  let now := c.patternNow
  let pat := if n == 0 then legBits now 1 * 4 + want else want * 4 + legBits now 0
  c.transition pat

/-- A leg is to drive its inserting side in the tick before this one (R137, R140). -/
def Chip.legInserted (c : Chip) (n : Nat) : Bool :=
  legBits (c.patternAt c.ctick) n == 3 - legBits (c.pattern 2) n

/-- The legs in use: B only in a full-bridge cell. -/
def Chip.legs (c : Chip) : List Nat := if c.fullBridge then [0, 1] else [0]

/-- A free-mode period of leg `n` begins (R140): the pulse of CMPn against PER under the rules of R137. -/
def Chip.legPeriod (c : Chip) (n : Nat) : Chip :=
  let w := c.reg (PWM_CMP n)
  let per := c.reg PWM_PER
  let dead := c.fld PWM_DEADT_DEAD
  let cont := c.legInserted n
  let setPulse (c : Chip) (b : Bool) : Chip :=
    c.fireUp fun f => { f with legPulse := Assoc.set (fun _ => false) f.legPulse n b }
  if w == 0 then (setPulse c false).driveLeg n false
  else if per ≤ w then (setPulse c false).driveLeg n true
  else if !cont && w < Nat.max (c.fld PWM_MINPW_MIN_ON) (dead + 1) then
    ((setPulse c false).driveLeg n false).bump PWM_SWALLOW_CNT
  else if per - w < Nat.max (c.fld PWM_MINPW_MIN_OFF) (dead + 1) then
    ((setPulse c false).driveLeg n true).bump PWM_FULLON_CNT
  else (setPulse c true).driveLeg n true

/-- Free mode drives the gates: MODE = 1 in a switching state, with no reaction in force and nothing frozen (R139). -/
def Chip.freeRuns (c : Chip) : Bool :=
  c.flag PWM_PCTL_MODE && !c.blocked && !c.flag CFL_REACT_BLK && !c.flag CFL_REACT_BYP && !c.frozen

/-- PCNT equals CMPn, below PER (R140, R143): a free-mode pulse ends, and the compare event comes. -/
def Chip.pwmCompare (c : Chip) (n : Nat) : Chip :=
  if c.frozen || c.reg PWM_PER ≤ c.reg (PWM_CMP n) || c.fire.pcnt != c.reg (PWM_CMP n) then c
  else
    let c := c.when (c.freeRuns && Assoc.get (fun _ => false) c.fire.legPulse n) fun c =>
      (c.fireUp fun f => { f with legPulse := Assoc.set (fun _ => false) f.legPulse n false }).driveLeg n false
    c.pwmEvent (2 + n)

/-- The compares that PCNT now equals. -/
def Chip.pwmCompares (c : Chip) : Chip := c.forEach [0, 1, 2, 3] fun n c => c.pwmCompare n

/-- PCNT becomes 0: ZERO, and the compares at 0 (R143). -/
def Chip.pwmZero (c : Chip) : Chip := (c.pwmEvent 0).pwmCompares

/-- PCNT wraps, PERIOD having come the tick before (R139 to R143): the sealed values, the next free-mode pulse of each leg, and ZERO. -/
def Chip.periodBoundary (c : Chip) : Chip :=
  if c.frozen || c.fire.pcnt + 1 < c.reg PWM_PER then c
  else
    let c := (c.fireUp fun f => { f with pcnt := 0 }).transfer
    let c := c.when c.freeRuns fun c => c.forEach c.legs fun n c => c.legPeriod n
    c.pwmZero

/-- A pending turn-on that has fallen due (R134); nothing moves while the outputs are frozen (R147), but for a BYPASS reaction in a debug
halt. -/
def Chip.gateOnEdge (c : Chip) (g : Nat) : Chip :=
  if (c.gate g).due.any (fun d => d ≤ c.ctick) && (!c.frozen || (c.fire.haltByp && !c.fire.clkStop)) then (c.gateOn g).refreshPend else c

/-- A vernier pulse ends W ticks after its execution instant: the leg moves to the bypass pattern (R84). -/
def Chip.vernierEnd (c : Chip) : Chip :=
  if c.fire.vernEnd.any (fun d => d ≤ c.ctick) && !c.frozen then
    let c := (c.dropVern).transition (c.pattern 2)
    c.when (c.cellState == 6) (·.setState 2)
  else c

/-- A write of PCTL (R139): a change of MODE outside BLOCK and OFFLINE is refused. -/
def Chip.pctlWrite (c : Chip) (w : Nat) : Chip :=
  if bit w 0 != c.flag PWM_PCTL_MODE && !c.blocked then c.refusePwm
  else
    let c := c.plainWrite PWM_PCTL w
    c.setState c.cellState

/-- A write of DEADT or MINPW (R150, R432). -/
def Chip.pwmGuarded (c : Chip) (a w : Nat) : Chip :=
  if w &&& (regWord a).rw != c.reg a && !c.blocked then c.refusePwm else c.plainWrite a w

/-- In free mode a leg drives its inserting side, which is no BYPASS (R139, R140). -/
def Chip.freeInserted (c : Chip) : Bool :=
  c.flag PWM_PCTL_MODE && !c.blocked && c.legs.any fun n => legBits c.patternNow n == 3 - legBits (c.pattern 2) n

/-- The debug halt request of the Shed core is accepted by the firing path (R146). -/
def Chip.haltAccepted (c : Chip) : Bool :=
  c.flag PWM_PCTL_DBG_FORCE || ((c.cellState == 1 || c.cellState == 2) && !c.edgePending && !c.freeInserted)

/-- The firing path freezes in a debug halt (R147). -/
def Chip.freeze (c : Chip) : Chip :=
  let c := ((c.raiseFlag PWM_PSTAT_HALTED).raiseFlag PWM_PSTAT_FROZEN).fireUp fun f => { f with haltByp := false }
  c.setState (if c.blocked then c.cellState else 5)

/-- The timing clock stops (R147, R149): the outputs freeze and CLK_STOP is raised. -/
def Chip.clkStop (c : Chip) : Chip :=
  if c.fire.clkStop then c
  else ((c.fireUp fun f => { f with clkStop := true }).raiseFlag PWM_PSTAT_FROZEN).raiseCell srcClkStop

/-- A held fault put in the order of R305: by block, then by source. -/
def insertSrc (x : Src) : List Src → List Src
  | [] => [x]
  | y :: ys => if x.blk < y.blk || (x.blk == y.blk && x.src ≤ y.src) then x :: y :: ys else y :: insertSrc x ys

/-- The timing clock returns (R314): the held faults are raised in order, with RC = 1 in their log entries. -/
def Chip.clockReturn (c : Chip) : Chip :=
  if !c.fire.clkStop then c
  else
    let c := c.fireUp fun f => { f with clkStop := false }
    let c := c.setFld PWM_PSTAT_FROZEN (b2n (c.flag PWM_PSTAT_HALTED))
    ({ c with held := [] }).forEach (c.held.foldr insertSrc []) fun x c => c.raiseCellNow x true

/-- One tick of the PWM counter (R139, R143): it wraps at PER, and its events come as it passes their values. -/
def Chip.pwmTick (c : Chip) : Chip :=
  if c.frozen then c
  else
    let n := c.fire.pcnt + 1
    if c.reg PWM_PER ≤ n then c.periodBoundary
    else
      let c := c.fireUp fun f => { f with pcnt := n }
      let c := c.when (n + 1 == c.reg PWM_PER) (·.pwmEvent 1)
      c.pwmCompares

/-- Gate edges and the vernier end that fall due at this tick (R134, R84). -/
def Chip.gateTick (c : Chip) : Chip := (c.forEach [0, 1, 2, 3] fun g c => c.gateOnEdge g).vernierEnd

-- The commands

def execModeWrite (w : Word) (s : State) : Host.Outcome State Fault Refusal := .next (s.on fun c => c.pctlWrite w.toNat)
def execPeriodBoundary (s : State) : Host.Outcome State Fault Refusal := .next (s.on fun c => c.periodBoundary)
def execPwmCompare (n : Fin 4) (s : State) : Host.Outcome State Fault Refusal := .next (s.on fun c => c.pwmCompare n)
def execSealPer (w : Word) (s : State) : Host.Outcome State Fault Refusal :=
  .next (s.on fun c => c.sealWrite (w.toNat ||| 1))
def execSealCmp (w : Word) (s : State) : Host.Outcome State Fault Refusal :=
  .next (s.on fun c => c.sealWrite (w.toNat ||| 2))
def execEvctlWrite (w : Word) (s : State) : Host.Outcome State Fault Refusal := .next (s.on fun c => c.evctlWrite w.toNat)
def execGateOnEdge (g : Fin 4) (s : State) : Host.Outcome State Fault Refusal := .next (s.on fun c => c.gateOnEdge g)
def execVernierEnd (s : State) : Host.Outcome State Fault Refusal := .next (s.on (·.vernierEnd))
def execClkStop (s : State) : Host.Outcome State Fault Refusal := .next (s.on (·.clkStop))
def execClockReturn (s : State) : Host.Outcome State Fault Refusal := .next (s.on (·.clockReturn))

end Sys2Proof.Machine
end

