-- ==== Sys2Proof/Machine/Firing.lean ====
section
/-!
DEFINITION. The order ledger of the cell: the slot grid, blocks in and out of the window, resolution at the commit deadline,
the execution instant, skips and stalls (R69 to R94, R137, R147 to R151).
-/
namespace Sys2Proof.Machine

-- The cell's slot grid (R70)

/-- Slots per cycle of the cell; 0 is treated as 1 (Table 6-8). -/
def Chip.slotsC (c : Chip) : Nat := Nat.max (c.fld LDG_SLOTS_S) 1

/-- The slot number of an angle replica value in units of 2^-40. -/
def Chip.slotOf (c : Chip) (acc : Nat) : Nat := slotIndex c.slotsC (c.reg LDG_SLOT_ORG) (acc / one40)

/-- Tag T of R75. -/
def Chip.tagT (c : Chip) : Nat := c.fld LDG_LSTAT_T

/-- `t` less T, read as a signed 12-bit difference (R75). -/
def Chip.tagDiff (c : Chip) (t : Nat) : Int := toSigned 12 (wrapNat 12 ((t : Int) - c.tagT))

-- Events and reports

/-- The suppressed conditions of R92: BLOCK, OFFLINE, a BLOCK, BYPASS or HOLD reaction, or free mode (R139). -/
def Chip.suppressed (c : Chip) : Bool :=
  c.blocked || c.flag CFL_REACT_BLK || c.flag CFL_REACT_BYP || c.flag CFL_REACT_HLD || c.flag PWM_PCTL_MODE

/-- A firing block sent to the hub or hubs: on LA, and on LB in a dual-homed cell (R17). -/
def Chip.sendUp (c : Chip) (w : DWord) : Chip := (c.queueBlock 204 6 w).when c.dual (·.queueBlock 205 6 w)

/-- An EVENT (Table 4-6), once per code per slot; further ones are counted (R81). -/
def Chip.sendEvent (c : Chip) (code tag : Nat) (ona onb : Bool) (detail : Nat) : Chip :=
  if c.fire.evtCodes.contains code then c.bump LDG_EVT_DROP_CNT
  else
    let w := mkBlock 0x52 (tag * 2 ^ 32 + code * 2 ^ 24 + b2n ona * 2 ^ 23 + b2n onb * 2 ^ 22 + detail)
    (c.fireUp fun f => { f with evtCodes := code :: f.evtCodes }).sendUp w

/-- An EVENT that concerns the cell's lanes as a whole. -/
def Chip.sendEventAll (c : Chip) (code tag detail : Nat) : Chip := c.sendEvent code tag true c.dual detail

/-- The REPORT of slot `tag` (Table 4-5, R286, R287): HOLD in a debug halt but for BLOCK and OFFLINE (R80), else VERNIER in free mode
(R139), else the state. -/
def Chip.sendReport (c : Chip) (tag : Nat) : Chip :=
  let v := c.vcapField
  let c := v.2
  let st := if c.flag PWM_PSTAT_HALTED then (if c.blocked then c.cellState else 5) else if c.flag PWM_PCTL_MODE then 6 else c.cellState
  c.sendUp (mkBlock 0x51 (tag * 2 ^ 32 + v.1 * 2 ^ 16 + c.fld ADC_TJREP_TJ * 2 ^ 8 + st * 2 ^ 5
    + c.fld LDG_LSTAT_SUPP * 2 ^ 4 + b2n c.fullBridge * 2 ^ 3 + b2n c.activeB * 2 ^ 2))

-- Ledger entries (Table 6-9)

/-- An entry holds a tag. -/
def Chip.entValid (c : Chip) (e : Nat) : Bool := bit (c.reg (LDG_ENTRY e)) 16

/-- The entry that holds tag `t`. -/
def Chip.findEnt (c : Chip) (t : Nat) : Option Nat :=
  [0, 1, 2, 3].find? fun e => c.entValid e && bits (c.reg (LDG_ENTRY e)) 11 0 == t

/-- A free entry, if there is one; which of them it is, is a free value. -/
def Chip.freeEnt (c : Chip) : Option Nat := ([0, 1, 2, 3].map fun i => (c.draw.1 + i) % 4).find? fun e => !c.entValid e

/-- An entry erased: it reads zero in every word (R152). -/
def Chip.eraseEnt (c : Chip) (e : Nat) : Chip := c.setWords (LDG_ENTRY e) (List.replicate 9 0)

/-- The entry of a tag erased, if there is one. -/
def Chip.eraseTag (c : Chip) (t : Nat) : Chip :=
  match c.findEnt t with
  | some e => c.eraseEnt e
  | none => c

/-- ORD_A or ORD_B, ABORT_A or ABORT_B, and CMT_A or CMT_B of lane `b` (0 LA, 1 LB), and the payload fields. -/
def ordBit (e b : Nat) : Fld := ⟨LDG_ENTRY e, 17 + b, 17 + b⟩
def abortBit (e b : Nat) : Fld := ⟨LDG_ENTRY e, 19 + b, 19 + b⟩
def cmtFld (e b : Nat) : Fld := ⟨LDG_ENTRY e, 22 + 2 * b, 21 + 2 * b⟩
def ordAddr (e b : Nat) : Nat := LDG_ENTRY e + 4 + 16 * b
def cmtAddr (e b : Nat) : Nat := LDG_ENTRY e + 12 + 16 * b

/-- Bits [55:12] of the order and commit held (R89). -/
def Chip.ordOf (c : Chip) (e b : Nat) : Nat := c.reg64 (ordAddr e b)
def Chip.cmtOf (c : Chip) (e b : Nat) : Nat := c.reg64 (cmtAddr e b)

/-- The order field takes a payload. -/
def Chip.storeOrd (c : Chip) (e b x : Nat) : Chip := (c.raiseFlag (ordBit e b)).setReg64 (ordAddr e b) x

/-- The order field emptied. -/
def Chip.clearOrd (c : Chip) (e b : Nat) : Chip := (c.clrFlag (ordBit e b)).setReg64 (ordAddr e b) 0

/-- A block in window for a tag that has an entry (Table 4-8). -/
def Chip.applyEnt (c : Chip) (e b typ x : Nat) : Chip :=
  match typ with
  | 0x41 =>
    if c.flag (ordBit e b) || c.flag (abortBit e b) then c.bump LDG_DUP_CNT else c.storeOrd e b x
  | 0x42 => (c.clrFlag (abortBit e b)).storeOrd e b x
  | 0x48 => if c.flag (abortBit e b) then c else (c.clearOrd e b).raiseFlag (abortBit e b)
  | _ =>
    match c.fld (cmtFld e b) with
    | 0 => (c.setFld (cmtFld e b) 1).setReg64 (cmtAddr e b) x
    | 1 => if c.cmtOf e b == x then c.bump LDG_DUP_CNT else (c.setFld (cmtFld e b) 2).setReg64 (cmtAddr e b) 0
    | _ => c.bump LDG_DUP_CNT

/-- One block, or one tag that an ABORT covers, tested against the window of R75 and applied (R86). -/
def Chip.applyTag (c : Chip) (b typ tag x : Nat) : Chip :=
  let d := c.tagDiff tag
  let dd := wrapNat 12 d * 4
  let ev (c : Chip) (code detail : Nat) : Chip := c.sendEvent code tag (b == 0) (b == 1) detail
  if d < 0 then
    let c := c.bump LDG_STALE_CNT
    match typ with
    | 0x48 => c.when (!c.suppressed) fun c => ev c 0x09 dd
    | 0x42 => c.when (!c.suppressed) fun c => ev c 0x0A dd
    | _ => ev c 0x06 (typ * 2 ^ 14 + dd)
  else if 8 ≤ d then ev (c.bump LDG_EARLY_CNT) 0x07 (typ * 2 ^ 14 + dd)
  else
    match c.findEnt tag with
    | some e => c.applyEnt e b typ x
    | none =>
      if typ == 0x48 then c
      else
        match c.freeEnt with
        | some e => (c.draw.2.setReg (LDG_ENTRY e) (tag + 2 ^ 16)).applyEnt e b typ x
        | none => ev ((c.bump LDG_FULL_CNT).raiseCell srcLedgerFull) 0x08 (typ * 2 ^ 14 + dd)

/-- A firing block received on a lane (R78, R86): its check, then each tag it names. A single-homed cell takes LA only (R17);
a stopped timing clock stops reception (Table 6-6). -/
def Chip.firingBlock (c : Chip) (l : CellLane) (typ : Nat) (w : DWord) : Chip :=
  c.rxSeen (cellLaneNum l) w fun c =>
    c.when (c.hears l && !c.fire.clkStop) fun c =>
      let b := if l == .la then 0 else 1
      let tag := wbits w 55 44
      let n := if typ == 0x48 then wbits w 43 42 + 1 else 1
      c.forEach (List.range n) fun i c => c.applyTag b typ ((tag + i) % 4096) (wbits w 55 12)

-- Resolution

/-- Outcome of a lane (R87): 0 EXEC, 1 LAPSE, 2 ORPHAN, 3 CONFLICT. -/
def Chip.outcome (c : Chip) (e : Option Nat) (b : Nat) : Nat :=
  match e with
  | none => 1
  | some e =>
    match c.fld (cmtFld e b) with
    | 0 => 1
    | 1 => if c.flag (ordBit e b) then 0 else 2
    | _ => 3

/-- Lc of R72, none when unbounded. -/
def Chip.slotTicks (c : Chip) : Option Nat :=
  let x := c.slotsC * c.reg64 CSD_ANG_INC
  if x == 0 then none else some ((2 * 2 ^ 72 + x) / (2 * x))

/-- The insertion rule of R82: the target state (6 VERNIER) and whether NEG_HB is reported, with the rank used. -/
def insertion (ord cmt : Nat) (fullBridge : Bool) : Nat × Bool × Nat :=
  let n := bits cmt 31 20
  let frac := bits cmt 19 6
  let dir := bit cmt 5
  let neg := bit cmt 4
  let r := if dir then bits ord 19 8 else bits ord 31 20
  if r == 0xFFF then (2, false, r)
  else if neg && !fullBridge then (2, r < n || (r == n && frac != 0), r)
  else if r < n then (if neg then 4 else 3, false, r)
  else if r == n && frac != 0 then (6, false, r)
  else (2, false, r)

/-- The tick at which the replica reached the start of slot `n`, or is to reach it at its present increment (R37, R38, R71). -/
def Chip.startTick (c : Chip) (n : Nat) : Option Nat :=
  match Assoc.get (fun _ => none) c.fire.starts n with
  | some t => some t
  | none =>
    let at_ := slotStart c.slotsC (c.reg LDG_SLOT_ORG) n * one40
    let inc := c.reg64 CSD_ANG_INC
    if at_ ≤ c.csd.ang then some (c.ctick + 1)
    else if inc == 0 || !c.flag CSD_RCTL_RUN_ANG then none
    else some (c.ctick + (at_ - c.csd.ang + inc - 1) / inc)

/-- The vernier decision of R137 for a commit whose target is VERNIER, made for slot T. -/
def Chip.vernier (c : Chip) (cmt : Nat) (lc : Option Nat) : Chip × Act :=
  let st := if bit cmt 4 then 4 else 3
  match lc with
  | none => (c.bump PWM_FULLON_CNT, .go st)
  | some lc =>
    let w := bits cmt 19 6 * lc / 16384
    let dead := c.fld PWM_DEADT_DEAD
    let instant := match c.startTick c.fire.num with
      | some t => t + c.fld LDG_LCTL_STAGGER
      | none => c.ctick + 24
    if c.patternAt instant != c.pattern st && w < Nat.max (c.fld PWM_MINPW_MIN_ON) (dead + 1) then
      (c.bump PWM_SWALLOW_CNT, .go 2)
    else if lc < w + Nat.max (c.fld PWM_MINPW_MIN_OFF) (dead + 1) then (c.bump PWM_FULLON_CNT, .go st)
    else (c, .pulse st w)

/-- What a resolution has found, beside the counters: what the slot does, the sources to raise, and the events to send, each with its
code and DETAIL. -/
structure Found where
  act : Act
  srcs : List Src := []
  events : List (Nat × Nat) := []
deriving DecidableEq, Repr

/-- A pair of order and commit executed (R82, R84, R94). -/
def Chip.executePair (c : Chip) (ord cmt : Nat) (lc : Option Nat) : Chip × Found :=
  let c := (c.setFld LDG_LSTAT_LAPSE_RUN 0).bump LDG_EXEC_CNT
  let x := insertion ord cmt c.fullBridge
  let c := c.when x.2.1 (·.bump LDG_NEGHB_CNT)
  let r := if x.1 == 6 then c.vernier cmt lc else (c, .go x.1)
  (r.1, { act := r.2, srcs := if x.2.1 then [srcNegHb] else [], events := if x.2.1 then [(0x0B, x.2.2 * 2 ^ 10)] else [] })

/-- What the two outcomes call for (R88 to R90, Table 4-9). -/
inductive Verdict where
  /-- Execute the pair of lane `b`. -/
  | run (b : Nat)
  /-- DIVERGE or SINGLE under ABPOL: orders differ, commits differ, lane that executes. -/
  | abpol (single : Bool) (od cd : Bool) (b : Option Nat)
  /-- No executable pair: 1 LAPSE, 2 ORPHAN, 3 CONFLICT. -/
  | none_ (o : Nat)
deriving DecidableEq, Repr

/-- The verdict on an entry. -/
def Chip.verdict (c : Chip) (e : Option Nat) : Verdict :=
  let a := c.outcome e 0
  let b := c.outcome e 1
  let act := if c.activeB then 1 else 0
  let follow (ok : Bool) : Option Nat := if c.flag CFL_SOCFG_ABPOL && ok then some act else none
  if !c.dual then (if a == 0 then .run 0 else .none_ a)
  else if a == 0 && b == 0 then
    let i := e.getD 0
    let od := c.ordOf i 0 != c.ordOf i 1
    let cd := c.cmtOf i 0 != c.cmtOf i 1
    if od || cd then .abpol false od cd (follow true) else .run 0
  else if a == 0 || b == 0 then .abpol true false false (follow ((if act == 0 then a else b) == 0))
  else .none_ (if a == 3 || b == 3 then 3 else if a == 1 && b == 1 then 1 else 2)

/-- A finding with one more source and event. -/
def Found.also (x : Found) (src : Src) (code detail : Nat) : Found :=
  { x with srcs := src :: x.srcs, events := (code, detail) :: x.events }

/-- LAPSE_FAULT on a resolution that leaves LAPSE_RUN at or above LAPSE_MAX (R94). -/
def Chip.lapseTest (c : Chip) (x : Found) : Found :=
  let run := c.fld LDG_LSTAT_LAPSE_RUN
  if Nat.max c.fire.lapseMax 1 ≤ run then
    { x with srcs := srcLapseFault :: x.srcs, events := x.events ++ [(0x0C, run * 2 ^ 14)] } else x

/-- A slot whose entry is `e` judged when firing is not suppressed: its counters, and what it has found (R88 to R94, R151). -/
def Chip.judge (c : Chip) (e : Option Nat) (lc : Option Nat) : Chip × Found :=
  let long := match lc with
    | some n => n ≤ c.fld LDG_LCTL_STAGGER
    | none => false
  let c := c.when long (·.bump LDG_STAG_CNT)
  let outs := c.outcome e 0 * 2 ^ 20 + (if c.dual then c.outcome e 1 * 2 ^ 18 else 0)
  let go (c : Chip) (b : Nat) : Chip × Found :=
    if long then (c, { act := .hold }) else c.executePair (c.ordOf (e.getD 0) b) (c.cmtOf (e.getD 0) b) lc
  let r : Chip × Found := match c.verdict e with
    | .run b => go c b
    | .abpol single od cd b =>
      let ex := b.isSome && !long
      let r := match b with
        | some b => go (c.bump (if single then LDG_SINGLE_CNT else LDG_DIVERGE_CNT)) b
        | none => (c.bump (if single then LDG_SINGLE_CNT else LDG_DIVERGE_CNT), { act := .hold })
      (r.1, if single then r.2.also srcSingle 0x05 (outs + b2n ex * 2 ^ 15)
        else r.2.also srcDiverge 0x04 (outs + b2n od * 2 ^ 17 + b2n cd * 2 ^ 16 + b2n ex * 2 ^ 15))
    | .none_ o =>
      let c := c.when (!long) fun c =>
        c.setFld LDG_LSTAT_LAPSE_RUN (Nat.min (c.fld LDG_LSTAT_LAPSE_RUN + 1) 15)
      let c := c.bump (if o == 1 then LDG_LAPSE_CNT else if o == 2 then LDG_ORPHAN_CNT else LDG_CONFLICT_CNT)
      (c, { act := .hold, events := [(o, outs + c.fld LDG_LSTAT_LAPSE_RUN * 2 ^ 14)] })
  let x := r.1.lapseTest r.2
  (r.1, { x with srcs := if long then x.srcs ++ [srcStaggerLong] else x.srcs })

/-- A slot resolved when firing is not suppressed: the sources of LDG are raised in ascending order (R305), then the events sent. -/
def Chip.resolve (c : Chip) (tag : Nat) (e : Option Nat) (lc : Option Nat) : Chip × Act :=
  let r := c.judge e lc
  let c := r.1.forEach (r.2.srcs.foldr insertSrc []) fun x c => c.raiseCell x
  (c.forEach r.2.events fun x c => c.sendEventAll x.1 tag x.2, r.2.act)

/-- Slot T becomes slot `n`: a new slot begins for R81. -/
def Chip.setSlot (c : Chip) (n : Nat) : Chip :=
  (c.setFld LDG_LSTAT_T (n % 4096)).fireUp fun f => { f with num := n, evtCodes := [] }

/-- The first slot from `n` on that no replica move has carried over (R77). -/
def Chip.notCarried (c : Chip) (n : Nat) : Nat :=
  c.fire.carried.foldl (fun n r => if r.1 ≤ n && n ≤ r.2 then r.2 + 1 else n) n

/-- T moves to the next slot, past those that replica moves have carried over. -/
def Chip.nextTag (c : Chip) : Chip :=
  let n := c.notCarried (c.fire.num + 1)
  (c.setSlot n).fireUp fun f =>
    let low := f.plans.foldl (fun m (p : Plan) => Nat.min m p.slot) n
    { f with starts := f.starts.filter (fun x => low ≤ x.1), carried := f.carried.filter (fun r => n ≤ r.2),
             lastDl := c.ctick, stalled := false }

/-- The commit deadline of slot T, 24 ticks before its execution instant, has come (R71). -/
def Chip.deadlineDue (c : Chip) : Bool :=
  !c.fire.clkStop && (c.startTick c.fire.num).any fun t => t + c.fld LDG_LCTL_STAGGER ≤ c.ctick + 24

/-- The commit deadline of slot T (R87): resolution, or a skip kept for the end of a halt (R147, R148). REP_DIV, LAPSE_MAX and
ACTIVE as written take effect (R150, R224). -/
def Chip.commitDeadline (c : Chip) : Chip :=
  if !c.deadlineDue then c
  else
    let tag := c.tagT
    let c := c.fireUp fun f => { f with repDiv := c.fld LDG_LCTL_REP_DIV, lapseMax := c.fld LDG_LCTL_LAPSE_MAX,
                                        activeB := c.flag CLN_CCTL_ACTIVE }
    let put (c : Chip) (a : Act) : Chip := c.fireUp fun f => { f with plans := f.plans ++ [{ slot := f.num, act := a }] }
    if c.flag PWM_PSTAT_HALTED then
      (put (c.fireUp fun f => { f with haltTags := f.haltTags ++ [tag] }) .idle).nextTag
    else
      let c := c.latchLine 16 7
      let lc := c.slotTicks
      let c := c.setFld LDG_LC_LC (match lc with | some n => Nat.min n 0xFFFF | none => 0xFFFF)
      let e := c.findEnt tag
      if c.suppressed then
        let held := !c.blocked && !c.flag CFL_REACT_BYP && c.flag CFL_REACT_HLD
        let c := put (c.eraseTag tag) (if held then .hold else .idle)
        (c.when held (·.setState 5)).nextTag
      else
        let r := c.resolve tag e lc
        let taken := r.1.blocked || r.1.flag CFL_REACT_BYP
        let c := put (r.1.eraseTag tag) (if taken then .idle else r.2)
        (c.when (r.2 == .hold && !taken) (·.setState 5)).nextTag

/-- The execution instant of a resolved slot has come: STAGGER ticks after the replica reached its start (R71). -/
def Chip.instantDue (c : Chip) (p : Plan) : Bool :=
  !c.fire.clkStop && (Assoc.get (fun _ => none) c.fire.starts p.slot).any fun t => t + c.fld LDG_LCTL_STAGGER ≤ c.ctick

/-- What the slot does at its instant: under a HOLD reaction it executes nothing (R92, R136). -/
def Chip.actNow (c : Chip) (a : Act) : Act :=
  if c.flag CFL_REACT_HLD then (match a with | .idle => .idle | _ => .hold) else a

/-- The execution instant of a resolved slot (R71, R80, R84, R134, R136, R139, R143, R147). Before it is due it does nothing. -/
def Chip.executionInstant (c : Chip) : Chip :=
  match c.fire.plans with
  | [] => c
  | p :: ps =>
    if !c.instantDue p then c
    else
      let c := c.fireUp fun f => { f with plans := ps }
      let c := c.when (!c.flag PWM_PSTAT_HALTED) fun c =>
        let c := c.when (!c.flag PWM_PCTL_MODE) fun c => (c.fireUp fun f => { f with pcnt := 0 }).pwmZero
        match c.actNow p.act with
        | .idle => c
        | .hold => c.setState 5
        | .go st => c.goState st
        | .pulse st w =>
          if c.sddOff st then c.goState 2
          else
          let c := (c.dropVern).transition (c.pattern st)
          ((c.fireUp fun f => { f with vernEnd := some (c.ctick + w) }).refreshPend).setState 6
      let due := c.fire.repCnt == 0
      let c := c.fireUp fun f => { f with repCnt := if f.repDiv ≤ f.repCnt then 0 else f.repCnt + 1 }
      (c.when (due && c.cellState != 0) (·.sendReport (p.slot % 4096))).vernierEnd

/-- Slots carried over by a replica move, counted and reported as one SKIP (R77, R148). -/
def Chip.skip (c : Chip) (n : Nat) : Chip :=
  c.when (n != 0) fun c =>
    ((c.bumpBy LDG_SKIP_CNT n).raiseFlag LDG_LFLAG_SKIP).sendEventAll 0x0D c.tagT (Nat.min n 4095 * 2 ^ 10)

/-- The start of slot `n`, in the replica's unit. -/
def Chip.startOf (c : Chip) (n : Nat) : Nat := slotStart c.slotsC (c.reg LDG_SLOT_ORG) n * one40

/-- The slots whose starts the replica may reach by advance to `v`: T, those resolved that wait, and the one it then stands in, but for
slots that a move has carried over. -/
def Chip.awaited (c : Chip) (v : Nat) : List Nat :=
  c.fire.plans.map (·.slot) ++ c.fire.num :: ([c.slotOf v].filter fun n => c.fire.num < n && c.notCarried n == n)

/-- The replica has advanced to `v` at tick `t`: the starts it has reached (R37, R71). -/
def Chip.markStarts (c : Chip) (t v : Nat) : Chip :=
  c.forEach (c.awaited v) fun n c =>
    c.when ((Assoc.get (fun _ => none) c.fire.starts n).isNone && c.startOf n ≤ v) fun c =>
      c.fireUp fun f => { f with starts := Assoc.set (fun _ => none) f.starts n (some t) }

/-- A step or load has moved the angle replica from `old` to its present value (R77): the slots whose starts it carries the replica over
are resolved without execution, their entries erased; starts that now lie above it are no longer reached. A start equal to the value
after the move is carried over, after a backward move too where its slot is not yet resolved (DEDUCED, log entry 93). -/
def Chip.replicaMoved (c : Chip) (old : Nat) : Chip :=
  let i := c.slotOf old
  let j := c.slotOf c.csd.ang
  let lo := if c.startOf j == c.csd.ang then Nat.min (i + 1) j else i + 1
  let t := c.fire.num
  let c := c.fireUp fun f => { f with starts := f.starts.filter fun x => x.1 ≤ j }
  if j < lo || (c.csd.ang < old && j < t) then c
  else
    let within (n : Nat) : Bool := lo ≤ n && n ≤ j
    let c := c.forEach [0, 1, 2, 3] fun e c =>
      c.when (c.entValid e && within (t + (c.tagDiff (bits (c.reg (LDG_ENTRY e)) 11 0)).toNat)) (·.eraseEnt e)
    let c := c.fireUp fun f => { f with plans := f.plans.filter fun p => !within p.slot }
    let c := if within t then c.setSlot (j + 1)
      else if t < lo then c.fireUp fun f => { f with carried := f.carried ++ [(lo, j)] }
      else c
    (c.latchLine 16 7).skip (j + 1 - lo)

/-- STALL (R74): a switching cell, not suppressed (R92), whose next deadline has not come within 25,600 ticks. -/
def Chip.stall (c : Chip) : Chip :=
  if c.suppressed || c.fire.stalled || c.fire.clkStop || c.ctick < c.fire.lastDl + 25600 then c
  else
    ((c.fireUp fun f => { f with stalled := true }).bump LDG_STALL_CNT |>.raiseCell srcStall).sendEventAll 0x0E c.tagT 0

/-- The end of a debug halt (R148): pending edges that have passed are dropped, the tags of the halt are skipped. -/
def Chip.unfreeze (c : Chip) : Chip :=
  let c := c.forEach [0, 1, 2, 3] fun g c =>
    c.when (match (c.gate g).due with | some d => d ≤ c.ctick | none => false) fun c =>
      c.setGateSt g { c.gate g with due := none }
  let c := c.when (match c.fire.vernEnd with | some d => d ≤ c.ctick | none => false) (·.dropVern)
  let c := ((c.clrFlag PWM_PSTAT_HALTED).setFld PWM_PSTAT_FROZEN (b2n c.fire.clkStop)).clrFlag PWM_PCTL_DBG_FORCE
  let tags := c.fire.haltTags
  let c := (c.forEach tags fun t c => c.eraseTag t).fireUp fun f => { f with haltTags := [] }
  let c := c.when (!tags.isEmpty) (·.latchLine 16 7)
  (c.skip tags.length).refreshPend.setState (if c.blocked then c.cellState else 5)

-- Guarded writes (R150)

/-- A refused write of LDG. -/
def Chip.refuseLdg (c : Chip) : Chip := c.raiseCell srcLdgRefused

/-- Ticks since the replica reached the start of slot `n`, by its present value and increment; negative before it. -/
def Chip.sinceStart (c : Chip) (n : Nat) : Int :=
  let inc := c.reg64 CSD_ANG_INC
  let at_ := c.startOf n
  if at_ ≤ c.csd.ang then ((c.csd.ang - at_) / inc : Nat) else -(((at_ - c.csd.ang + inc - 1) / inc : Nat) : Int)

/-- The earliest slot whose commit deadline has not yet passed, by the replica's present value and increment (R150). -/
def Chip.earliestSlot (c : Chip) : Nat :=
  let n := c.slotOf c.csd.ang
  if c.reg64 CSD_ANG_INC == 0 then n + 1
  else (((List.range 104).map (n - 100 + ·)).find? fun m => c.sinceStart m + 24 < c.fld LDG_LCTL_STAGGER).getD (n + 4)

/-- The starts already reached of the slots from `m` on, as the present value and increment give them. -/
def Chip.startsFrom (c : Chip) (m : Nat) : Assoc (Option Nat) :=
  ((List.range 104).map (m + ·)).foldl (fun a n =>
    if c.startOf n ≤ c.csd.ang then Assoc.set (fun _ => none) a n (some (c.ctick - (c.sinceStart n).toNat)) else a) []

/-- A write of SLOTS or SLOT_ORG (R150): outside BLOCK and OFFLINE a change is refused; a change erases the ledger and sets T
afresh. Resolved slots of the old grid wait no longer (DEDUCED, log entry 93). -/
def Chip.slotGridWrite (c : Chip) (org : Bool) (w : Nat) : Chip :=
  let a := if org then LDG_SLOT_ORG else LDG_SLOTS
  let new := w &&& (regWord a).rw
  if new == c.reg a then c
  else if !c.blocked then c.refuseLdg
  else
    let c := c.setReg a new
    let c := c.forEach [0, 1, 2, 3] fun e c => c.eraseEnt e
    let n := c.earliestSlot
    (c.setSlot n).fireUp fun f => { f with starts := c.startsFrom n, carried := [], plans := [] }

/-- A write of LCTL (R150): while switching a change of STAGGER is refused and the other fields take effect. -/
def Chip.lctlWrite (c : Chip) (w : Nat) : Chip :=
  if bits w 9 0 != c.fld LDG_LCTL_STAGGER && !c.blocked then
    (c.plainWrite LDG_LCTL (w / 1024 * 1024 + c.fld LDG_LCTL_STAGGER)).refuseLdg
  else c.plainWrite LDG_LCTL w

-- The commands

def execOrder (l : CellLane) (w : DWord) (s : State) : Host.Outcome State Fault Refusal :=
  .next (s.on fun c => c.firingBlock l 0x41 w)
def execRepair (l : CellLane) (w : DWord) (s : State) : Host.Outcome State Fault Refusal :=
  .next (s.on fun c => c.firingBlock l 0x42 w)
def execCommit (l : CellLane) (w : DWord) (s : State) : Host.Outcome State Fault Refusal :=
  .next (s.on fun c => c.firingBlock l 0x44 w)
def execAbort (l : CellLane) (w : DWord) (s : State) : Host.Outcome State Fault Refusal :=
  .next (s.on fun c => c.firingBlock l 0x48 w)
def execCommitDeadline (s : State) : Host.Outcome State Fault Refusal := .next (s.on (·.commitDeadline))
def execExecutionInstant (s : State) : Host.Outcome State Fault Refusal := .next (s.on (·.executionInstant))
def execStall (s : State) : Host.Outcome State Fault Refusal := .next (s.on (·.stall))
def execSlotGridWrite (org : Bool) (w : Word) (s : State) : Host.Outcome State Fault Refusal :=
  .next (s.on fun c => c.slotGridWrite org w.toNat)
def execLctlWrite (w : Word) (s : State) : Host.Outcome State Fault Refusal := .next (s.on fun c => c.lctlWrite w.toNat)
def execActiveWrite (w : Word) (s : State) : Host.Outcome State Fault Refusal :=
  .next (s.on fun c => c.plainWrite CLN_CCTL w.toNat)

end Sys2Proof.Machine
end

