-- ==== Sys2Proof/Machine/Orangery.lean ====
section
/-!
DEFINITION. The Orangery pool: taking, charging and releasing buffers, the accounts, and the pool's memory with its error
correction (R244 to R249).
-/
namespace Sys2Proof.Machine

/-- The address of a buffer and of the pool's end. -/
def bufAddr (b : Nat) : Nat := 0x40000000 + 3072 * b
def poolEnd : Nat := 0x41800000

/-- ORG_REFUSED with the flag that says why (R245, R247). -/
def Chip.orgRefused (c : Chip) (f : Fld) : Chip := c.raiseHub ⟨6, 3, 2, f⟩

/-- A buffer charged to account `a`: not from the reserve, or from it. -/
def Chip.charge (c : Chip) (a : Nat) (rsv : Bool) : Chip :=
  if rsv then
    let h := Assoc.get (fun _ => 0) c.gth.rsvHeld a
    let c := { c with gth := { c.gth with rsvHeld := Assoc.set (fun _ => 0) c.gth.rsvHeld a (h + 1) } }
    (c.setUsed a (c.acctUsed a + 1)).setFree c.gth.shared (c.gth.rsv - 1)
  else
    let h := c.plainHeld a
    (c.setUsed a (c.acctUsed a + 1)).setFree
      (c.gth.shared + ownPart (c.acctMin a) h - ownPart (c.acctMin a) (h + 1)) c.gth.rsv

/-- The source that R244 allows an account: some false for its minimum or the shared remainder, some true for the reserve. -/
def Chip.source (c : Chip) (a : Nat) (ctl : Bool) : Option Bool :=
  if c.acctUsed a < c.acctMin a then some false
  else if c.acctUsed a < c.acctMax a && 0 < c.gth.shared then some false
  else if ctl && 0 < c.gth.rsv then some true
  else none

/-- The first free buffer at or after index `i`, round the pool. -/
def Chip.findBuf (c : Chip) : Nat → Nat → Option Nat
  | 0, _ => none
  | n + 1, i => if (c.buf (i % 8192)).isNone then some (i % 8192) else c.findBuf n (i + 1)

/-- A buffer taken for an account with `refs` holders; which free buffer it is, is a free value. -/
def Chip.allocBuf (c : Chip) (a : Nat) (ctl : Bool) (refs : Nat) : Option Nat × Chip :=
  match c.source a ctl with
  | none => (none, c)
  | some rsv =>
    let d := c.draw
    match c.findBuf 8192 d.1 with
    | none => (none, c)
    | some b => (some b, (d.2.setBuf b (some { acct := a, rsv := rsv, refs := refs })).charge a rsv)

/-- A frame or block discarded for want of a buffer (R244). -/
def Chip.poolDrop (c : Chip) (a : Nat) (ctl : Bool) : Chip :=
  (c.bump (ORG_DROP a)).when ctl fun c => (c.bump ORG_CTL_DROP).raiseHub ⟨6, 2, 2, ORG_OSTAT_CTL_EXH⟩

/-- Another holder of a buffer. -/
def Chip.holdBuf (c : Chip) (b : Nat) : Chip :=
  match c.buf b with
  | none => c
  | some x => c.setBuf b (some { x with refs := x.refs + 1 })

/-- The charge of a buffer moved to another account, when that account can take it (R246). -/
def Chip.moveCharge (c : Chip) (b a : Nat) (ctl : Bool) : Option Chip :=
  match c.buf b, c.source a ctl with
  | some x, some rsv => some (((c.uncharge x.acct x.rsv).charge a rsv).setBuf b (some { x with acct := a, rsv := rsv }))
  | _, _ => none

-- Software allocation (R247)

/-- A load of ALLOC for an account: the word it returns. -/
def Chip.alloc (c : Chip) (a : Nat) : Nat × Chip :=
  match c.allocBuf a false 1 with
  | (some b, c) => (2 ^ 31 + b, c)
  | (none, c) => (0, c)

/-- A write of FREE by the owner of an account. -/
def Chip.freeCmd (c : Chip) (a w : Nat) : Chip :=
  let b := bits w 12 0
  match c.buf b with
  | some x => if x.acct == a then c.releaseBuf b else c.orgRefused ORG_OSTAT_FREE_REF
  | none => c.orgRefused ORG_OSTAT_FREE_REF

-- Accounts (R245)

/-- The sum of all MIN with `m` in account `a`. -/
def Chip.sumMin (c : Chip) (a m : Nat) : Nat :=
  (List.range 288).foldl (fun s i => s + if i == a then m else c.acctMin i) 0

/-- ACCT `a` written with lower word `v`: refused when the minimums and the reserve would exceed the pool. -/
def Chip.acctApply (c : Chip) (a v : Nat) : Chip :=
  let m := bits v 12 0
  if 8192 < c.sumMin a m + c.fld ORG_OCTL_RSV_CTL then c.orgRefused ORG_OSTAT_REFUSED
  else
    let h := c.plainHeld a
    let s := c.gth.shared + ownPart (c.acctMin a) h - ownPart m h
    (c.plainWrite (acctAddr a) v).setFree s c.gth.rsv

/-- A write of OCTL. -/
def Chip.octlApply (c : Chip) (v : Nat) : Chip :=
  let r := bits v 12 0
  if 8192 < c.sumMin 288 0 + r then c.orgRefused ORG_OSTAT_REFUSED
  else
    let d : Int := (r : Int) - c.fld ORG_OCTL_RSV_CTL
    (c.plainWrite ORG_OCTL v).setFree (c.gth.shared - d) (c.gth.rsv + d)

-- The pool's memory (R248, R249, R316)

/-- The check bits of `n` words of 64 bits from word address `a` on, stored again. -/
def Chip.eccPool (c : Chip) (a n : Nat) : Chip := c.forEach (List.range n) fun i c => c.eccHubWrite 0 (a + 8 * i) 8

/-- Bytes stored in the pool. -/
def Chip.poolStore (c : Chip) (a : Nat) (l : List Byte) : Chip :=
  ({ c with hubMem := memSetBytes c.hubMem a l }).eccPool (a / 8 * 8) ((l.length + a % 8 + 7) / 8)

/-- The words with inverted check bits among `n` bytes from `a` on, with how many bits. -/
def Chip.poolErrs (c : Chip) (a n : Nat) : List (Nat × Nat) :=
  (c.hubEcc.filter fun x => a / 8 * 8 ≤ x.1 && x.1 < a + n && 0x40000000 ≤ x.1 && x.1 < poolEnd).map fun x => (x.1, eccKind x.2)

/-- A read of pool bytes: errors counted and raised; the answer says whether a double-bit error was met (R249). -/
def Chip.poolRead (c : Chip) (a n : Nat) : Bool × Chip :=
  let l := c.poolErrs a n
  let c := c.forEach l fun x c =>
    if x.2 == 1 then (c.bump ORG_ECC_C_CNT).raiseHub ⟨6, 0, 1, ORG_OSTAT_ECC_C⟩
    else ((c.bump ORG_ECC_D_CNT).setFld ORG_ECC_ADDR_OFFSET ((x.1 - 0x40000000) / 8)).raiseHub ⟨6, 1, 2, ORG_OSTAT_ECC_D⟩
  (l.any fun x => x.2 == 2, c)

end Sys2Proof.Machine
end

