-- ==== Sys2Proof/Machine/Shoist.lean ====
section
/-!
DEFINITION. Shoist lanes: the line, alignment, bring-up, adaptation, power states, test and error injection (R203 to R222, R225). The
transmitter's slots stand in `Sys2Proof.Machine.Transmit`, management messages in `Sys2Proof.Machine.Messages`.
-/
namespace Sys2Proof.Machine

/-- A lane record changed. -/
def Chip.laneUp (c : Chip) (l : Nat) (f : Lane → Lane) : Chip := c.setLane l (f (c.lane l))

/-- A field of the lane's LSTAT set. -/
def Chip.setLaneState (c : Chip) (l st : Nat) : Chip := c.setFld (LN_LSTAT_STATE (laneBase l)) st

/-- A fault of a lane (Table 9-9): source `n` with its flag, in CLn, a fabric lane, or CLN of the cell. -/
def Chip.raiseLane (c : Chip) (l n : Nat) (f : Fld) : Chip :=
  if l < 192 then c.raiseHub ⟨13, n, 2, f⟩ l
  else if l < 204 then c.raiseHub ⟨14, n, 2, f⟩ (l - 192)
  else c.raiseCell ⟨if l == 204 then 9 else 10, n, 2, f⟩

/-- A refused command or write of a lane: REFUSED and LANE_REFUSED (R220, R225). -/
def Chip.refuseLane (c : Chip) (l : Nat) : Chip := c.raiseLane l 3 (LN_LSTAT_REFUSED (laneBase l))

-- The line (R204, R206)

/-- A line bit sent. -/
def Lane.feedLine (ln : Lane) (b : Bool) : Lane :=
  { ln with line := (ln.line * 2 + b2n b) % 2 ^ 1024, ones := ln.ones + b2n b - b2n (bit ln.line 1023) }

/-- The scrambler's term for the next payload bit. -/
def Lane.mask (ln : Lane) : Bool := xor (bit ln.scr 38) (bit ln.scr 57)

/-- A payload bit scrambled and sent (R204). -/
def Lane.feedBit (ln : Lane) (d : Bool) : Lane :=
  let s := xor d ln.mask
  ({ ln with scr := (ln.scr * 2 + b2n s) % 2 ^ 58 } : Lane).feedLine s

/-- A block sent: header, then payload from bit 63 to bit 0 (R203). -/
def Lane.feedBlock (ln : Lane) (control : Bool) (w : DWord) : Lane :=
  (bitsDown w.toNat 0 64).foldl Lane.feedBit ((ln.feedLine control).feedLine (!control))

/-- The fill bits of a BALANCE: each scrambled bit is `pol` (R206). -/
def balanceFill (pol : Bool) : Nat → Lane → Nat → Nat
  | 0, _, acc => acc
  | n + 1, ln, acc =>
    let d := xor pol ln.mask
    balanceFill pol n (ln.feedBit d) (acc * 2 + b2n d)

/-- The BALANCE block that a lane sends now. -/
def Lane.balance (ln : Lane) : DWord :=
  let h := (bitsDown 2 0 8).foldl Lane.feedBit ((ln.feedLine true).feedLine false)
  mkBlock 2 (balanceFill (ln.ones < 512) 44 h 0)

/-- |D| > 96, and none of the last three blocks was a BALANCE (R206). -/
def Lane.wantsBalance (ln : Lane) : Bool :=
  (96 < 2 * ln.ones - 1024 || 96 < 1024 - 2 * ln.ones) && !ln.lastBal.any id

-- Messages in the transmitter

/-- A management message of R211. -/
def mkMsg (kind seq : Nat) (l : List Byte) : TxMsg :=
  { start := mkBlock 0x10 (l.length * 2 ^ 32 + kind * 2 ^ 28 + seq % 256 * 2 ^ 20)
    words := dataWords ((l.length + 7) / 8) l
    fin := mkBlock 0x11 (crc32 l * 2 ^ 12) }

/-- A message queued on a lane that is in L0 or L1 and not silenced; otherwise it is discarded (R219, R310). -/
def Chip.queueMsg (c : Chip) (l : Nat) (m : TxMsg) : Chip :=
  let st := c.laneState l
  if c.silenced l || !(st == 5 || st == 6) then c
  else
    let c := (c.when (st == 6) (·.setLaneState l 5)).when (l < 192) (·.raiseFlag (LN_LSTAT_MTX_BUSY (laneBase l)))
    (c.when (c.lane l).msgs.isEmpty (·.pushBlock l 6 m.start)).laneUp l fun ln => { ln with msgs := ln.msgs ++ [m] }

/-- The first block of the message in progress has been sent; INJ.MODE 5 inverts its CRC-32 (R222). -/
def Chip.msgBegun (c : Chip) (l : Nat) : Chip :=
  let ln := c.lane l
  match ln.msgs with
  | [] => c
  | m :: ms =>
    let inj := ln.injOnce && c.fld (LN_INJ_MODE (laneBase l)) == 5
    let fin := if inj then badEnd m.fin else m.fin
    (c.setLane l { ln with msgs := { m with begun := true, fin := fin } :: ms, injOnce := ln.injOnce && !inj }).when
      (m.words.isEmpty && !m.hold) (·.pushBlock l 6 fin)

/-- The last block of the message in progress has been sent: the next one starts. -/
def Chip.msgEnded (c : Chip) (l : Nat) : Chip :=
  let ms := (c.lane l).msgs.tail
  let c := c.laneUp l fun ln => { ln with msgs := ms }
  let c := match ms with
    | [] => c
    | m :: _ => c.pushBlock l 6 m.start
  let c := c.when (l < 192 && (c.lane l).msgs.isEmpty) (·.clrFlag (LN_LSTAT_MTX_BUSY (laneBase l)))
  let c := c.when (192 ≤ l && l < 204) (·.portDone (l - 192))
  c.when (204 ≤ l) (·.mbxDone)

/-- What the lane may no longer send when it leaves L0 and L1 is discarded. -/
def Chip.dropTx (c : Chip) (l : Nat) : Chip :=
  let c := c.laneUp l fun ln => { ln with q := [], msgs := [], l2Req := false, l2Exit := false }
  let c := (c.when (l < 192) (·.clrFlag (LN_LSTAT_MTX_BUSY (laneBase l)))).when (204 ≤ l) (·.mbxDone)
  c.when (192 ≤ l && l < 204) (·.portDrop (l - 192))

/-- The message or frame that is being sent is discarded, its end not sent (R215). -/
def Chip.txAbort (c : Chip) (l : Nat) : Chip :=
  if (c.lane l).msgs.any (·.begun) then
    (c.laneUp l fun ln => ln.keep fun w => blockType w != 0x11 && blockType w != 0x13).msgEnded l
  else c

/-- The message or frame that is being received is discarded, and counted unless it has been (R212). -/
def Chip.rxAbort (c : Chip) (l : Nat) : Chip :=
  match (c.lane l).rx with
  | none => c
  | some counted =>
    let c := (c.laneUp l fun ln => { ln with rx := none }).when (!counted) (·.bump (LN_MSG_ERR (laneBase l)))
    c.when (192 ≤ l && l < 204) (·.dropComing (l - 192))

/-- The receiver hunts from now on (R214). -/
def Chip.startHunt (c : Chip) (l : Nat) : Chip :=
  ((c.clrFlag (LN_LSTAT_LOCK (laneBase l))).rxAbort l).laneUp l fun ln => { ln with huntAt := c.time, badAt := [], fresh := none }

-- Bring-up (R216, R217)

/-- Calibration restarts (R256): DLY_MEAN is kept if CAL was 1, the history is discarded. -/
def Chip.calRestart (c : Chip) (l : Nat) : Chip :=
  let b := laneBase l
  let c := c.laneUp l fun ln =>
    { ln with dlyHist := [], dlyKept := if c.flag (LN_PRBSTAT_CAL b) then some (c.reg (LN_DLY_MEAN b)) else ln.dlyKept }
  let c := (((c.clrFlag (LN_PRBSTAT_CAL b)).setFld (LN_PRBSTAT_NVALID b) 0).setReg (LN_DLY_MEAN b) 0).bump (LN_DLY_RESTART b)
  match Assoc.get (fun _ => none) c.td.last (c.fld SDL_TDCFG_TS_PLANE) with
  | some (_, p, _) => c.when (l == 192 + p) (·.setUncal)
  | none => c

/-- A lane of a part that its TAP has stopped (R383). -/
def Chip.laneStopped (c : Chip) (l : Nat) : Bool := if l < 204 then c.sys.stopHub else c.sys.stopCell

/-- Bring-up from step 1: hunting at rate 0. A lane of a part that its TAP has stopped stays down (R383). -/
def Chip.restart (c : Chip) (l : Nat) : Chip :=
  let b := laneBase l
  if c.laneStopped l then c
  else
  let c := (c.dropTx l).laneUp l fun ln =>
    { ln with limit := 3, rate := 0, capRx := false, peerFok := false, initiator := false, req := none, props := 0,
              adapted := false, accepted := false, relock := false }
  ((c.startHunt l).setFld (LN_LSTAT_RATE b) 0).setLaneState l 1

/-- The role that the peer must have (Table 9-8). -/
def Chip.peerRole (c : Chip) (l : Nat) : Nat :=
  if l < 192 then (if c.flag (LN_LCTL_MEAS (laneBase l)) then 2 else 1) else if l < 204 then 3 else 0

/-- The lane's own role and lane number in a CAP (Table 9-3). -/
def capRole (l : Nat) : Nat := if l < 192 then 0 else if l < 204 then 3 else 1
def capLane (l : Nat) : Nat := if l < 192 then l else if l < 204 then l - 192 else l - 204

/-- FOM is at least FOM_MIN. -/
def Chip.fok (c : Chip) (l : Nat) : Bool :=
  c.fld (LN_LCTL_FOM_MIN (laneBase l)) ≤ c.fld (LN_FOMR_FOM (laneBase l))

/-- The CAP that the lane sends now (Table 9-3): FOM is 0 before adaptation. -/
def Chip.capBlock (c : Chip) (l : Nat) : DWord :=
  let b := laneBase l
  let ad := (c.lane l).adapted
  let fom := if ad then c.fld (LN_FOMR_FOM b) else 0
  let fok := if ad then c.fok l else c.fld (LN_LCTL_FOM_MIN b) == 0
  let node := if 204 ≤ l || !c.flag GTH_GSTAT_ID_VALID then 0x3FF else c.fld GTH_GSTAT_NODE_ID
  mkBlock 8 (capRole l * 2 ^ 42 + c.fld (LN_LCTL_MAXRATE b) * 2 ^ 40 + fom * 2 ^ 32 + b2n fok * 2 ^ 31
    + node * 2 ^ 21 + capLane l * 2 ^ 13 + (c.lane l).nonce)

/-- A RATE block queued. -/
def Chip.queueRate (c : Chip) (l r op : Nat) : Chip := c.queueBlock l 6 (mkBlock 9 (r * 2 ^ 42 + op * 2 ^ 40))

/-- A RATE block that waits for its answer, sent (PROPOSE 0, FALLBACK 2, UP 3). -/
def Chip.request (c : Chip) (l op r : Nat) : Chip :=
  (c.laneUp l fun ln => { ln with req := some (op, r), props := 0 }).queueRate l r op

/-- Entry to CAPX (step 2) with a new NONCE. -/
def Chip.enterCapx (c : Chip) (l : Nat) : Chip :=
  let d := c.draw
  (d.2.laneUp l fun ln => { ln with nonce := d.1 % 2 ^ 13, capRx := false, capCnt := 0 }).setLaneState l 2

/-- Entry to ADAPT (step 5). -/
def Chip.enterAdapt (c : Chip) (l : Nat) : Chip :=
  (c.laneUp l fun ln => { ln with capRx := false, adapted := false, relock := false, req := none, accepted := false }).setLaneState l 4

/-- Entry to L0 (R217, R256): LINK_DOWN clears, calibration restarts, and a lane brought up at rate 0 with a FOM below FOM_MIN
raises FOM_LOW. -/
def Chip.enterL0 (c : Chip) (l : Nat) (broughtUp : Bool) : Chip :=
  let b := laneBase l
  let c := (c.laneUp l fun ln =>
    { ln with upOnce := true, upAt := if ln.upOnce then ln.upAt else c.time, l2Exit := false, l2Req := false, relock := false, req := none, fomLow := 0 }).setLaneState l 5
  let c := (c.clrFlag (LN_LSTAT_LINK_DOWN b)).calRestart l
  c.when (broughtUp && c.fld (LN_LSTAT_RATE b) == 0 && !c.fok l) (·.raiseLane l 1 (LN_LSTAT_FOM_LOW b))

/-- Step 3: the initiator proposes the lowest of both MAXRATEs and the rate limit. Equal NONCEs on a fabric lane send both ends
back to CAPX. -/
def Chip.enterRate (c : Chip) (l : Nat) : Chip :=
  let b := laneBase l
  let ln := c.lane l
  let fab := 192 ≤ l && l < 204
  if fab && ln.nonce == ln.peerNonce then c.enterCapx l
  else
    let ini := if fab then ln.peerNonce < ln.nonce else l < 192
    let r := Nat.min (Nat.min (c.fld (LN_LCTL_MAXRATE b)) (c.fld (LN_LSTAT_PEER_MAX b))) ln.limit
    let c := (c.setLane l { ln with initiator := ini, req := none, accepted := false, adapted := false }).setLaneState l 3
    c.when ini (·.request l 0 r)

/-- The initiator falls back to rate `r` (step 6). -/
def Chip.fallBack (c : Chip) (l r : Nat) : Chip :=
  ((c.laneUp l fun ln => { ln with limit := r }).bump (LN_FALLBACK_CNT (laneBase l))).request l 2 r

/-- Step 6: both ends have adapted and exchanged CAPs. -/
def Chip.settle (c : Chip) (l : Nat) : Chip :=
  let ln := c.lane l
  let r := c.fld (LN_LSTAT_RATE (laneBase l))
  let c := c.setLaneState l 3
  if !ln.initiator then c
  else if r == 0 || (c.fok l && ln.peerFok) then c.request l 3 r
  else c.fallBack l (r - 1)

/-- An ACCEPT sent or received for rate `r`: the switch follows 2 us later; at the present rate there is none. -/
def Chip.agreed (c : Chip) (l r : Nat) : Chip :=
  if r == c.fld (LN_LSTAT_RATE (laneBase l)) then c.enterAdapt l
  else c.laneUp l fun ln => { ln with rate := r, accepted := true, req := none }

/-- Lock acquired after 64 consecutive valid headers (R214): step 1 goes on to CAPX, step 4 to ADAPT, an exit from L2 to L0; elsewhere the lane goes on. -/
def Chip.lockAcquired (c : Chip) (l : Nat) : Chip :=
  let b := laneBase l
  let ln := c.lane l
  let st := c.laneState l
  if c.flag (LN_LSTAT_LOCK b) || st == 0 || st == 7 || st == 8 || c.fewerBlocks l 64 ln.huntAt then c
  else
    let c := (c.raiseFlag (LN_LSTAT_LOCK b)).laneUp l fun x => { x with fresh := some c.time, badAt := [] }
    if st != 1 then c
    else if ln.l2Exit then c.enterL0 l false
    else if ln.relock then c.enterAdapt l
    else c.enterCapx l

/-- Lock lost (R214, R215): in L0, L1 and L2 exit LINK_DOWN, and messages in progress are discarded. -/
def Chip.lockLoss (c : Chip) (l : Nat) : Chip :=
  let b := laneBase l
  if !c.flag (LN_LSTAT_LOCK b) then c
  else
    let st := c.laneState l
    let c := (c.startHunt l).bump (LN_LOCK_LOSS b)
    c.when (st == 5 || st == 6 || (c.lane l).l2Exit) fun c => (c.txAbort l).raiseLane l 0 (LN_LSTAT_LINK_DOWN b)

/-- Lock has not returned 10 ms after LINK_DOWN: bring-up restarts (R215). -/
def Chip.linkDownTimeout (c : Chip) (l : Nat) : Chip :=
  let st := c.laneState l
  if !c.flag (LN_LSTAT_LOCK (laneBase l)) && (st == 5 || st == 6 || (c.lane l).l2Exit) then c.restart l else c

/-- A CAP received (R216, R217). -/
def Chip.capRx (c : Chip) (l : Nat) (w : DWord) : Chip :=
  c.rxBlock l w fun c =>
    let b := laneBase l
    let c := ((c.setFld (LN_LSTAT_PEER_ROLE b) (wbits w 55 54)).setFld (LN_LSTAT_PEER_MAX b) (wbits w 53 52)).setFld
      (LN_FOMR_PEER_FOM b) (wbits w 51 44)
    let st := c.laneState l
    if wbits w 55 54 != c.peerRole l then c.raiseFlag (LN_LSTAT_ROLE_MIS b)
    else if st == 2 then c.laneUp l fun ln => { ln with capRx := true, peerNonce := wbits w 24 12 }
    else if st == 4 then
      let c := c.laneUp l fun ln => { ln with capRx := true, peerFok := bit w.toNat 43 }
      if (c.lane l).adapted then c.settle l else c
    else c

/-- CAPX has lasted 1 ms: bring-up restarts. -/
def Chip.capxTimeout (c : Chip) (l : Nat) : Chip := if c.laneState l == 2 then c.restart l else c

/-- PROPOSE received: the responder answers ACCEPT (step 3). -/
def Chip.proposeRx (c : Chip) (l : Nat) (w : DWord) : Chip :=
  c.rxBlock l w fun c =>
    let r := wbits w 55 54
    if c.laneState l == 3 && !(c.lane l).initiator then (c.queueRate l r 1).agreed l r else c

/-- 32 blocks without an answer: the RATE block is sent again, 16 times, then bring-up restarts. -/
def Chip.proposeRepeat (c : Chip) (l : Nat) : Chip :=
  let ln := c.lane l
  match ln.req with
  | none => c
  | some (op, r) =>
    if c.laneState l != 3 then c
    else if 16 ≤ ln.props then c.restart l
    else (c.setLane l { ln with props := ln.props + 1 }).queueRate l r op

/-- ACCEPT received by the initiator. -/
def Chip.acceptRx (c : Chip) (l : Nat) (w : DWord) : Chip :=
  c.rxBlock l w fun c =>
    let r := wbits w 55 54
    match (c.lane l).req with
    | some (op, r') => if c.laneState l == 3 && op != 3 && r == r' then c.agreed l r else c
    | none => c

/-- 2 us after the ACCEPT both ends switch and hunt at the new rate (step 4). -/
def Chip.rateSwitch (c : Chip) (l : Nat) : Chip :=
  let b := laneBase l
  let ln := c.lane l
  if c.laneState l == 3 && ln.accepted then
    (((c.setLane l { ln with accepted := false, relock := true }).startHunt l).setFld (LN_LSTAT_RATE b) ln.rate).setLaneState l 1
  else c

/-- Step 4 has lasted 1 ms: FALLBACK as in step 6; at rate 0 there is no lower rate, and bring-up restarts. -/
def Chip.huntTimeout (c : Chip) (l : Nat) : Chip :=
  let ln := c.lane l
  if c.laneState l == 1 && ln.relock then
    let r := c.fld (LN_LSTAT_RATE (laneBase l))
    if r == 0 then c.restart l
    else
      let c := (c.setLane l { ln with relock := false, adapted := true }).setLaneState l 3
      c.when ln.initiator (·.fallBack l (r - 1))
  else c

/-- VM, HM and FOM written (R218). -/
def Chip.setFom (c : Chip) (l vm hm : Nat) : Chip :=
  let b := laneBase l
  ((c.setFld (LN_FOMR_VM b) vm).setFld (LN_FOMR_HM b) hm).setFld (LN_FOMR_FOM b) (Nat.min vm hm)

/-- Adaptation ends (step 5): the end sends CAP with its FOM and FOK. -/
def Chip.adaptEnd (c : Chip) (l vm hm : Nat) : Chip :=
  if c.laneState l != 4 || (c.lane l).adapted then c
  else
    let c := (c.setFom l vm hm).laneUp l fun ln => { ln with adapted := true }
    let c := c.queueBlock l 6 (c.capBlock l)
    if (c.lane l).capRx then c.settle l else c

/-- Step 5 has lasted 1 ms without the peer's CAP: bring-up restarts. -/
def Chip.adaptTimeout (c : Chip) (l : Nat) : Chip :=
  if c.laneState l == 4 && !(c.lane l).capRx then c.restart l else c

/-- FALLBACK received: the responder answers ACCEPT with the lower rate (step 6). -/
def Chip.fallbackRx (c : Chip) (l : Nat) (w : DWord) : Chip :=
  c.rxBlock l w fun c =>
    let r := wbits w 55 54
    let ln := c.lane l
    let st := c.laneState l
    if (st == 3 || st == 4) && !ln.initiator then
      let c := c.when (!(ln.accepted && ln.rate == r)) (·.bump (LN_FALLBACK_CNT (laneBase l)))
      let c := (c.setLane l { ln with limit := r, rate := r, accepted := true }).setLaneState l 3
      c.queueRate l r 1
    else c

/-- UP received (step 6): the responder answers UP; both ends enter L0. -/
def Chip.upRx (c : Chip) (l : Nat) (w : DWord) : Chip :=
  c.rxBlock l w fun c =>
    let ln := c.lane l
    if c.laneState l != 3 then c
    else if ln.initiator then (match ln.req with
      | some (3, _) => c.enterL0 l true
      | _ => c)
    else (c.queueRate l (wbits w 55 54) 3).enterL0 l true

-- Adaptation and error rate in service (R218)

/-- An update of FOM in L0 or L1; 16 consecutive ones below FOM_MIN in L0 raise FOM_LOW. -/
def Chip.fomUpdate (c : Chip) (l vm hm : Nat) : Chip :=
  let st := c.laneState l
  if !(st == 5 || st == 6) then c
  else
    let c := c.setFom l vm hm
    if st != 5 || c.fok l then c.laneUp l fun ln => { ln with fomLow := 0 }
    else
      let n := (c.lane l).fomLow + 1
      let c := c.laneUp l fun ln => { ln with fomLow := Nat.min n 17 }
      c.when (n == 16) (·.raiseLane l 1 (LN_LSTAT_FOM_LOW (laneBase l)))

/-- The end of a 1 ms window of the error counts. -/
def Chip.berWindow (c : Chip) (l : Nat) : Chip :=
  let b := laneBase l
  let n := c.reg (LN_HDR_ERR b) + c.reg (LN_CHK_ERR b)
  let max := c.fld (LN_LCTL_BER_MAX b)
  let grew := n - (c.lane l).berBase
  (c.laneUp l fun ln => { ln with berBase := n }).when (max != 255 && max < grew) (·.raiseLane l 2 (LN_LSTAT_BER_HIGH b))

-- Power states (R219, R220)

/-- R220 refuses to take this lane out of service now. -/
def Chip.laneGuarded (c : Chip) (l : Nat) : Bool :=
  if l < 192 then c.flag BND_NCTL_EN && bit (c.reg (BND_LANEMAP + 4 * (l / 32))) (l % 32)
  else if l < 204 then false
  else (l == 205) == c.activeB && !c.blocked

/-- A PWR block queued: L2_REQ 1, L2_ACK 2, L2_NAK 3. -/
def Chip.queuePwr (c : Chip) (l op : Nat) : Chip :=
  (c.when (c.laneState l == 6) (·.setLaneState l 5)).queueBlock l 6 (mkBlock 10 (op * 2 ^ 42))

/-- Entry to L1, with nothing queued. -/
def Chip.enterL1 (c : Chip) (l : Nat) : Chip :=
  let ln := c.lane l
  if c.laneState l == 5 && ln.q.isEmpty && ln.msgs.isEmpty then c.setLaneState l 6 else c

/-- Entry to L2: transmitter, PLL and CDR off. -/
def Chip.enterL2 (c : Chip) (l : Nat) : Chip := ((c.dropTx l).startHunt l).setLaneState l 7

/-- ENTER_L2 (R219, R220). -/
def Chip.enterL2Cmd (c : Chip) (l : Nat) : Chip :=
  if c.laneGuarded l then c.refuseLane l
  else if c.laneState l == 5 || c.laneState l == 6 then
    (c.laneUp l fun ln => { ln with l2Req := true }).queuePwr l 1
  else c

/-- L2_REQ received: answered with L2_ACK, or refused and answered with L2_NAK (R220). -/
def Chip.l2ReqRx (c : Chip) (l : Nat) (w : DWord) : Chip :=
  c.rxBlock l w fun c =>
    if !(c.laneState l == 5 || c.laneState l == 6) then c
    else if c.laneGuarded l then (c.refuseLane l).queuePwr l 3
    else c.queuePwr l 2

/-- L2_ACK received by the requester. -/
def Chip.l2AckRx (c : Chip) (l : Nat) (w : DWord) : Chip :=
  c.rxBlock l w fun c => c.when (c.lane l).l2Req (·.enterL2 l)

/-- L2_NAK received by the requester. -/
def Chip.l2NakRx (c : Chip) (l : Nat) (w : DWord) : Chip :=
  c.rxBlock l w fun c => c.laneUp l fun ln => { ln with l2Req := false }

/-- WAKE, or the peer's signal: a lane in L2 restarts its transmitter and hunts with its rate and adaptation kept. -/
def Chip.wakeLane (c : Chip) (l : Nat) : Chip :=
  if c.laneState l == 7 then
    ((c.laneUp l fun ln => { ln with l2Exit := true, relock := false }).startHunt l).setLaneState l 1
  else c

/-- An exit from L2 has no lock 1 ms later. -/
def Chip.l2ExitTimeout (c : Chip) (l : Nat) : Chip := if (c.lane l).l2Exit then c.restart l else c

-- Control registers

/-- RETRAIN (R217). -/
def Chip.retrain (c : Chip) (l : Nat) : Chip :=
  if c.laneState l == 0 || c.laneState l == 8 then c else c.restart l

/-- A write of LCTL (R225, R432): refused when it would change MEAS or MAXRATE while EN is 1. Fabric lanes read MAXRATE 2 and 3
as 1. EN starts bring-up, with LINK_DOWN until the first L0; clearing it turns the lane off. -/
def Chip.lctlLaneWrite (c : Chip) (l w : Nat) : Chip :=
  let b := laneBase l
  let w := if 192 ≤ l && l < 204 && bit w 3 then insertBits w 3 2 1 else w
  let old := c.reg (LN_LCTL b)
  let new := writtenWord (regWord (LN_LCTL b)) old w
  if bit old 0 && bits new 3 1 != bits old 3 1 then c.refuseLane l
  else
    let c := c.setReg (LN_LCTL b) new
    if !bit old 0 && bit new 0 then
      let c := c.laneUp l fun ln => { ln with dlyKept := none }
      if c.laneState l == 8 then c
      else (c.restart l).when (!(c.lane l).upOnce) (·.raiseLane l 0 (LN_LSTAT_LINK_DOWN b))
    else if bit old 0 && !bit new 0 then
      let c := c.calRestart l
      if c.laneState l == 8 then c
      else (((c.dropTx l).startHunt l).setFld (LN_LSTAT_RATE b) 0).setLaneState l 0
    else c

-- Test patterns (R221)

/-- Length and inner tap of the shift register of PRBS7, PRBS15, PRBS23 and PRBS31 (ITU-T O.150). -/
def prbsTaps (pat : Nat) : Nat × Nat :=
  match pat with
  | 0 => (7, 6)
  | 1 => (15, 14)
  | 2 => (23, 18)
  | _ => (31, 28)

/-- The next bit of a pattern and its state after it: of a PRBS the latest bits sent, of UPAT the number of bits sent. -/
def patNext (pat upat s : Nat) : Bool × Nat :=
  if pat == 4 then (bit upat (63 - s % 64), (s + 1) % 64)
  else
    let t := prbsTaps pat
    let b := xor (bit s (t.1 - 1)) (bit s (t.2 - 1))
    (b, (s * 2 + b2n b) % 2 ^ t.1)

/-- A 64-bit word rotated left. -/
def rotl64 (w n : Nat) : Nat := (w * 2 ^ n + w / 2 ^ (64 - n)) % 2 ^ 64

/-- The state of the pattern when the bits received, latest lowest, end in 64 that are correct after the seed before them. -/
def Checker.locks (x : Checker) (pat upat : Nat) : Option Nat :=
  if pat == 4 then (if x.n < 64 then none else (List.range 64).find? fun s => rotl64 upat s == x.hist % 2 ^ 64)
  else
    let t := prbsTaps pat
    let good := (List.range 64).all fun i => bit x.hist i == xor (bit x.hist (i + t.1)) (bit x.hist (i + t.2))
    if 64 + t.1 ≤ x.n && bits x.hist (63 + t.1) 64 != 0 && good then some (x.hist % 2 ^ t.1) else none

/-- One bit at the checker: the checker after it, and, where it was locked, whether the bit was wrong. -/
def Checker.step (x : Checker) (pat upat : Nat) (b : Bool) : Checker × Option Bool :=
  match x.pat with
  | some s =>
    let e := patNext pat upat s
    let wrong := (x.wrong * 2 + b2n (e.1 != b)) % 2 ^ 64
    (if 16 ≤ (List.range 64).countP (bit wrong) then {} else { x with pat := some e.2, wrong := wrong }, some (e.1 != b))
  | none =>
    let y : Checker := { x with hist := (x.hist * 2 + b2n b) % 2 ^ 128, n := Nat.min (x.n + 1) 128 }
    ((match y.locks pat upat with
      | some s => { pat := some s }
      | none => y), none)

/-- One line bit received in test mode (R221, R225): RXINV inverts it; from lock on TBITS counts it, and TERR when it is wrong. -/
def Chip.checkBit (c : Chip) (l : Nat) (b : Bool) : Chip :=
  let a := laneBase l
  let r := (c.lane l).chk.step (c.fld (LN_TCTL_PAT a)) (c.reg64 (LN_UPAT a)) (xor b (c.flag (LN_LCTL_RXINV a)))
  let c := (c.laneUp l fun ln => { ln with chk := r.1 }).setFld (LN_LSTAT_CHK_LOCK a) (b2n r.1.pat.isSome)
  match r.2 with
  | none => c
  | some wrong =>
    (c.setReg64 (LN_TBITS a) (Nat.min (c.reg64 (LN_TBITS a) % 2 ^ 48 + 1) (2 ^ 48 - 1))).when wrong (·.bump (LN_TERR a))

/-- The line bits that have come at the checker of a lane in test mode: it locks, counts and loses lock by them (R221). -/
def Chip.checkerLock (c : Chip) (l : Nat) (line : List Bool) : Chip :=
  c.when (c.flag (LN_TCTL_TEST (laneBase l)) && c.flag (LN_TCTL_CHK_EN (laneBase l))) fun c =>
    c.forEach line fun b c => c.checkBit l b

/-- The transmitted pattern begins; the shift register of a PRBS begins in a state that is free, but not zero. -/
def Chip.startPat (c : Chip) (l : Nat) : Chip :=
  let pat := c.fld (LN_TCTL_PAT (laneBase l))
  let d := c.draw
  d.2.laneUp l fun ln => { ln with pat := if pat == 4 then 0 else d.1 % (2 ^ (prbsTaps pat).1 - 1) + 1, patFrac := 0 }

/-- A write of TCTL (R220, R221): PAT 5 to 7 and a guarded TEST are refused. -/
def Chip.tctlWrite (c : Chip) (l w : Nat) : Chip :=
  let b := laneBase l
  let old := c.reg (LN_TCTL b)
  let new := writtenWord (regWord (LN_TCTL b)) old w
  if 5 ≤ bits new 3 1 || (bit new 0 && !bit old 0 && c.laneGuarded l) then c.refuseLane l
  else
    let c := c.setReg (LN_TCTL b) new
    let c := c.when (!bit new 6 || !bit new 0 || bits new 3 1 != bits old 3 1) fun c =>
      (c.clrFlag (LN_LSTAT_CHK_LOCK b)).laneUp l fun ln => { ln with chk := {} }
    let c := c.when (bit new 0 && (!bit old 0 || bits new 3 1 != bits old 3 1)) (·.startPat l)
    if c.laneStopped l then c
    else if bit new 0 && !bit old 0 then ((c.dropTx l).startHunt l).setLaneState l 8
    else if !bit new 0 && bit old 0 then
      if c.flag (LN_LCTL_EN b) then c.restart l else c.setLaneState l 0
    else c

/-- Line bits between inversions of INJ.MODE 2 (R222). -/
def Chip.injPeriod (c : Chip) (l : Nat) : Nat := 2 ^ c.fld (LN_INJ_RATE_EXP (laneBase l))

/-- One bit of the test pattern sent, with the inversions of R222. -/
def Chip.sendPatBit (c : Chip) (l : Nat) : Chip :=
  let b := laneBase l
  let ln := c.lane l
  let mode := c.fld (LN_INJ_MODE b)
  let x := patNext (c.fld (LN_TCTL_PAT b)) (c.reg64 (LN_UPAT b)) ln.pat
  let cnt := if mode == 2 then ln.injCnt + 1 else 0
  let flip := (mode == 1 && ln.injOnce) || (mode == 2 && c.injPeriod l ≤ cnt)
  c.setLane l { ln.feedLine (xor x.1 flip) with
    pat := x.2
    injOnce := ln.injOnce && mode != 1
    injCnt := if c.injPeriod l ≤ cnt then 0 else cnt }

/-- One nanosecond of a lane in test mode: the pattern's bits at TRATE (R221). -/
def Chip.testTick (c : Chip) (l : Nat) : Chip :=
  c.when (c.laneState l == 8) fun c =>
    let n := (c.lane l).patFrac + lineRate l (c.fld (LN_TCTL_TRATE (laneBase l)))
    (c.laneUp l fun ln => { ln with patFrac := n % 32 }).forEach (List.range (n / 32)) fun _ c => c.sendPatBit l

/-- The level that a lane's transmitter drives on the line: its latest bit, inverted by TXINV (R225). -/
def Chip.lineOut (c : Chip) (l : Nat) : Bool := xor (bit (c.lane l).line 0) (c.flag (LN_LCTL_TXINV (laneBase l)))

/-- The level of TXDIS_A or TXDIS_B: high, the optical transmitter off, in a reset of the cell, with EN = 0, and in L2 (R425). -/
def Chip.txdis (c : Chip) (l : CellLane) : Bool :=
  c.sys.cellRst.isSome || !c.flag (LN_LCTL_EN (laneBase (cellLaneNum l))) || c.laneState (cellLaneNum l) == 7

/-- INJ_ONCE (R222): kept for modes 1, 3 and 5 until its block is sent. -/
def Chip.injOnceCmd (c : Chip) (l : Nat) : Chip :=
  let m := c.fld (LN_INJ_MODE (laneBase l))
  c.when (m == 1 || m == 3 || m == 5) fun c => c.laneUp l fun ln => { ln with injOnce := true }

/-- A write of INJ: RATE_EXP outside 10 to 31 is written as 31, MODE 6 and 7 as 0 (R222, Table 9-10). -/
def Chip.injRegWrite (c : Chip) (l w : Nat) : Chip :=
  let e := bits w 12 8
  let w := if e < 10 then insertBits w 12 8 31 else w
  let w := if 6 ≤ bits w 2 0 then insertBits w 2 0 0 else w
  c.plainWrite (LN_INJ (laneBase l)) w

-- Sync, headers and blocks received

/-- The sync block of type `t` that leaves now (R209, R210): SYNC_EPOCH with the upper bits of FT and of the cycle count of base `base`,
SYNC_FT, or SYNC_ANG of the base that its type names. -/
def Chip.syncBlock (c : Chip) (t base : Nat) : DWord :=
  let ft := (c.dom 1).acc
  let an (b : Nat) : Nat := (c.dom (2 + b)).acc / 2 ^ 40
  if t == 0x20 then mkBlock 0x20 (bits ft 103 80 * 2 ^ 20 + bits (an base) 63 44)
  else if t == 0x21 then mkBlock 0x21 (bits ft 79 40 * 2 ^ 4 + bits ft 39 36)
  else mkBlock t (bits (an (t - 0x24)) 31 0 * 2 ^ 12 + bits (an (t - 0x24)) 43 32)

/-- Every SYNC_PER us: SYNC_EPOCH, SYNC_FT and SYNC_ANG on every cell lane in L0 that is not in measurement mode (R209). Each takes its
value again as it leaves (R210). -/
def Chip.syncSend (c : Chip) : Chip :=
  let base := c.fld SDL_SCTL_ARM_BASE
  c.forEach (List.range 192) fun n c =>
    c.when (c.laneState n == 5 && !c.flag (LN_LCTL_MEAS (laneBase n))) fun c =>
      c.forEach [0x20, 0x21, 0x24 + base] fun t c => c.queueBlock n 4 (c.syncBlock t base)

/-- An invalid header (R214): a locked receiver counts it, discards the block and a message in progress, and loses lock when 16 of the last 64
headers were invalid; a hunting one counts its valid headers anew. -/
def Chip.invalidHeader (c : Chip) (l : Nat) : Chip :=
  if c.flag (LN_LSTAT_LOCK (laneBase l)) then
    let bad := c.time :: (c.lane l).badAt.filter (c.fewerBlocks l 64)
    let c := ((c.bump (LN_HDR_ERR (laneBase l))).rxAbort l).laneUp l fun ln => { ln with badAt := bad, fresh := none }
    c.when (16 ≤ bad.length) (·.lockLoss l)
  else c.laneUp l fun ln => { ln with huntAt := c.time }

/-- The counter of a block discarded for its type (R208, R326): FORM_CNT of Ha-ha for the reserved safety types, and for safety blocks of
the right direction with no set in progress; UNK_CNT of the lane for every other. -/
def unknownCnt (l t : Nat) : Nat :=
  if 0x78 ≤ t && t < 0x80 && (l < 192 || 204 ≤ l) then (if l < 204 then HHA_FORM_CNT else CHH_FORM_CNT)
  else if l < 192 && 0x74 ≤ t && t < 0x78 then HHA_FORM_CNT
  else if 204 ≤ l && 0x70 ≤ t && t < 0x74 then CHH_FORM_CNT
  else LN_UNK_CNT (laneBase l)

/-- A measurement lane: messages are not given to it (Table 9-8). -/
def Chip.isMeasLane (c : Chip) (l : Nat) : Bool := l < 192 && c.flag (LN_LCTL_MEAS (laneBase l))

/-- The type of the block that ends a message or frame on a lane. -/
def endType (l : Nat) : Nat := if 192 ≤ l && l < 204 then 0x13 else 0x11

/-- A data block (`fin` none), or a MSG_END or EOF, that no command of a whole message or frame has brought (R208, R212): outside a message
it is counted in MSG_ERR; in one that has been discarded for its LEN it is not; the end of one in progress ends it short. -/
def Chip.strayBlock (c : Chip) (l : Nat) (fin : Option DWord) : Chip :=
  let rx := (c.lane l).rx
  match fin with
  | none => if c.laneFresh l then c.firstGone l else c.when rx.isNone (·.bump (LN_MSG_ERR (laneBase l)))
  | some w => c.rxBlock l w fun c =>
    if blockType w != endType l || c.isMeasLane l then c.bump (unknownCnt l (blockType w))
    else (c.rxAbort l).when rx.isNone (·.bump (LN_MSG_ERR (laneBase l)))

/-- A control block discarded for its type (R208). -/
def Chip.unknownBlock (c : Chip) (l : Nat) (w : DWord) : Chip :=
  if blockType w == endType l then c.strayBlock l (some w) else c.rxSeen l w fun c => c.bump (unknownCnt l (blockType w))

-- The commands

def execBalanceReceive (l : LaneId) (w : DWord) (s : State) : Host.Outcome State Fault Refusal :=
  .next (s.on fun c => c.rxBlock (laneNum l) w id)
def execUnknownBlock (l : LaneId) (w : DWord) (s : State) : Host.Outcome State Fault Refusal :=
  .next (s.on fun c => c.unknownBlock (laneNum l) w)
def execStrayDataBlock (l : LaneId) (fin : Option DWord) (s : State) : Host.Outcome State Fault Refusal :=
  .next (s.on fun c => c.strayBlock (laneNum l) fin)
def execSyncSend (s : State) : Host.Outcome State Fault Refusal := .next (s.on (·.syncSend))
def execLockAcquired (l : LaneId) (s : State) : Host.Outcome State Fault Refusal :=
  .next (s.on fun c => c.lockAcquired (laneNum l))
def execLockLoss (l : LaneId) (s : State) : Host.Outcome State Fault Refusal :=
  .next (s.on fun c => (c.lockLoss (laneNum l)).readyCheck)
def execSignalLoss (l : LaneId) (s : State) : Host.Outcome State Fault Refusal :=
  .next (s.on fun c => (c.lockLoss (laneNum l)).readyCheck)
def execLinkDownTimeout (l : LaneId) (s : State) : Host.Outcome State Fault Refusal :=
  .next (s.on fun c => c.linkDownTimeout (laneNum l))
def execEn (l : LaneId) (w : Word) (s : State) : Host.Outcome State Fault Refusal :=
  .next (s.on fun c => c.lctlLaneWrite (laneNum l) w.toNat)
def execCap (l : LaneId) (w : DWord) (s : State) : Host.Outcome State Fault Refusal :=
  .next (s.on fun c => c.capRx (laneNum l) w)
def execCapxTimeout (l : LaneId) (s : State) : Host.Outcome State Fault Refusal :=
  .next (s.on fun c => c.capxTimeout (laneNum l))
def execPropose (l : LaneId) (w : DWord) (s : State) : Host.Outcome State Fault Refusal :=
  .next (s.on fun c => c.proposeRx (laneNum l) w)
def execProposeRepeat (l : LaneId) (s : State) : Host.Outcome State Fault Refusal :=
  .next (s.on fun c => c.proposeRepeat (laneNum l))
def execAccept (l : LaneId) (w : DWord) (s : State) : Host.Outcome State Fault Refusal :=
  .next (s.on fun c => c.acceptRx (laneNum l) w)
def execRateSwitch (l : LaneId) (s : State) : Host.Outcome State Fault Refusal :=
  .next (s.on fun c => c.rateSwitch (laneNum l))
def execHuntTimeout (l : LaneId) (s : State) : Host.Outcome State Fault Refusal :=
  .next (s.on fun c => c.huntTimeout (laneNum l))
def execAdaptEnd (l : LaneId) (vm hm : Byte) (s : State) : Host.Outcome State Fault Refusal :=
  .next (s.on fun c => c.adaptEnd (laneNum l) vm.toNat hm.toNat)
def execAdaptTimeout (l : LaneId) (s : State) : Host.Outcome State Fault Refusal :=
  .next (s.on fun c => c.adaptTimeout (laneNum l))
def execFallback (l : LaneId) (w : DWord) (s : State) : Host.Outcome State Fault Refusal :=
  .next (s.on fun c => c.fallbackRx (laneNum l) w)
def execUp (l : LaneId) (w : DWord) (s : State) : Host.Outcome State Fault Refusal :=
  .next (s.on fun c => c.upRx (laneNum l) w)
def execFomUpdate (l : LaneId) (vm hm : Byte) (s : State) : Host.Outcome State Fault Refusal :=
  .next (s.on fun c => c.fomUpdate (laneNum l) vm.toNat hm.toNat)
def execBerWindow (l : LaneId) (s : State) : Host.Outcome State Fault Refusal :=
  .next (s.on fun c => c.berWindow (laneNum l))
def execEnterL1 (l : LaneId) (s : State) : Host.Outcome State Fault Refusal :=
  .next (s.on fun c => c.enterL1 (laneNum l))
def execEnterL2 (l : LaneId) (s : State) : Host.Outcome State Fault Refusal :=
  .next (s.on fun c => c.enterL2Cmd (laneNum l))
def execL2Req (l : LaneId) (w : DWord) (s : State) : Host.Outcome State Fault Refusal :=
  .next (s.on fun c => c.l2ReqRx (laneNum l) w)
def execL2Ack (l : LaneId) (w : DWord) (s : State) : Host.Outcome State Fault Refusal :=
  .next (s.on fun c => c.l2AckRx (laneNum l) w)
def execL2Nak (l : LaneId) (w : DWord) (s : State) : Host.Outcome State Fault Refusal :=
  .next (s.on fun c => c.l2NakRx (laneNum l) w)
def execWake (l : LaneId) (s : State) : Host.Outcome State Fault Refusal :=
  .next (s.on fun c => c.wakeLane (laneNum l))
def execSignalDetect (l : LaneId) (s : State) : Host.Outcome State Fault Refusal :=
  .next (s.on fun c => c.wakeLane (laneNum l))
def execL2ExitTimeout (l : LaneId) (s : State) : Host.Outcome State Fault Refusal :=
  .next (s.on fun c => c.l2ExitTimeout (laneNum l))
def execRetrain (l : LaneId) (s : State) : Host.Outcome State Fault Refusal :=
  .next (s.on fun c => c.retrain (laneNum l))
def execTest (l : LaneId) (w : Word) (s : State) : Host.Outcome State Fault Refusal :=
  .next (s.on fun c => c.tctlWrite (laneNum l) w.toNat)
def execCheckerLock (l : LaneId) (line : List Bool) (s : State) : Host.Outcome State Fault Refusal :=
  .next (s.on fun c => c.checkerLock (laneNum l) line)
def execInjOnce (l : LaneId) (s : State) : Host.Outcome State Fault Refusal :=
  .next (s.on fun c => c.injOnceCmd (laneNum l))
def execInvalidHeader (l : LaneId) (s : State) : Host.Outcome State Fault Refusal :=
  .next (s.on fun c => (c.invalidHeader (laneNum l)).readyCheck)

end Sys2Proof.Machine
end

