-- ==== Sys2Proof/Machine/Gatehouse.lean ====
section
/-!
DEFINITION. Gatehouse: frame headers, forwarding, the output ports with preemption and suspension, delivery order, discovery,
node IDs, and routing tables (R227 to R243, R251).
-/
namespace Sys2Proof.Machine

def planeNum : Plane → Nat
  | .a => 0
  | .b => 1

/-- A fabric port is in L0. -/
def Chip.portUp (c : Chip) (p : Nat) : Bool := c.laneState (192 + p) == 5

/-- PORTS as it reads: UP follows the lanes. -/
def Chip.portsWord (c : Chip) : Nat :=
  insertBits (c.reg GTH_PORTS) 11 0 ((List.range 12).foldl (fun v p => if c.portUp p then v ||| 2 ^ p else v) 0)

-- Routing (R229, R243)

/-- Where a frame goes on a plane: output ports and local delivery. `arr` is the arrival port, none for an own frame. -/
def Chip.route (c : Chip) (plane : Nat) (h : List Word) (arr : Option Nat) : List Nat × Bool × Chip :=
  let dst := fDst h
  if fMc h then
    let e := c.reg (GTH_MC (dst % 256))
    let mask := if plane == 0 then bits e 5 0 else bits e 13 8
    let loc := if plane == 0 then bit e 6 else bit e 14
    let ps := ((List.range 6).filter fun p => bit mask p && arr != some (6 * plane + p) && c.portUp (6 * plane + p)).map (6 * plane + ·)
    (ps, loc, c)
  else if c.flag GTH_GSTAT_ID_VALID && dst == c.fld GTH_GSTAT_NODE_ID then ([], true, c)
  else
    let e := c.reg (GTH_RT plane dst)
    let pri := 6 * plane + bits e 2 0
    let alt := 6 * plane + bits e 6 4
    if bit e 3 && bits e 2 0 < 6 && c.portUp pri then ([pri], false, c)
    else if bit e 3 && c.flag GTH_GCTL_ALT_EN && bit e 7 && bits e 6 4 < 6 && c.portUp alt then ([alt], false, (c.bump GTH_ALT_USE).routeChg)
    else ([], false, c.noRoute)

-- Output ports (R231 to R233)

/-- A frame of level `lv` has been queued on port `p`: a lower frame in transmission is preempted (R231) or suspended (R232). -/
def Chip.preempt (c : Chip) (p lv : Nat) : Chip :=
  let x := c.port p
  match x.cur, (c.lane (192 + p)).msgs with
  | some f, m :: _ =>
    if f.level ≤ lv then c
    else if !m.begun then (c.unsend p).setPort p { x with q := f :: x.q, cur := none }
    else if m.words.isEmpty && !m.hold then c
    else
      let c := (c.cutCur p (if f.planning then suspEof else failEof)).bump GTH_PREEMPT_TX
      let n := m.sent.length
      if f.planning then
        c.setPort p { x with q := { f with off := n } :: x.q, cur := none, await := some (fSeq f.hdr, n) }
      else if 7 ≤ f.pre then ((c.setPort p { x with cur := none }).releaseBuf f.buf).bump GTH_PREEMPT_DROP
      else c.setPort p { x with q := { f with pre := f.pre + 1 } :: x.q, cur := none }
  | _, _ => c

/-- A frame queued on a port; a silenced port discards it (R310). -/
def Chip.enqueue (c : Chip) (p : Nat) (f : QFrame) : Chip :=
  if c.silenced (192 + p) then c.releaseBuf f.buf
  else
    let x := c.port p
    (c.setPort p { x with q := x.q ++ [f] }).preempt p f.level

/-- Another copy of a frame, from the buffer that holds it, for each of the ports `ps`. -/
def Chip.copies (c : Chip) (ps : List Nat) (f : QFrame) : Chip := c.forEach ps fun p c => (c.holdBuf f.buf).enqueue p f

/-- The next frame of a queue among those that may go: highest level first and in order within a level; and the queue without it. -/
def pickFrame (ok : QFrame → Bool) : List QFrame → Option (QFrame × List QFrame)
  | [] => none
  | f :: fs =>
    match pickFrame ok fs with
    | none => if ok f then some (f, fs) else none
    | some (g, gs) => if !ok f || g.level < f.level then some (g, f :: gs) else some (f, fs)

/-- A frame may start on a port: between the parts of a suspended frame only urgent frames go, and the continuation (R232). -/
def Port.lets (x : Port) (f : QFrame) : Bool := f.level == 0 || x.await.all fun y => fSeq f.hdr == y.1 && f.off == y.2

/-- Little-endian number in `n` bytes of a time extension from byte `i` on. -/
def extNum (ext : List Byte) (i n : Nat) : Nat := natLE ((ext.drop i).take n)

/-- A time extension written (Table 11-3). -/
def mkExt (origin ofrac corr hops flags tseq root : Nat) : List Byte :=
  bytesLE 8 origin ++ bytesLE 4 ofrac ++ bytesLE 8 corr ++ bytesLE 1 hops ++ bytesLE 1 flags ++ bytesLE 2 tseq ++ bytesLE 8 root

/-- The time extension of a frame that leaves now (R258, R259): stamped by the origin, or with link delay and residence added. -/
def Chip.stamp (c : Chip) (f : QFrame) : List Byte :=
  if !fTx f.hdr then f.ext
  else
    let tseq := extNum f.ext 22 2
    let root := extNum f.ext 24 8
    match f.from_ with
    | none => mkExt (c.ftNs % 2 ^ 64) (bits (c.dom 1).acc 39 16 * 2 ^ 8) 0 0 0 tseq root
    | some (p, t) =>
      let corr := (extNum f.ext 12 8 : Int) + c.dlyUse (192 + p) * 2 ^ 12 + ((c.tick - t / 2 : Nat) : Int) * 2 ^ 16
      let uncal := bit (extNum f.ext 21 1) 0 || !c.flag (LN_PRBSTAT_CAL (laneBase (192 + p)))
      mkExt (extNum f.ext 0 8) (extNum f.ext 8 4) (wrapNat 64 corr) (extNum f.ext 20 1 + 1) (b2n uncal) tseq root

/-- A port that is free takes its next frame (R231, R232): its SOF is queued, and what it sends is settled as the SOF leaves. -/
def Chip.frameTxStart (c : Chip) (p : Nat) : Chip :=
  let x := c.port p
  if !c.portUp p || x.cur.isSome || !(c.lane (192 + p)).msgs.isEmpty then c
  else
    match pickFrame x.lets x.q with
    | none => c
    | some (f, rest) =>
      let resume := f.level != 0 && x.await.isSome
      let sof := mkBlock 0x12 (frameLen f.hdr * 2 ^ 32 + fSeq f.hdr % 256 * 2 ^ 20 + b2n resume * 2 ^ 19 + f.off * 2 ^ 10)
      (c.setPort p { x with q := rest, cur := some f }).queueMsg (192 + p) { start := sof, words := [], fin := 0, hold := f.hold }

-- Frames received (R223, R229, R230, R232, R233)

/-- A consumer of frames delivered locally: plane, frame, and its buffer. -/
abbrev Consumer := Chip → Plane → Frame → Nat → Chip

/-- Output rate no higher than input rate: cut-through. -/
def Chip.cutThrough (c : Chip) (inp out : Nat) : Bool :=
  c.fld (LN_LSTAT_RATE (laneBase (192 + out))) ≤ c.fld (LN_LSTAT_RATE (laneBase (192 + inp)))

/-- The plane of a port. -/
def portPlane (p : Nat) : Plane := if p < 6 then .a else .b

/-- The bytes of a received frame. -/
def frameB (f : Frame) : List Byte := frameBytes f.hdr f.ext f.payload

/-- A frame received on a port, in the buffer of `x` and with its routing: to the ports that cut through as it comes, to the others once it
is whole, and to this hub. `n` words have come with this part; `ok` says that its EOF passes. A GATHER frame is delivered with a failed CRC-32
too (R233). -/
def Chip.useFrame (c : Chip) (port : Nat) (f : Frame) (tail : RxTail) (n : Nat) (ok : Bool) (x : Suspended) (deliver : Consumer) : Chip :=
  let q : QFrame := { buf := x.buf, level := fLevel f.hdr, hdr := fwdHdr f.hdr, ext := f.ext, payload := f.payload,
                      eof := if ok then none else some f.crc.toNat, off := x.off, from_ := some (port, c.time) }
  match tail with
  | .coming =>
    let c := c.copies x.outs { q with upto := some n, hold := true }
    c.setPort port { c.port port with rxBuf := some x.buf, part := none }
  | .suspended =>
    let c := c.copies x.outs { q with upto := some n }
    if ok then c.setPort port { c.port port with part := some { x with off := n } }
    else ((c.setPort port { c.port port with part := none }).releaseBuf x.buf).bump GTH_PREEMPT_RX
  | .whole =>
    let c := (c.copies x.outs q).when ok (·.copies x.rest { q with off := 0 })
    let c := c.when (!ok && !x.outs.isEmpty) (·.bump GTH_CRC_FWD)
    let c := if x.loc && (ok || fKind f.hdr == 0x10) then deliver c (portPlane port) f x.buf else c
    (c.setPort port { c.port port with part := none }).releaseBuf x.buf

/-- A frame whose header has come: checked, routed, and given a buffer (R229, R230, R244). HELLO and ASSIGN go to Gatehouse at every hub that they
reach. -/
def Chip.admitFrame (c : Chip) (port : Nat) (f : Frame) (tail : RxTail) (n : Nat) (ok : Bool) (deliver : Consumer) : Chip :=
  if crc16 (hdrBytes f.hdr) != bits (hw f.hdr 7) 15 0 then c.bump GTH_HDR_DROP
  else if fTtl f.hdr == 0 then c.bump GTH_TTL_DROP
  else
    let r := if fKind f.hdr == 8 || fKind f.hdr == 9 then ([], true, c) else c.route (port / 6) f.hdr (some port)
    let c := r.2.2
    if r.1.isEmpty && !r.2.1 then c
    else
      match c.allocBuf (192 + port) (fLevel f.hdr < 2) 1 with
      | (none, c) => c.poolDrop (192 + port) (fLevel f.hdr < 2)
      | (some b, c) =>
        let x : Suspended := { seq := fSeq f.hdr % 256, off := 0, buf := b, outs := r.1.filter (c.cutThrough port),
                               rest := r.1.filter fun p => !c.cutThrough port p, loc := r.2.1 }
        ((c.poolStore (bufAddr b) (frameB f)).when (!r.1.isEmpty) (·.bump GTH_FWD_CNT)).useFrame port f tail n ok x deliver

/-- What has come of a frame, `n` words in all, cannot be a frame: its LEN is not that of its header, or its EOF came after a wrong number of data
blocks (R212, R227). A header of fewer than four words is not looked at. -/
def frameMalformed (f : Frame) (rx : Reception) (n : Nat) : Bool :=
  let len := rx.len.toNat
  4 ≤ n && (f.hdr.length != 8 || frameLen f.hdr != len || 2048 < fPlen f.hdr) || (match rx.tail with
    | .coming => false
    | .suspended => len / 8 < n
    | .whole => 8 * n != len || f.ext.length != (if fTx f.hdr then 32 else 0) || f.payload.length != fPlen f.hdr)

/-- The CRC-32 of the EOF passes (R211, R232); a frame whose EOF has not come has not failed. -/
def framePasses (f : Frame) (tail : RxTail) (n : Nat) : Bool :=
  match tail with
  | .coming => true
  | .suspended => crc32 ((frameB f).take (8 * n)) == f.crc.toNat
  | .whole => crc32 (frameB f) == f.crc.toNat

/-- The reception on a port goes on after this command, when what has come does not end; `counted` where it has been discarded. -/
def Chip.staysOpen (c : Chip) (port : Nat) (tail : RxTail) (counted : Bool) : Chip :=
  c.when (tail == .coming) (·.laneUp (192 + port) fun ln => { ln with rx := some counted })

/-- A frame received on a port, from its SOF on. One in progress ends short; a suspended part goes on with its continuation, and is discarded by
any other frame that is not urgent (R212, R223, R232). -/
def Chip.frameIn (c : Chip) (port : Nat) (f : Frame) (rx : Reception) (deliver : Consumer) : Chip :=
  let b := laneBase (192 + port)
  if c.laneFresh (192 + port) then
    (c.firstGone (192 + port)).bumpBy (LN_MSG_ERR b) (rx.blocks.toNat + b2n (rx.tail != .coming))
  else
    let c := c.rxAbort (192 + port)
    let o := match rx.resume with
      | some o => o.toNat
      | none => 0
    let n := o + rx.blocks.toNat
    let x := if rx.resume.isSome then (c.port port).part.filter fun y => y.seq == fSeq f.hdr % 256 && y.off == o else none
    let c := c.when ((c.port port).part.isSome && x.isNone && fLevel f.hdr != 0) fun c => (c.dropPart port).bump GTH_PREEMPT_RX
    if rx.len.toNat < 64 || 2112 < rx.len.toNat || frameMalformed f rx n then
      ((c.when x.isSome (·.dropPart port)).bump (LN_MSG_ERR b)).staysOpen port rx.tail true
    else if rx.resume.isSome && x.isNone then c.staysOpen port rx.tail true
    else
      let ok := framePasses f rx.tail n
      let c := (c.staysOpen port rx.tail false).when (!ok && rx.tail == .whole) (·.bump (LN_CRC_ERR b))
      let early : Suspended := { seq := fSeq f.hdr % 256, off := n, buf := 8192, outs := [], rest := [], loc := false }
      if !c.flag GTH_GCTL_EN then c
      else
        match x with
        | some y => if 4 ≤ y.off then c.useFrame port f rx.tail n ok y deliver
                    else (c.setPort port { c.port port with part := none }).admitFrame port f rx.tail n ok deliver
        | none =>
          if 4 ≤ n then c.admitFrame port f rx.tail n ok deliver
          else if rx.tail == .suspended then
            (if ok then c.setPort port { c.port port with part := some early } else c.bump GTH_PREEMPT_RX)
          else c

/-- An EOF that comes early, with the inverted CRC-32 of the bytes received: the frame is discarded, and its copies end in the same way (R233). -/
def Chip.earlyEof (c : Chip) (port : Nat) : Chip :=
  match (c.lane (192 + port)).rx with
  | some true => c.laneUp (192 + port) fun ln => { ln with rx := none }
  | _ => ((c.laneUp (192 + port) fun ln => { ln with rx := none }).dropComing port).bump GTH_PREEMPT_RX

/-- The next SEQ of this hub's frames taken (R234). -/
def Chip.takeSeq (c : Chip) : Nat × Chip := (c.gth.seq, { c with gth := { c.gth with seq := (c.gth.seq + 1) % 2 ^ 24 } })

/-- A frame of this hub put into its own delivery queue (R229). -/
def Chip.toSelf (c : Chip) (plane : Nat) (hdr : List Word) (ext payload : List Byte) (b : Nat) : Chip :=
  let c := c.holdBuf b
  { c with gth := { c.gth with loopq := c.gth.loopq ++ [(if plane == 0 then Plane.a else Plane.b, hdr, ext, payload, b)] } }

/-- A frame that this hub originates (R229, R234): one SEQ, a copy on each plane named, and local delivery without a port, all from one buffer.
`acct` is the account of its buffer, none for a hub block (log entry 96). -/
def Chip.originate (c : Chip) (planes : List Nat) (h : Nat → List Word) (ext payload : List Byte) (acct : Option Nat)
    (req : Option Nat := none) : Chip :=
  let s := c.takeSeq
  let hdr := h s.1
  let rs := planes.foldl (fun (x : List Nat × List Nat × Chip) pl =>
    let r := x.2.2.route pl hdr none
    (x.1 ++ r.1, if r.2.1 then x.2.1 ++ [pl] else x.2.1, r.2.2)) ([], [], s.2)
  let c := rs.2.2
  let out (b : Nat) (c : Chip) : Chip :=
    (c.forEach rs.2.1 fun pl c => c.toSelf pl hdr ext payload b).copies rs.1
      { buf := b, level := fLevel hdr, hdr := hdr, ext := ext, payload := payload, req := req }
  if rs.1.isEmpty && rs.2.1.isEmpty then c
  else
    match acct with
    | none => out 8192 c
    | some a =>
      match c.allocBuf a (fLevel hdr < 2) 1 with
      | (none, c) => c.poolDrop a (fLevel hdr < 2)
      | (some b, c) => (out b (c.poolStore (bufAddr b) (frameBytes hdr ext payload))).releaseBuf b

/-- A frame of Gatehouse that it sends on a port of its choice: a control frame of its own, with the next SEQ. -/
def Chip.sendOn (c : Chip) (p kind dst : Nat) (payload : List Byte) : Chip :=
  let s := c.takeSeq
  let hdr := mkHdr kind true false (2 ^ (p / 6)) (c.fld GTH_GCTL_TTL_INIT) dst (c.fld GTH_GSTAT_NODE_ID) 0xF 0 0 false s.1 payload.length 0 0
  if c.portUp p then s.2.enqueue p { buf := 8192, level := 1, hdr := hdr, ext := [], payload := payload } else s.2

-- Delivery order to Kiosk queues (R235)

/-- `a` less `b` in the window of 2^23 (R234). -/
def seqDiff (a b : Nat) : Int := toSigned 24 (wrapNat 24 ((a : Int) - b))

/-- The later of two optional SEQs. -/
def seqMax : Option Nat → Option Nat → Option Nat
  | some a, some b => if 0 < seqDiff a b then some a else some b
  | some a, none => some a
  | none, x => x

/-- Whether a SEQ may be delivered: 0 yes, 1 it is on record, 2 out of order. -/
def Dlv.check (d : Dlv) (plane seq : Nat) : Nat :=
  if d.seen.contains seq then 1
  else
    let above := match (if plane == 0 then d.hiA else d.hiB) with
      | some h => decide (0 < seqDiff seq h)
      | none => true
    let near := match seqMax d.hiA d.hiB with
      | some h => decide (-64 ≤ seqDiff seq h)
      | none => true
    if above && near then 0 else 2

/-- A SEQ delivered. -/
def Dlv.put (d : Dlv) (plane seq : Nat) : Dlv :=
  let d := if plane == 0 then { d with hiA := some seq } else { d with hiB := some seq }
  match seqMax d.hiA d.hiB with
  | some h => { d with seen := (seq :: d.seen).filter fun s => -64 ≤ seqDiff s h }
  | none => d

-- Discovery (R236, R251)

def Chip.gthUp (c : Chip) (f : Gth → Gth) : Chip := { c with gth := f c.gth }

/-- PREF_V, PREF_ID and LEAD_FORCE as the hub's HELLOs carry them. -/
def Chip.prefs (c : Chip) : Nat × Nat × Nat :=
  match c.gth.pref with
  | some x => x
  | none => (c.fld GTH_GCTL_PREF_V, c.fld GTH_GCTL_PREF_ID, c.fld GTH_GCTL_LEAD_FORCE)

/-- The hub's serial number. -/
def hubSerial : Nat := Config.hubSerial.toNat

/-- The flag byte of the hub's HELLO (Table 10-5). -/
def Chip.helloFlags (c : Chip) : Nat :=
  let p := c.prefs
  b2n c.sys.leadPin + p.2.2 * 2 + c.fld GTH_GSTAT_ID_VALID * 4 + p.1 * 8 + c.fld GTH_GSTAT_IS_LEAD * 16

/-- The serials of the neighbours on a plane. -/
def Chip.nbrs (c : Chip) (plane : Nat) : List Nat := (List.range 6).map fun p => c.reg64 (GTH_NBR (6 * plane + p))

/-- MEMBER as one number. -/
def Chip.member (c : Chip) : Nat := (c.regWords GTH_MEMBER 8).foldr (fun w v => w + v * 2 ^ 32) 0

/-- PATH of a HELLO (Table 10-5): HOPS and the ports of arrival, first hop lowest. -/
def pathWord (path : List Nat) : Nat := path.length % 16 + (path.foldr (fun p v => p % 16 + v * 16) 0) * 16

/-- The payload of a HELLO (Table 10-5). -/
def helloBytes (serial flags nodeId prefId epoch : Nat) (path nbr : List Nat) (member : Nat) : List Byte :=
  bytesLE 8 serial ++ bytesLE 1 flags ++ bytesLE 1 0 ++ bytesLE 2 nodeId ++ bytesLE 2 prefId ++ bytesLE 2 epoch ++ bytesLE 8 (pathWord path)
    ++ ((List.range 6).flatMap fun i => bytesLE 8 (nbr.getD i 0)) ++ bytesLE 32 member

/-- The header of a HELLO from `src` with SEQ `s` on a plane (log entry 96). -/
def helloHdr (plane ttl src s : Nat) : List Word := mkHdr 8 true false (2 ^ plane) ttl 0 src 0xF 0 0 false s 104 0 0

/-- A HELLO of this hub queued on every port in L0, all with one SEQ (R234, R236); nothing while EN is 0. -/
def Chip.helloSend (c : Chip) : Chip :=
  if !c.flag GTH_GCTL_EN then c
  else
    let s := c.takeSeq
    s.2.forEach ((List.range 12).filter c.portUp) fun p c =>
      let id := c.fld GTH_GSTAT_NODE_ID
      c.enqueue p { buf := 8192, level := 1, hdr := helloHdr (p / 6) (c.fld GTH_GCTL_TTL_INIT) id s.1, ext := [],
                    payload := helloBytes hubSerial c.helloFlags id c.prefs.2.1 c.gth.epoch [] (c.nbrs (p / 6)) c.member }

/-- Three HELLO intervals have passed since time `t`. -/
def Chip.threeIntervals (c : Chip) (t : Nat) : Bool := t + 3 * Nat.max (c.fld GTH_DISCCFG_HELLO_PER) 1 * 2000000 ≤ c.time

/-- The hubs that are heard: HELLOs of the present EPOCH, the latest no more than three intervals ago. -/
def Chip.heardNow (c : Chip) : List Heard := c.gth.heard.filter fun h => h.epoch == c.gth.epoch && !c.threeIntervals h.at'

/-- What is known of every hub on a plane, this hub included: serial, neighbours, MEMBER. -/
def Chip.graph (c : Chip) (plane : Nat) : List (Nat × List Nat × Nat) :=
  (hubSerial, c.nbrs plane, c.member) :: (c.heardNow.filter (·.plane == plane)).map fun h => (h.serial, h.nbr, h.member)

-- The lead's tables (R240)

/-- Neighbours of a hub in a graph. -/
def adjOf (g : List (Nat × List Nat × Nat)) (s : Nat) : List Nat :=
  match g.find? fun x => x.1 == s with
  | some x => x.2.1
  | none => []

/-- Hops from the hubs of a frontier, level by level; hub `avoid` is not entered. -/
def bfs (g : List (Nat × List Nat × Nat)) (avoid : Option Nat) : Nat → Nat → List Nat → List (Nat × Nat) → List (Nat × Nat)
  | 0, _, _, seen => seen
  | n + 1, d, fr, seen =>
    let next := (fr.flatMap (adjOf g)).filter fun s =>
      s != 0 && some s != avoid && (g.any fun x => x.1 == s) && !(seen.any fun y => y.1 == s)
    let next := next.eraseDups
    if next.isEmpty then seen else bfs g avoid n (d + 1) next (seen ++ next.map fun s => (s, d + 1))

/-- Hops from hub `s` to hub `t`, if there is a path. -/
def hops (g : List (Nat × List Nat × Nat)) (avoid : Option Nat) (s t : Nat) : Option Nat :=
  ((bfs g avoid g.length 0 [s] [(s, 0)]).find? fun x => x.1 == t).map (·.2)

/-- The port of hub `s` with the fewest hops to `t`, the lower number among equals, port `not` left out. -/
def bestPort (g : List (Nat × List Nat × Nat)) (avoid : Option Nat) (s t : Nat) (not : Option Nat) : Option (Nat × Nat) :=
  (List.range 6).foldl (fun best p =>
    let n := (adjOf g s).getD p 0
    if n == 0 || some p == not || some n == avoid then best
    else match hops g avoid n t, best with
      | some d, some (_, bd) => if d + 1 < bd then some (p, d + 1) else best
      | some d, none => some (p, d + 1)
      | none, _ => best) none

/-- The routing entry of hub `s` for hub `t` (Table 10-6). -/
def routeEntry (g : List (Nat × List Nat × Nat)) (s t : Nat) : Nat :=
  if s == t then 2 ^ 12
  else
    match bestPort g none s t none with
    | none => 0
    | some (p, d) =>
      let e := p + 2 ^ 3 + Nat.min d 15 * 2 ^ 8
      match bestPort g (some s) s t (some p) with
      | some (q, _) => e + q * 2 ^ 4 + 2 ^ 7
      | none => e

/-- The links, as hub and port at both ends, of the path from hub `s` to the root. -/
def treePath (g : List (Nat × List Nat × Nat)) (root : Nat) : Nat → Nat → List (Nat × Nat)
  | 0, _ => []
  | n + 1, s =>
    if s == root then []
    else match bestPort g none s root none with
      | none => []
      | some (p, _) =>
        let t := (adjOf g s).getD p 0
        let back := ((List.range 6).find? fun q => (adjOf g t).getD q 0 == s).getD 6
        (s, p) :: (t, back) :: treePath g root n t

/-- MASK and LOCAL of hub `s` for group `grp` on one plane: ports in [5:0], LOCAL in [6]. -/
def treeMask (g : List (Nat × List Nat × Nat)) (ids : List (Nat × Nat)) (grp s : Nat) : Nat :=
  let isMember (x : Nat × List Nat × Nat) : Bool := grp == 255 || bit x.2.2 grp
  let ms := ids.filter fun i => g.any fun x => x.1 == i.1 && isMember x
  let root := ms.foldl (fun (r : Option (Nat × Nat)) i => match r with
    | some y => if i.2 < y.2 then some i else r
    | none => some i) none
  match root with
  | none => 0
  | some r =>
    let links := ms.flatMap fun i => treePath g r.1 g.length i.1
    let ports := (List.range 6).foldl (fun v p => if links.contains (s, p) then v + 2 ^ p else v) 0
    ports + (if ms.any fun i => i.1 == s then 2 ^ 6 else 0)

/-- The tables of hub `s`: its entries for all node IDs on plane A and on plane B, and its multicast entries; a node ID that no hub has is
unreachable. -/
def Chip.tablesOf (c : Chip) (s : Nat) : List Nat :=
  let ga := c.graph 0
  let gb := c.graph 1
  let entry (g : List (Nat × List Nat × Nat)) (id : Nat) : Nat := match c.gth.ids.find? fun x => x.2 == id with
    | some x => routeEntry g s x.1
    | none => 0
  (List.range 1024).map (entry ga) ++ (List.range 1024).map (entry gb)
    ++ (List.range 256).map fun grp => treeMask ga c.gth.ids grp s + treeMask gb c.gth.ids grp s * 2 ^ 8

/-- The parts of a set of tables that one RTLOAD each carries: offset in GTH, first word and number of words (log entry 96). -/
def tableParts : List (Nat × Nat × Nat) :=
  [(0x3000, 0, 510), (0x37F8, 510, 510), (0x3FF0, 1020, 510), (0x47E8, 1530, 510), (0x4FE0, 2040, 8), (0x5400, 2048, 256)]

/-- Words as (offset, word) pairs from offset `off` on. -/
def wordsAt (off : Nat) (ws : List Nat) : List (Nat × Nat) := ws.zipIdx.map fun x => (off + 4 * x.2, x.1)

/-- Shadow words written, at offsets in GTH; other offsets are no shadow word. -/
def Chip.loadShadow (c : Chip) (ws : List (Nat × Nat)) : Chip :=
  c.forEach ws fun x c =>
    c.when ((0x3000 ≤ x.1 && x.1 < 0x5000) || (0x5400 ≤ x.1 && x.1 < 0x5800)) (·.setReg (0x500000 + x.1) x.2)

/-- Every table word: offset of the active and of the shadow word. -/
def tablePairs : List (Nat × Nat) :=
  (List.range 2048).map (fun i => (0x501000 + 4 * i, 0x503000 + 4 * i)) ++ (List.range 256).map fun i => (0x505000 + 4 * i, 0x505400 + 4 * i)

/-- All shadow tables become active in one tick; the banks change places (R241). A changed primary port raises ROUTE_CHG
(R243). -/
def Chip.swapTables (c : Chip) : Chip :=
  let chg := (List.range 2048).any fun i => c.reg (0x501000 + 4 * i) % 16 != c.reg (0x503000 + 4 * i) % 16
  let c := c.forEach tablePairs fun x c => (c.setReg x.1 (c.reg x.2)).setReg x.2 (c.reg x.1)
  let c := (c.setFld GTH_GSTAT_BANK (1 - c.fld GTH_GSTAT_BANK)).gthUp fun g => { g with swapArmed := false }
  c.when chg (·.routeChg)

/-- The last RTLOAD of a set: the first set after an ID becomes active at once. -/
def Chip.loadDone (c : Chip) : Chip :=
  if c.flag GTH_GSTAT_ID_VALID && c.gth.firstLoad then
    (c.swapTables.raiseFlag GTH_GSTAT_ROUTED).gthUp fun g => { g with firstLoad := false }
  else c

/-- A swap at SWAP_AT: at once with SWAP_LATE when that instant has passed (R241). -/
def Chip.armSwap (c : Chip) : Chip :=
  if c.reg64 GTH_SWAP_AT ≤ c.ftNs % 2 ^ 64 then c.swapTables.raiseFlag GTH_GSTAT_SWAP_LATE
  else c.gthUp fun g => { g with swapArmed := true }

/-- FT reaches SWAP_AT. -/
def Chip.tableSwap (c : Chip) : Chip :=
  if c.gth.swapArmed && c.reg64 GTH_SWAP_AT ≤ c.ftNs % 2 ^ 64 then c.swapTables else c

/-- RTLOAD received: words from offset `off` on, the last of the set or not (R241). -/
def Chip.rtloadRx (c : Chip) (off : Nat) (ws : List Nat) (last : Bool) : Chip := (c.loadShadow (wordsAt off ws)).when last (·.loadDone)

/-- SWAPCMD received (R241). -/
def Chip.swapcmdRx (c : Chip) (at' : Nat) : Chip := (c.setReg64 GTH_SWAP_AT at').armSwap

/-- A hub that the lead reaches: serial, PREF_V, PREF_ID, whether it has a node ID, and where its HELLO came from: plane, and the ports of
arrival of its HELLO. -/
structure Member where
  serial : Nat
  prefV : Bool
  prefId : Nat
  hasId : Bool
  plane : Nat
  path : List Nat
deriving DecidableEq, Repr

/-- A list of hubs in ascending order of serial, each once. -/
def insertMember (m : Member) : List Member → List Member
  | [] => [m]
  | x :: xs => if m.serial == x.serial then x :: xs else if m.serial < x.serial then m :: x :: xs else x :: insertMember m xs

/-- The hubs of the station in ascending order of serial. -/
def Chip.members (c : Chip) : List Member :=
  let own := c.prefs
  let l := c.heardNow.foldl (fun l h =>
    insertMember { serial := h.serial, prefV := bit h.flags 3, prefId := h.prefId, hasId := bit h.flags 2, plane := h.plane, path := h.path } l) []
  insertMember { serial := hubSerial, prefV := own.1 == 1, prefId := own.2.1, hasId := c.flag GTH_GSTAT_ID_VALID, plane := 0, path := [] } l

/-- The port by which the lead reaches a hub: that of its HELLO. -/
def Member.port (m : Member) : Nat := 6 * m.plane + m.path.getLastD 0

/-- The ID assigned to a hub. -/
def Chip.idOf (c : Chip) (serial : Nat) : Option Nat := (c.gth.ids.find? fun x => x.1 == serial).map (·.2)

/-- The lead loads the tables of one hub: its own into its own shadow, another's by RTLOAD frames. -/
def Chip.sendTablesTo (c : Chip) (m : Member) : Chip :=
  let ws := c.tablesOf m.serial
  match c.idOf m.serial with
  | none => c
  | some id => c.forEach tableParts fun x c =>
    let part := (ws.drop x.2.1).take x.2.2
    let last := x.2.1 == 2048
    if m.serial == hubSerial then c.rtloadRx x.1 part last
    else c.sendOn m.port 0xA id (bytesLE 4 (x.1 + b2n last * 2 ^ 31) ++ part.flatMap (bytesLE 4))

/-- The lead computes and sends every hub's tables, the nearer hubs' first (R240, log entry 96). -/
def Chip.sendTables (c : Chip) : Chip :=
  c.forEach (List.range 17) fun d c => c.forEach (c.members.filter fun m => m.path.length == d) fun m c => c.sendTablesTo m

/-- The lead recomputes, loads and swaps every hub's tables 1 ms ahead of its FT (R242). -/
def Chip.rerouteAll (c : Chip) : Chip :=
  let c := c.sendTables
  let at_ := (c.ftNs + 1000000) % 2 ^ 64
  c.forEach c.members fun m c =>
    match c.idOf m.serial with
    | none => c
    | some id => if m.serial == hubSerial then c.swapcmdRx at_ else c.sendOn m.port 0xB id (bytesLE 8 at_)

/-- REROUTE: refused on a hub that is not the lead (R251). -/
def Chip.reroute (c : Chip) : Chip :=
  if c.flag GTH_GSTAT_IS_LEAD then c.rerouteAll else c.raiseHub ⟨5, 5, 2, GTH_GSTAT_REFUSED⟩

/-- What the lead knows of the links has changed: it recomputes, or raises ROUTE_CHG (R242). -/
def Chip.linksChanged (c : Chip) : Chip :=
  if !c.flag GTH_GSTAT_IS_LEAD then c
  else if c.flag GTH_GCTL_AUTOROUTE then c.rerouteAll
  else c.routeChg

-- The lead and node IDs (R237, R238)

/-- The hub drops its lead and node ID and adopts an EPOCH. -/
def Chip.newEpoch (c : Chip) (e : Nat) : Chip :=
  let c := ((c.clrFlag GTH_GSTAT_IS_LEAD).clrFlag GTH_GSTAT_ID_VALID).setFld GTH_GSTAT_NODE_ID 0
  (c.setReg64 GTH_LEAD_SERIAL 0).gthUp fun g => { g with epoch := e % 2 ^ 16, pref := none, ids := [], firstLoad := true, setAt := c.time }

/-- A node ID received (R238): ID_CONFLICT when the preference was taken. The ID that the hub has already changes nothing. -/
def Chip.setNodeId (c : Chip) (id : Nat) : Chip :=
  if c.flag GTH_GSTAT_ID_VALID && c.fld GTH_GSTAT_NODE_ID == id then c
  else
    let p := c.prefs
    let c := ((c.setFld GTH_GSTAT_NODE_ID id).raiseFlag GTH_GSTAT_ID_VALID).gthUp fun g =>
      { g with pref := some p, firstLoad := true }
    c.when (p.1 == 1 && p.2.1 != id) (·.raiseHub ⟨5, 3, 2, GTH_GSTAT_ID_CONFLICT⟩)

/-- The IDs that R238 assigns. -/
def assignIds : List Member → List (Nat × Nat) → List (Nat × Nat)
  | [], ids => ids
  | m :: ms, ids =>
    let used (i : Nat) : Bool := ids.any fun x => x.2 == i
    let id := if m.prefV && !used m.prefId then m.prefId else ((List.range 1024).find? fun i => !used i).getD 0
    assignIds ms (ids ++ [(m.serial, id)])

/-- The payload of an ASSIGN: serial, node ID, and the ports still to go through, first of them last (log entry 96). -/
def assignBytes (serial id : Nat) (path : List Nat) : List Byte := bytesLE 8 serial ++ bytesLE 2 id ++ bytesLE 8 (pathWord path)

/-- The lead assigns a hub its ID: its own at once, another's by an ASSIGN along the reverse of its HELLO's PATH. -/
def Chip.assignTo (c : Chip) (m : Member) : Chip :=
  match c.idOf m.serial with
  | none => c
  | some id => if m.serial == hubSerial then c.setNodeId id else c.sendOn m.port 9 0 (assignBytes m.serial id m.path.dropLast)

/-- The lead assigns every node ID, and computes and sends the tables. -/
def Chip.leadStation (c : Chip) : Chip :=
  let ms := c.members
  let c := (c.raiseFlag GTH_GSTAT_IS_LEAD).gthUp fun g => { g with ids := assignIds ms [] }
  (c.forEach ms fun m c => c.assignTo m).sendTables

/-- The lead hears a hub that has no ID: it assigns the one that the hub had, or one that is free; the IDs of hubs that are not heard any more
are free. A hub that is new changes the routes (R238, log entry 96). -/
def Chip.assignLate (c : Chip) (serial : Nat) : Chip :=
  match c.members.find? fun m => m.serial == serial with
  | none => c
  | some m =>
    if !c.flag GTH_GSTAT_IS_LEAD || m.hasId then c
    else if (c.idOf serial).isSome then (c.assignTo m).sendTablesTo m
    else
      let ids := c.gth.ids.filter fun x => c.members.any fun y => y.serial == x.1
      ((c.gthUp fun g => { g with ids := assignIds [m] ids }).assignTo m).linksChanged

/-- Serials of the hubs heard whose flag byte has bit `i`, this hub included. -/
def Chip.withFlag (c : Chip) (i : Nat) : List Nat :=
  (if bit c.helloFlags i then [hubSerial] else []) ++ (c.heardNow.filter fun h => bit h.flags i).map (·.serial)

/-- The lowest of a list of serials. -/
def lowest (l : List Nat) : Option Nat := l.foldl (fun r s => match r with
  | some y => some (Nat.min s y)
  | none => some s) none

/-- The choice of the lead, once what is heard has not changed for SETTLE ms (R237). A lead already chosen stays; a hub that hears one takes
it. -/
def Chip.leadChoice (c : Chip) : Chip :=
  if !c.flag GTH_GCTL_EN || c.reg64 GTH_LEAD_SERIAL != 0 || c.time < c.gth.setAt + Nat.max (c.fld GTH_DISCCFG_SETTLE) 1 * 2000000 then c
  else
    let leads := c.withFlag 4
    let forced := (c.withFlag 1).eraseDups
    let pick := match lowest leads with
      | some s => some s
      | none => match lowest forced with
        | some s => some s
        | none => lowest (c.withFlag 0)
    let c := c.when (leads.isEmpty && 1 < forced.length && forced.contains hubSerial) (·.raiseHub ⟨5, 0, 2, GTH_GSTAT_LEAD_CONFLICT⟩)
    match pick with
    | none => c.raiseHub ⟨5, 1, 2, GTH_GSTAT_NOLEAD⟩
    | some s =>
      let c := c.setReg64 GTH_LEAD_SERIAL s
      if s == hubSerial then c.leadStation else c

/-- No HELLO of the lead for three intervals on either plane (R237): raised once, and the lead is not known as heard any more. -/
def Chip.leadLost (c : Chip) : Chip :=
  let s := c.reg64 GTH_LEAD_SERIAL
  let hs := c.gth.heard.filter (·.serial == s)
  if s == 0 || c.flag GTH_GSTAT_IS_LEAD || hs.isEmpty || hs.any fun h => !c.threeIntervals h.at' then c
  else (c.gthUp fun g => { g with heard := g.heard.filter (·.serial != s) }).raiseHub ⟨5, 2, 2, GTH_GSTAT_LEAD_LOST⟩

/-- A HELLO from port `p` forwarded: its header with TTL decreased, PATH with the port of arrival (R229, R236). -/
def Chip.helloForward (c : Chip) (p : Nat) (h : Hello) (hdr : List Word) (b : Nat) : Chip :=
  let pl := helloBytes h.serial.toNat h.flags.toNat h.nodeId.toNat h.prefId.toNat h.epoch.toNat (h.path ++ [p % 6]) (h.nbr.map BitVec.toNat)
    h.member.toNat
  c.copies (((List.range 6).map (6 * (p / 6) + ·)).filter fun q => q != p && c.portUp q)
    { buf := b, level := 1, hdr := fwdHdr hdr, ext := [], payload := pl, from_ := some (p, c.time) }

/-- A HELLO received on a port, with the header it came under and its buffer (R236 to R238, R242). -/
def Chip.helloRx (c : Chip) (p : Nat) (h : Hello) (hdr : List Word) (b : Nat) : Chip :=
  let plane := p / 6
  let serial := h.serial.toNat
  let flags := h.flags.toNat
  if !c.flag GTH_GCTL_EN || serial == hubSerial then c
  else
    let c := c.when (c.gth.epoch < h.epoch.toNat) (·.newEpoch h.epoch.toNat)
    let nbr := h.nbr.map BitVec.toNat
    let old := c.gth.heard.find? fun x => x.plane == plane && x.serial == serial
    let dropped := old.any fun x => (x.nbr.zip nbr).any fun y => y.1 != 0 && y.1 != y.2
    let known := c.heardNow.any fun x => x.serial == serial && x.flags % 4 == flags % 4
    let x : Heard := { plane := plane, serial := serial, flags := flags, nodeId := h.nodeId.toNat, prefId := h.prefId.toNat,
                       epoch := h.epoch.toNat, path := h.path ++ [p % 6], nbr := nbr, member := h.member.toNat, at' := c.time }
    let c := c.gthUp fun g =>
      { g with heard := (g.heard.filter fun y => !(y.plane == plane && y.serial == serial)) ++ [x],
               setAt := if known then g.setAt else c.time }
    let c := c.when (h.hops == 0) fun c =>
      ((c.setReg64 (GTH_NBR p) serial).setReg GTH_PORTS (c.reg GTH_PORTS ||| 2 ^ (16 + p))).gthUp fun g =>
        { g with nbrAt := Assoc.set (fun _ => 0) g.nbrAt p c.time }
    let key := (plane, serial, h.seq.toNat)
    let c := c.when (h.hops != 15 && !c.gth.fwd.contains key) fun c =>
      (c.gthUp fun g => { g with fwd := key :: g.fwd }).helloForward p h hdr b
    (c.when dropped (·.linksChanged)).assignLate serial

/-- Three intervals without a HELLO of the neighbour on a port (R236, R242). -/
def Chip.nbrTimeout (c : Chip) (p : Nat) : Chip :=
  if !bit (c.fld GTH_PORTS_NBR_V) p || !c.threeIntervals (Assoc.get (fun _ => 0) c.gth.nbrAt p) then c
  else
    let c := (c.setReg64 (GTH_NBR p) 0).setFld GTH_PORTS_NBR_V (c.fld GTH_PORTS_NBR_V - 2 ^ p)
    c.helloSend.linksChanged

/-- ASSIGN received on a plane, with the header it came under and its buffer: for this hub, or passed on along its path (R238). -/
def Chip.assignRx (c : Chip) (plane serial id : Nat) (path : List Nat) (hdr : List Word) (b : Nat) : Chip :=
  if serial == hubSerial then c.setNodeId id
  else
    match path.getLast? with
    | none => c
    | some q =>
      c.copies (if q < 6 && c.portUp (6 * plane + q) then [6 * plane + q] else [])
        { buf := b, level := 1, hdr := fwdHdr hdr, ext := [], payload := assignBytes serial id path.dropLast }

-- The commands

def execFrameTxStart (port : Fin 12) (s : State) : Host.Outcome State Fault Refusal := .next (s.on fun c => c.frameTxStart port)
def execEarlyEof (port : Fin 12) (s : State) : Host.Outcome State Fault Refusal := .next (s.on fun c => c.earlyEof port)
/-- The command gives the content of the HELLO; its header is that of a sender with TTL_INIT 15 (log entry 96). -/
def execHello (port : Fin 12) (h : Hello) (s : State) : Host.Outcome State Fault Refusal :=
  .next (s.on fun c => c.helloRx port h (helloHdr (port.val / 6) (15 - h.hops.toNat) h.nodeId.toNat h.seq.toNat) 8192)
def execHelloSend (s : State) : Host.Outcome State Fault Refusal := .next (s.on (·.helloSend))
def execNbrTimeout (port : Fin 12) (s : State) : Host.Outcome State Fault Refusal := .next (s.on fun c => c.nbrTimeout port)
def execLeadChoice (s : State) : Host.Outcome State Fault Refusal := .next (s.on (·.leadChoice))
def execLeadLost (s : State) : Host.Outcome State Fault Refusal := .next (s.on (·.leadLost))
def execRediscover (s : State) : Host.Outcome State Fault Refusal := .next (s.on fun c => c.newEpoch (c.gth.epoch + 1))
/-- The command gives the content of the ASSIGN; its header is free but for its kind (log entry 96). -/
def execAssign (port : Fin 12) (serial : DWord) (id : BitVec 10) (path : List Nat) (s : State) : Host.Outcome State Fault Refusal :=
  .next (s.on fun c =>
    let d := c.draw
    let hdr := mkHdr 9 true false (2 ^ (port.val / 6)) (15 - path.length) 0 (d.1 % 1024) 0xF 0 0 false (d.1 / 2 ^ 10 % 2 ^ 22) 18 0 0
    d.2.assignRx (port.val / 6) serial.toNat id.toNat path hdr 8192)
def execRtload (off : BitVec 16) (ws : List Word) (last : Bool) (s : State) : Host.Outcome State Fault Refusal :=
  .next (s.on fun c => c.rtloadRx off.toNat (ws.map BitVec.toNat) last)
def execSwapcmd (at' : DWord) (s : State) : Host.Outcome State Fault Refusal := .next (s.on fun c => c.swapcmdRx at'.toNat)
def execSwap (s : State) : Host.Outcome State Fault Refusal := .next (s.on (·.armSwap))
def execTableSwap (s : State) : Host.Outcome State Fault Refusal := .next (s.on (·.tableSwap))
def execReroute (s : State) : Host.Outcome State Fault Refusal := .next (s.on (·.reroute))

/-- The pool account of a requester (R247): a Kiosk's own, or the host's. -/
def acctOf (r : Requester) : Nat :=
  match r with
  | .kiosk k => 268 + k
  | _ => 284

/-- A hub register is reached by the host and the Kiosks only. -/
def hubRequester (r : Requester) : Bool :=
  match r with
  | .host | .kiosk _ => true
  | _ => false

/-- A Kiosk whose load stands in a speculative region (R247). -/
def Chip.regionOf (c : Chip) (r : Requester) : Bool :=
  match r with
  | .kiosk k => (c.core k).spec.isSome
  | _ => false

/-- A load of ALLOC by a requester: the word it returns (R247). -/
def Chip.allocBy (c : Chip) (r : Requester) : Nat × Chip := if c.regionOf r then (0, c) else c.alloc (acctOf r)

def execAlloc (r : Requester) (s : State) : Host.Outcome State Fault Refusal :=
  .next (s.on fun c => if hubRequester r then (let x := c.allocBy r; { x.2 with rdata := BitVec.ofNat 32 x.1 }) else c)
def execFree (r : Requester) (w : Word) (s : State) : Host.Outcome State Fault Refusal :=
  .next (s.on fun c => if hubRequester r then c.freeCmd (acctOf r) w.toNat else c)

end Sys2Proof.Machine
end

