-- ==== Sys2Proof/Machine/Belvedere.lean ====
section
/-!
DEFINITION. Belvedere's observers: reports, the settled advance, seeding, forecast records, measurement streams and the slot
length (R73, R100 to R113). Slots are numbered by R70 without the reduction of the tag.
-/
namespace Sys2Proof.Machine

def Chip.blvUp (c : Chip) (f : Blv → Blv) : Chip := { c with blv := f c.blv }
def Chip.obs (c : Chip) (l : Nat) : Obs := Assoc.get (fun _ => {}) c.blv.obs l
def Chip.obsUp (c : Chip) (l : Nat) (f : Obs → Obs) : Chip :=
  c.blvUp fun b => { b with obs := Assoc.set (fun _ => {}) b.obs l (f (c.obs l)) }

/-- The lanes with an observer record. -/
def Chip.obsLanes (c : Chip) : List Nat := c.blv.obs.map (·.1)

/-- Keys below `lo` dropped. -/
def Assoc.from {α : Type} (m : Assoc α) (lo : Nat) : Assoc α := m.filter fun x => lo ≤ x.1

/-- The settled estimate of a lane, word 0 of its view (R100). -/
def Chip.vhat (c : Chip) (l : Nat) : Nat := c.reg (BLV_OBSV l)

/-- An estimate limited as R100 says. -/
def satEst (i : Int) : Nat := (clampInt 0 0xFFFFFFFF i).toNat

/-- The slot number that a tag names, in the window of R75 about the slot of the base's present value. -/
def Chip.slotOfTag (c : Chip) (t : Nat) : Nat :=
  let n := c.slotNow
  ((n : Int) + toSigned 12 (wrapNat 12 ((t : Int) - (n % 4096 : Nat)))).toNat

/-- The lane is a cell lane of the arm: in LANEMAP and not in measurement mode (R131). -/
def Chip.armLanes (c : Chip) : List Nat := c.laneMap.filter fun l => !c.flag (LN_LCTL_MEAS (laneBase l))

/-- The lane's RANKEN bit. -/
def Chip.rankEn (c : Chip) (l : Nat) : Bool := bit (c.reg (BLV_RANKEN + 4 * (l / 32))) (l % 32)

/-- A source of Belvedere, raised and counted (Table 14-2). -/
def Chip.raiseBlv (c : Chip) (n cls : Nat) (f : Fld) (cnt : Nat) : Chip := (c.bump cnt).raiseHub ⟨3, n, cls, f⟩

-- Slot lengths (R73)

/-- The length in ns of slot `n`, where both of its ends were acted on. -/
def Chip.slotLen (c : Chip) (n : Nat) : Option Nat :=
  match Assoc.get (fun _ => none) c.blv.theta n, Assoc.get (fun _ => none) c.blv.theta (n + 1) with
  | some a, some b => some (b - a)
  | _, _ => none

/-- A slot length, or a free value where none was measured. -/
def Chip.lenOr (c : Chip) (n : Nat) : Nat × Chip :=
  match c.slotLen n with
  | some x => (x, c)
  | none => c.draw

/-- The length of the slot that has ended is tested (R73, R120): 6 SLOT_SHORT, 7 SLOT_LONG. -/
def Chip.checkLen (c : Chip) (n : Nat) : Chip :=
  match c.slotLen n with
  | none => c
  | some x =>
    if x < (if c.flag BLV_GROUP_SMALL then 1250 else 2500) then c.raiseBlv 6 2 BLV_BSTAT_SLOT_SHORT BLV_SLOT_SHORT_CNT
    else if 50000 < x then c.raiseBlv 7 2 BLV_BSTAT_SLOT_LONG BLV_SLOT_LONG_CNT
    else c

-- Modelled states (R101, R102)

/-- An estimate advanced through a slot (R101). -/
def Chip.advEst (c : Chip) (v : Nat) (qn i : Int) (ts : Nat) : Nat := satEst (v + qn * i * ts * (c.reg BLV_KCAP : Int) / 2 ^ 38)

/-- The insertion factor of an order and a commit (Table 5-1, R82); `cmt` holds bits [55:16] of the block. -/
def insFactor (rc rd cmt : Nat) (fb : Bool) : Int :=
  match (insertion (rc * 2 ^ 20 + rd * 2 ^ 8) (cmt * 2 ^ 4) fb).1 with
  | 3 => 16384
  | 4 => -16384
  | 6 => if bit cmt 0 then -(bits cmt 15 2 : Int) else bits cmt 15 2
  | _ => 0

/-- The last order handed to a lane for a slot, unless it was aborted. -/
def Chip.orderSent (c : Chip) (l n : Nat) : Option (Nat × Nat) :=
  match (Assoc.get (fun _ => []) c.blv.sent n).find? fun x => x.1 == l with
  | some (_, rc, rd, false) => some (rc, rd)
  | _ => none

/-- A plan of the slot was made and the cell was not ranked in it. -/
def Chip.unrankedIn (c : Chip) (l n : Nat) : Bool :=
  match Assoc.get (fun _ => none) c.blv.inputs n with
  | some x => !(x.cells.any fun y => y.lane == l)
  | none => false

/-- The insertion factor of a lane's modelled state in a slot (R102): found from commit and order, else that of the slot before. -/
def Chip.modelQ (c : Chip) (l : Nat) : Nat → Nat → Int
  | 0, _ => 0
  | f + 1, n =>
    match Assoc.get (fun _ => none) (c.obs l).q n with
    | some q => q
    | none =>
      if c.unrankedIn l n then 0
      else
        match Assoc.get (fun _ => none) c.blv.cms n, c.orderSent l n with
        | some m, some (rc, rd) => insFactor rc rd m.first ((c.obs l).info.any fun (i : Rep) => i.fb)
        | _, _ => if n = 0 then 0 else c.modelQ l f (n - 1)

/-- The history entry of a slot: the latest entry at or before it, else the settled estimate (R100, R104). -/
def Chip.histAt (c : Chip) (l t : Nat) : Nat :=
  match ((c.obs l).hist.filter fun x => x.1 ≤ t).getLast? with
  | some (_, some v) => v
  | _ => c.vhat l

-- Forecast records (R107, R108)

/-- The frozen record of a slot. -/
def Chip.fcFrozen (c : Chip) (n : Nat) : Fcast := Assoc.get (fun _ => {}) c.blv.fz n

/-- The FCTAB entry of a record held for slot `j` (Table 5-9). -/
def Chip.viewFc (c : Chip) (j : Nat) (r : Fcast) (subst : Bool) : Chip :=
  c.setWords (BLV_FCTAB (j % 8)) [j % 4096 + r.n * 2 ^ 16 + b2n r.dir * 2 ^ 28 + b2n r.neg * 2 ^ 29 + b2n subst * 2 ^ 30 + 2 ^ 31,
    r.tol, wrapNat 24 r.iarm]

/-- Forecasts are frozen while Belvedere or Bandstand is enabled. -/
def Chip.freezes (c : Chip) : Bool := c.flag BLV_BCTL_EN || c.flag BND_NCTL_EN

/-- The record of slot `j` freezes; with none held, that of slot `j` - 1 is substituted and FCST_MISS is due (second). -/
def Chip.freezeFc (c : Chip) (j : Nat) : Chip × Bool :=
  if !c.freezes then (c, false)
  else
    let keep (r : Fcast) (c : Chip) : Chip := c.blvUp fun b =>
      { b with fz := Assoc.set (fun _ => {}) (Assoc.from b.fz (j - 16)) j r, fc := Assoc.from b.fc (j + 1), frozen := j :: b.frozen.take 31 }
    match Assoc.get (fun _ => none) c.blv.fc j with
    | some r => (keep r c, false)
    | none => let r := c.fcFrozen (j - 1); ((keep r c).viewFc j r true, true)

/-- The record in the operand words of FCST (Table 8-4). -/
def fcastOf (ra rb : Nat) : Fcast :=
  { n := bits ra 23 12, dir := bit ra 24, neg := bit ra 25, tol := bits rb 31 24, iarm := toSigned 24 (bits rb 23 0) }

/-- A forecast record received (R107): late once its slot's record is frozen or its freeze has passed. -/
def Chip.fcstIn (c : Chip) (ra rb : Nat) : Chip :=
  let j := c.slotOfTag (ra % 4096)
  if c.blv.frozen.contains j || j ≤ c.slotNow + 1 then
    (c.bump BND_FCST_LATE).raiseHub ⟨4, 3, 2, BND_NSTAT_FCST_LATE⟩
  else
    let r := fcastOf ra rb
    let c := (c.blvUp fun b => { b with fc := Assoc.set (fun _ => none) (b.fc.filter fun x => x.1 % 8 != j % 8) j (some r) }).viewFc j r false
    c.record false 4 2 (c.reg (BLV_FCTAB (j % 8)) + c.reg (BLV_FCTAB (j % 8) + 8) * 2 ^ 32)

-- Measurement streams (R109 to R111)

/-- The KSPEC words, CLASS and SCORE of a frame that a hub block originates on one plane. -/
def Chip.hubHdr (c : Chip) (kind : Nat) (mc : Bool) (planes dst plen k4 k5 seq : Nat) : List Word :=
  mkHdr kind true mc planes (c.fld GTH_GCTL_TTL_INIT) dst (c.fld GTH_GSTAT_NODE_ID) 0xF 0 0 false seq plen k4 k5

/-- The 12 bytes of a forwarded sample (Table 8-3). -/
def measBytes (sample : Int) (seq tag : Nat) (ovr inv : Bool) (lane node : Nat) : List Byte :=
  bytesLE 4 (wrapNat 24 sample * 2 ^ 8 + seq) ++ bytesLE 4 (tag + b2n ovr * 2 ^ 12 + b2n inv * 2 ^ 13 + lane * 2 ^ 16) ++ bytesLE 4 node

/-- The sample of a MEAS block, negated where IPOL is 1; the negation of the most negative sample is a free value. -/
def Chip.measSample (c : Chip) (m w : Nat) : Int × Chip :=
  let s := toSigned 24 (bits w 55 32)
  if !c.flag (BLV_MIN_CTL_IPOL m) then (s, c)
  else if s == -8388608 then (toSigned 24 c.draw.1, c.draw.2)
  else (-s, c)

/-- A MEAS block on measurement lane `n` (R109): stamped, assigned to a slot, and sent to the group on both planes. -/
def Chip.measBlock (c : Chip) (n : Nat) (w : DWord) : Chip :=
  c.rxSeen n w fun c =>
    if !c.flag (LN_LCTL_MEAS (laneBase n)) then c.bump (LN_UNK_CNT (laneBase n))
    else
      c.forEach ((List.range 4).filter fun m => c.flag (BLV_MIN_CTL_EN m) && c.fld (BLV_MIN_CTL_LANE m) == n) fun m c =>
        let v := w.toNat
        let seq := bits v 31 24
        let c := c.when (match Assoc.get (fun _ => none) c.blv.mseq m with
          | some p => seq != (p + 1) % 256
          | none => false) (·.bump BLV_MEAS_SEQ)
        let c := c.blvUp fun b => { b with mseq := Assoc.set (fun _ => none) b.mseq m (some seq) }
        let d := 2 + c.fld SDL_SCTL_ARM_BASE
        let tag := c.hubSlotOf (c.accAtTick d (c.tick - c.fld (BLV_MIN_DLY_DLY m))) % 4096
        let r := c.measSample m v
        let c := r.2
        let pay := measBytes r.1 seq tag (bit v 23) (bit v 22) n (c.fld GTH_GSTAT_NODE_ID)
        c.originate [0, 1] (fun q => c.hubHdr 0x1B true 3 (c.fld (BLV_MIN_CTL_GRP m)) pay.length 0 0 q) [] pay (some n)

/-- The source that a sample comes from (R110). -/
def Chip.measSource (c : Chip) (node lane : Nat) : Option Nat :=
  [0, 1].find? fun i => c.flag (BLV_MSRC_EN i) && c.fld (BLV_MSRC_NODE i) == node && c.fld (BLV_MSRC_LANE i) == lane

/-- One of a pair changed. -/
def mapSide {α : Type} (i : Nat) (f : α → α) (x : α × α) : α × α := if i == 0 then (f x.1, x.2) else (x.1, f x.2)
def sideOf {α : Type} (i : Nat) (x : α × α) : α := if i == 0 then x.1 else x.2

/-- A sample received from the fabric on the plane that RXPLANE names (R109, R110). -/
def Chip.measIn (c : Chip) (plane : Nat) (pay : List Byte) : Chip :=
  let w0 := natLE (pay.take 4)
  let w1 := natLE ((pay.drop 4).take 4)
  let node := bits (natLE ((pay.drop 8).take 4)) 9 0
  if plane != c.fld BND_NCTL_RXPLANE then c
  else
    match c.measSource node (bits w1 23 16) with
    | none => c
    | some i =>
      let t := c.slotOfTag (bits w1 11 0)
      if c.blv.formed.any fun f => t ≤ f then c.bump BLV_MEAS_LATE
      else
        let s : Samp := Assoc.get (fun _ => {}) c.blv.ms t
        let full := 255 ≤ s.rx
        let bad := bit w1 12 || bit w1 13
        let s := { s with rx := s.rx + 1 }
        let s := if full || bad then s
          else { s with n := mapSide i (· + 1) s.n, sum := mapSide i (· + toSigned 24 (bits w0 31 8)) s.sum }
        let c := c.blvUp fun b => { b with ms := Assoc.set (fun _ => {}) b.ms t s }
        if full then c.bump BLV_MEAS_OVF else if bad then c.bump BLV_MEAS_BAD else c.record false 3 i (w0 + w1 * 2 ^ 32)

/-- The measured current of a slot, if it has a usable sample (R110). -/
def Chip.measMean (c : Chip) (t : Nat) : Option Int :=
  let s : Samp := Assoc.get (fun _ => {}) c.blv.ms t
  let mean (i : Nat) : Option Int := if sideOf i s.n == 0 then none else some (sideOf i s.sum / ((sideOf i s.n : Nat) : Int))
  match c.fld BLV_MEASCFG_MSEL with
  | 1 => mean 1
  | 2 => match mean 0, mean 1 with
    | some a, some b => some ((a + b) / 2)
    | some a, none => some a
    | none, x => x
  | _ => mean 0

/-- The current used for slot `t` (R110, R111), and whether MEAS_LOST is due. -/
def Chip.formCurrent (c : Chip) (t : Nat) : Int × Bool × Chip :=
  let m := c.measMean t
  let c := c.blvUp fun b => { b with ms := Assoc.from b.ms (t + 1), formed := some t }
  match m with
  | some i => (i, false, (c.clrFlag BLV_BSTAT_MEAS_LOST).blvUp fun b => { b with gaps := 0 })
  | none =>
    let g := c.blv.gaps + 1
    let c := (c.bump BLV_MEAS_GAP).blvUp fun b => { b with gaps := g }
    ((c.fcFrozen t).iarm, Nat.max (c.fld BLV_MEASCFG_MEAS_TO) 1 ≤ g && !c.flag BLV_BSTAT_MEAS_LOST, c)

-- The settled advance (R103)

/-- The observers advanced through slot `t`; the result is the history entry of slot `t` + 1. Each is read and written back with
its check bits: the worst error found is 1 single-bit, 2 double-bit (R316, Table 5-7). -/
def Chip.advance (c : Chip) (t : Nat) (i : Int) (ts : Nat) : Nat × Chip :=
  c.obsLanes.foldl (fun (x : Nat × Chip) l =>
    let c := x.2
    let ecc := eccKind (Assoc.get (fun _ => 0) c.hubEcc (BLV_OBSV l))
    let q := c.modelQ l 17 t
    let v := c.advEst (c.vhat l) q i ts
    let c := (c.setReg (BLV_OBSV l) v).eccHubWrite 1 (BLV_OBSV l) 8
    let c := c.obsUp l fun o => { o with
      q := Assoc.set (fun _ => none) (Assoc.from o.q (t - 8)) t (some q)
      hist := Assoc.set (fun _ => none) (Assoc.from o.hist (t - 14)) (t + 1) (some v) }
    (Nat.max x.1 ecc, c)) (0, c)

/-- A double-bit error: the cells of the hub are unranked until their observers are seeded again. -/
def Chip.obsEccF (c : Chip) : Chip := c.forEach c.obsLanes fun l c => c.obsUp l fun o => { o with bad := true, seed := true }

-- Reports (R104, R105)

/-- A lane has been seeded: RESEED waits for it no longer. -/
def Chip.reseedDone (c : Chip) (l : Nat) : Chip :=
  match c.blv.reseed with
  | none => c
  | some (tag, ls) =>
    let ls := ls.filter (· != l)
    (c.blvUp fun b => { b with reseed := if ls.isEmpty then none else some (tag, ls) }).when ls.isEmpty (·.clrFlag BLV_BSTAT_RESEED_PEND)

/-- A report applied (R104, R105): δ goes to the estimate and the later history, or the estimate is seeded. -/
def Chip.applyReport (c : Chip) (l : Nat) (r : Rep) : Chip :=
  let o := c.obs l
  let e : Int := (r.vcap * 2 ^ 16 : Nat) - (c.histAt l r.slot : Int)
  let re := match c.blv.reseed with
    | some (tag, ls) => ls.contains l && 0 ≤ toSigned 12 (wrapNat 12 ((r.slot % 4096 : Nat) - (tag : Int)))
    | none => false
  let seed := o.seed || !o.ranked || re
  let d := (c.fld BLV_OBSCFG_ALPHA : Int) * e / 2 ^ 16
  let v := if seed then r.vcap * 2 ^ 16 else satEst (c.vhat l + d)
  let c := c.setWords (BLV_OBSV l) [v]
  let c := c.setReg (BLV_OBSV l + 8) (r.vcap + r.slot % 4096 * 2 ^ 16 + (if seed then 2 ^ 28 else bits (c.reg (BLV_OBSV l + 8)) 28 28 * 2 ^ 28))
  let c := c.obsUp l fun o => { o with
    hist := o.hist.map fun x => if r.slot < x.1 then (x.1, x.2.map fun h => satEst (h + d)) else x
    info := some r, applied := c.blv.cur, miss := false, seed := false, bad := if seed then false else o.bad }
  c.when re (·.reseedDone l)

/-- Reports in order of their slots. -/
def insertRep (r : Rep) : List Rep → List Rep
  | [] => [r]
  | x :: xs => if r.slot < x.slot then r :: x :: xs else x :: insertRep r xs

/-- The reports of a lane that wait are applied; `newest` is the slot of the newest history entry. -/
def Chip.applyWaiting (c : Chip) (newest l : Nat) : Chip :=
  let o := c.obs l
  let rs := (o.queue ++ o.kept.toList).foldr insertRep []
  let c := c.obsUp l fun o => { o with queue := [], kept := none }
  c.forEach rs fun r c =>
    if r.slot + 15 < newest then c.bump BLV_REP_OLD
    else if newest < r.slot then
      (c.when (c.obs l).kept.isSome (·.bump BLV_REP_OLD)).obsUp l fun o => { o with kept := some r }
    else c.applyReport l r

/-- A REPORT received on lane `l`: kept for the next settled advance; a second one for a tag is a duplicate (R104). -/
def Chip.reportIn (c : Chip) (l : Nat) (w : DWord) : Chip :=
  c.rxSeen l w fun c =>
    if c.flag (LN_LCTL_MEAS (laneBase l)) then c.bump (LN_UNK_CNT (laneBase l))
    else if !c.flag BLV_BCTL_EN then c
    else
      let n := c.slotOfTag (wbits w 55 44)
      if (c.obs l).seen.contains n then c.bump BLV_REP_DUP
      else
        let r : Rep := { slot := n, vcap := wbits w 43 28, tj := wbits w 27 20, state := wbits w 19 17, supp := wbits w 16 16 == 1,
                         fb := wbits w 15 15 == 1 }
        c.obsUp l fun o => { o with queue := o.queue ++ [r], seen := (n :: o.seen).take 64 }

/-- RESEED: every observer of the arm's lanes waits for its first report at or after RS_TAG (R105). -/
def Chip.reseed (c : Chip) : Chip :=
  let ls := c.armLanes
  (c.blvUp fun b => { b with reseed := if ls.isEmpty then none else some (c.fld BLV_RSEED_RS_TAG, ls) }).setFld BLV_BSTAT_RESEED_PEND
    (b2n !ls.isEmpty)

/-- A write of BCTL: setting EN seeds every observer, clearing it ends the running plans (R105, R130). -/
def Chip.bctlWrite (c : Chip) (w : Nat) : Chip :=
  let old := c.flag BLV_BCTL_EN
  let c := c.plainWrite BLV_BCTL w
  let c := c.when (!old && bit w 0) fun c => c.forEach c.obsLanes fun l c => c.obsUp l fun o => { o with seed := true }
  c.when (old && !bit w 0) fun c => c.blvUp fun b => { b with runs := [], merges := [] }

/-- A write of the hub's SLOTS or SLOT_ORG sets the slot grid (R69). -/
def Chip.gridWrite (c : Chip) (a w : Nat) : Chip :=
  let old := c.reg a
  let c := c.plainWrite a w
  c.when (old != c.reg a) (·.regrid)

-- Ranking and prediction (R106, R112)

/-- The cell is ranked, but for the age of its reports (R112). -/
def Chip.rankable (c : Chip) (l : Nat) : Bool :=
  let o := c.obs l
  c.rankEn l && c.flag (LN_LSTAT_LOCK (laneBase l)) && !o.bad && o.info.any fun (i : Rep) => !i.supp && i.state != 0 && i.state != 1

/-- A report has been applied within the last REP_TO slots. -/
def Chip.fresh (c : Chip) (l : Nat) : Bool := c.blv.cur < (c.obs l).applied + Nat.max (c.fld BLV_OBSCFG_REP_TO) 1

/-- The key base of a cell at slot `k`, with `s` the insertion sign of slot `k` - 1 and `ts` the length of slot `k` - 3 (R106). -/
def Chip.predict (c : Chip) (l k : Nat) (s : Int) (ts : Nat) : Nat :=
  let step (v j : Nat) (q : Int) : Nat := c.advEst v q (c.fcFrozen j).iarm ts
  let v := step (c.histAt l (k - 3)) (k - 3) (c.modelQ l 17 (k - 3))
  let v := step v (k - 2) (c.modelQ l 17 (k - 2))
  let v := step v (k - 1) (16384 * s)
  Nat.min ((v + 0x8000) / 2 ^ 16) 0xFFFF

-- The commands

def execReport (n : Fin 192) (w : DWord) (s : State) : Host.Outcome State Fault Refusal := .next (s.on fun c => c.reportIn n w)
/-- An EVENT reaches the hub: it is checked; no register of the hub holds it (R78, R81). -/
def execEvent (n : Fin 192) (w : DWord) (s : State) : Host.Outcome State Fault Refusal :=
  .next (s.on fun c => c.rxSeen n w fun c => c.when (c.flag (LN_LCTL_MEAS (laneBase n))) (·.bump (LN_UNK_CNT (laneBase n))))
def execMeas (n : Fin 192) (w : DWord) (s : State) : Host.Outcome State Fault Refusal := .next (s.on fun c => c.measBlock n w)
def execReseed (w : Word) (s : State) : Host.Outcome State Fault Refusal := .next (s.on fun c => c.when (bit w.toNat 0) (·.reseed))
def execBlvEn (w : Word) (s : State) : Host.Outcome State Fault Refusal := .next (s.on fun c => c.bctlWrite w.toNat)

end Sys2Proof.Machine
end

