-- ==== Sys2Proof/Machine/Faults.lean ====
section
/-!
DEFINITION. The registers of FLT and CFL that commands write: acknowledgement, release of latches, standing-order entries,
injection of check bits, FAULT_N, and the LOG message of a cell (R305 to R319).
-/
namespace Sys2Proof.Machine

-- Injection of check bits (R316)

/-- The memories of R316. -/
def injMemOk (p : Part) (m : Nat) : Bool :=
  match p with
  | .hub => m ≤ 2 || (16 ≤ m && m < 48)
  | .cell => m ≤ 3

/-- A write of INJ: an undefined MEM is refused, MODE 3 is written as 0 (R316). -/
def Chip.injWrite (c : Chip) (p : Part) (w : Nat) : Chip :=
  let w' := if bits w 9 8 == 3 then insertBits w 9 8 0 else w
  match p with
  | .hub => if injMemOk p (bits w 7 0) then c.plainWrite FLT_INJ w' else c.raiseFlag FLT_FSTAT_REFUSED
  | .cell => if injMemOk p (bits w 7 0) then c.plainWrite CFL_INJ w' else c.raiseFlag CFL_FSTAT_REFUSED

-- FAULT_N (R312)

/-- FAULT_N driven or released. -/
def Chip.driveFaultN (c : Chip) (p : Part) (v : Nat) : Chip :=
  match p with
  | .hub => (c.setFld FLT_FSTAT_FN_DRIVE v).setFld FLT_FSTAT_FN_PIN v
  | .cell => (c.setFld CFL_FSTAT_FN_DRIVE v).setFld CFL_FSTAT_FN_PIN v

/-- The end of a FAULT_N pulse, FN_WIDTH us after the latest reaction: the pin takes the level of FN_SW. -/
def Chip.faultNEnd (c : Chip) (p : Part) : Chip :=
  match p with
  | .hub =>
    c.when (c.flag FLT_FSTAT_FN_PULSE && c.fnEndHub ≤ c.time) fun c => (c.clrFlag FLT_FSTAT_FN_PULSE).driveFaultN .hub (c.fld FLT_FCTL_FN_SW)
  | .cell =>
    c.when (c.flag CFL_FSTAT_FN_PULSE && c.fnEndCell ≤ c.time) fun c => (c.clrFlag CFL_FSTAT_FN_PULSE).driveFaultN .cell (c.fld CFL_FCTL_FN_SW)

/-- A write of FCTL: FN_SW sets the pin at once, or at the end of a pulse in progress. -/
def Chip.fctlWrite (c : Chip) (p : Part) (w : Nat) : Chip :=
  match p with
  | .hub =>
    let c := c.plainWrite FLT_FCTL w
    c.when (!c.flag FLT_FSTAT_FN_PULSE) (·.driveFaultN .hub (c.fld FLT_FCTL_FN_SW))
  | .cell =>
    let c := c.plainWrite CFL_FCTL w
    c.when (!c.flag CFL_FSTAT_FN_PULSE) (·.driveFaultN .cell (c.fld CFL_FCTL_FN_SW))

/-- Another device asserts FAULT_N for at least 20 ns: seen only while this device does not drive the pin. -/
def Chip.faultNIn (c : Chip) (p : Part) : Chip :=
  match p with
  | .hub => if c.flag FLT_FSTAT_FN_DRIVE then c else c.raiseHub ⟨9, 0, 2, noFlag FLT_FSTAT⟩
  | .cell => if c.flag CFL_FSTAT_FN_DRIVE then c else c.raiseCell ⟨6, 0, 2, noFlag CFL_FSTAT⟩

-- Acknowledgement and release (R305, R309)

/-- A write of CSTATE: pending bits written 1 clear with their IRQ bits. -/
def ackWord (v w : Nat) : Nat := v &&& (0x77 - ((w % 8) ||| (w % 8 * 16)))

def Chip.cstateWrite (c : Chip) (p : Part) (b i w : Nat) : Chip :=
  match p with
  | .hub => c.setReg (FLT_CSTATE b i) (ackWord (c.reg (FLT_CSTATE b i)) w)
  | .cell => if 12 < b then c else c.setReg (CFL_CSTATE b) (ackWord (c.reg (CFL_CSTATE b)) w)

/-- PEND_K or PEND_F of a cell block is set. -/
def Chip.pendKF (c : Chip) (b : Nat) : Bool := bits (c.reg (CFL_CSTATE b)) 2 1 != 0

/-- Some block of a set, given as a bit mask, has K or F pending. -/
def Chip.anyPend (c : Chip) (mask : Nat) : Bool := (List.range 13).any fun b => bit mask b && c.pendKF b

/-- PEND_K or PEND_F of hub block `b` is set in some instance. -/
def Chip.hubPendKF (c : Chip) (b : Nat) : Bool :=
  c.regs.any fun x => FLT_CSTATE b 0 ≤ x.1 && x.1 ≤ FLT_CSTATE b 255 && bits x.2.toNat 2 1 != 0

/-- RELEASE at the cell: each latch clears whose ordering blocks have no K or F pending. -/
def Chip.releaseCell (c : Chip) : Chip :=
  let stay (c : Chip) (f : Bool) (by_ : Nat) : Bool := f && c.anyPend (c.reg by_)
  let blk := stay c (c.flag CFL_REACT_BLK) CFL_BLK_BY
  let hld := stay c (c.flag CFL_REACT_HLD) CFL_HLD_BY
  let sil := stay c (c.flag CFL_REACT_SIL_A || c.flag CFL_REACT_SIL_B) CFL_SIL_BY
  let c := c.when (!blk) fun c => (c.clrFlag CFL_REACT_BLK).setReg CFL_BLK_BY 0
  let c := c.when (!hld) fun c => (c.clrFlag CFL_REACT_HLD).setReg CFL_HLD_BY 0
  let c := c.when (!sil) fun c => ((c.clrFlag CFL_REACT_SIL_A).clrFlag CFL_REACT_SIL_B).setReg CFL_SIL_BY 0
  (c.setState c.cellState).when (blk || hld || sil) (·.raiseFlag CFL_FSTAT_REFUSED)

/-- RELEASE at the hub: every silence ends, or the command is refused. -/
def Chip.releaseHub (c : Chip) : Chip :=
  if (List.range 16).any fun b => bit (c.reg FLT_SILBY) b && c.hubPendKF b then c.raiseFlag FLT_FSTAT_REFUSED
  else ((c.setWords FLT_SILENCED (List.replicate 6 0)).setReg FLT_FSIL 0).setReg FLT_SILBY 0

def Chip.release (c : Chip) (p : Part) : Chip :=
  match p with
  | .hub => c.releaseHub
  | .cell => c.releaseCell

-- Standing orders (R306, R307)

/-- Some class field of an entry holds a bit of `mask`. -/
def entryHas (w mask : Nat) : Bool := (w &&& (mask * 0x010101)) != 0

/-- A write of a standing-order entry. Hub entries take no BLOCK, BYPASS or HOLD; FLT and CFL entries no REPORT_UP; TAKE stands
only in FLT. -/
def Chip.entryWrite (c : Chip) (p : Part) (b s w : Nat) : Chip :=
  match p with
  | .hub =>
    if entryHas w 0x1C || (b == 9 && entryHas w 0x40) || (b != 9 && entryHas w 0x80) then c.raiseFlag FLT_FSTAT_REFUSED
    else (c.plainWrite (FLT_ENTRY b s) w).eccHubWrite 2 (FLT_ENTRY b s) 7
  | .cell =>
    if 12 < b then c
    else if (b == 6 && entryHas w 0x40) || entryHas w 0x80 then c.raiseFlag CFL_FSTAT_REFUSED
    else (c.plainWrite (CFL_ENTRY b s) w).eccCellWrite 3 (CFL_ENTRY b s)

/-- A write of TKCTL: a 1 in ARMED clears DONE (R313). -/
def Chip.tkctlWrite (c : Chip) (w : Nat) : Chip := (c.plainWrite FLT_TKCTL w).when (bit w 0) (·.clrFlag FLT_TKCTL_DONE)

/-- TKLIST entry `j` written whole: refused when its offset is out of range or misaligned (R313). -/
def Chip.tklistApply (c : Chip) (j off val : Nat) : Chip :=
  if 0x1000000 ≤ off || off % 4 != 0 then c.raiseFlag FLT_FSTAT_REFUSED
  else c.setWords (FLT_TKLIST j) [off, val]

-- The FAULT lines (R308)

/-- The FAULT line of Kiosk `k`: some IRQ bit routed to it is set. -/
def Chip.faultLineHub (c : Chip) (k : Nat) : Bool :=
  (List.range 16).any fun b => bit (c.fld (FLT_IRQDST_CORES b)) k &&
    c.regs.any fun x => FLT_CSTATE b 0 ≤ x.1 && x.1 ≤ FLT_CSTATE b 255 && bits x.2.toNat 6 4 != 0

/-- The FAULT line of the Shed core. -/
def Chip.faultLineCell (c : Chip) : Bool := (List.range 13).any fun b => bits (c.reg (CFL_CSTATE b)) 6 4 != 0

-- Messages (R211, R315)

/-- The 16 bytes of log entry `i` of cell block `b`, word by word. -/
def Chip.cellLogBytes (c : Chip) (b i : Nat) : List Byte := bytesLE 16 (Assoc.get (fun _ => 0) c.cellLog (256 * b + i)).toNat

/-- LOGCMD SEND: the first COUNT unread entries of block BLK in one LOG message on a lane, and RD_IDX past them. With no unread
entry nothing is sent. -/
def Chip.logSend (c : Chip) (l w : Nat) : Chip :=
  let b := bits w 3 0
  let rd := c.fld (CFL_LOGCTL_RD_IDX b)
  let unread := (c.fld (CFL_LOGCTL_WR_IDX b) + 256 - rd) % 256
  let n := Nat.min (Nat.min (Nat.max (bits w 23 16) 1) 128) unread
  if 12 < b || n == 0 then c
  else
    let d := c.draw
    let m := mkMsg 5 d.1 ((List.range n).flatMap fun i => c.cellLogBytes b ((rd + i) % 256))
    (d.2.queueMsg l m).setFld (CFL_LOGCTL_RD_IDX b) ((rd + n) % 256)

/-- The lane on which a LOG message ordered by a requester goes. -/
def Chip.logLane (c : Chip) (r : Requester) : Nat :=
  match r with
  | .laneCtl l => cellLaneNum l
  | _ => if c.activeB then 205 else 204

-- The commands

def execFaultNPulseEnd (p : Part) (s : State) : Host.Outcome State Fault Refusal := .next (s.on fun c => c.faultNEnd p)
def execFaultnIn (p : Part) (s : State) : Host.Outcome State Fault Refusal := .next (s.on fun c => c.faultNIn p)
def execRelease (p : Part) (s : State) : Host.Outcome State Fault Refusal := .next (s.on fun c => c.release p)
def execCstateWrite (p : Part) (b : Fin 16) (i : Byte) (w : Word) (s : State) : Host.Outcome State Fault Refusal :=
  .next (s.on fun c => c.cstateWrite p b i.toNat w.toNat)
def execEntryWrite (p : Part) (b : Fin 16) (x : Fin 32) (w : Word) (s : State) : Host.Outcome State Fault Refusal :=
  .next (s.on fun c => c.entryWrite p b x w.toNat)
def execLogcmdSend (r : Requester) (w : Word) (s : State) : Host.Outcome State Fault Refusal :=
  .next (s.on fun c => c.logSend (c.logLane r) w.toNat)
def execInjWrite (p : Part) (w : Word) (s : State) : Host.Outcome State Fault Refusal :=
  .next (s.on fun c => c.injWrite p w.toNat)

end Sys2Proof.Machine
end

