-- ==== Sys2Proof/Machine/Operands.lean ====
section
/-!
DEFINITION. The operands of Ovmin instructions: general registers, pairs and immediates (R154, R156, R161, R164), and the special
registers as stored (R170).
-/
namespace Sys2Proof.Machine

/-- The number of a core: Kiosk k is k, the Shed core 16. -/
def coreNum : CoreId → Nat
  | .kiosk k => k
  | .shed => 16

/-- The core is the Shed core. -/
def isShed (k : Nat) : Bool := k == 16

/-- The address of a core's control block (R180, Table 7-13). -/
def coreBase (k : Nat) : Nat := if k < 16 then 0x2000000 + 0x10000 * k else 0x40000100

/-- A core's general register; g0 reads zero (R154). -/
def Chip.g (c : Chip) (k n : Nat) : Word := if n = 0 then 0 else Assoc.get (fun _ => 0) (c.core k).g n

/-- A general register written; a write to g0 is discarded (R154). -/
def Chip.setG (c : Chip) (k n : Nat) (v : Word) : Chip :=
  if n = 0 then c else c.coreUp k fun x => { x with g := Assoc.set (fun _ => 0) x.g n v }

/-- A pair, named by its even register; g0 reads as a 64-bit zero (R156). -/
def Chip.pair (c : Chip) (k n : Nat) : DWord := if n = 0 then 0 else c.g k (n + 1) ++ c.g k n

/-- A pair written; pair g0 is discarded whole (R156). -/
def Chip.setPair (c : Chip) (k n : Nat) (v : DWord) : Chip :=
  if n = 0 then c else (c.setG k n (v.truncate 32)).setG k (n + 1) ((v >>> 32).truncate 32)

/-- A 16-bit immediate, sign-extended and zero-extended. -/
def simm (i : BitVec 16) : Word := i.signExtend 32
def zimm (i : BitVec 16) : Word := i.zeroExtend 32

/-- The effective address of a load or store (R164). -/
def Chip.ea (c : Chip) (k ra : Nat) (i : BitVec 16) : Nat := (c.g k ra + simm i).toNat

/-- The program counter, which KPC holds. -/
def Chip.pc (c : Chip) (k : Nat) : Nat := c.reg (KS_KPC (coreBase k))
def Chip.setPc (c : Chip) (k v : Nat) : Chip := c.setReg (KS_KPC (coreBase k)) v

/-- IE, PIE and EXL of STATUS. -/
def Chip.ie (c : Chip) (k : Nat) : Bool := bit (c.sr k 0) 0
def Chip.pie (c : Chip) (k : Nat) : Bool := bit (c.sr k 0) 1
def Chip.exl (c : Chip) (k : Nat) : Bool := bit (c.sr k 0) 2
def Chip.setStatus (c : Chip) (k : Nat) (ie pie exl : Bool) : Chip := c.setSr k 0 (b2n ie + b2n pie * 2 + b2n exl * 4)

/-- The core's clock cycles: the hub's ticks for a Kiosk, the cell's for the Shed core. -/
def Chip.clock (c : Chip) (k : Nat) : Nat := if isShed k then c.ctick else c.tick

/-- CYCLE, a 64-bit count (Table 7-9). -/
def Chip.cycles (c : Chip) (k : Nat) : Nat := (c.clock k - (c.core k).cycBase) % 2 ^ 64

end Sys2Proof.Machine
end

