-- ==== Sys2Proof/Machine/CoreOps.lean ====
section
/-!
DEFINITION. A core's control: issue, the next address with the hardware loops, exceptions, rollback of a speculative region,
interrupt lines, halts and resets (R168, R169, R173 to R180, R199).
-/
namespace Sys2Proof.Machine

-- KSTAT and halts

/-- A field of a core's KSTAT. -/
def Chip.setKstat (c : Chip) (k : Nat) (f : Nat → Fld) (v : Nat) : Chip := c.setFld (f (coreBase k)) v

/-- KSTAT as it reads: EXL and SPEC follow the core. -/
def Chip.kstatWord (c : Chip) (k : Nat) : Nat :=
  let v := c.reg (KS_KSTAT (coreBase k))
  insertBits (insertBits v 3 3 (b2n (c.exl k))) 4 4 (b2n (c.core k).spec.isSome)

/-- A fault of a core (Table 7-14): Kiosk k is instance k of block 15, the Shed core is cell block 12. -/
def Chip.raiseCore (c : Chip) (k n cls : Nat) (f : Fld) : Chip :=
  if isShed k then c.raiseCell ⟨12, n, cls, f⟩ else c.raiseHub ⟨15, n, cls, f⟩ k

/-- The core stops: HALT_WHY 1 request, 2 step, 3 EBREAK, 4 double fault, 5 RUN = 0. A debug halt of the Shed core freezes the
firing path (R147). -/
def Chip.stopCore (c : Chip) (k why : Nat) : Chip :=
  let b := coreBase k
  let c := ((((c.setFld (KS_KSTAT_HALT_WHY b) why).raiseFlag (KS_KSTAT_HALTED b)).clrFlag (KS_KSTAT_RUNNING b)).clrFlag
    (KS_KSTAT_WFI b)).coreUp k fun x => { x with stepping := false, haltReq := false, holdReq := false, brk := false }
  c.when (isShed k && why ≤ 3 && !c.flag PWM_PSTAT_HALTED) (·.freeze)

/-- A core of a part that its TAP has stopped (R383). -/
def Chip.coreStopped (c : Chip) (k : Nat) : Bool := if isShed k then c.sys.stopCell else c.sys.stopHub

/-- The core runs from KPC. -/
def Chip.startCore (c : Chip) (k : Nat) : Chip :=
  let b := coreBase k
  if c.coreStopped k then c
  else ((c.setFld (KS_KSTAT_HALT_WHY b) 0).clrFlag (KS_KSTAT_HALTED b)).raiseFlag (KS_KSTAT_RUNNING b)

def Chip.running (c : Chip) (k : Nat) : Bool := c.flag (KS_KSTAT_RUNNING (coreBase k))
def Chip.parked (c : Chip) (k : Nat) : Bool := c.flag (KS_KSTAT_WFI (coreBase k))

-- Rollback (R199, Table 8-5)

/-- The open region rolls back with a cause, and an exception code for cause 0x23. -/
def Chip.rollback (c : Chip) (k cause code : Nat) : Chip :=
  match (c.core k).spec with
  | none => c
  | some s =>
    let rec_ := c.sr k 0x21
    let c := c.coreUp k fun x => { x with g := s.g, spec := none, wait := none }
    let c := c.setSr k 8 s.fsr
    let c := c.when (bit s.loops 0) (·.setSr k 0x12 0)
    let c := c.when (bit s.loops 1) (·.setSr k 0x15 0)
    let c := c.setG k s.rd (BitVec.ofNat 32 cause)
    let c := c.setSr k 0x20 (cause + code * 2 ^ 8 + s.porch.length * 2 ^ 16)
    let c := c.setSr k 0x24 (Nat.min (c.sr k 0x24 + 1) 0xFFFFFFFF)
    c.setPc k rec_

-- Exceptions (R173, R174, R200)

/-- Entry to a handler: what R173 saves, then the vector at `off` from VBASE. -/
def Chip.enterHandler (c : Chip) (k epc cause off : Nat) : Chip :=
  let c := (c.setSr k 2 epc).setSr k 3 cause
  let c := c.setStatus k false (c.ie k) true
  (c.coreUp k fun x => { x with wait := none }).setPc k (c.sr k 1 + off)

/-- Taking an exception of code `code`: EPC, BADADDR for address faults, and CAUSE with its argument. Inside a region the region
rolls back instead; while EXL is 1 it is a double fault. -/
def Chip.takeExc (c : Chip) (k code epc : Nat) (bad : Option Nat) (arg : Nat) : Chip :=
  if (c.core k).spec.isSome then c.rollback k 0x23 code
  else if c.exl k then
    let b := coreBase k
    ((c.stopCore k 4).setFld (KS_KSTAT_DCAUSE b) code).raiseCore k 2 3 (KS_KSTAT_DOUBLE b)
  else
    let c := match bad with
      | some a => c.setSr k 4 a
      | none => c
    c.enterHandler k epc (code + arg * 2 ^ 16) 0

/-- An exception of the instruction at the program counter. -/
def Chip.exc (c : Chip) (k code : Nat) : Chip := c.takeExc k code (c.pc k) none 0
def Chip.excAddr (c : Chip) (k code a : Nat) : Chip := c.takeExc k code (c.pc k) (some a) 0
def Chip.illegal (c : Chip) (k : Nat) : Chip := c.exc k 1

/-- The return from an exception (RETE): PC takes EPC, IE takes PIE, EXL clears. -/
def Chip.leaveHandler (c : Chip) (k : Nat) : Chip := (c.setStatus k (c.pie k) (c.pie k) false).setPc k (c.sr k 2)

-- The next instruction (R167, R169)

/-- An instruction may be fetched from this address (R157, R158). -/
def fetchOk (k a : Nat) : Bool :=
  a % 4 == 0 && if isShed k then a < 0x40000 || (0x20000000 ≤ a && a < 0x20008000) else a < 0x10000

/-- Control goes to `t`: a target outside instruction memory raises ACCESS_FETCH with EPC and BADADDR at the target (R167). -/
def Chip.goto (c : Chip) (k t : Nat) : Chip := if fetchOk k t then c.setPc k t else c.takeExc k 6 t (some t) 0

/-- One loop level at address `p`: the count after it, and whether control loops back (R169). -/
def Chip.loopBack (c : Chip) (k p lc le : Nat) : Bool × Chip :=
  if c.sr k lc != 0 && c.sr k le == p then
    let c := c.setSr k lc (c.sr k lc - 1)
    (c.sr k lc != 0, c)
  else (false, c)

/-- The instruction completes without a branch, jump or exception. -/
def Chip.seq (c : Chip) (k : Nat) : Chip :=
  let p := c.pc k
  let r1 := c.loopBack k p 0x15 0x14
  if r1.1 then r1.2.setPc k (c.sr k 0x13)
  else
    let r0 := r1.2.loopBack k p 0x12 0x11
    if r0.1 then r0.2.setPc k (c.sr k 0x10) else r0.2.setPc k (p + 4)

-- Check bits of the core memories (R175)

/-- The check bits of the word of core memory that holds address `a`, in the hub or in the cell, examined: 0 no error; 1 corrected, 2 not
correctable, each counted and raised. -/
def Chip.eccWord (c : Chip) (cell : Bool) (a : Nat) : Nat × Chip :=
  let w := a / 4 * 4
  let k := if cell then 16 else (a - 0x10000000) / 0x40000
  match eccKind (Assoc.get (fun _ => 0) (if cell then c.cellEcc else c.hubEcc) w) with
  | 0 => (0, c)
  | 1 =>
    let c := if cell then { c with cellEcc := Assoc.set (fun _ => 0) c.cellEcc w 0 }
      else { c with hubEcc := Assoc.set (fun _ => 0) c.hubEcc w 0 }
    (1, (c.bump (KS_KECC_C (coreBase k))).raiseCore k 0 1 (noFlag (KS_KSTAT (coreBase k))))
  | _ => (2, (c.bump (KS_KECC_D (coreBase k))).raiseCore k 1 2 (noFlag (KS_KSTAT (coreBase k))))

/-- The address, in the hub or the cell, of the instruction memory word at program counter `a`. -/
def fetchAddr (k a : Nat) : Nat := if isShed k then a else 0x10000000 + 0x40000 * k + a

-- Issue

/-- The core issues instructions: it runs or steps, is not parked, waits for nothing, and no stop is due at this boundary. -/
def Chip.issuing (c : Chip) (k : Nat) : Bool :=
  let x := c.core k
  x.wait.isNone && (x.stepping || (c.running k && !c.parked k && !x.holdReq && !(x.haltReq && x.spec.isNone)))

/-- The boundary after an instruction that has completed: a step halts again, and a stop that waited for an instruction in flight is carried out
(R179). -/
def Chip.boundary (c : Chip) (k : Nat) : Chip :=
  let x := c.core k
  if x.wait.isSome || c.parked k then c
  else if x.stepping then (if c.running k || c.flag (KS_KSTAT_HALTED (coreBase k)) then c.stopCore k 2 else c)
  else if x.holdReq && c.running k then c.stopCore k 5
  else c

/-- The core issues one instruction at the program counter; nothing happens while it issues none. -/
def Chip.issue (c : Chip) (k : Nat) (f : Chip → Chip) : Chip :=
  if !c.issuing k then c
  else if !fetchOk k (c.pc k) then (c.takeExc k 6 (c.pc k) (some (c.pc k)) 0).boundary k
  else
    let e := c.eccWord (isShed k) (fetchAddr k (c.pc k))
    if e.1 == 2 then (e.2.exc k 7).boundary k else (f e.2).boundary k

/-- An instruction that the Shed core lacks raises ILLEGAL there (R181, R182). -/
def Chip.kioskOnly (c : Chip) (k : Nat) (f : Chip → Chip) : Chip := if isShed k then c.illegal k else f c

-- Interrupt lines (R176, Table 7-12)

/-- The level lines of a core. -/
def Chip.levelLines (c : Chip) (k : Nat) : Nat :=
  if isShed k then
    b2n (c.reg PWM_EVSTAT % 64 != 0) + b2n c.adcLine * 2 + b2n (Config.trlLine (BitVec.ofNat 32 (c.reg TRL_TSTAT))) * 4
      + b2n c.faultLineCell * 8 + b2n (c.flag CLN_MBX_RXL_FULL) * 16
  else
    b2n ([0, 1, 2, 3].any fun q => !(Assoc.get (fun _ => []) (c.core k).rxq q).isEmpty) * 4 + b2n (c.faultLineHub k) * 8

/-- IPEND: latched and level lines. -/
def Chip.ipend (c : Chip) (k : Nat) : Nat := c.sr k 6 ||| c.levelLines k

/-- The lowest line that is pending and enabled. -/
def Chip.dueLine (c : Chip) (k : Nat) : Option Nat :=
  (List.range 32).find? fun i => bit (c.ipend k) i && bit (c.sr k 5) i

/-- A SEND or MCST waits for transmit resources: an instruction in flight that is not interrupted (R176, R186, R187). -/
def Core.stalled (x : Core) : Bool :=
  match x.wait with
  | some (.send ..) => true
  | _ => false

/-- A line is taken at this boundary (R176): EPC at the first instruction not completed. -/
def Chip.interruptEntry (c : Chip) (k : Nat) : Chip :=
  let x := c.core k
  match c.dueLine k with
  | some i =>
    if c.running k && !c.parked k && !x.stepping && !x.stalled && c.ie k && !c.exl k && x.spec.isNone then
      (c.enterHandler k (c.pc k) (2 ^ 31 + i * 2 ^ 16) 0x100).boundary k
    else c
  | none => c

/-- TIMER (Table 7-12): FT, or the replica, has reached TCMP since TCMPH was written. -/
def Chip.timerFires (c : Chip) (k : Nat) : Chip :=
  let now := (if isShed k then c.cellFtNs else c.ftNs) % 2 ^ 64
  if (c.core k).tArmed && c.sr k 0x104 + c.sr k 0x105 * 2 ^ 32 ≤ now then
    (c.coreUp k fun x => { x with tArmed := false }).latchLine k (if isShed k then 6 else 1)
  else c

-- Debug control (R179, R180)

/-- A halt request: the Shed core's is subject to R146. -/
def Chip.haltRequest (c : Chip) (k : Nat) : Chip :=
  if isShed k && !c.haltAccepted then (c.bump PWM_HALT_REF_CNT).raiseFlag (KS_KSTAT_REFUSED (coreBase k))
  else if c.running k || (c.core k).stepping then c.coreUp k fun x => { x with haltReq := true }
  else c

/-- An accepted request stops the core at a boundary, outside a region and with nothing in flight. -/
def Chip.haltNow (c : Chip) (k : Nat) : Chip :=
  let x := c.core k
  if x.haltReq && x.wait.isNone && x.spec.isNone then c.stopCore k (if x.brk then 3 else 1) else c

/-- RESUME: a halted core continues at KPC; a halt of the Shed core ends under R148. -/
def Chip.resumeCore (c : Chip) (k : Nat) : Chip :=
  if c.flag (KS_KSTAT_HALTED (coreBase k)) && c.flag (KS_KCTL_RUN (coreBase k)) && !(c.core k).stepping then
    (c.startCore k).when (isShed k && c.flag PWM_PSTAT_HALTED && !c.coreStopped k) (·.unfreeze)
  else c

/-- STEP: a halted or held core executes one instruction and halts again. -/
def Chip.stepCore (c : Chip) (k : Nat) : Chip :=
  if c.flag (KS_KSTAT_HALTED (coreBase k)) && !c.coreStopped k then c.coreUp k fun x => { x with stepping := true } else c

/-- A write of RUN: 0 holds the core at a boundary, 0 to 1 runs it from KPC. -/
def Chip.setRun (c : Chip) (k : Nat) (v : Bool) : Chip :=
  let b := coreBase k
  let old := c.flag (KS_KCTL_RUN b)
  let c := c.setFld (KS_KCTL_RUN b) (b2n v)
  if old && !v then
    if !c.running k then c.setFld (KS_KSTAT_HALT_WHY b) 5
    else if (c.core k).wait.isSome then c.coreUp k fun x => { x with holdReq := true }
    else c.stopCore k 5
  else if !old && v then
    ((c.coreUp k fun x => { x with holdReq := false }).startCore k).when (isShed k && c.flag PWM_PSTAT_HALTED && !c.coreStopped k) (·.unfreeze)
  else c

/-- The queues of a core emptied and their buffers released. -/
def Chip.dropQueues (c : Chip) (k : Nat) : Chip :=
  let ms := [0, 1, 2, 3].flatMap fun q => Assoc.get (fun _ => []) (c.core k).rxq q
  (c.coreUp k fun x => { x with rxq := [] }).forEach ms fun m c => c.releaseBuf m.buf

/-- The general registers g1 to g31, and EPC, BADADDR and SCRATCH, take free values: a reset leaves them undefined (R155,
Table 7-9). -/
def Chip.undefRegs (c : Chip) (k : Nat) : Chip :=
  let c := c.forEach (List.range 31) fun i c => (c.draw.2).setG k (i + 1) (BitVec.ofNat 32 c.draw.1)
  c.forEach [2, 4, 7] fun n c => (c.draw.2).setSr k n c.draw.1

/-- A core reset: PC from KRST_PC, the special registers at their reset values, RUN 0, an open region discarded (Table 7-13,
R201). -/
def Chip.resetCore (c : Chip) (k : Nat) : Chip :=
  let b := coreBase k
  let c := ((c.dropQueues k).coreUp k fun _ => { cycBase := c.clock k }).undefRegs k
  (((c.setPc k (c.reg (KS_KRST_PC b))).clrFlag (KS_KCTL_RUN b)).stopCore k 5)

/-- A host write of KCTL (Table 7-13). -/
def Chip.kctlWrite (c : Chip) (k w : Nat) : Chip :=
  let c := c.setFld (KS_KCTL_DBGEN (coreBase k)) (b2n (bit w 4))
  if bit w 5 then c.resetCore k
  else
    let c := c.setRun k (bit w 0)
    let c := c.when (bit w 1) (·.haltRequest k)
    let c := c.when (bit w 3) (·.resumeCore k)
    c.when (bit w 2) (·.stepCore k)

/-- A write of KPC (`n` = 32) or KGREG `n`: ignored, with REFUSED set, while the core runs (R179). -/
def Chip.kpcWrite (c : Chip) (k n v : Nat) : Chip :=
  if c.running k then c.raiseFlag (KS_KSTAT_REFUSED (coreBase k))
  else if n = 32 then c.setPc k v
  else c.setG k n (BitVec.ofNat 32 v)

/-- A write of KDBELL: DOORBELL, which the Shed core has not (Table 7-12). -/
def Chip.doorbell (c : Chip) (k v : Nat) : Chip := (c.setReg (KS_KDBV (coreBase k)) v).when (!isShed k) (·.latchLine k 0)

-- Kiosk memories (R157, R159, R175)

/-- The hub address of a Kiosk's instruction and data memory. -/
def imemBase (k : Nat) : Nat := 0x10000000 + 0x40000 * k
def dmemBase (k : Nat) : Nat := imemBase k + 0x20000

/-- A host write of a word of instruction memory: only while the core is held with RUN = 0. -/
def Chip.imemWrite (c : Chip) (k a v : Nat) : Chip :=
  if c.flag (KS_KCTL_RUN (coreBase k)) || c.running k || (c.core k).stepping then c.raiseFlag (KS_KSTAT_IMW_REF (coreBase k))
  else if a % 4 == 0 then (c.setHubWord (imemBase k + a) v).eccHubWrite (16 + k) (imemBase k + a) 7
  else c

-- The commands

def execHaltReq (c : CoreId) (s : State) : Host.Outcome State Fault Refusal := .next (s.on fun x => x.haltRequest (coreNum c))
def execHalt (c : CoreId) (s : State) : Host.Outcome State Fault Refusal := .next (s.on fun x => x.haltNow (coreNum c))
def execResume (c : CoreId) (s : State) : Host.Outcome State Fault Refusal := .next (s.on fun x => x.resumeCore (coreNum c))
def execCoreRst (k : Fin 16) (s : State) : Host.Outcome State Fault Refusal := .next (s.on fun x => x.resetCore k)
def execRun (c : CoreId) (w : Word) (s : State) : Host.Outcome State Fault Refusal :=
  .next (s.on fun x => x.setRun (coreNum c) (bit w.toNat 0))
def execKpcWrite (c : CoreId) (reg : Fin 33) (v : Word) (s : State) : Host.Outcome State Fault Refusal :=
  .next (s.on fun x => x.kpcWrite (coreNum c) reg v.toNat)
def execImemHostWrite (k : Fin 16) (addr : BitVec 16) (v : Word) (s : State) : Host.Outcome State Fault Refusal :=
  .next (s.on fun x => x.imemWrite k addr.toNat v.toNat)
def execInterruptEntry (c : CoreId) (s : State) : Host.Outcome State Fault Refusal :=
  .next (s.on fun x => x.interruptEntry (coreNum c))
def execDoorbell (k : Fin 16) (v : Word) (s : State) : Host.Outcome State Fault Refusal := .next (s.on fun x => x.doorbell k v.toNat)
def execTimer (c : CoreId) (s : State) : Host.Outcome State Fault Refusal := .next (s.on fun x => x.timerFires (coreNum c))
def execIllegalInstruction (c : CoreId) (_w : Word) (s : State) : Host.Outcome State Fault Refusal :=
  .next (s.on fun x => x.issue (coreNum c) fun x => x.illegal (coreNum c))

end Sys2Proof.Machine
end

