-- ==== Sys2Proof/Machine/Messages.lean ====
section
/-!
DEFINITION. Management messages at their receiver, and the message registers of the lanes: MTX and MRX of the hub's cell lanes,
the mailbox of the cell (R211, R212, R225, R226).
-/
namespace Sys2Proof.Machine

/-- The data blocks of a message that have come. -/
def msgBlocks (m : Message) : Nat := (m.data.length + 7) / 8

/-- A message on a lane that Table 9-2 gives none: its MSG_START and MSG_END are blocks of no known type, its data blocks stand outside a message
(R208). The first block after lock is gone (R204). -/
def Chip.msgUnknown (c : Chip) (l : Nat) (m : Message) : Chip :=
  ((c.firstGone l).bumpBy (LN_UNK_CNT (laneBase l)) (b2n (!c.laneFresh l) + b2n m.ended)).bumpBy (LN_MSG_ERR (laneBase l)) (msgBlocks m)

/-- A message received on a lane, from its MSG_START on: one in progress ends short; it is discarded in MSG_ERR for its length or its number of
data blocks, in CRC_ERR for its CRC-32, else its payload is used (R212). One whose MSG_END has not come stays in progress. Without its
MSG_START, which was the first block after lock, its blocks stand outside a message (R204, R208). -/
def Chip.msgIn (c : Chip) (l : Nat) (m : Message) (f : List Byte → Chip → Chip) : Chip :=
  let n := m.len.toNat
  let b := laneBase l
  if c.isMeasLane l then c.msgUnknown l m
  else if c.laneFresh l then (c.firstGone l).bumpBy (LN_MSG_ERR b) (msgBlocks m + b2n m.ended)
  else
    let c := c.rxAbort l
    let opened (counted : Bool) (c : Chip) : Chip := c.when (!m.ended) (·.laneUp l fun ln => { ln with rx := some counted })
    if n == 0 || 2048 < n then opened true (c.bump (LN_MSG_ERR b))
    else if !m.ended then opened false c
    else if msgBlocks m != (n + 7) / 8 then c.bump (LN_MSG_ERR b)
    else
      let p := m.data.take n
      if crc32 p != m.crc.toNat then c.bump (LN_CRC_ERR b) else f p c

/-- A message that a hub cell lane receives: into a pool buffer charged to the lane and MRX, or discarded while MRX_VALID is 1. -/
def Chip.mrxIn (c : Chip) (n : Nat) (kind : Nat) (m : Message) : Chip :=
  c.msgIn n m fun p c =>
    let b := laneBase n
    if c.flag (LN_LSTAT_MRX_VALID b) then c.bump (LN_MSG_ERR b)
    else
      match c.allocBuf n false 1 with
      | (none, c) => c.poolDrop n false
      | (some x, c) =>
        let c := c.poolStore (bufAddr x) (p ++ List.replicate ((8 - p.length % 8) % 8) 0)
        ((c.setReg (LN_MRX b) (bufAddr x)).setReg (LN_MRX b + 4) (p.length + kind * 2 ^ 12 + m.seq.toNat * 2 ^ 16)).raiseFlag
          (LN_LSTAT_MRX_VALID b)

/-- MRX_DONE: the buffer of the message is released; refused on a lane without MRX. -/
def Chip.mrxDone (c : Chip) (l : Nat) : Chip :=
  let b := laneBase l
  if 192 ≤ l then c.refuseLane l
  else if c.flag (LN_LSTAT_MRX_VALID b) then
    (c.clrFlag (LN_LSTAT_MRX_VALID b)).releaseBuf ((c.reg (LN_MRX b) - 0x40000000) / 3072)
  else c

/-- MSG_SEND: the message that MTX describes is sent, or the command is refused. -/
def Chip.msgSend (c : Chip) (l : Nat) : Chip :=
  let b := laneBase l
  let a := c.reg (LN_MTX b)
  let w := c.reg (LN_MTX b + 4)
  let n := bits w 11 0
  if 192 ≤ l || c.flag (LN_LSTAT_MTX_BUSY b) || a % 8 != 0 || a < 0x40000000 || poolEnd < a + n then c.refuseLane l
  else
    let r := c.poolRead a n
    let m := mkMsg (bits w 15 12) (bits w 23 16) (memBytes c.hubMem a n)
    r.2.queueMsg l (if r.1 then { m with fin := badEnd m.fin } else m)

-- The cell's mailbox

/-- Bytes stored in SRAM; what lies outside it is not stored. -/
def Chip.sramStore (c : Chip) (a : Nat) (l : List Byte) : Chip :=
  let l := l.take (0x20008000 - a)
  if a < 0x20000000 then c
  else
    ({ c with cellMem := memSetBytes c.cellMem a l }).forEach (List.range ((l.length + a % 4 + 3) / 4)) fun i c =>
      c.eccCellWrite 0 (a / 4 * 4 + 4 * i)

/-- `n` bytes from SRAM; free values where they lie outside it. -/
def Chip.sramBytes (c : Chip) (a n : Nat) : List Byte × Chip :=
  if 0x20000000 ≤ a && a + n ≤ 0x20008000 then (memBytes c.cellMem a n, c)
  else ((List.range n).map fun i => (Config.freeValue (c.free + i)).truncate 8, { c with free := c.free + n })

/-- A MAILBOX message at the cell (R226). -/
def Chip.mailboxIn (c : Chip) (l : CellLane) (m : Message) : Chip :=
  if !c.hears l then c
  else
    c.msgIn (cellLaneNum l) m fun p c =>
      if !c.flag CLN_CCTL_MBX_EN || c.flag CLN_MBX_RXL_FULL then c.bump (LN_MSG_ERR (laneBase (cellLaneNum l)))
      else
        (c.sramStore (c.reg CLN_MBX_RXA) p).setReg CLN_MBX_RXL
          (p.length + m.seq.toNat * 2 ^ 12 + b2n (l == .lb) * 2 ^ 20 + 2 ^ 31)

/-- Word 1 of MBX_TX written: GO sends the message on each selected lane (R226); LB of a single-homed cell carries
no message (R17). -/
def Chip.mbxTx (c : Chip) (w : Nat) : Chip :=
  let c := c.plainWrite (CLN_MBX_TX + 4) w
  if !bit w 31 then c
  else
    let r := c.sramBytes (c.reg CLN_MBX_TX) (bits w 11 0)
    let m := mkMsg 4 (bits w 19 12) r.1
    (((r.2.raiseFlag CLN_MBX_TX_GO).when (bit w 20) (·.queueMsg 204 m)).when (bit w 21 && c.dual) (·.queueMsg 205 m)).mbxDone

-- The commands

def execRegRsp (n : Fin 192) (m : Message) (s : State) : Host.Outcome State Fault Refusal := .next (s.on fun c => c.mrxIn n 2 m)
def execMailbox (l : LaneId) (m : Message) (s : State) : Host.Outcome State Fault Refusal :=
  .next (s.on fun c => match l with
    | .cl n => c.mrxIn n 4 m
    | .fab p => c.msgUnknown (192 + p) m
    | .cell x => c.mailboxIn x m)
def execLog (n : Fin 192) (m : Message) (s : State) : Host.Outcome State Fault Refusal := .next (s.on fun c => c.mrxIn n 5 m)
def execMsgSend (n : LaneId) (s : State) : Host.Outcome State Fault Refusal := .next (s.on fun c => c.msgSend (laneNum n))
def execMrxDone (n : LaneId) (s : State) : Host.Outcome State Fault Refusal := .next (s.on fun c => c.mrxDone (laneNum n))
def execMbxTxGo (w : Word) (s : State) : Host.Outcome State Fault Refusal := .next (s.on fun c => c.mbxTx w.toNat)

end Sys2Proof.Machine
end

