-- ==== Sys2Proof/Machine/Wide.lean ====
section
/-!
DEFINITION. Registers wider than 32 bits: the read latch and the write hold of each requester (R7).
-/
namespace Sys2Proof.Machine

/-- The number of a requester's read latch and write hold. -/
def reqNum : Requester → Nat
  | .host => 0
  | .kiosk k => 1 + k.val
  | .shed => 17
  | .laneCtl .la => 18
  | .laneCtl .lb => 19

def Chip.latchOf (c : Chip) (r : Requester) : Option Latch := Assoc.get (fun _ => none) c.latch (reqNum r)
def Chip.holdOf (c : Chip) (r : Requester) : Option (Nat × List (Nat × Nat)) := Assoc.get (fun _ => none) c.hold (reqNum r)
def Chip.setHold (c : Chip) (r : Requester) (x : Option (Nat × List (Nat × Nat))) : Chip :=
  { c with hold := Assoc.set (fun _ => none) c.hold (reqNum r) x }

/-- A read of the lowest word of the register at `a`, whose words are `ws`: the word is returned and the others are latched. -/
def Chip.latchRead (c : Chip) (r : Requester) (a : Nat) (ws : List Nat) : Chip :=
  { c with latch := Assoc.set (fun _ => none) c.latch (reqNum r) (some ⟨a, ws⟩), rdata := BitVec.ofNat 32 (ws.getD 0 0) }

/-- A write of word `i`, not the highest, of the register at `a`: held, the hold of another register being emptied. -/
def Chip.holdWord (c : Chip) (r : Requester) (a i v : Nat) : Chip :=
  let old := match c.holdOf r with
    | some (b, l) => if b == a then l.filter (fun x => x.1 != i) else []
    | none => []
  c.setHold r (some (a, old ++ [(i, v)]))

/-- The words that a write of the highest word `v` of the `n`-word register at `a` applies: the held ones, and the present ones where
none is held. The hold of the register is emptied. -/
def Chip.applyWords (c : Chip) (r : Requester) (a n v : Nat) : List Nat × Chip :=
  let held := match c.holdOf r with
    | some (b, l) => if b == a then l else []
    | none => []
  let word (i : Nat) : Nat :=
    if i + 1 == n then v
    else match held.find? fun x => x.1 == i with
      | some x => x.2
      | none => c.reg (a + 4 * i)
  ((List.range n).map word, c.when (!held.isEmpty) (·.setHold r none))

end Sys2Proof.Machine
end

