-- ==== Sys2Proof/Machine/Reset.lean ====
section
/-!
DEFINITION. The resets of the two parts: what a reset does to registers and to the state beside them, and how requests coincide
(Table 18-4, R389 to R391, R396).
-/
namespace Sys2Proof.Machine

/-- A register word after a reset: its reset value, RWS bits kept at a warm reset (Table 18-4). -/
def resetWord (cold : Bool) (a : Nat) (w : Word) : Word :=
  let m := regWord a
  if cold then BitVec.ofNat 32 m.reset else BitVec.ofNat 32 (m.reset - (m.reset &&& m.rws) + (w.toNat &&& m.rws))

/-- A register of the cell; the Lodge's are touched by no reset. -/
def isCellReg (a : Nat) : Bool := 0x40000000 ≤ a
def isLodgeReg (a : Nat) : Bool := 0x4000A000 ≤ a && a < 0x4000B000

/-- The registers after a reset of one part. -/
def resetRegs (cell cold : Bool) (m : Assoc Word) : Assoc Word :=
  (m.filter fun x => isCellReg x.1 == cell && !isLodgeReg x.1).foldl
    (fun acc x => Assoc.set regReset acc x.1 (resetWord cold x.1 x.2))
    (m.filter fun x => isCellReg x.1 != cell || isLodgeReg x.1)

/-- Everything beside the registers that a reset of the hub clears. No memory, no fuse and no flash is touched. -/
def Chip.hubClear (c : Chip) : Chip :=
  { c with
    doms := [], pulses := [], gth := { setAt := c.time }, td := {}, angin := [], blv := {}, eth := [], takeDue := false, fnEndHub := 0
    lanes := c.lanes.filter fun x => 204 ≤ x.1
    cores := c.cores.filter fun x => 16 ≤ x.1
    latch := c.latch.filter fun x => 17 ≤ x.1
    hold := c.hold.filter fun x => 17 ≤ x.1
    hh := { c.hh with conns := c.hh.conns.filter (fun x => x.1 == 0), txSeq := c.hh.txSeq.filter (fun x => 193 ≤ x.1), hub := {},
                      smp := (none, none), beyond := (0, 0), disc := 0, lost := (false, false), sin := false,
                      smpAt := (c.time, c.time) }
    gls := { ch := c.gls.ch.filter (fun x => 16 ≤ x.1), xseq := 0, seen := [], hot := false, dst := [] }
    sys := { c.sys with loading := none, ready := false, tapHub := 1, bsrHub := 0, stopHub := false, hotHub := false, wdtAt := 0 } }

/-- Trellis after a reset: pins keep their levels, and a supply that is low begins a dip at once (R300). -/
def Trl.cleared (t : Trl) (now : Nat) : Trl :=
  { stuck := t.stuck, low := t.low, riseAt := now, dipAt := if t.low then some now else none }

/-- As `Chip.hubClear`, of the cell. -/
def Chip.cellClear (c : Chip) : Chip :=
  { c with
    ctick := 0, csd := {}, fire := {}, gates := [], trl := c.trl.cleared c.time, adc := { enAt := c.time, refAt := c.time }, held := [], fnEndCell := 0
    lanes := c.lanes.filter fun x => x.1 < 204
    cores := c.cores.filter fun x => x.1 < 16
    latch := c.latch.filter fun x => x.1 < 17
    hold := c.hold.filter fun x => x.1 < 17
    hh := { c.hh with conns := c.hh.conns.filter (fun x => x.1 != 0), txSeq := c.hh.txSeq.filter (fun x => x.1 < 193), cell := {},
                      slv := false, maskAt := (0, 0) }
    gls := { c.gls with ch := c.gls.ch.filter (fun x => x.1 < 16) }
    sys := { c.sys with bootWd := none, heldWarm := false, swapDue := false, tapCell := 1, bsrCell := 0, stopCell := false, hotCell := false } }

/-- RCAUSE after a reset: a cold one clears the other bits (R396). -/
def causeWord (cold : Bool) (old i : Nat) : Nat := if cold then 2 ^ i else old ||| 2 ^ i

/-- DIAG is left by a cold reset only (R336): STATE 3 with its CAUSE stays in a word of HSTAT over a warm one. -/
def keepDiag (cold : Bool) (st cause : Fld) (old : Chip) (c : Chip) : Chip :=
  if !cold && old.fld st == 3 then (c.setFld st 3).setFld cause (old.fld cause) else c

/-- A reset of the hub starts: registers and state take their reset values, and hold them until its release. -/
def Chip.hubReset (c : Chip) (cold : Bool) (cause : Nat) : Chip :=
  let c' := keepDiag cold HHA_HSTAT_STATE HHA_HSTAT_CAUSE c { c.hubClear with regs := resetRegs false cold c.regs }
  let c'' := c'.setReg 0x8 cause
  { c'' with sys := { c''.sys with hubRst := some cold } }

/-- A reset of the cell starts. -/
def Chip.cellReset (c : Chip) (cold powerOn : Bool) (cause : Nat) : Chip :=
  let c' := keepDiag cold CHH_HSTAT_STATE CHH_HSTAT_CAUSE c { c.cellClear with regs := resetRegs true cold c.regs }
  let c'' := c'.setReg 0x40000008 cause
  { c'' with sys := { c''.sys with cellRst := some (cold, powerOn) } }

/-- A request for a reset of the hub by cause `i` of RCAUSE: absorbed by a reset in force, its bit still set (R389). -/
def Chip.hubRequest (c : Chip) (cold : Bool) (i : Nat) : Chip :=
  match c.sys.hubRst with
  | some _ => c.setReg 0x8 (c.reg 0x8 ||| 2 ^ i)
  | none => c.hubReset cold (causeWord cold (c.reg 0x8) i)

/-- A request for a reset of the cell: a warm one that falls due while a bypass sequence runs is held until its end (R391). -/
def Chip.cellRequest (c : Chip) (cold powerOn : Bool) (i : Nat) : Chip :=
  match c.sys.cellRst with
  | some _ => c.setReg 0x40000008 (c.reg 0x40000008 ||| 2 ^ i)
  | none =>
    if !cold && c.flag TRL_TSTAT_BYP_RUN then
      let c' := c.setReg 0x40000008 (c.reg 0x40000008 ||| 2 ^ i ||| 2 ^ 5)
      { c' with sys := { c'.sys with heldWarm := true } }
    else c.cellReset cold powerOn (causeWord cold (c.reg 0x40000008) i)

/-- A bypass sequence has ended: a warm reset held by it starts (R391). -/
def Chip.heldReset (c : Chip) : Chip :=
  if c.sys.heldWarm && !c.flag TRL_TSTAT_BYP_RUN then c.cellReset false false (c.reg 0x40000008) else c

end Sys2Proof.Machine
end

