-- ==== Sys2Proof/Machine/Boot.lean ====
section
/-!
DEFINITION. Ehrozil images, fuses, the QSPI flash, the boot of the hub up to the checked copy, and the boot and update of the cell
(R377 to R382).
-/
namespace Sys2Proof.Machine

-- Fuses (R377, Table 17-7)

/-- A fuse bit that exists: 0 SB_EN, 1 to 4 REVOKE, 8 to 71 SEC_MIN, 256 + 384 k + i KEYHASHk. -/
def fuseOk (b : Nat) : Bool := b ≤ 4 || (8 ≤ b && b ≤ 71) || (256 ≤ b && b < 256 + 4 * 384)

/-- A fuse blown: the list stays in ascending order. -/
def blow (b : Nat) : List Nat → List Nat
  | [] => [b]
  | x :: xs => if x < b then x :: blow b xs else if x = b then x :: xs else b :: x :: xs

/-- How many of the fuses from `lo` on, `n` of them, are blown. -/
def fuseCount (l : List Nat) (lo n : Nat) : Nat := (l.filter fun x => lo ≤ x && x < lo + n).length

/-- SEC_MIN, a thermometer. -/
def secMin (l : List Nat) : Nat := fuseCount l 8 64

/-- OTPSTAT (Table 17-7). -/
def otpStat (l : List Nat) : Nat :=
  let set (p : Nat → Bool) := (List.range 4).foldl (fun v k => if p k then v + 2 ^ k else v) 0
  b2n (l.contains 0) + set (fun k => fuseCount l (256 + 384 * k) 384 != 0) * 2 + set (fun k => l.contains (1 + k)) * 2 ^ 5
    + secMin l * 2 ^ 16

/-- A byte of the fused key hash `k`. -/
def keyHashByte (l : List Nat) (k i : Nat) : Byte :=
  BitVec.ofNat 8 ((List.range 8).foldl (fun v j => if l.contains (256 + 384 * k + 8 * i + j) then v + 2 ^ j else v) 0)

/-- A write of OTPCMD: GO blows one bit; a bit that no fuse has is refused. -/
def Chip.otpCmd (c : Chip) (p : Part) (w : Nat) : Chip :=
  let b := bits w 10 0
  if !bit w 31 then c
  else match p with
  | .hub =>
    if fuseOk b then { c with sys := { c.sys with otpHub := blow b c.sys.otpHub } }
    else c.raiseHub ⟨11, 2, 2, noFlag PCI_PSTAT⟩
  | .cell =>
    if fuseOk b then { c with sys := { c.sys with otpCell := blow b c.sys.otpCell } }
    else c.raiseCell ⟨0, 2, 2, CGL_CCFG_REFUSED⟩

-- Containers (Table 17-2). An image is the function of its bytes.

/-- `n` bytes of an image. -/
def imgBytes (g : Nat → Nat) (a n : Nat) : List Byte := (List.range n).map fun i => BitVec.ofNat 8 (g (a + i))

/-- A little-endian number of an image. -/
def imgNum (g : Nat → Nat) (a n : Nat) : Nat := natLE (imgBytes g a n)

/-- MAGIC, FORMAT and TARGET are right. -/
def imgHead (g : Nat → Nat) (target : Nat) : Bool := imgNum g 0 4 == 0x5A524845 && g 4 == 1 && g 5 == target

def imgLen (g : Nat → Nat) : Nat := imgNum g 0xC 4

/-- The sections: TYPE, destination, length and file offset. -/
def imgSections (g : Nat → Nat) : List (Nat × Nat × Nat × Nat) :=
  (List.range (Nat.min (g 0x10) 16)).map fun i =>
    let a := 0x100 + 16 * i
    (imgNum g a 4, imgNum g (a + 4) 4, imgNum g (a + 8) 4, imgNum g (a + 12) 4)

/-- Check 1 of R377. A container that Table 17-2 does not allow (NSEC, LEN) fails it too. -/
def imgForm (g : Nat → Nat) (slot target : Nat) : Bool :=
  let n := imgLen g
  imgHead g target && n ≤ slot && n % 8 == 0 && 0x200 + 96 ≤ n && 1 ≤ g 0x10 && g 0x10 ≤ 16
    && (imgSections g).all fun s => s.2.2.2 + s.2.2.1 ≤ n

/-- Check 2: the public key is the fused one, and not revoked. -/
def imgKey (g : Nat → Nat) (otp : List Nat) : Bool :=
  let k := g 0x11 % 4
  sha384 (imgBytes g 0x20 96) == (List.range 48).map (keyHashByte otp k) && !otp.contains (1 + k)

/-- Check 3: the signature over the first 512 bytes verifies. -/
def imgSig (g : Nat → Nat) : Bool :=
  let e := imgLen g - 96
  ecdsaOk (imgNum g 0x20 48) (imgNum g 0x50 48) (sha384 (imgBytes g 0 0x200)) (imgNum g e 48) (imgNum g (e + 48) 48)

/-- Check 4: DIGEST matches. -/
def imgDigest (g : Nat → Nat) : Bool := sha384 (imgBytes g 0x200 (imgLen g - 96 - 0x200)) == imgBytes g 0x80 48

/-- Check 5: SEC_VER is at least SEC_MIN. -/
def imgSec (g : Nat → Nat) (otp : List Nat) : Bool := secMin otp ≤ imgNum g 6 2

/-- R377: the failure code (0: the image passes), and which of the checks 2, 3 and 5 failed without rejecting the image while
SB_EN is 0. -/
def imgCheck (g : Nat → Nat) (slot target : Nat) (otp : List Nat) : Nat × Nat :=
  if !imgForm g slot target then (1, 0)
  else
    let r := [imgKey g otp, imgSig g, imgSec g otp]
    if otp.contains 0 then
      (if r.getD 0 false == false then 2 else if r.getD 1 false == false then 3 else if !imgDigest g then 4
        else if r.getD 2 false == false then 5 else 0, 0)
    else (if !imgDigest g then 4 else 0, b2n (!r.getD 0 false) + b2n (!r.getD 1 false) * 2 + b2n (!r.getD 2 false) * 4)

-- The QSPI flash

/-- What an erased byte of the flash reads as. -/
def flashReset (_ : Nat) : Byte := 0xFF
def Chip.flashByte (c : Chip) (a : Nat) : Nat := (Assoc.get flashReset c.flash a).toNat
def Chip.setFlash (c : Chip) (a v : Nat) : Chip := { c with flash := Assoc.set flashReset c.flash a (BitVec.ofNat 8 v) }

/-- The size of a slot, and where the slots start (R378). -/
def imgSlotLen : Nat := 0x800000
def imgSlotAt (i : Nat) : Nat := imgSlotLen * i

/-- The area that an erase opcode clears: its size, none for an opcode that erases nothing, and 0 for the whole device. -/
def eraseSize (op : Nat) : Option Nat :=
  if op == 0x20 || op == 0x21 then some 0x1000
  else if op == 0x52 || op == 0x5C then some 0x8000
  else if op == 0xD8 || op == 0xDC then some 0x10000
  else if op == 0xC7 || op == 0x60 then some 0
  else none

/-- The slot that the hub has booted from. -/
def Chip.bootedSlot (c : Chip) : Option Nat :=
  if c.flag PCI_BOOTSTAT_DONE && c.fld PCI_BOOTSTAT_SRC < 2 then some (c.fld PCI_BOOTSTAT_SRC) else none

/-- A flash area of `n` bytes from `a` on reaches the booted slot. -/
def Chip.hitsBooted (c : Chip) (a n : Nat) : Bool :=
  match c.bootedSlot with
  | some i => a < imgSlotAt i + imgSlotLen && imgSlotAt i < a + n
  | none => false

def qdataByte (c : Chip) (i : Nat) : Nat := bits (c.reg (PCI_QDATA (i / 4))) (8 * (i % 4) + 7) (8 * (i % 4))
def Chip.setQdata (c : Chip) (i v : Nat) : Chip :=
  c.setReg (PCI_QDATA (i / 4)) (insertBits (c.reg (PCI_QDATA (i / 4))) (8 * (i % 4) + 7) (8 * (i % 4)) v)

/-- QCMD.GO: one flash operation with the JEDEC opcodes; a write or erase of the booted slot is refused unless UNLOCK is 1 (R379). The
data of a read with another opcode is what the device answers: free. -/
def Chip.qcmd (c : Chip) (w : Nat) : Chip :=
  let op := bits w 7 0
  let n := Nat.min (bits w 21 12) 256
  let a := c.reg PCI_QADDR % (if bit w 9 then 2 ^ 32 else 2 ^ 24)
  let refused (m k : Nat) : Bool := !c.flag PCI_QCTL_UNLOCK && c.hitsBooted m k
  let refuse := c.raiseHub ⟨11, 2, 2, PCI_QSTAT_REFUSED⟩
  if !bit w 31 then c
  else match eraseSize op with
  | some z =>
    let m := if z == 0 then 0 else a / z * z
    let k := if z == 0 then 2 ^ 32 else z
    if refused m k then refuse else { c with flash := c.flash.filter fun x => x.1 < m || m + k ≤ x.1 }
  | none =>
    if op == 0x02 || op == 0x12 then
      if refused a n then refuse
      else c.forEach (List.range n) fun i c => c.setFlash (a + i) (c.flashByte (a + i) &&& qdataByte c i)
    else if bit w 22 then c
    else if op == 0x03 || op == 0x13 || op == 0x0B || op == 0x0C then
      c.forEach (List.range n) fun i c => c.setQdata i (c.flashByte (a + i))
    else c.forEach (List.range n) fun i c => c.draw.2.setQdata i c.draw.1

-- Hub boot (R378, R379)

/-- The BOOT straps: 0 QSPI, 1 PCIe, 2 QSPI and then PCIe, 3 as 2. -/
def Chip.bootMode (c : Chip) : Nat := Nat.min c.sys.bootPins.toNat 2

/-- An image of the flash, and the one in the pool. -/
def Chip.flashImg (c : Chip) (i : Nat) : Nat → Nat := fun o => c.flashByte (imgSlotAt i + o)
def Chip.poolImg (c : Chip) : Nat → Nat := fun o => memByte c.hubMem (0x40000000 + o)

/-- The order in which the slots are tried. -/
def Chip.slotOrder (c : Chip) : List Nat :=
  let ok (i : Nat) := imgHead (c.flashImg i) 1
  let ver (i : Nat) := imgNum (c.flashImg i) 8 4
  if ok 1 && (!ok 0 || ver 0 < ver 1) then [1, 0] else [0, 1]

def codeFld (i : Nat) : Fld := if i == 0 then PCI_BOOTSTAT_CODE_A else if i == 1 then PCI_BOOTSTAT_CODE_B else PCI_BOOTSTAT_CODE_P

/-- The check of source `i` (0 A, 1 B, 2 PCIe), with its code in BOOTSTAT; a flash image is copied into the pool first. -/
def Chip.tryImage (c : Chip) (i : Nat) : Bool × Chip :=
  let g := if i == 2 then c.poolImg else c.flashImg i
  let r := imgCheck g (if i == 2 then poolEnd - 0x40000000 else imgSlotLen) 1 c.sys.otpHub
  let c := c.when (i != 2 && imgForm g imgSlotLen 1) fun c => c.poolStore 0x40000000 (imgBytes g 0 (imgLen g))
  let c := (c.setFld (codeFld i) r.1).setFld PCI_BOOTSTAT_SOFT r.2
  (r.1 == 0, c)

def Chip.setLoading (c : Chip) (x : Option (Option Nat)) : Chip := { c with sys := { c.sys with loading := x } }

/-- The boot from QSPI up to the checked copy; BOOT_DONE loads it. -/
def Chip.qspiBoot (c : Chip) : Chip :=
  let l := c.slotOrder
  let a := c.tryImage (l.getD 0 0)
  if a.1 then a.2.setLoading (some (some (l.getD 0 0)))
  else
    let b := a.2.tryImage (l.getD 1 1)
    if b.1 then b.2.setLoading (some (some (l.getD 1 1))) else b.2.setLoading (some none)

/-- BOOTCTL.GO: refused after DONE; without effect while the ROM waits for no PCIe boot. -/
def Chip.bootGo (c : Chip) : Chip :=
  if c.flag PCI_BOOTSTAT_DONE then c.raiseHub ⟨11, 2, 2, noFlag PCI_PSTAT⟩
  else if c.sys.loading.isNone && (c.bootMode == 1 || (c.bootMode == 2 && c.flag PCI_BOOTSTAT_FAIL)) then
    let r := c.tryImage 2
    r.2.setLoading (some (if r.1 then some 2 else none))
  else c

-- Cell boot (R380, R381)

/-- The two windows of MRAM exchanged, with their check bits (Table 17-3). -/
def swapKeys {α : Type} (m : List (Nat × α)) : List (Nat × α) :=
  let lo := m.filter fun x => x.1 < 0x1F000
  let hi := m.filter fun x => 0x1F000 ≤ x.1 && x.1 < 0x3E000
  hi.map (fun x => (x.1 - 0x1F000, x.2)) ++ lo.map (fun x => (x.1 + 0x1F000, x.2)) ++ m.filter fun x => 0x3E000 ≤ x.1

/-- The running window shows physical bank `b`. -/
def Chip.mapBank (c : Chip) (b : Nat) : Chip :=
  if b == c.sys.bank then c
  else { c with cellMem := swapKeys c.cellMem, cellEcc := swapKeys c.cellEcc, sys := { c.sys with bank := b } }

/-- The image in physical bank `b`. -/
def Chip.bankImg (c : Chip) (b : Nat) : Nat → Nat := fun o => memByte c.cellMem ((if b == c.sys.bank then 0 else 0x1F000) + o)
/-- R377 on a bank: the code of the check that rejects it, 0 for none, and the code shown, which while SB_EN is 0 tells the first of the
checks 2, 3 and 5 that failed without rejecting it (log entry 65). -/
def Chip.checkBank (c : Chip) (b : Nat) : Nat × Nat :=
  let r := imgCheck (c.bankImg b) 126976 2 c.sys.otpCell
  (r.1, if r.1 != 0 then r.1 else if bit r.2 0 then 2 else if bit r.2 1 then 3 else if bit r.2 2 then 5 else 0)

/-- The record in use and which copy holds it: the valid one with the higher SEQ; none valid: bank 0, CONFIRMED. -/
def Sys.record (s : Sys) : BootRec × Bool :=
  match s.rec0, s.rec1 with
  | some a, some b => if a.seq < b.seq then (b, true) else (a, false)
  | some a, none => (a, false)
  | none, some b => (b, true)
  | none, none => ({}, true)

/-- The record written to the other copy, with the next SEQ. -/
def Chip.putRecord (c : Chip) (r : BootRec) : Chip :=
  let u := c.sys.record
  let r := some { r with seq := u.1.seq + 1 }
  { c with sys := if u.2 then { c.sys with rec0 := r } else { c.sys with rec1 := r } }

/-- BOOTST as the record and the mapped bank give it. -/
def Chip.showRecord (c : Chip) : Chip :=
  let r := c.sys.record.1
  ((c.setFld CGL_BOOTST_BANK c.sys.bank).setFld CGL_BOOTST_TRIAL (b2n r.trial)).setFld CGL_BOOTST_TRIES r.tries

/-- Back to the previous bank, CONFIRMED. -/
def BootRec.back (r : BootRec) : BootRec := { r with active := r.prev, trial := false, tries := 0 }

def Chip.rolledBack (c : Chip) : Chip := c.raiseCell ⟨0, 0, 2, CGL_BOOTST_ROLLBACK⟩

/-- BOOT_WD of an image in seconds (Table 17-2). -/
def bankWd (g : Nat → Nat) : Nat := if g 0x12 == 0 then 10 else g 0x12

/-- Bank `b` is mapped and its program started; the boot watchdog runs on a trial. -/
def Chip.startBank (c : Chip) (b : Nat) : Chip :=
  let c := (c.mapBank b).showRecord
  let c := c.setReg CGL_IMG_VER (imgNum (c.bankImg b) 8 4)
  let wd := bankWd (c.bankImg b)
  let c := { c with sys := { c.sys with bootWd := if c.sys.record.1.trial then some (c.time + 2000000000 * wd) else none } }
  let c := (c.setPc 16 (imgNum (c.bankImg b) 0x14 4)).raiseFlag (KS_KCTL_RUN (coreBase 16))
  (c.startCore 16).setState 1

/-- Rescue: the cell stays OFFLINE and brings its lanes up. -/
def Chip.rescue (c : Chip) : Chip :=
  let c := c.showRecord.raiseFlag CGL_BOOTST_RESCUE
  c.forEach [204, 205] fun l c => c.lctlLaneWrite l (c.reg (LN_LCTL (laneBase l)) ||| 1)

/-- The boot ROM of the cell (R380). -/
def Chip.cellBoot (c : Chip) (powerOn : Bool) : Chip :=
  let r := c.sys.record.1
  let r := if r.trial && !powerOn then { r with tries := r.tries + 1 } else r
  let beyond := r.trial && 3 < r.tries
  let r := if beyond then r.back else r
  let c := (c.when beyond (·.rolledBack)).putRecord r
  let code := c.checkBank r.active
  let c := c.setFld CGL_BOOTST_CODE code.2
  if code.1 == 0 then c.startBank r.active
  else if r.trial then ((c.putRecord r.back).rolledBack).startBank r.prev
  else
    let other := 1 - r.active
    let code := c.checkBank other
    let c := c.setFld CGL_BOOTST_CODE code.2
    if code.1 == 0 then ((c.putRecord { r with active := other }).raiseFlag CGL_BOOTST_ALT).startBank other
    else c.rescue

/-- CONFIRM (R381): without effect on a confirmed bank. -/
def Chip.confirm (c : Chip) : Chip :=
  let r := c.sys.record.1
  if r.trial then
    let c := (c.putRecord { r with trial := false, tries := 0 }).showRecord
    { c with sys := { c.sys with bootWd := none } }
  else c

/-- The boot watchdog expires before CONFIRM. -/
def Chip.bootWdExpiry (c : Chip) : Chip := if c.sys.bootWd.any fun t => t ≤ c.time then c.cellRequest false false 3 else c

-- Updates over the lanes (R382)

/-- The answer to the latest IMAGE has not been sent yet. -/
def Chip.imageBusy (c : Chip) : Bool :=
  match c.sys.imgAns with
  | some (l, s, ws) => (c.lane l).msgs.any fun m => m.start == s && m.words == ws
  | none => false

/-- The answer to an IMAGE: a REG_RSP of the same SEQ on the lane of arrival. -/
def Chip.imageAnswer (c : Chip) (l : Nat) (seq result : Nat) : Chip :=
  let w0 := 1 + b2n (result != 0) * 2 ^ 31
  let w1 := result + c.fld CGL_BOOTST_CODE * 2 ^ 8 + c.fld CGL_BOOTST_CHECKED * 2 ^ 16 + b2n c.sys.record.1.trial * 2 ^ 17
  let m := mkMsg 2 seq (bytesLE 4 w0 ++ bytesLE 4 w1)
  let c := c.queueMsg l m
  { c with sys := { c.sys with imgAns := some (l, m.start, m.words) } }

/-- WRITE: data bytes into the other bank. -/
def Chip.imageWrite (c : Chip) (p : List Byte) : Nat × Chip :=
  let off := natLE ((p.drop 4).take 4)
  let d := p.drop 8
  if c.sys.record.1.trial then (1, c)
  else if off % 8 != 0 || d.length < 8 || 2040 < d.length || 126976 < off + d.length then (2, c)
  else
    let c := { c with cellMem := memSetBytes c.cellMem (0x1F000 + off) d }
    (0, (c.forEach (List.range ((d.length + 3) / 4)) fun i c => c.eccCellWrite 1 (0x1F000 + off + 4 * i)).clrFlag
      CGL_BOOTST_CHECKED)

/-- CHECK: R377 applied to the other bank. -/
def Chip.imageCheck (c : Chip) : Nat × Chip :=
  let code := c.checkBank (1 - c.sys.bank)
  let c := c.setFld CGL_BOOTST_CODE code.2
  if code.1 == 0 then (0, c.raiseFlag CGL_BOOTST_CHECKED) else (6, c)

/-- SWAP: the record of a trial of the other bank; the warm reset follows the answer. -/
def Chip.imageSwap (c : Chip) : Nat × Chip :=
  if !c.flag CGL_BOOTST_CHECKED then (4, c)
  else if !(c.cellState ≤ 2) || c.flag TRL_TSTAT_BYP_RUN then (5, c)
  else
    let c := c.putRecord { c.sys.record.1 with active := 1 - c.sys.bank, prev := c.sys.bank, trial := true, tries := 0 }
    (0, { c with sys := { c.sys with swapDue := true } })

/-- An IMAGE message at the cell, by its OP; a single-homed cell takes it from LA only (R17). -/
def Chip.imageIn (c : Chip) (l : CellLane) (m : Message) : Chip :=
  let n := cellLaneNum l
  if !c.hears l then c
  else c.msgIn n m fun p c =>
    let op := natLE (p.take 1)
    if c.imageBusy || op == 0 || 4 < op then c.bump (LN_MSG_ERR (laneBase n))
    else
      let r := if op == 1 then c.imageWrite p else if op == 2 then c.imageCheck else if op == 3 then c.imageSwap else (0, c)
      r.2.imageAnswer n m.seq.toNat r.1

-- The commands

def execBootGo (s : State) : Host.Outcome State Fault Refusal := .next (s.on (·.bootGo))
def execQcmdGo (r : Requester) (w : Word) (s : State) : Host.Outcome State Fault Refusal :=
  .next (s.on fun c => if hubRequester r then c.qcmd w.toNat else c)
def execOtpcmdGo (p : Part) (w : Word) (s : State) : Host.Outcome State Fault Refusal :=
  .next (s.on fun c => c.otpCmd p w.toNat)
def execConfirm (s : State) : Host.Outcome State Fault Refusal := .next (s.on (·.confirm))
def execBootWdExpiry (s : State) : Host.Outcome State Fault Refusal := .next (s.on (·.bootWdExpiry))
def execImageWrite (l : CellLane) (m : Message) (s : State) : Host.Outcome State Fault Refusal :=
  .next (s.on fun c => c.imageIn l m)
def execImageCheck (l : CellLane) (m : Message) (s : State) : Host.Outcome State Fault Refusal :=
  .next (s.on fun c => c.imageIn l m)
def execImageSwap (l : CellLane) (m : Message) (s : State) : Host.Outcome State Fault Refusal :=
  .next (s.on fun c => c.imageIn l m)
def execImageStatus (l : CellLane) (m : Message) (s : State) : Host.Outcome State Fault Refusal :=
  .next (s.on fun c => c.imageIn l m)

end Sys2Proof.Machine
end

