-- ==== Sys2Proof/Machine/TimeDist.lean ====
section
/-!
DEFINITION. Time distribution: lane delay measurement, TSYNC, TANN and PATH frames, UNCAL and holdover, and their registers
(R253 to R270).
-/
namespace Sys2Proof.Machine

-- Lane delay (R253 to R257)

/-- A lane that measures delay: every lane but a measurement lane (R253). -/
def Chip.measuresDelay (c : Chip) (l : Nat) : Bool := !(l < 192 && c.flag (LN_LCTL_MEAS (laneBase l)))

/-- A PROBE or ECHO block (Table 11-1). -/
def probeBlock (echo : Bool) (pid turn : Nat) : DWord :=
  mkBlock 10 (b2n echo * 2 ^ 41 + pid % 2 ^ 8 * 2 ^ 33 + turn % 2 ^ 33)

/-- A PROBE falls due (R253). -/
def Chip.probeSend (c : Chip) (l : Nat) : Chip :=
  let ln := c.lane l
  if !c.measuresDelay l || c.laneState l != 5 || !c.flag (LN_PRBCTL_PROBE_EN (laneBase l)) || ln.probe.isSome then c
  else
    (c.queueBlock l 6 (probeBlock false ln.pid 0)).laneUp l fun x => { x with pid := (x.pid + 1) % 256, probe := some ln.pid }

/-- An ECHO waits in a queue entry. -/
def isEcho (w : DWord) : Bool := blockType w == 10 && wbits w 55 54 == 0 && wbits w 53 53 == 1

/-- A PROBE received (R254): its ECHO is queued, in the place of one that still waits; a lane in L1 returns to L0. -/
def Chip.probeRx (c : Chip) (l : Nat) (w : DWord) (turn : Nat) : Chip :=
  c.rxBlock l w fun c =>
    c.when (c.measuresDelay l) fun c =>
      let c := c.when (c.laneState l == 6) (·.setLaneState l 5)
      let e := probeBlock true (wbits w 52 45) turn
      if (c.lane l).q.any fun x => isEcho x.2 then
        c.laneUp l fun x => { x with q := x.q.map fun y => if isEcho y.2 then (y.1, e) else y }
      else c.queueBlock l 6 e

/-- The number of values in the delay history: 2^DAVG, 7 being treated as 6. -/
def Chip.dlyN (c : Chip) (l : Nat) : Nat := 2 ^ Nat.min (c.fld (LN_PRBCTL_DAVG (laneBase l))) 6

/-- A valid delay `d` enters the history (R256). A jump beyond DJUMP restarts calibration and opens the new history. -/
def Chip.dlyPut (c : Chip) (l d : Nat) : Chip :=
  let b := laneBase l
  let c := c.setReg (LN_DLY_LAST b) d
  let m := c.reg (LN_DLY_MEAN b)
  let jump := 16 * Nat.max (c.fld (LN_PRBCTL_DJUMP b)) 1
  let c := c.when (c.flag (LN_PRBSTAT_CAL b) && (m + jump < d || d + jump < m)) (·.calRestart l)
  let h := (d :: (c.lane l).dlyHist).take (c.dlyN l)
  let n := h.length
  let c := c.laneUp l fun x => { x with dlyHist := h }
  let c := (c.setFld (LN_PRBSTAT_NVALID b) n).setReg (LN_DLY_MEAN b) ((2 * h.foldl (· + ·) 0 + n) / (2 * n))
  c.when (n == c.dlyN l) (·.raiseFlag (LN_PRBSTAT_CAL b))

/-- An ECHO received (R255); `rtt` is t4 - t1 of the outstanding PROBE in 1/16 ns. -/
def Chip.echoRx (c : Chip) (l : Nat) (w : DWord) (rtt : Nat) : Chip :=
  c.rxBlock l w fun c =>
    let b := laneBase l
    match (c.lane l).probe with
    | none => c
    | some p =>
      if wbits w 52 45 != p then c.bump (LN_DLY_DROP b)
      else
        let c := c.laneUp l fun x => { x with probe := none }
        let t := wbits w 44 12
        if rtt < t then c.bump (LN_DLY_DROP b) else c.dlyPut l ((rtt - t + 1) / 2)

/-- 100 us have passed since a PROBE left (R255). -/
def Chip.probeTimeout (c : Chip) (l : Nat) : Chip :=
  if (c.lane l).probe.isSome then (c.laneUp l fun x => { x with probe := none }).bump (LN_DLY_DROP (laneBase l)) else c

/-- A write of PRBCTL (R256). -/
def Chip.prbctlWrite (c : Chip) (l w : Nat) : Chip :=
  let b := laneBase l
  let off := c.flag (LN_PRBCTL_PROBE_EN b) && !bit w 31
  let davg := c.fld (LN_PRBCTL_DAVG b) != bits w 18 16
  (c.plainWrite (LN_PRBCTL b) w).when (off || davg) (·.calRestart l)

-- Timing frames (R258, R260)

/-- The header of a timing frame of this hub: TX = 1. -/
def Chip.timeHdr (c : Chip) (kind : Nat) (mc : Bool) (planes dst plen k4 : Nat) (seq : Nat) : List Word :=
  mkHdr kind true mc planes (c.fld GTH_GCTL_TTL_INIT) dst (c.fld GTH_GSTAT_NODE_ID) 0xF 0 0 true seq plen k4 0

/-- A TSYNC or TANN of the time root, to group 255 on both planes. -/
def Chip.timeMulticast (c : Chip) (kind : Nat) (payload : List Byte) : Chip :=
  let t := c.td.tseq
  let c := { c with td := { c.td with tseq := (t + 1) % 65536 } }
  c.originate [0, 1] (fun q => c.timeHdr kind true 3 255 payload.length 0 q) (mkExt 0 0 0 0 0 t hubSerial) payload none

/-- A TSYNC falls due at the time root. -/
def Chip.tsyncSend (c : Chip) : Chip := if c.flag SDL_TDCFG_ROOT then c.timeMulticast 0x20 [] else c

/-- Station time: seconds, whole nanoseconds, and the fraction in 2^-16 ns. -/
def Chip.stNow (c : Chip) : Nat × Nat × Nat :=
  let acc := (c.dom 0).acc
  (acc / one40 / 10 ^ 9 % 2 ^ 48, acc / one40 % 10 ^ 9, acc % one40 / 2 ^ 24)

/-- The time root latches FT and ST and sends a TANN (R269, Table 11-4). -/
def Chip.tannSend (c : Chip) : Chip :=
  if !c.flag SDL_TDCFG_ROOT then c
  else
    let s := c.stNow
    c.timeMulticast 0x21 (bytesLE 8 hubSerial ++ bytesLE 8 (c.ftNs % 2 ^ 64) ++ bytesLE 4 s.2.1 ++ bytesLE 6 s.1 ++ bytesLE 2 s.2.2
      ++ bytesLE 1 (c.fld SDL_TDCFG_ST_VALID) ++ bytesLE 3 0)

/-- The arrival port of a plane-local number has CAL. -/
def Chip.portCal (c : Chip) (p : Nat) : Bool := c.flag (LN_PRBSTAT_CAL (laneBase (192 + p)))

/-- The TSYNC that last counted on a plane: TSEQ, arrival port, HOPS. -/
def Chip.tsLast (c : Chip) (plane : Nat) : Option (Nat × Nat × Nat) := Assoc.get (fun _ => none) c.td.last plane

/-- TERR of R260 as a Q40.24 word: E - A in units of 2^-24 ns, saturated. -/
def Chip.terr (c : Chip) (p : Nat) (x : TimeExt) : Nat :=
  let e : Int := (x.origin.toNat * 2 ^ 24 + x.ofrac.toNat / 2 ^ 8 : Nat) + toSigned 64 x.corr.toNat * 2 ^ 8 + c.dlyUse (192 + p) * 2 ^ 20
  let a : Int := ((c.dom 1).acc / 2 ^ 16 : Nat)
  wrapNat 64 (clampInt (-2 ^ 63) (2 ^ 63 - 1) (toSigned 88 (wrapNat 88 (e - a))))

/-- UNCAL clears (R265). -/
def Chip.clearUncal (c : Chip) : Chip :=
  (c.forEach [1, 2, 3, 4, 5] fun d c => c.clrFlag (SDL_DSTAT_UNCAL d)).setFld SDL_TDSTAT_ALIGN 0

/-- What a result of TS_PLANE does to UNCAL (R263, R265): a changed port or HOPS and a result with UNCAL set it; enough clean results
in a row clear it. -/
def Chip.tsJudge (c : Chip) (old : Option (Nat × Nat × Nat)) (p hops : Nat) (uncal : Bool) : Chip :=
  let moved := match old with
    | some (_, q, h) => q != p || h != hops
    | none => false
  let c := c.when (moved || uncal) (·.setUncal)
  let c := { c with td := { c.td with clean := if uncal then 0 else if moved then 1 else c.td.clean + 1 } }
  c.when (Nat.max (c.fld SDL_TDCFG_UNC_CLR) 1 ≤ c.td.clean) (·.clearUncal)

/-- A field of TDSTAT per plane. -/
def tsLostFld (plane : Nat) : Fld := if plane == 0 then SDL_TDSTAT_TS_LOST_A else SDL_TDSTAT_TS_LOST_B

/-- A TSYNC that the hub has sent to itself: the time root discards it, as every TSYNC that it receives (R229, R260). -/
def Chip.tsyncSelf (c : Chip) : Chip := c.when (c.flag SDL_TDCFG_ROOT) (·.raiseHub ⟨1, 5, 2, SDL_TDSTAT_ROOT_CONFLICT⟩)

/-- A TSYNC received on port `p` (R260). -/
def Chip.tsyncRx (c : Chip) (p : Nat) (x : TimeExt) : Chip :=
  let plane := p / 6
  if c.flag SDL_TDCFG_ROOT then c.raiseHub ⟨1, 5, 2, SDL_TDSTAT_ROOT_CONFLICT⟩
  else
    let tseq := x.tseq.toNat
    let old := match c.tsLast plane with
      | some (t, _, _) => toSigned 16 (wrapNat 16 ((tseq : Int) - t)) ≤ 0
      | none => false
    let foreign := match c.td.root with
      | some r => x.root.toNat != r
      | none => false
    let c := (c.when old (·.bump SDL_TS_OLD)).when foreign (·.bump SDL_TS_FOREIGN)
    if old || foreign then c
    else
      let uncal := x.uncal || !c.portCal p
      let hops := x.hops.toNat
      let e := c.terr p x
      let before := c.tsLast plane
      let c := c.setWords (SDL_TRES plane)
        [e, e / 2 ^ 32, tseq + hops % 16 * 2 ^ 16 + p % 6 * 2 ^ 20 + b2n uncal * 2 ^ 24 + 2 ^ 31, 0]
      let c := c.clrFlag (tsLostFld plane)
      let c := { c with td := { c.td with last := Assoc.set (fun _ => none) c.td.last plane (some (tseq, p, hops)) } }
      c.when (plane == c.fld SDL_TDCFG_TS_PLANE) fun c => c.tsJudge before p hops uncal

/-- No TSYNC on a plane for three TSYNC_PER (R263). -/
def Chip.tsLost (c : Chip) (plane : Nat) : Chip :=
  if c.flag SDL_TDCFG_ROOT then c
  else if plane == c.fld SDL_TDCFG_TS_PLANE then c.setUncal.raiseHub ⟨1, 4, 2, tsLostFld plane⟩
  else c.raiseFlag (tsLostFld plane)

/-- UNCAL has been set for UNCTO seconds (R264). -/
def Chip.uncalLong (c : Chip) : Chip :=
  if c.fld SDL_TDSTAT_ALIGN == 1 then (c.setFld SDL_TDSTAT_ALIGN 2).raiseHub ⟨1, 3, 2, SDL_TDSTAT_UNCAL_LONG⟩ else c

/-- A TANN received (R263, R269). -/
def Chip.tannRx (c : Chip) (t : TannPayload) : Chip :=
  if c.flag SDL_TDCFG_ROOT then c
  else
    let s := t.serial.toNat
    let chg := match c.td.root with
      | some r => r != s
      | none => false
    let c := { c with td := { c.td with root := some s } }
    let c := c.setWords SDL_TANNR [t.ft.toNat, t.ft.toNat / 2 ^ 32, t.stNs.toNat, t.stSec.toNat, t.stSec.toNat / 2 ^ 32 + t.stFrac.toNat * 2 ^ 16,
      s, s / 2 ^ 32, b2n t.stValid + 2 ^ 31]
    c.when chg fun c => (c.raiseFlag SDL_TDSTAT_ROOT_CHG).setUncal

/-- A write of TDCFG: a TSYNC_PER out of range is refused; writing TS_PLANE sets UNCAL (R263, R270). -/
def Chip.tdcfgWrite (c : Chip) (w : Nat) : Chip :=
  let p := bits w 29 16
  if p < 10 || 10000 < p then c.raiseFlag SDL_TDSTAT_REFUSED else (c.plainWrite SDL_TDCFG w).setUncal

-- Path check (R266)

/-- PATHCTL written: PATH_GO sends a PATHREQ. -/
def Chip.pathGo (c : Chip) (w : Nat) : Chip :=
  let c := c.plainWrite SDL_PATHCTL w
  if !bit w 31 then c
  else
    let pl := c.fld SDL_PATHCTL_PATH_PLANE
    let c := { c with td := { c.td with path := some pl } }
    (c.setWords SDL_PATHR [0, 0]).originate [pl] (fun q => c.timeHdr 0x22 false (2 ^ pl) (c.fld SDL_PATHCTL_PATH_DST) 0 0 q)
      (mkExt 0 0 0 0 0 0 0) [] none

/-- CORR of a frame as its receiver counts it, its own DLY_USE included, in 2^-16 ns. -/
def Chip.corrAt (c : Chip) (p : Nat) (x : TimeExt) : Int := toSigned 64 x.corr.toNat + c.dlyUse (192 + p) * 2 ^ 12

/-- The answer to a PATHREQ, on the plane of its arrival, with the request's CORR; TURN is written as the answer leaves. -/
def Chip.pathAnswer (c : Chip) (plane src corr : Nat) : Chip :=
  c.originate [plane] (fun q => c.timeHdr 0x23 false (2 ^ plane) src 0 corr q) (mkExt 0 0 0 0 0 0 0) [] none (some c.time)

/-- A PATHREQ received. -/
def Chip.pathReq (c : Chip) (p src : Nat) (x : TimeExt) : Chip := c.pathAnswer (p / 6) src (wrapNat 32 (c.corrAt p x))

/-- The answer to a PATHREQ that this hub has sent to itself: every term of PATH_RES is zero. -/
def Chip.pathSelf (c : Chip) : Chip :=
  c.when c.td.path.isSome fun c => ({ c with td := { c.td with path := none } } : Chip).setWords SDL_PATHR [0, 1]

/-- A PATHRSP received: PATH_RES in 1/16 ns, `rtt` being t4 - t1. How a remainder below 1/16 ns is rounded is a free value. -/
def Chip.pathRsp (c : Chip) (p : Nat) (x : TimeExt) (reqCorr turn rtt : Nat) : Chip :=
  if c.td.path != some (p / 6) then c
  else
    let v : Int := ((rtt : Int) - turn) * 2 ^ 12 - toSigned 32 reqCorr - c.corrAt p x
    let d := c.draw
    let up : Int := if v % 2 ^ 12 == 0 then 0 else ((d.1 % 2 : Nat) : Int)
    let c := { d.2 with td := { d.2.td with path := none } }
    c.setWords SDL_PATHR [wrapNat 32 (v / 2 ^ 12 + up), 1 + b2n x.uncal * 4]

/-- No PATHRSP within 1 ms. -/
def Chip.pathTimeout (c : Chip) : Chip :=
  if c.td.path.isSome then ({ c with td := { c.td with path := none } } : Chip).raiseFlag SDL_PATHR_FAIL else c

/-- A requester of the hub reads word 0 of a result: latched, and NEW clears (R270). -/
def Chip.tresRead (c : Chip) (r : Requester) (which : Nat) : Chip :=
  if !hubRequester r then c
  else if which < 2 then (c.latchRead r (SDL_TRES which) (c.regWords (SDL_TRES which) 4)).clrFlag ⟨SDL_TRES which + 8, 31, 31⟩
  else (c.latchRead r SDL_TANNR (c.regWords SDL_TANNR 8)).clrFlag ⟨SDL_TANNR + 28, 31, 31⟩

-- The commands

def execProbeSend (l : LaneId) (s : State) : Host.Outcome State Fault Refusal := .next (s.on fun c => c.probeSend (laneNum l))
def execProbe (l : LaneId) (w : DWord) (turn : BitVec 33) (s : State) : Host.Outcome State Fault Refusal :=
  .next (s.on fun c => c.probeRx (laneNum l) w turn.toNat)
def execEcho (l : LaneId) (w : DWord) (rtt : BitVec 40) (s : State) : Host.Outcome State Fault Refusal :=
  .next (s.on fun c => c.echoRx (laneNum l) w rtt.toNat)
def execProbeTimeout (l : LaneId) (s : State) : Host.Outcome State Fault Refusal :=
  .next (s.on fun c => c.probeTimeout (laneNum l))
def execPrbctlWrite (l : LaneId) (w : Word) (s : State) : Host.Outcome State Fault Refusal :=
  .next (s.on fun c => c.prbctlWrite (laneNum l) w.toNat)
def execTsyncSend (s : State) : Host.Outcome State Fault Refusal := .next (s.on (·.tsyncSend))
def execTsync (port : Fin 12) (x : TimeExt) (s : State) : Host.Outcome State Fault Refusal := .next (s.on fun c => c.tsyncRx port x)
def execTsLost (p : Plane) (s : State) : Host.Outcome State Fault Refusal := .next (s.on fun c => c.tsLost (planeNum p))
def execUncalLong (s : State) : Host.Outcome State Fault Refusal := .next (s.on (·.uncalLong))
def execTannSend (s : State) : Host.Outcome State Fault Refusal := .next (s.on (·.tannSend))
def execTann (_p : Plane) (_x : TimeExt) (t : TannPayload) (s : State) : Host.Outcome State Fault Refusal :=
  .next (s.on fun c => c.tannRx t)
def execPathGo (w : Word) (s : State) : Host.Outcome State Fault Refusal := .next (s.on fun c => c.pathGo w.toNat)
def execPathreq (port : Fin 12) (src : BitVec 10) (x : TimeExt) (s : State) : Host.Outcome State Fault Refusal :=
  .next (s.on fun c => c.pathReq port src.toNat x)
def execPathrsp (port : Fin 12) (x : TimeExt) (reqCorr turn : Word) (rtt : BitVec 48) (s : State) : Host.Outcome State Fault Refusal :=
  .next (s.on fun c => c.pathRsp port x reqCorr.toNat turn.toNat rtt.toNat)
def execPathTimeout (s : State) : Host.Outcome State Fault Refusal := .next (s.on (·.pathTimeout))
def execTresRead (r : Requester) (which : Fin 3) (s : State) : Host.Outcome State Fault Refusal :=
  .next (s.on fun c => c.tresRead r which)

end Sys2Proof.Machine
end

