-- ==== Sys2Proof/Machine/Ether.lean ====
section
/-!
DEFINITION. The Ethernet ports: frames and their IEEE 1588 timestamps, the queues to programs, MDIO (R267, R268, R272, R376).
-/
namespace Sys2Proof.Machine

def Chip.ethOf (c : Chip) (n : Nat) : Eth := Assoc.get (fun _ => {}) c.eth n
def Chip.ethUp (c : Chip) (n : Nat) (f : Eth → Eth) : Chip := { c with eth := Assoc.set (fun _ => {}) c.eth n (f (c.ethOf n)) }

-- Station time stamps

/-- Station time as it was `ago` ticks ago, as one number in 2^-16 ns. -/
def Chip.stAt (c : Chip) (ago : Nat) : Nat := c.accAtTick 0 (c.tick - ago) / 2 ^ 24

/-- Seconds, nanoseconds and fraction of a number of 2^-16 ns, seconds modulo 2^48. -/
def stOf (i : Int) : Nat × Nat × Nat :=
  let v := (i % (2 ^ 48 * 10 ^ 9 * 2 ^ 16 : Nat)).toNat
  (v / 2 ^ 16 / 10 ^ 9, v / 2 ^ 16 % 10 ^ 9, v % 2 ^ 16)

/-- Words 1 to 3 of ERXQ and ETXTS (Table 11-10). -/
def stWords (x : Nat × Nat × Nat) : List Nat := [x.2.1, x.1 % 2 ^ 32, x.1 / 2 ^ 32 + x.2.2 * 2 ^ 16]

-- IEEE 1588 event messages (R267)

/-- Where the PTP header of a frame begins, if its Ethertype is 0x88F7, untagged or with one IEEE 802.1Q tag. -/
def ptpAt (fr : List Byte) : Option Nat :=
  let t (i : Nat) : Nat := natBE ((fr.drop i).take 2)
  if t 12 == 0x88F7 then some 14 else if t 12 == 0x8100 && t 16 == 0x88F7 then some 18 else none

/-- The byte at `i` of a frame. -/
def byteAt (fr : List Byte) (i : Nat) : Nat := (fr.getD i 0).toNat

/-- The event message of a frame on a port that timestamps: where its header begins, and its messageType 0 to 3. -/
def Chip.ptpEvent (c : Chip) (n : Nat) (fr : List Byte) : Option (Nat × Nat) :=
  match ptpAt fr with
  | none => none
  | some o =>
    if c.flag (ETH_ECTL_PTP_EN n) && o + 34 ≤ fr.length && byteAt fr o % 16 < 4 && byteAt fr (o + 1) % 16 == 2
    then some (o, byteAt fr o % 16) else none

/-- The bytes of a frame from `i` on replaced by `l`. -/
def patch (fr : List Byte) (i : Nat) (l : List Byte) : List Byte := (fr.take i ++ l ++ fr.drop (i + l.length)).take fr.length

/-- `v` added to the correctionField of the message at `o`, in 2^-16 ns. -/
def addCorr (fr : List Byte) (o v : Nat) : List Byte :=
  patch fr (o + 8) (bytesBE 8 ((natBE ((fr.drop (o + 8)).take 8) + v) % 2 ^ 64))

-- Receiving (R267, R272, R376)

/-- A frame dropped on receive. -/
def Chip.rxDrop (c : Chip) (n : Nat) : Chip := (c.bump (ETH_RX_DROP n)).raiseHub ⟨10, 1, 2, noFlag (ETH_ESTAT n)⟩

/-- A frame received, its FCS stripped; its first bit after the SFD came `ago` ticks ago. -/
def Chip.ethRx (c : Chip) (n : Nat) (fr : List Byte) (fcsOk : Bool) (ago : Nat) : Chip :=
  if !c.flag (ETH_ECTL_EN n) then c
  else if !fcsOk || 1522 < fr.length + 4 then c.rxDrop n
  else if 64 ≤ (c.ethOf n).rxq.length then (c.raiseFlag (ETH_ESTAT_RX_FULL n)).rxDrop n
  else
    match c.allocBuf 285 false 1 with
    | (none, c) => ((c.poolDrop 285 false).raiseFlag (ETH_ESTAT_RX_FULL n)).rxDrop n
    | (some b, c) =>
      let c := c.poolStore (bufAddr b) (fr ++ List.replicate ((8 - fr.length % 8) % 8) 0)
      let ev := c.ptpEvent n fr
      let lat := c.fld (ETH_RX_LAT_LAT n) * 2 ^ 12
      let ws := if ev.isSome then stWords (stOf ((c.stAt ago : Int) - (lat : Nat))) else [0, 0, 0]
      c.ethUp n fun e => { e with rxq := e.rxq ++ [(b + fr.length * 2 ^ 16 + b2n ev.isSome * 2 ^ 30 + 2 ^ 31) :: ws] }

-- Sending (R268, R272)

/-- Word 3 of ETXD written: the descriptor is submitted. -/
def Chip.etxdSubmit (c : Chip) (n : Nat) (ws : List Nat) : Chip :=
  (c.setWords (ETH_ETXD n) ws).ethUp n fun e => { e with tx := e.tx ++ [ws] }

/-- The frame as sent and whether its one-step option was refused, `tot` being the transmit timestamp and `t2` the T2 of the
descriptor, both in 2^-16 ns. -/
def oneStep (ev : Option (Nat × Nat)) (os tot t2 : Nat) (fr : List Byte) : List Byte × Bool :=
  match os, ev with
  | 0, _ => (fr, false)
  | 1, some (o, 0) =>
    let s := stOf tot
    (addCorr (patch fr (o + 34) (bytesBE 6 s.1 ++ bytesBE 4 s.2.1)) o s.2.2, false)
  | 2, some (o, 3) =>
    (addCorr fr o ((((tot : Int) - t2) % (2 ^ 16 * 10 ^ 9 * 2 ^ 16 : Nat)).toNat), false)
  | _, _ => (fr, true)

/-- The timestamp of a sent message put into the TX FIFO of 16. -/
def Chip.txStamp (c : Chip) (n : Nat) (ws : List Nat) : Chip :=
  if 16 ≤ (c.ethOf n).tsq.length then (c.bump (ETH_TS_OVF n)).raiseFlag (ETH_ESTAT_TS_OVF n)
  else c.ethUp n fun e => { e with tsq := e.tsq ++ [ws] }

/-- The first submitted frame has left the port, its first bit after the SFD `ago` ticks ago. -/
def Chip.ethTxDone (c : Chip) (n : Nat) (ago : Nat) : Chip :=
  match (c.ethOf n).tx with
  | [] => c
  | d :: rest =>
    if !c.flag (ETH_ECTL_EN n) then c
    else
      let w0 := d.getD 0 0
      let w1 := d.getD 1 0
      let w3 := d.getD 3 0
      let b := bits w0 12 0
      let len := bits w0 26 16
      let c := c.ethUp n fun e => { e with tx := rest }
      let c := (c.poolRead (bufAddr b) len).2
      let fr := memBytes c.hubMem (bufAddr b) len
      let ev := c.ptpEvent n fr
      let s := stOf ((c.stAt ago + c.fld (ETH_TX_LAT_LAT n) * 2 ^ 12 : Nat) : Int)
      let tot := (s.1 * 10 ^ 9 + s.2.1) * 2 ^ 16 + s.2.2
      let t2 := (bits w3 15 0 * 10 ^ 9 + d.getD 2 0) * 2 ^ 16 + bits w3 31 16
      let r := oneStep ev (bits w1 2 1) tot t2 fr
      let c := c.when r.2 (·.raiseFlag (ETH_ESTAT_OS_REF n))
      let c := match ev with
        | some (o, ty) => c.when (bit w1 0) fun c =>
            c.txStamp n ((natBE ((fr.drop (o + 30)).take 2) + ty * 2 ^ 16 + byteAt fr (o + 4) * 2 ^ 20 + 2 ^ 31) :: stWords s)
        | none => c
      (c.emit (.eth n r.1)).releaseBuf b

/-- A read of word 0 of ERXQ: the oldest entry is removed and latched; with none waiting the words read zero. -/
def Chip.erxqRead (c : Chip) (r : Requester) (n : Nat) : Chip :=
  if !hubRequester r then c
  else
    let c' := c.latchRead r (ETH_ERXQ n) ((c.ethOf n).rxq.headD [0, 0, 0, 0])
    c'.ethUp n fun e => { e with rxq := e.rxq.drop 1 }

/-- A read of word 0 of ETXTS. -/
def Chip.etxtsRead (c : Chip) (r : Requester) (n : Nat) : Chip :=
  if !hubRequester r then c
  else
    let c' := c.latchRead r (ETH_ETXTS n) ((c.ethOf n).tsq.headD [0, 0, 0, 0])
    c'.ethUp n fun e => { e with tsq := e.tsq.drop 1 }

/-- GO in MDIO: one frame; a read leaves in DATA what the PHY answers (R376). -/
def Chip.mdioGo (c : Chip) (w phy : Nat) : Chip :=
  let c := (c.plainWrite ETH_MDIO w).clrFlag ETH_MDIO_GO
  if !bit w 31 then c
  else
    let op := bits w 29 28
    let rd := if bit w 30 then op == 2 || op == 3 else op == 2
    (c.emit (.mdio (BitVec.ofNat 32 w))).when rd (·.setFld ETH_MDIO_DATA phy)

/-- The link of a port rises or falls (R376). -/
def Chip.ethLink (c : Chip) (n : Nat) (up : Bool) : Chip :=
  let was := c.flag (ETH_ESTAT_LINK n)
  (c.setFld (ETH_ESTAT_LINK n) (b2n up)).when (was && !up) (·.raiseHub ⟨10, 0, 2, noFlag (ETH_ESTAT n)⟩)

-- The commands

def execEthRx (n : Fin 2) (fr : List Byte) (fcsOk : Bool) (ago : BitVec 17) (s : State) : Host.Outcome State Fault Refusal :=
  .next (s.on fun c => c.ethRx n fr fcsOk ago.toNat)
def execEtxdSubmit (n : Fin 2) (w3 : Word) (s : State) : Host.Outcome State Fault Refusal :=
  .next (s.on fun c => let r := c.applyWords .host (ETH_ETXD n) 4 w3.toNat; r.2.etxdSubmit n r.1)
def execEthTxDone (n : Fin 2) (ago : BitVec 17) (s : State) : Host.Outcome State Fault Refusal :=
  .next (s.on fun c => c.ethTxDone n ago.toNat)
def execErxqRead (r : Requester) (n : Fin 2) (s : State) : Host.Outcome State Fault Refusal := .next (s.on fun c => c.erxqRead r n)
def execEtxtsRead (r : Requester) (n : Fin 2) (s : State) : Host.Outcome State Fault Refusal := .next (s.on fun c => c.etxtsRead r n)
def execMdioGo (w : Word) (phy : BitVec 16) (s : State) : Host.Outcome State Fault Refusal :=
  .next (s.on fun c => c.mdioGo w.toNat phy.toNat)
def execEthLink (n : Fin 2) (up : Bool) (s : State) : Host.Outcome State Fault Refusal := .next (s.on fun c => c.ethLink n up)

end Sys2Proof.Machine
end

