-- ==== Sys2Proof/Machine/Trellis.lean ====
section
/-!
DEFINITION. Trellis: gate read-back, driver status with trip blanking, the bypass sequence, the contact inputs and the
gate-driver supply (R144, R145, R289 to R301).
-/
namespace Sys2Proof.Machine

def srcGateRb : Src := ⟨5, 0, 2, TRL_TSTAT_GATE_RB⟩
def srcDrvTrip (n : Nat) : Src := ⟨5, 1, 3, ⟨TRL_TSTAT, 15 + n, 15 + n⟩⟩
def srcBypNoclose : Src := ⟨5, 2, 3, TRL_TSTAT_BYP_NOCLOSE⟩
def srcCinChatter (i : Nat) : Src := ⟨5, 3, 2, ⟨TRL_TSTAT, 2 + i, 2 + i⟩⟩
def srcWireBrk : Src := ⟨5, 4, 2, noFlag TRL_CINSTAT⟩
def srcDisc (p : Nat) : Src := ⟨5, 5, 2, ⟨TRL_TSTAT, 8 + p, 8 + p⟩⟩
def srcContactMove : Src := ⟨5, 6, 2, TRL_TSTAT_CONTACT_MOVE⟩
def srcVauxUv : Src := ⟨5, 7, 2, TRL_TSTAT_VAUX_UV⟩
def srcTrlRefused : Src := ⟨5, 8, 2, TRL_TSTAT_REFUSED⟩

def Chip.trlUp (c : Chip) (f : Trl → Trl) : Chip := { c with trl := f c.trl }

/-- A refused write or command of TRL (R301). -/
def Chip.refuseTrl (c : Chip) : Chip := c.raiseCell srcTrlRefused

-- Gate read-back (R289, R290)

/-- RBF, 1 to 16. -/
def Chip.rbf (c : Chip) : Nat := Nat.min (Nat.max (c.fld TRL_RBCFG_RBF) 1) 16

/-- The read-back state of an output, and an update of it. -/
def Chip.rb (c : Chip) (g : Nat) : Rb := Assoc.get (fun _ => {}) c.trl.rb g
def Chip.rbUp (c : Chip) (g : Nat) (f : Rb → Rb) : Chip :=
  c.trlUp fun t => { t with rb := Assoc.set (fun _ => {}) t.rb g (f (c.rb g)) }

/-- The level at the pin of output `g`: the driven one, unless the pin is held at a level. -/
def Chip.pinLevel (c : Chip) (g : Nat) : Bool := (Assoc.get (fun _ => none) c.trl.stuck g).getD (c.gateLevel g)

/-- `n` ticks of comparison of output `g` can have gone by, this one among them: the 16 ticks after its latest edge do not count, nor do
ticks before the reset (R289). -/
def Chip.rbTicks (c : Chip) (g n : Nat) : Bool :=
  match (c.gate g).edgeAt with
  | some e => e + 15 + n ≤ c.ctick
  | none => n ≤ c.ctick + 1

/-- Output `g` mismatches at this tick. -/
def Chip.rbMismatch (c : Chip) (g : Nat) : Bool := c.rbTicks g 1 && c.pinLevel g != c.gateLevel g

/-- This tick of output `g` compared: a mismatch continues its run, whose first tick is noted; anything else ends the run, and one that
stayed under RBF ticks and was not recorded is a glitch. -/
def Chip.rbCompare (c : Chip) (g : Nat) : Chip :=
  let x := c.rb g
  if c.rbMismatch g then c.rbUp g fun x => { x with run := x.run + 1, first := if x.run == 0 then c.ctick else x.first }
  else if x.run == 0 then c
  else (c.rbUp g fun _ => {}).when (x.run < c.rbf && !x.told && x.bar.isNone) (·.bump TRL_RB_GLITCH)

/-- The lowest-numbered other output that mismatches and whose driven level differs (R290). -/
def Chip.rbPartner (c : Chip) (g : Nat) : Option Nat :=
  [0, 1, 2, 3].find? fun h => h != g && c.rbMismatch h && c.gateLevel h != c.gateLevel g

/-- GATE_RB of output `g`, recorded in RBSTAT. A partner's own run raises nothing while both mismatch. -/
def Chip.rbRaise (c : Chip) (g : Nat) : Chip :=
  let pr := c.rbPartner g
  let code := match pr with
    | some _ => 3
    | none => if c.gateLevel g then 2 else 1
  let c := (c.setFld TRL_RBSTAT_TS ((c.rb g).first % 65536)).setFld TRL_RBSTAT_GATE g
  let c := (c.setFld TRL_RBSTAT_CODE code).setFld TRL_RBSTAT_PARTNER (pr.getD 0)
  let c := c.rbUp g fun x => { x with told := true }
  let c := match pr with
    | some h => c.rbUp h fun x => { x with bar := some g }
    | none => c
  c.raiseCell srcGateRb

/-- Output `g` decided: the bar of a partner that mismatches no more is lifted, and a run that has reached RBF ticks raises GATE_RB once. -/
def Chip.rbDecide (c : Chip) (g : Nat) : Chip :=
  let barred := (c.rb g).bar.any c.rbMismatch
  let c := c.when (!barred && (c.rb g).bar.isSome) fun c => c.rbUp g fun x => { x with bar := none }
  c.when (c.rbf ≤ (c.rb g).run && !(c.rb g).told && !barred) (·.rbRaise g)

/-- One tick of the read-back comparison. -/
def Chip.rbTick (c : Chip) : Chip :=
  if !c.flag TRL_TCTL_RB_EN then c.trlUp fun t => { t with rb := [] }
  else (c.forEach [0, 1, 2, 3] fun g c => c.rbCompare g).forEach [0, 1, 2, 3] fun g c => c.rbDecide g

/-- The GATE_RB command: `levels` are at the pins from now on, and the comparison of output `g` is decided. Where it mismatches, it has done
so for the RBF ticks that end now; ticks that are not compared cannot be among them, and the run then goes on. Where it agrees, its
mismatch has ended: one that raised nothing was shorter than RBF and is a glitch. -/
def Chip.gateRb (c : Chip) (levels g : Nat) : Chip :=
  let c := c.forEach [0, 1, 2, 3] fun h c => c.trlUp fun t => { t with
    stuck := Assoc.set (fun _ => none) t.stuck h (if bit levels h == c.gateLevel h then none else some (bit levels h)) }
  let x := c.rb g
  if !c.flag TRL_TCTL_RB_EN || c.fire.clkStop || !c.rbTicks g 1 then c
  else if c.rbMismatch g then
    (c.when (x.run < c.rbf && c.rbTicks g c.rbf) fun c =>
      c.rbUp g fun x => { x with run := c.rbf, first := c.ctick + 1 - c.rbf }).rbDecide g
  else (c.rbUp g fun _ => {}).when (!x.told && x.bar.isNone) (·.bump TRL_RB_GLITCH)

-- Driver status (R291, R292, R144, R145)

/-- A trip of input `n` (R292). -/
def Chip.drvTrip (c : Chip) (n : Nat) : Chip :=
  if bit (c.fld TRL_DRVCFG_DRVEN) n then (c.bump TRL_DRV_TRIP_CNT).raiseCell (srcDrvTrip n) else c

/-- The ticks at which blanking windows of input `n` began, latest first, and how long each runs (R144). -/
def Chip.blankEdges (c : Chip) (n : Nat) : List Nat := Assoc.get (fun _ => []) c.fire.blankAt n
def Chip.blankLen (c : Chip) (n : Nat) : Nat := bits (c.reg (PWM_TB0 + 4 * n)) 11 0

/-- A timestamp lies in a blanking window of input `n` (R144). -/
def Chip.blanked (c : Chip) (n ts : Nat) : Bool := (c.blankEdges n).any fun t => t ≤ ts && ts < t + c.blankLen n

/-- The latest blanking window of input `n` is over. -/
def Chip.blankOver (c : Chip) (n : Nat) : Bool :=
  match c.blankEdges n with
  | t :: _ => t + c.blankLen n ≤ c.ctick
  | [] => true

/-- The present assertion of input `n` is a trip. -/
def Chip.tripNow (c : Chip) (n : Nat) : Chip :=
  (c.trlUp fun t => { t with tripped := Assoc.set (fun _ => false) t.tripped n true }).drvTrip n

/-- A new level of DRVSTn that has been held for `held` samples: it passes after DFILT, timestamped with the first of them. An assertion
stamped in a window is discarded and counted; if the window is over when it passes, the input was still asserted at its end, and it is
a trip all the same (R144, R145). -/
def Chip.drvstEdge (c : Chip) (n : Nat) (level : Bool) (held : Nat) : Chip :=
  let filt := Nat.min (Nat.max (c.fld TRL_DRVCFG_DFILT) 1) 16
  let on := level == bit (c.fld TRL_DRVCFG_DPOL) n
  if held < filt || c.fire.clkStop || Assoc.get (fun _ => false) c.trl.drv n == on then c
  else
    let ts := c.ctick + 1 - held
    let c := c.trlUp fun t => { t with
      drv := Assoc.set (fun _ => false) t.drv n on, tripped := Assoc.set (fun _ => false) t.tripped n false }
    let c := (c.setReg (TRL_DRVTS n + (if on then 0 else 4)) (ts % 2 ^ 32)).record true 0x15 n (b2n level + ts % 2 ^ 32 * 2 ^ 32)
    if !on then c
    else if c.blanked n ts then (c.bump (PWM_BLANKED_CNT n)).when (c.blankOver n) (·.tripNow n)
    else c.tripNow n

/-- The end of a blanking window: an input still asserted whose assertion has not been a trip is one at the first tick after it (R145,
R292). -/
def Chip.blankEnd (c : Chip) (n : Nat) : Chip :=
  if !Assoc.get (fun _ => false) c.fire.blankOpen n || !c.blankOver n || c.fire.clkStop then c
  else
    let c := c.fireUp fun f => { f with blankOpen := Assoc.set (fun _ => false) f.blankOpen n false }
    c.when (Assoc.get (fun _ => false) c.trl.drv n && !Assoc.get (fun _ => false) c.trl.tripped n) (·.tripNow n)

/-- A write of DRVCFG: an input whose DPOL bit changes is de-asserted after it (R291). -/
def Chip.drvcfgWrite (c : Chip) (w : Nat) : Chip :=
  let changed := c.fld TRL_DRVCFG_DPOL ^^^ bits w 15 12
  let c := c.plainWrite TRL_DRVCFG w
  c.forEach [0, 1, 2, 3] fun n c =>
    c.when (bit changed n) fun c => c.trlUp fun t => { t with
      drv := Assoc.set (fun _ => false) t.drv n false, tripped := Assoc.set (fun _ => false) t.tripped n false }

-- The bypass sequence (R293 to R295)

/-- Some stage of the running sequence can act: it runs and the timing clock runs. -/
def Chip.bypLive (c : Chip) : Bool := c.flag TRL_TSTAT_BYP_RUN && !c.fire.clkStop

/-- BYP_RUN clears once both outputs have been released. -/
def Chip.bypFinish (c : Chip) : Chip :=
  c.when (c.trl.bypfSt == 2 && c.trl.bypcSt == 2) (·.clrFlag TRL_TSTAT_BYP_RUN)

/-- Every gate output that is L in the bypass pattern reads back L (step 1). -/
def Chip.bypReadsL (c : Chip) : Bool := [0, 1, 2, 3].all fun g => bit (c.pattern 2) g || !c.pinLevel g

/-- Timing-counter ticks in `n` ms. -/
def msTicks (n : Nat) : Nat := 400000 * n

/-- Closure is confirmed (R299). -/
def Chip.closed (c : Chip) : Bool :=
  let shows (st : Nat) := [0, 1].any fun p =>
    bit (c.fld TRL_TCTL_PEN) p && Assoc.get (fun _ => false) c.trl.first p && c.fld ⟨TRL_CINSTAT, 10 + 3 * p, 8 + 3 * p⟩ == st
  shows 2 && !shows 1

/-- Closure confirmed while BYPC is asserted is noted once. -/
def Chip.noteClosure (c : Chip) : Chip :=
  c.when (c.bypLive && c.trl.bypcSt == 1 && c.trl.confAt.isNone && c.closed) fun c =>
    c.trlUp fun t => { t with confAt := some c.ctick }

/-- BYPC asserted now. -/
def Chip.putBypc (c : Chip) : Chip :=
  c.when (c.trl.bypcSt == 0) fun c =>
    ((c.raiseFlag TRL_TSTAT_BYPC).trlUp fun t => { t with bypcSt := 1, bypcAt := c.ctick }).noteClosure

/-- BYPF asserted now; BYPASSED is set until the next cell reset. BYPC_DLY = 0 asserts BYPC with it. -/
def Chip.putBypf (c : Chip) : Chip :=
  let c := ((c.raiseFlag TRL_TSTAT_BYPF).raiseFlag TRL_TSTAT_BYPASSED).trlUp fun t => { t with bypfSt := 1, bypfAt := c.ctick }
  c.when (c.fld TRL_BYPCFG_BYPC_DLY == 0) (·.putBypc)

/-- BYPF asserted by the read-back (step 1). -/
def Chip.bypfOn (c : Chip) : Chip := c.when (c.bypLive && c.trl.bypfSt == 0 && c.bypReadsL) (·.putBypf)

/-- BYPF asserted 1 us after the start without the read-back (step 1). -/
def Chip.bypfForced (c : Chip) : Chip :=
  c.when (c.bypLive && c.trl.bypfSt == 0 && c.trl.bypStart + 400 ≤ c.ctick) fun c => c.putBypf.raiseFlag TRL_TSTAT_BYPF_FORCED

/-- BYPC asserted BYPC_DLY ms after the start (step 2). -/
def Chip.bypcOn (c : Chip) : Chip :=
  let dly := c.fld TRL_BYPCFG_BYPC_DLY
  c.when (c.bypLive && dly != 0 && c.trl.bypStart + msTicks dly ≤ c.ctick) (·.putBypc)

/-- BYPF released BYPF_HOLD ms after its assertion (step 3). -/
def Chip.bypfOff (c : Chip) : Chip :=
  c.when (c.bypLive && c.trl.bypfSt == 1 && c.trl.bypfAt + msTicks (Nat.max (c.fld TRL_BYPCFG_BYPF_HOLD) 1) ≤ c.ctick) fun c =>
    ((c.clrFlag TRL_TSTAT_BYPF).trlUp fun t => { t with bypfSt := 2 }).bypFinish

/-- BYPC released 10 ms after closure was confirmed (step 4). -/
def Chip.bypcOff (c : Chip) : Chip :=
  c.when (c.bypLive && c.trl.bypcSt == 1 && c.trl.confAt.any fun t => t + msTicks 10 ≤ c.ctick) fun c =>
    (((c.clrFlag TRL_TSTAT_BYPC).raiseFlag TRL_TSTAT_BYP_DONE).trlUp fun t => { t with bypcSt := 2 }).bypFinish

/-- BYPC released after TRAVEL ms without closure confirmed: BYP_NOCLOSE (step 4). -/
def Chip.bypNoclose (c : Chip) : Chip :=
  let due := c.trl.bypcAt + msTicks (Nat.max (c.fld TRL_BYPCFG_TRAVEL) 1)
  c.when (c.bypLive && c.trl.bypcSt == 1 && c.trl.confAt.isNone && due ≤ c.ctick) fun c =>
    (((c.clrFlag TRL_TSTAT_BYPC).trlUp fun t => { t with bypcSt := 2 }).bypFinish).raiseCell srcBypNoclose

/-- BYP_GO is refused (R294). -/
def Chip.bypGoRefused (c : Chip) : Bool := !(c.cellState == 1 || c.cellState == 2)

/-- BYP_GO (R294). -/
def Chip.bypGo (c : Chip) : Chip := if c.bypGoRefused then c.refuseTrl else c.startBypass

-- Contact inputs (R296 to R299)

/-- The microsecond of the wetting periods at this tick, counted from their beginning. -/
def Chip.wetUs (c : Chip) : Nat := (c.ctick - c.trl.cinAt) / 400

/-- The level of the WET output (R296). -/
def Chip.wet (c : Chip) : Bool :=
  c.flag TRL_TCTL_CIN_EN && c.wetUs % c.fld TRL_WETCFG_WPER < c.fld TRL_WETCFG_WON

/-- The contact inputs are sampled at this tick: the last microsecond of the on-time, once per period (R296). -/
def Chip.wetSample (c : Chip) : Bool :=
  c.flag TRL_TCTL_CIN_EN && !c.fire.clkStop && c.wetUs % c.fld TRL_WETCFG_WPER + 1 == c.fld TRL_WETCFG_WON
    && c.trl.cinPer != some (c.wetUs / c.fld TRL_WETCFG_WPER)

/-- Zone of a sample: 0 CLOSED, 1 OPEN, 2 BROKEN (R296). -/
def Chip.zoneOf (c : Chip) (v : Nat) : Nat :=
  if v < c.fld TRL_CTHR_TH_LO then 0 else if v ≤ c.fld TRL_CTHR_TH_HI then 1 else 2

/-- The filtered zone of input `i`, and its field. -/
def zoneFld (i : Nat) : Fld := ⟨TRL_CINSTAT, 2 * i + 1, 2 * i⟩

/-- State of a pair from its zones (R298): 1 SW_OPEN, 2 SW_CLOSED, 3 DISAGREE, 4 UNKNOWN. -/
def pairState (a b : Nat) : Nat :=
  if a == 2 || b == 2 then 4 else if a == 0 && b == 1 then 2 else if a == 1 && b == 0 then 1 else 3

def pairFld (p : Nat) : Fld := ⟨TRL_CINSTAT, 10 + 3 * p, 8 + 3 * p⟩

/-- Pair `p` is enabled. -/
def Chip.pairOn (c : Chip) (p : Nat) : Bool := bit (c.fld TRL_TCTL_PEN) p

/-- The filter of one contact input with one sample (R297). The first zone after CIN_EN is known once it has passed the filter. -/
def Chip.cinFilter (c : Chip) (i v : Nat) : Chip :=
  let z := c.zoneOf v
  let cur := c.fld (zoneFld i)
  let known := Assoc.get (fun _ => false) c.trl.known i
  let cand := Assoc.get (fun _ => (3, 0)) c.trl.cand i
  let setCand (c : Chip) (x : Nat × Nat) : Chip :=
    c.trlUp fun t => { t with cand := Assoc.set (fun _ => (3, 0)) t.cand i x }
  let reject (c : Chip) : Chip :=
    (c.bump (TRL_CIN_REJ (i / 2))).trlUp fun t =>
      { t with rej := Assoc.set (fun _ => 0) t.rej i (Assoc.get (fun _ => 0) t.rej i + 1) }
  let cf := if c.fld TRL_CINCFG_CFILT == 0 then 64 else c.fld TRL_CINCFG_CFILT
  if known && z == cur then (if cand.2 == 0 then c else setCand (reject c) (3, 0))
  else
    let n := if cand.1 == z then cand.2 + 1 else 1
    let c := if cand.2 != 0 && cand.1 != z && (known || cand.1 != cur) then reject c else c
    if n < cf then setCand c (z, n)
    else
      let c := ((setCand c (3, 0)).trlUp fun t => { t with known := Assoc.set (fun _ => false) t.known i true }).setFld (zoneFld i) z
      let c := c.when (z != cur) fun c => c.record true 0x15 (4 + i) (z + c.tcnt * 2 ^ 32)
      let setBrk (c : Chip) (b : Bool) : Chip :=
        c.trlUp fun t => { t with brk := Assoc.set (fun _ => false) t.brk i b }
      if z == 2 then (if Assoc.get (fun _ => false) c.trl.brk i then c else (setBrk c true).raiseCell srcWireBrk)
      else setBrk c false

/-- The discrepancy timer of pair `p` as a value of Trl, and its ticks so far (R298). -/
def Chip.disT (c : Chip) (p : Nat) : Option (Nat × Option Nat) := Assoc.get (fun _ => none) c.trl.disT p
def Chip.setDis (c : Chip) (p : Nat) (x : Option (Nat × Option Nat)) : Chip :=
  c.trlUp fun t => { t with disT := Assoc.set (fun _ => none) t.disT p x }
def Chip.disTicks (c : Chip) (p : Nat) : Nat :=
  match c.disT p with
  | some (n, some since) => n + (c.ctick - since)
  | some (n, none) => n
  | none => 0

/-- The discrepancy timer of pair `p` has reached DISC_T. -/
def Chip.disDue (c : Chip) (p : Nat) : Bool := msTicks (Nat.max (c.fld TRL_CINCFG_DISC_T) 1) ≤ c.disTicks p

/-- Pair `p` is locked (R298). -/
def Chip.pairLocked (c : Chip) (p : Nat) : Bool := Assoc.get (fun _ => false) c.trl.locked p
def Chip.setLocked (c : Chip) (p : Nat) (b : Bool) : Chip :=
  c.trlUp fun t => { t with locked := Assoc.set (fun _ => false) t.locked p b }

/-- The discrepancy timer of pair `p` reaches DISC_T: DISC, and the pair locks (R298). -/
def Chip.disc (c : Chip) (p : Nat) : Chip :=
  if c.pairOn p && c.fld (pairFld p) == 3 && c.disDue p then
    (((c.setFld (pairFld p) 5).setLocked p true).setDis p none).raiseCell (srcDisc p)
  else c

/-- The state of the pair by its zones. -/
def Chip.pairZones (c : Chip) (p : Nat) : Nat := pairState (c.fld (zoneFld (2 * p))) (c.fld (zoneFld (2 * p + 1)))

/-- Both inputs of the pair have been known since CIN_EN. -/
def Chip.pairKnown (c : Chip) (p : Nat) : Bool :=
  [2 * p, 2 * p + 1].all fun i => Assoc.get (fun _ => false) c.trl.known i

/-- A pair takes state `st` by its zones (R298): the discrepancy timer starts at DISAGREE, holds in UNKNOWN, and a consistent state reached
before DISC_T is a TRANSIT. -/
def Chip.pairTake (c : Chip) (p st : Nat) : Chip :=
  let t := c.disT p
  let c' := c.setFld (pairFld p) st
  if st == 3 then (match t with
    | some (n, none) => c'.setDis p (some (n, some c.ctick))
    | some _ => c'
    | none => c'.setDis p (some (0, some c.ctick)))
  else if st == 4 then c'.setDis p (t.map fun _ => (c.disTicks p, none))
  else (c'.setDis p none).when t.isSome fun c => (c.bump (TRL_TRANSIT_CNT p)).raiseFlag ⟨TRL_TSTAT, 6 + p, 6 + p⟩

/-- A pair's state after a sample (R298, R299): none while it is not enabled, LOCKED while it is locked; the first since CIN_EN, once both
inputs are known, as it stands. -/
def Chip.pairUpdate (c : Chip) (p : Nat) : Chip :=
  if !c.pairOn p then (c.setFld (pairFld p) 0).setDis p none
  else if c.pairLocked p then c.setFld (pairFld p) 5
  else if !c.pairKnown p then c
  else if c.fld (pairFld p) == 3 && c.disDue p then c.disc p
  else
    let cur := c.fld (pairFld p)
    let st := c.pairZones p
    let again := Assoc.get (fun _ => false) c.trl.first p
    let c := (c.pairTake p st).trlUp fun x => { x with first := Assoc.set (fun _ => false) x.first p true }
    c.when (again && st != cur && ((st == 2 && !c.flag TRL_TSTAT_BYP_RUN) || (st == 1 && c.flag TRL_TSTAT_BYPASSED)))
      (·.raiseCell srcContactMove)

/-- One sample of the four contact inputs (R296 to R299). -/
def Chip.contactSample (c : Chip) (v : List Nat) : Chip :=
  if !c.wetSample then c
  else
    let c := c.trlUp fun t => { t with cinPer := some (c.wetUs / c.fld TRL_WETCFG_WPER) }
    let c := c.forEach [0, 1, 2, 3] fun i c => c.cinFilter i (v.getD i 0)
    (c.forEach [0, 1] fun p c => c.pairUpdate p).noteClosure

/-- The ticks of a chatter window. -/
def Chip.cinWin (c : Chip) : Nat := msTicks (Nat.max (c.fld TRL_CINCFG_CHAT_WIN) 1)

/-- A chatter window ends and the next begins (R297). -/
def Chip.cinChatter (c : Chip) : Chip :=
  if !c.flag TRL_TCTL_CIN_EN || c.ctick < c.trl.chatAt + c.cinWin then c
  else
    let c := c.forEach [0, 1, 2, 3] fun i c =>
      c.when (c.fld TRL_CINCFG_CHAT_MAX < Assoc.get (fun _ => 0) c.trl.rej i) (·.raiseCell (srcCinChatter i))
    c.trlUp fun t => { t with rej := [], chatAt := t.chatAt + c.cinWin }

/-- DISC_RST is refused as a whole unless each pair it names has consistent zones (R298). -/
def Chip.discRstRefused (c : Chip) (w : Nat) : Bool :=
  [0, 1].any fun p => bit w (1 + p) && !(c.pairZones p == 1 || c.pairZones p == 2)

/-- DISC_RST (R298): each locked pair it names unlocks. -/
def Chip.discRst (c : Chip) (w : Nat) : Chip :=
  if c.discRstRefused w then c.refuseTrl
  else (c.forEach [0, 1] fun p c => c.when (bit w (1 + p) && c.pairLocked p) fun c =>
    let c := c.setLocked p false
    c.setFld (pairFld p) (if c.pairOn p then c.pairZones p else 0)).noteClosure

-- Gate-driver supply (R300)

/-- 2 us have gone by since a time, both in half nanoseconds. -/
def Chip.since2us (c : Chip) (t : Nat) : Bool := t + 4000 ≤ c.time

/-- The dip has lasted 2 us: VAUX_UV. -/
def Chip.vauxUv (c : Chip) : Chip :=
  c.when (c.flag TRL_TCTL_VAUX_EN && !c.trl.dipUv && c.trl.dipAt.any c.since2us) fun c =>
    ((c.trlUp fun t => { t with dipUv := true }).clrFlag TRL_TSTAT_VAUX_OK).raiseCell srcVauxUv

/-- VAUX falls below UV_TH: a dip begins. While VAUX_EN = 0 the level alone is noted. -/
def Chip.vauxDip (c : Chip) : Chip :=
  (c.trlUp fun t => { t with low := true }).when (c.flag TRL_TCTL_VAUX_EN && c.trl.dipAt.isNone) fun c =>
    c.trlUp fun t => { t with dipAt := some c.time, dipUv := false }

/-- VAUX rises above UV_TH + UV_HYS: a dip ends; one that did not last 2 us is a glitch. -/
def Chip.vauxRise (c : Chip) : Chip :=
  let c := c.vauxUv
  let c := c.when (c.flag TRL_TCTL_VAUX_EN && c.trl.dipAt.isSome && !c.trl.dipUv) (·.bump TRL_VAUX_GLITCH)
  c.trlUp fun t => { t with low := false, dipAt := none, dipUv := false, riseAt := c.time }

/-- VAUX has stayed above UV_TH + UV_HYS for 2 us. -/
def Chip.vauxOk (c : Chip) : Chip :=
  c.when (c.flag TRL_TCTL_VAUX_EN && !c.trl.low && c.trl.dipAt.isNone && c.since2us c.trl.riseAt) (·.raiseFlag TRL_TSTAT_VAUX_OK)

/-- VAUX_EN written: cleared, VAUX_OK reads 0 and a dip is abandoned; set, the 2 us counts begin, a dip where VAUX is already low. -/
def Chip.vauxEn (c : Chip) (was now : Bool) : Chip :=
  if !now then (c.clrFlag TRL_TSTAT_VAUX_OK).trlUp fun t => { t with dipAt := none, dipUv := false }
  else c.when (!was) fun c => c.trlUp fun t => { t with dipAt := if t.low then some c.time else none, dipUv := false, riseAt := c.time }

-- Guarded writes (R296, R301)

/-- The fields that a running bypass sequence guards, per register. -/
def trlGuard (a : Nat) : Nat :=
  if a == TRL_BYPCFG then 0xFFFFFF else if a == TRL_WETCFG then 0x3FFFFFFF else if a == TRL_CINCFG then 0x3F
  else if a == TRL_TCTL then 0x18 else 0

/-- A write of a configuration register of TRL: refused while a sequence runs when it changes a guarded field, and for WON or
TH_LO out of range. -/
def Chip.trlWrite (c : Chip) (a w : Nat) : Chip :=
  if c.flag TRL_TSTAT_BYP_RUN && (w ^^^ c.reg a) &&& trlGuard a != 0 then c.refuseTrl
  else if a == TRL_WETCFG && bits w 15 0 ≤ bits w 29 16 then c.refuseTrl
  else if a == TRL_CTHR && bits w 15 8 ≤ bits w 7 0 then c.refuseTrl
  else
    let old := c.reg a
    let c := c.plainWrite a w
    if a == TRL_TCTL then
      let c := c.vauxEn (bit old 2) (bit w 2)
      let c := c.when (bit w 1 && !bit old 1) fun c => c.trlUp fun t => { t with
        first := [], known := [], cand := [], rej := [], cinAt := c.ctick, cinPer := none, chatAt := c.ctick }
      c.forEach [0, 1] fun p c => c.when (bit w (3 + p) != bit old (3 + p)) fun c =>
        (c.trlUp fun t => { t with first := Assoc.set (fun _ => false) t.first p false }).pairUpdate p
    else c.when (a == TRL_WETCFG && c.reg a != old) fun c => c.trlUp fun t => { t with cinAt := c.ctick, cinPer := none }

/-- A write of TCMD: a refused part refuses the whole. -/
def Chip.tcmdWrite (c : Chip) (w : Nat) : Chip :=
  if (bit w 0 && c.bypGoRefused) || c.discRstRefused w then c.refuseTrl
  else (c.discRst w).when (bit w 0) (·.bypGo)

-- The commands

def execGateRb (levels : BitVec 4) (g : Fin 4) (s : State) : Host.Outcome State Fault Refusal :=
  .next (s.on fun c => c.gateRb levels.toNat g)
def execDrvstEdge (n : Fin 4) (level : Bool) (held : BitVec 5) (s : State) : Host.Outcome State Fault Refusal :=
  .next (s.on fun c => c.drvstEdge n level held.toNat)
def execDpolWrite (w : Word) (s : State) : Host.Outcome State Fault Refusal := .next (s.on fun c => c.drvcfgWrite w.toNat)
def execBlankWindowEnd (n : Fin 4) (s : State) : Host.Outcome State Fault Refusal := .next (s.on fun c => c.blankEnd n)
def execBypGo (s : State) : Host.Outcome State Fault Refusal := .next (s.on (·.bypGo))
def execBypfAssert (s : State) : Host.Outcome State Fault Refusal := .next (s.on (·.bypfOn))
def execBypfForced (s : State) : Host.Outcome State Fault Refusal := .next (s.on (·.bypfForced))
def execBypcAssert (s : State) : Host.Outcome State Fault Refusal := .next (s.on (·.bypcOn))
def execBypfRelease (s : State) : Host.Outcome State Fault Refusal := .next (s.on (·.bypfOff.heldReset))
def execBypcRelease (s : State) : Host.Outcome State Fault Refusal := .next (s.on (·.bypcOff.heldReset))
def execBypNoclose (s : State) : Host.Outcome State Fault Refusal := .next (s.on (·.bypNoclose.heldReset))
def execContactSample (v : Vector Byte 4) (s : State) : Host.Outcome State Fault Refusal :=
  .next (s.on fun c => c.contactSample (v.toList.map (·.toNat)))
def execCinChatterWindow (s : State) : Host.Outcome State Fault Refusal := .next (s.on (·.cinChatter))
def execDisc (p : Fin 2) (s : State) : Host.Outcome State Fault Refusal := .next (s.on fun c => c.disc p)
def execDiscRst (w : Word) (s : State) : Host.Outcome State Fault Refusal := .next (s.on fun c => c.discRst w.toNat)
def execVauxDip (s : State) : Host.Outcome State Fault Refusal := .next (s.on (·.vauxDip))
def execVauxRise (s : State) : Host.Outcome State Fault Refusal := .next (s.on (·.vauxRise))
def execVauxUv (s : State) : Host.Outcome State Fault Refusal := .next (s.on (·.vauxUv))
def execVauxOk (s : State) : Host.Outcome State Fault Refusal := .next (s.on (·.vauxOk))

end Sys2Proof.Machine
end

