-- ==== Sys2Proof/Machine/Haha.lean ====
section
/-!
DEFINITION. Ha-ha, the safety functions of hub and cell: safety PDUs and their copies, the receivers, the safe state and its lock-out,
reset requests, and the functions SLV, SLI and SDD (R320 to R352).
-/
namespace Sys2Proof.Machine

-- The safety PDU (R324 to R327)

/-- The 136 bits over which SCRC is taken, CONN first. -/
def pduBits (conn seq ts wd cmd : Nat) : List Bool :=
  bitsDown conn 0 24 ++ bitsDown seq 0 32 ++ bitsDown ts 0 32 ++ bitsDown wd 0 16 ++ bitsDown cmd 0 32

/-- A PDU with its SCRC. -/
def mkPdu (conn seq ts wd cmd : Nat) : SafetyPdu :=
  { conn := BitVec.ofNat 24 conn, seq := BitVec.ofNat 32 seq, ts := BitVec.ofNat 32 ts, wd := BitVec.ofNat 16 wd, cmd := BitVec.ofNat 32 cmd,
    scrc := BitVec.ofNat 32 (scrc (pduBits conn seq ts wd cmd)) }

/-- SCRC passes. -/
def pduOk (p : SafetyPdu) : Bool :=
  scrc (pduBits p.conn.toNat p.seq.toNat p.ts.toNat p.wd.toNat p.cmd.toNat) == p.scrc.toNat

/-- The four control blocks of a PDU (Table 15-4), types from `t` on. -/
def pduBlocks (t : Nat) (p : SafetyPdu) : List DWord :=
  let seq := p.seq.toNat
  let cmd := p.cmd.toNat
  [mkBlock t (p.conn.toNat * 2 ^ 20 + seq / 2 ^ 12), mkBlock (t + 1) (seq % 2 ^ 12 * 2 ^ 32 + p.ts.toNat),
   mkBlock (t + 2) (p.wd.toNat * 2 ^ 28 + cmd / 2 ^ 4), mkBlock (t + 3) (cmd % 2 ^ 4 * 2 ^ 40 + p.scrc.toNat * 2 ^ 8)]

/-- The payload of a safety frame on the fabric (R327). -/
def pduPayload (p : SafetyPdu) (lane : Nat) : List Byte :=
  bytesLE 3 p.conn.toNat ++ bytesLE 4 p.seq.toNat ++ bytesLE 4 p.ts.toNat ++ bytesLE 2 p.wd.toNat ++ bytesLE 4 p.cmd.toNat
    ++ bytesLE 4 p.scrc.toNat ++ bytesLE 1 lane ++ bytesLE 2 0

/-- The PDU of a payload. -/
def payloadPdu (l : List Byte) : SafetyPdu :=
  let f (i n : Nat) : Nat := natLE ((l.drop i).take n)
  { conn := BitVec.ofNat 24 (f 0 3), seq := BitVec.ofNat 32 (f 3 4), ts := BitVec.ofNat 32 (f 7 4), wd := BitVec.ofNat 16 (f 11 2),
    cmd := BitVec.ofNat 32 (f 13 4), scrc := BitVec.ofNat 32 (f 17 4) }

/-- The four blocks queued on a lane at the priority of safety blocks. -/
def Chip.queuePdu (c : Chip) (l t : Nat) (p : SafetyPdu) : Chip := c.forEach (pduBlocks t p) fun w c => c.queueBlock l 5 w

/-- A safety frame sent on the fabric (R327). -/
def Chip.sendPdu (c : Chip) (planes : List Nat) (mc : Bool) (dst lane : Nat) (p : SafetyPdu) : Chip :=
  c.originate planes (fun q =>
    mkHdr 0x28 true mc (planes.foldl (fun m x => m + 2 ^ x) 0) (c.fld GTH_GCTL_TTL_INIT) dst (c.fld GTH_GSTAT_NODE_ID) 0xF 0 0 false q 24 0 0)
    [] (pduPayload p lane) none

-- State beside the registers

def Chip.hhUp (c : Chip) (f : Hh → Hh) : Chip := { c with hh := f c.hh }
def Chip.conn (c : Chip) (k : Nat) : HConn := Assoc.get (fun _ => {}) c.hh.conns k
def Chip.connUp (c : Chip) (k : Nat) (f : HConn → HConn) : Chip :=
  c.hhUp fun h => { h with conns := Assoc.set (fun _ => {}) h.conns k (f (c.conn k)) }

/-- The number of an end's connection. -/
def endNum : SafetyEnd → Nat
  | .cell => 0
  | .hubRx n => 1 + n.val
  | .hubLane n => 16 + n.val

/-- Elapsed time `t` in half nanoseconds as the RC oscillator counts it, in 1/40 of which it has 40 ticks a microsecond: between 0.96
and 1.04 of the real time, where in between is a free value (R321). -/
def Chip.rcTime (c : Chip) (t : Nat) : Nat × Chip := (t * (960 + c.draw.1 % 81) / 1000, c.draw.2)

-- Configuration and its CRC (R351, R352)

/-- The CRC of R325 over configuration words. -/
def Chip.cfgCrc (c : Chip) (l : List Nat) : Nat := scrc (l.flatMap fun a => bitsDown (c.reg a) 0 32)

def hhaCfg : List Nat :=
  [HHA_HCTL, HHA_TXCFG, HHA_RXCFG, HHA_TXID, HHA_PEER, HHA_SLILIM, HHA_SLICFG, HHA_SLIDISC, HHA_SDDHYS, HHA_SINCFG]
    ++ (List.range 8).map HHA_RXCONN ++ (List.range 6).map fun i => HHA_SLANES + 4 * i
def chhCfg : List Nat := [CHH_HCTL, CHH_CONN, CHH_RXCFG, CHH_SLVCFG]

def Chip.hhaCrcOk (c : Chip) : Bool := c.cfgCrc hhaCfg == c.reg HHA_CFG_CRC
def Chip.chhCrcOk (c : Chip) : Bool := c.cfgCrc chhCfg == c.reg CHH_CFG_CRC

-- The safe reaction and its lock-out (R335, R350)

/-- The source of a cause: its number (Table 15-10) and class. -/
def causeSrc (hub : Bool) (cause : Nat) : Option (Nat × Nat) :=
  if cause == 2 || cause == 3 then some (0, 2)
  else if cause == 4 || cause == 5 then some (1, 2)
  else if cause == 6 then some (2, 2)
  else if 7 ≤ cause && cause ≤ 0xA then some (3, 2)
  else if hub && 0xD ≤ cause && cause ≤ 0xF then some (4, 2)
  else if !hub && cause == 0xB then some (4, 2)
  else if hub && (cause == 0x10 || cause == 0x11) then some (5, 2)
  else if !hub && cause == 0xC then some (5, 2)
  else if cause == 0x12 || cause == 0x13 then some (8, 3)
  else none

/-- The state that a cause leads to from state `st`: LOCKED, or DIAG, which no cause leaves (R336). -/
def lockState (st cause : Nat) : Nat := if st == 3 || cause == 0x13 || (cause == 0x12 && st == 1) then 3 else 2

/-- A cause found at the hub raised as a source. -/
def Chip.raiseHha (c : Chip) (cause : Nat) : Chip :=
  match causeSrc true cause with
  | some (n, cls) => c.raiseHub ⟨7, n, cls, noFlag HHA_HSTAT⟩
  | none => c

def Chip.raiseChh (c : Chip) (cause : Nat) : Chip :=
  match causeSrc false cause with
  | some (n, cls) => c.raiseCell ⟨7, n, cls, noFlag CHH_HSTAT⟩
  | none => c

/-- State and cause of HHA after a cause. -/
def Chip.hhaLock (c : Chip) (cause : Nat) : Chip :=
  let st := c.fld HHA_HSTAT_STATE
  let c := c.setFld HHA_HSTAT_STATE (lockState st cause)
  c.when (c.fld HHA_HSTAT_CAUSE == 0) (·.setFld HHA_HSTAT_CAUSE cause)

/-- The safe reaction of HHA: the source, LOCKED, the cause recorded if none is. -/
def Chip.hhaReact (c : Chip) (cause : Nat) : Chip := (c.raiseHha cause).hhaLock cause

/-- State, cause and safe state of CHH after a cause: all gate pins L (R321, R322, R341). -/
def Chip.chhLock (c : Chip) (cause : Nat) : Chip :=
  let st := c.fld CHH_HSTAT_STATE
  let c := (c.setFld CHH_HSTAT_STATE (lockState st cause)).raiseFlag CHH_HSTAT_SAFE
  (c.when (c.fld CHH_HSTAT_CAUSE == 0) (·.setFld CHH_HSTAT_CAUSE cause)).blockGates

/-- The safe reaction of CHH; causes 0x0B and 0x0C also start the bypass sequence (R342, R347). -/
def Chip.chhReact (c : Chip) (cause : Nat) : Chip :=
  let c := (c.raiseChh cause).chhLock cause
  c.when (cause == 0xB || cause == 0xC) (·.startBypass)

-- SDD masks at the cell (R346)

/-- The gate that the mask of a polarity removes (Table 15-8). -/
def Chip.sddGate (c : Chip) (neg : Bool) : Option Nat :=
  if !c.fullBridge then (if neg then none else some 0)
  else if c.flag PWM_PCTL_FB_BYP then some (if neg then 1 else 3)
  else some (if neg then 2 else 0)

/-- The gates of a polarity that is now masked leave it; a state held off returns when its mask ends. -/
def Chip.sddApply (c : Chip) : Chip :=
  if c.blocked || c.fire.clkStop then c
  else
    let want := c.patternNow
    let high (g : Nat) : Bool := bit want g || c.gateLevel g
    let byp := c.pattern 2
    let ins (neg : Bool) : Bool := (c.sddGate neg).any high
    if (c.sddMasked false && ins false) || (c.sddMasked true && ins true) then
      let st := c.cellState
      if st == 3 || st == 4 then c.goState st
      else
        let c := (c.dropVern).transition byp
        c.when (st == 6) (·.setState 2)
    else
      match c.fire.sddHeld with
      | some st => if c.cellState == 2 && !c.sddOff st && !c.frozen then c.goState st else c
      | none => c

/-- The masks as the latest accepted hub frame and SDD_EN leave them. -/
def Chip.sddUpdate (c : Chip) : Chip :=
  let cmd := match (c.conn 0).acc with
    | some (p, _) => p.cmd.toNat
    | none => 0
  let on := c.flag CHH_HCTL_SDD_EN
  let start (was : Bool) (b t : Nat) : Nat := if on && !bit cmd b && !was then c.ctick else t
  let c := c.hhUp fun h =>
    { h with maskAt := (start (c.sddMasked false) 3 h.maskAt.1, start (c.sddMasked true) 4 h.maskAt.2) }
  ((c.setFld CHH_HSTAT_MASK_POS (b2n (on && !bit cmd 3))).setFld CHH_HSTAT_MASK_NEG (b2n (on && !bit cmd 4))).sddApply

-- Reset requests (R336 to R339)

/-- A connection's latest accepted frame is no older than the WD it carries and carries no demand (R336). -/
def Chip.connReady (c : Chip) (k : Nat) : Bool × Chip :=
  match (c.conn k).acc with
  | none => (false, c)
  | some (p, t) =>
    let r := c.rcTime (c.time - t)
    (r.1 ≤ p.wd.toNat * 2000 && !bit p.cmd.toNat 0, r.2)

/-- Whether a condition seen earlier still holds: a free value, as no command tells of its end. -/
def Chip.still (c : Chip) (seen : Bool) : Bool × Chip := if seen then (c.draw.1 % 2 == 1, c.draw.2) else (false, c)

/-- SLI_N. -/
def Chip.sliN (c : Chip) : Nat := Nat.max (c.fld HHA_SLICFG_SLI_N) 1

/-- An SLI condition is present. -/
def Chip.sliNow (c : Chip) : Bool :=
  let h := c.hh
  c.flag HHA_HCTL_SLI_EN &&
    (c.sliN ≤ h.beyond.1 || c.sliN ≤ h.beyond.2 || c.sliN ≤ h.disc || h.lost.1 || h.lost.2)

/-- A reset request refused: at the hub, at the cell. -/
def Chip.hhaRefuseReset (c : Chip) : Chip := (c.bump HHA_RESET_REF_CNT).raiseHub ⟨7, 6, 2, HHA_HSTAT_RESET_REF⟩
def Chip.chhRefuseReset (c : Chip) : Chip := (c.bump CHH_RESET_REF_CNT).raiseCell ⟨7, 6, 2, CHH_HSTAT_RESET_REF⟩

/-- RX connections enabled in RXCONN. -/
def Chip.rxConns (c : Chip) : List Nat := (List.range 8).filter fun n => c.flag (HHA_RXCONN_EN n)

/-- The cell lanes of SLANES. -/
def Chip.sLanes (c : Chip) : List Nat := (List.range 192).filter fun n => bit (c.reg (HHA_SLANES + 4 * (n / 32))) (n % 32)

/-- A receiver of the hub, START or LOCKED, to RUN. -/
def runWord (v : Nat) : Nat := if bits v 1 0 == 3 then v else insertBits (insertBits v 1 0 1) 15 8 0

/-- A valid reset request at the hub (R336). -/
def Chip.hhaReset (c : Chip) : Chip :=
  let st := c.fld HHA_HSTAT_STATE
  if st == 1 || st == 3 then c
  else
    let r := c.rxConns.foldl (fun (x : Bool × Chip) n => let y := x.2.connReady (1 + n); (x.1 && y.1, y.2)) (true, c)
    let s := r.2.still r.2.hh.sin
    let c := s.2.hhUp fun h => { h with sin := s.1 }
    if !r.1 || s.1 || c.sliNow || !c.hhaCrcOk then c.hhaRefuseReset
    else
      let c := (c.setFld HHA_HSTAT_STATE 1).setFld HHA_HSTAT_CAUSE 0
      let c := c.forEach c.rxConns fun n c => c.setReg (HHA_RXSTAT n) (runWord (c.reg (HHA_RXSTAT n)))
      c.forEach c.sLanes fun n c =>
        let y := c.connReady (16 + n)
        y.2.when y.1 fun c => c.setReg (HHA_SLSTAT n) (runWord (c.reg (HHA_SLSTAT n)))

/-- A valid reset request at the cell. -/
def Chip.chhReset (c : Chip) : Chip :=
  let st := c.fld CHH_HSTAT_STATE
  if st == 1 || st == 3 then c
  else
    let r := c.connReady 0
    let s := r.2.still r.2.hh.slv
    let c := s.2.hhUp fun h => { h with slv := s.1 }
    if !r.1 || s.1 || !c.chhCrcOk then c.chhRefuseReset
    else ((c.setFld CHH_HSTAT_STATE 1).setFld CHH_HSTAT_CAUSE 0).clrFlag CHH_HSTAT_SAFE

/-- RQ of a part, its mode, and the record of a request in progress. -/
def rqFld (p : Part) : Fld := match p with
  | .hub => HHA_HSTAT_RQ
  | .cell => CHH_HSTAT_RQ
def Chip.rmode (c : Chip) (p : Part) : Bool := match p with
  | .hub => c.flag HHA_HCTL_RMODE
  | .cell => c.flag CHH_HCTL_RMODE
def Chip.rq (c : Chip) (p : Part) : Rq := match p with
  | .hub => c.hh.hub
  | .cell => c.hh.cell
def Chip.setRq (c : Chip) (p : Part) (x : Rq) : Chip := c.hhUp fun h => match p with
  | .hub => { h with hub := x }
  | .cell => { h with cell := x }
def Chip.evalReset (c : Chip) (p : Part) : Chip := match p with
  | .hub => c.hhaReset
  | .cell => c.chhReset
def Chip.refuseReset (c : Chip) (p : Part) : Chip := match p with
  | .hub => c.hhaRefuseReset
  | .cell => c.chhRefuseReset

/-- RQ falls: a request begins in the mode in force. -/
def Chip.rqFall (c : Chip) (p : Part) : Chip :=
  if c.flag (rqFld p) then (c.clrFlag (rqFld p)).setRq p { live := true, fell := c.time } else c

/-- RQ rises after `us` microseconds by the RC count: an edge-mode request is evaluated, refused when jammed, or ignored when short. -/
def Chip.rqRiseAt (c : Chip) (p : Part) (us : Nat) : Chip :=
  if c.flag (rqFld p) then c
  else
    let live := (c.rq p).live
    let c := (c.raiseFlag (rqFld p)).setRq p {}
    if !live || c.rmode p || us < 50000 then c
    else if us ≤ 2000000 then c.evalReset p
    else c.refuseReset p

/-- RQ rises, so long after its fall as the RC oscillator has counted. -/
def Chip.rqRise (c : Chip) (p : Part) : Chip :=
  if c.flag (rqFld p) then c
  else
    let r := c.rcTime (c.time - (c.rq p).fell)
    r.2.rqRiseAt p (r.1 / 2000)

/-- An RC count of `us` microseconds can have passed since time `t` (R321). -/
def Chip.rcPast (c : Chip) (t us : Nat) : Bool := us * 2000 ≤ (c.time - t) * 1040 / 1000

/-- RQ has been 0 for 50 ms, or for another 50 ms, in level mode (R338). -/
def Chip.rqLevel (c : Chip) (p : Part) : Chip :=
  if c.rmode p && !c.flag (rqFld p) && (c.rq p).live && c.rcPast (c.rq p).fell 50000 then
    (c.setRq p { c.rq p with fell := c.time }).evalReset p
  else c

/-- RQ as an accepted frame brings it. -/
def Chip.rqFrame (c : Chip) (p : Part) (level : Bool) : Chip :=
  if level then c.rqRise p else c.rqFall p

-- Sending (R328, R329)

/-- The SEQ of the next frame on a connection. -/
def Chip.nextSeq (c : Chip) (k : Nat) : Nat × Chip :=
  let n := (Assoc.get (fun _ => 0) c.hh.txSeq k + 1) % 2 ^ 32
  (n, c.hhUp fun h => { h with txSeq := Assoc.set (fun _ => 0) h.txSeq k n })

/-- CMD of the hub's frames: to the cells, with the SDD bits; to hubs without. -/
def Chip.hubCmd (c : Chip) (cells : Bool) : Nat :=
  let run := c.fld HHA_HSTAT_STATE == 1
  let sdd := if cells then c.fld HHA_HCTL_SDD_EN * 4 + c.fld HHA_HSTAT_DIS_POS * 8 + c.fld HHA_HSTAT_DIS_NEG * 16 else 0
  b2n (!run) + b2n run * 2 + sdd + c.fld HHA_HSTAT_RQ * 32

/-- A hub's frames fall due: one on each of its connections. A relay forms none to cells. -/
def Chip.safetySend (c : Chip) : Chip :=
  if !c.flag HHA_HCTL_TX_EN then c
  else
    let ts := c.ftNs / 2 ^ 10 % 2 ^ 32
    let wd := c.fld HHA_TXCFG_TXWD
    let lanes := if c.flag HHA_PEER_ROLE then [] else c.sLanes.filter fun n => !c.flag (LN_LCTL_MEAS (laneBase n))
    let c := c.forEach lanes fun n c =>
      let s := c.nextSeq n
      let p := mkPdu (c.fld GTH_GSTAT_NODE_ID * 2 ^ 14 + n * 2 ^ 6) s.1 ts wd (c.hubCmd true)
      (s.2.queuePdu n 0x70 p).when (c.flag HHA_PEER_PARTNER_V) fun c => c.sendPdu [1] false (c.fld HHA_PEER_PARTNER) n p
    let s := c.nextSeq 192
    s.2.sendPdu [0, 1] true (c.fld HHA_TXID_SGRP) 0xFF (mkPdu (c.fld HHA_TXID_CONN) s.1 ts wd (c.hubCmd false))

/-- The frame that a cell sends for each hub frame it accepts. -/
def Chip.cellSafetySend (c : Chip) (wd : Nat) : Chip :=
  let s := c.nextSeq 200
  let c := s.2
  let st := c.fld CHH_HSTAT_STATE
  let cmd := c.fld CHH_HSTAT_SAFE + b2n (st == 2) * 2 + b2n c.hh.slv * 4 + c.fld CHH_HSTAT_MASK_POS * 8 + c.fld CHH_HSTAT_MASK_NEG * 16
    + c.fld CHH_HSTAT_REL * 32 + c.fld CHH_HSTAT_CAUSE * 2 ^ 8 + c.cellState * 2 ^ 16
  let p := mkPdu (c.reg CHH_CONN + 1) s.1 (c.cellFtNs / 2 ^ 10 % 2 ^ 32) wd cmd
  (c.queuePdu 204 0x74 p).queuePdu 205 0x74 p

-- Receiving (R330 to R334)

/-- What the configuration says of an end: CONN expected, its RXCFG, ONECOPY, and the counter block's base. -/
def Chip.endCfg (c : Chip) (e : SafetyEnd) : Nat × Nat × Bool × Nat :=
  match e with
  | .cell => (c.reg CHH_CONN, c.reg CHH_RXCFG, c.flag CHH_HCTL_ONECOPY, CHH_DISC_CNT)
  | .hubRx n => (c.fld (HHA_RXCONN_CONN n), c.reg HHA_RXCFG, c.flag HHA_HCTL_ONECOPY, HHA_DISC_CNT)
  | .hubLane n => (c.fld GTH_GSTAT_NODE_ID * 2 ^ 14 + n.val * 2 ^ 6 + 1, c.reg HHA_RXCFG, c.flag HHA_HCTL_ONECOPY, HHA_DISC_CNT)

/-- RXSTAT or SLSTAT of a receiver marked LOCKED with its cause, if none is recorded. -/
def markLocked (cause v : Nat) : Nat :=
  let v := insertBits v 1 0 (lockState (bits v 1 0) cause)
  if bits v 15 8 == 0 then insertBits v 15 8 cause else v

/-- The safe reaction to a failure at an end: counted, raised, and locking what the end locks (R335). -/
def Chip.endFail (c : Chip) (e : SafetyEnd) (cause : Nat) : Chip :=
  let base := (c.endCfg e).2.2.2
  let c := if cause == 4 || cause == 5 then c.bump base
    else if cause == 6 then c.bump (base + 4)
    else if cause == 8 then c.bump (base + 12)
    else if cause == 2 then c
    else c.bump (base + 8)
  match e with
  | .cell => c.chhReact cause
  | .hubRx n => (c.setReg (HHA_RXSTAT n) (markLocked cause (c.reg (HHA_RXSTAT n)))).hhaReact cause
  | .hubLane n => (c.setReg (HHA_SLSTAT n) (markLocked cause (c.reg (HHA_SLSTAT n)))).raiseHha cause

/-- A demand in a first copy takes effect at its arrival (R333); its source is raised once while the demand lasts. -/
def Chip.endDemand (c : Chip) (e : SafetyEnd) (was : Bool) : Chip :=
  match e with
  | .cell => (c.when (!was) (·.raiseChh 2)).chhLock 2
  | .hubRx n => ((c.when (!was) (·.raiseHha 2)).setReg (HHA_RXSTAT n) (markLocked 2 (c.reg (HHA_RXSTAT n)))).hhaLock 2
  | .hubLane n => c.raiseFlag (HHA_SLSTAT_SAFE n)

/-- An accepted frame takes effect (R329, R333, R337). -/
def Chip.endAccept (c : Chip) (e : SafetyEnd) (p : SafetyPdu) : Chip :=
  let c := c.connUp (endNum e) fun x => { x with acc := some (p, c.time) }
  let cmd := p.cmd.toNat
  match e with
  | .cell =>
    let c := ((c.setFld CHH_HSTAT_REL (b2n (bit cmd 1))).setReg CHH_LAST_SEQ p.seq.toNat).sddUpdate
    (c.rqFrame .cell (bit cmd 5)).cellSafetySend p.wd.toNat
  | .hubRx n => c.when (c.fld HHA_HCTL_RQSRC == n.val + 1) (·.rqFrame .hub (bit cmd 5))
  | .hubLane n =>
    let c := (c.setFld (HHA_SLSTAT_SAFE n) (b2n (bit cmd 0))).setFld (HHA_SLSTAT_LOCK n) (b2n (bit cmd 1))
    (c.setFld (HHA_SLSTAT_CCAUSE n) (bits cmd 15 8)).setFld (HHA_SLSTAT_CSTATE n) (bits cmd 18 16)

/-- A copy that opens a frame (R331, R334). With ONECOPY it is accepted alone (R332); a fifth waiting frame is a missing copy for the
oldest. -/
def Chip.openFrame (c : Chip) (e : SafetyEnd) (second one : Bool) (p : SafetyPdu) : Chip :=
  let k := endNum e
  let was := (c.conn k).dem
  let dem := bit p.cmd.toNat 0
  let c := c.connUp k fun x => 
    { x with last := some p.seq.toNat, opened := (p.seq.toNat :: x.opened).take 4, wd := some (c.time, p.wd.toNat), dem := dem }
  let c := c.when dem fun c => c.endDemand e was
  if one then c.endAccept e p
  else
    let w := (c.conn k).wait ++ [{ pdu := p, second := second, at' := c.time }]
    if 4 < w.length then (c.connUp k fun x => { x with wait := w.drop 1 }).endFail e 4
    else c.connUp k fun x => { x with wait := w }

/-- The second copy of a waiting frame (R332). -/
def Chip.pairCopy (c : Chip) (e : SafetyEnd) (dw : Nat) (f : HFrame) (p : SafetyPdu) : Chip :=
  let c := c.connUp (endNum e) fun x => { x with wait := x.wait.filter fun y => y.pdu.seq != p.seq }
  let r := c.rcTime (c.time - f.at')
  if dw * 2000 < r.1 then r.2.endFail e 4
  else if f.pdu == p then r.2.endAccept e p
  else r.2.endFail e 5

/-- The fault of a copy that passes SCRC, in the order of R330. -/
def copyFault (conn wdMax ageMax now : Nat) (p : SafetyPdu) : Option Nat :=
  let age := toSigned 32 (wrapNat 32 ((now : Int) - p.ts.toNat))
  if p.conn.toNat != conn then some 9
  else if p.wd.toNat == 0 || wdMax < p.wd.toNat then some 0xA
  else if age < -2 || (ageMax : Int) < age then some 8
  else none

/-- A complete copy at a receiver (R330, R331). -/
def Chip.judgeCopy (c : Chip) (e : SafetyEnd) (second : Bool) (p : SafetyPdu) : Chip :=
  let k := endNum e
  let cfg := c.endCfg e
  let rx := cfg.2.1
  let now := (match e with
    | .cell => c.cellFtNs
    | _ => c.ftNs) / 2 ^ 10 % 2 ^ 32
  if !pduOk p then c
  else
    match copyFault cfg.1 (bits rx 31 20) (bits rx 15 8) now p with
    | some cause => c.endFail e cause
    | none =>
      let x := c.conn k
      let seq := p.seq.toNat
      match x.last with
      | none => c.openFrame e second cfg.2.2.1 p
      | some last =>
        match x.wait.find? fun f => f.pdu.seq == p.seq with
        | some f => if f.second == second then c.bump (cfg.2.2.2 + 16) else c.pairCopy e (bits rx 7 0) f p
        | none =>
          if x.opened.contains seq then c.bump (cfg.2.2.2 + 16)
          else
            let d := wrapNat 32 ((seq : Int) - last)
            if 1 ≤ d && d ≤ Nat.max (bits rx 19 16) 1 then c.openFrame e second cfg.2.2.1 p
            else (c.connUp k fun y => { y with last := none, wait := [] }).endFail e 7

/-- A copy arrives at an end: at a hub of ROLE 1 a lane's frame goes on unjudged on the other medium (R328). -/
def Chip.safetyCopy (c : Chip) (e : SafetyEnd) (second : Bool) (p : SafetyPdu) : Chip :=
  match e with
  | .cell => c.when (!c.fire.clkStop) (·.judgeCopy e second p)
  | .hubRx n => c.when (c.flag (HHA_RXCONN_EN n)) (·.judgeCopy e second p)
  | .hubLane n =>
    if !c.sLanes.contains n.val then c
    else if c.flag HHA_PEER_ROLE then
      if second then c.queuePdu n 0x70 p
      else c.when (c.flag HHA_PEER_PARTNER_V) fun c => c.sendPdu [1] false (c.fld HHA_PEER_PARTNER) n p
    else c.judgeCopy e second p

/-- A set of safety blocks on a lane is broken (R326). -/
def Chip.setBroken (c : Chip) (l : Nat) : Chip := c.bump (if l < 204 then HHA_FORM_CNT else CHH_FORM_CNT)

/-- An end that receives: an RX connection that is enabled, a lane of SLANES of a hub that judges. -/
def Chip.endOn (c : Chip) (e : SafetyEnd) : Bool :=
  match e with
  | .cell => true
  | .hubRx n => c.flag (HHA_RXCONN_EN n)
  | .hubLane n => c.sLanes.contains n.val && !c.flag HHA_PEER_ROLE

/-- The window of a frame ends without its second copy (R332). -/
def Chip.windowEnd (c : Chip) (e : SafetyEnd) (seq : Word) : Chip :=
  let k := endNum e
  let dw := bits (c.endCfg e).2.1 7 0
  if c.endOn e && (c.conn k).wait.any fun f => f.pdu.seq == seq && c.rcPast f.at' dw then
    (c.connUp k fun x => { x with wait := x.wait.filter fun f => f.pdu.seq != seq }).endFail e 4
  else c

/-- A connection's watchdog expires (R334). -/
def Chip.safetyDog (c : Chip) (e : SafetyEnd) : Chip :=
  let k := endNum e
  if c.endOn e && (c.conn k).wd.any (fun x => c.rcPast x.1 x.2) then (c.connUp k fun x => { x with wd := none }).endFail e 6 else c

-- Commands and inputs of the functions (R340 to R348)

/-- SBK_REQ (cause 0x03). -/
def Chip.sbkReq (c : Chip) (p : Part) : Chip := match p with
  | .hub => c.hhaReact 3
  | .cell => c.chhReact 3

/-- SLV: VSAFE above SLV_TH for SLV_FILT us (R342). -/
def Chip.slvTrip (c : Chip) : Chip :=
  if c.flag CHH_HCTL_SLV_EN then ((c.hhUp fun h => { h with slv := true }).bump CHH_SLV_CNT).chhReact 0xB else c

/-- The test of the SLV comparator (R343). -/
def Chip.slvTest (c : Chip) (changed : Bool) : Chip := if changed then c else c.chhReact 0x13

/-- DEBLOCK (R340): to BYPASS, or refused. -/
def Chip.deblock (c : Chip) : Chip :=
  let cmd := match (c.conn 0).acc with
    | some (p, _) => p.cmd.toNat
    | none => 0
  if c.cellState == 1 && c.fld CHH_HSTAT_STATE == 1 && bit cmd 1 && !bit cmd 0 && !c.flag CFL_REACT_BLK then
    let c := if c.flag PWM_PSTAT_HALTED then c.setState 5 else (c.transition (c.pattern 2)).setState 2
    { c with fire := { c.fire with lastDl := c.ctick, stalled := false } }
  else (c.bump CHH_DEB_REF_CNT).raiseCell ⟨7, 7, 2, CHH_HSTAT_DEB_REF⟩

/-- Gate `g` is the bypass-side gate of a leg whose gate a mask has removed for at least DEAD and 40 ns (R347). -/
def Chip.sddDue (c : Chip) (g : Nat) : Bool :=
  [false, true].any fun neg => c.sddMasked neg && (c.sddGate neg).any (fun r => partner r == g)
    && (if neg then c.hh.maskAt.2 else c.hh.maskAt.1) + c.fld PWM_DEADT_DEAD + 16 ≤ c.ctick

/-- The read-back of the bypass-side gate of a leg whose gate is removed (R347); a blocked cell drives no gate. -/
def Chip.sddCheck (c : Chip) (g : Nat) : Chip :=
  if !c.blocked && !c.fire.clkStop && c.sddDue g && !c.pinLevel g then c.chhReact 0xC else c

/-- An SSTOP input asserts, or the inputs have differed for SIN_DISC ms (R348). -/
def Chip.sstop (c : Chip) (cause : Nat) : Chip := (c.hhUp fun h => { h with sin := true }).hhaReact cause

/-- The RC oscillator stops: the series stage opens (R321), and the timing clock's monitor finds it (R322). -/
def Chip.rcStop (c : Chip) : Chip := c.chhReact 0x13

/-- A pair with one side replaced. -/
def setSide {α : Type} (i : Nat) (v : α) (x : α × α) : α × α := if i == 0 then (v, x.2) else (x.1, v)
def getSide {α : Type} (i : Nat) (x : α × α) : α := if i == 0 then x.1 else x.2

/-- DIS_POS and DIS_NEG from the latest samples (R345). -/
def Chip.sddDirection (c : Chip) : Chip :=
  let hys : Int := (c.fld HHA_SDDHYS_CODE : Nat)
  let both (f : Int → Bool) : Bool := c.flag HHA_HCTL_SDD_EN && c.hh.smp.1.any f && c.hh.smp.2.any f
  (c.setFld HHA_HSTAT_DIS_POS (b2n (both fun x => x < -hys))).setFld HHA_HSTAT_DIS_NEG (b2n (both fun x => hys < x))

/-- A count of consecutive occurrences, held at 16. -/
def runCount (b : Bool) (n : Nat) : Nat := if b then Nat.min (n + 1) 16 else 0

/-- A sample of source `i` (R344, R345), after IPOL. A cause is found as its count reaches SLI_N. -/
def Chip.hhaSample (c : Chip) (i : Nat) (v : Int) (ovr inv : Bool) : Chip :=
  if inv then c
  else
    let h := c.hh
    let beyond := ovr || c.fld HHA_SLILIM_CODE < v.natAbs
    let n := runCount beyond (getSide i h.beyond)
    let apart := match getSide (1 - i) h.smp with
      | some w => c.fld HHA_SLIDISC_CODE < (v - w).natAbs
      | none => false
    let m := runCount apart h.disc
    let was := (getSide i h.beyond, h.disc)
    let c := c.hhUp fun h =>
      { h with smp := setSide i (some v) h.smp, beyond := setSide i n h.beyond, disc := m, lost := setSide i false h.lost,
               smpAt := setSide i c.time h.smpAt }
    let c := c.when (c.flag HHA_HCTL_SLI_EN) fun c =>
      let c := c.when (was.1 < c.sliN && c.sliN ≤ n) (·.hhaReact 0xD)
      c.when (was.2 < c.sliN && c.sliN ≤ m) (·.hhaReact 0xE)
    c.sddDirection

/-- No sample without INV from a source for SLI_TO us. -/
def Chip.sliTimeout (c : Chip) (i : Nat) : Chip :=
  if !c.flag HHA_HCTL_SLI_EN || getSide i c.hh.lost || c.time < getSide i c.hh.smpAt + 2000 * c.fld HHA_SLICFG_SLI_TO then c
  else (c.hhUp fun h => { h with lost := setSide i true h.lost }).hhaReact 0xF

-- Register writes (R338, R351, R352)

/-- A refused write of HHA or CHH. -/
def Chip.refuseHha (c : Chip) : Chip := c.raiseHub ⟨7, 9, 2, HHA_HSTAT_REFUSED⟩
def Chip.refuseChh (c : Chip) : Chip := c.raiseCell ⟨7, 9, 2, CHH_HSTAT_REFUSED⟩

/-- Configuration words applied at the hub: refused in RUN where they would change something (R432), and where a value lies outside Table 15-12. -/
def Chip.hhaCfgWrite (c : Chip) (a : Nat) (ws : List Nat) : Chip :=
  let w := ws.getD 0 0
  let srcEn (i : Nat) : Bool := c.flag (BLV_MSRC_EN i)
  let bad :=
    if a == HHA_TXCFG then bits w 15 0 < 10 || 40000 < bits w 15 0 || c.fld HHA_RXCFG_WD_MAX < bits w 31 16
    else if a == HHA_RXCFG then bits w 7 0 == 0 || 200 < bits w 7 0 || bits w 31 20 < c.fld HHA_TXCFG_TXWD
    else if a == HHA_HCTL then 8 < bits w 7 4 || (bit w 2 && !c.flag HHA_HCTL_SLI_EN && !(srcEn 0 && srcEn 1))
    else false
  let chg := ws.zipIdx.any fun x => c.changes (a + 4 * x.2) x.1
  if (c.fld HHA_HSTAT_STATE == 1 && chg) || bad then c.refuseHha
  else
    let c := c.when (a == HHA_HCTL && bit w 0 != c.flag HHA_HCTL_RMODE) (·.setRq .hub {})
    let c := c.when (a == HHA_HCTL && bit w 2 && !c.flag HHA_HCTL_SLI_EN) fun c => c.hhUp fun h => { h with smpAt := (c.time, c.time) }
    (c.forEach ws.zipIdx fun x c => c.plainWrite (a + 4 * x.2) x.1).sddDirection

/-- Configuration written at the cell. -/
def Chip.chhCfgWrite (c : Chip) (a w : Nat) : Chip :=
  let bad := a == CHH_RXCFG && (bits w 7 0 == 0 || 200 < bits w 7 0)
  if (c.fld CHH_HSTAT_STATE == 1 && c.changes a w) || bad then c.refuseChh
  else
    let c := c.when (a == CHH_HCTL && bit w 0 != c.flag CHH_HCTL_RMODE) (·.setRq .cell {})
    (c.plainWrite a w).sddUpdate

/-- CFG_CRC written: a mismatch in RUN is cause 0x12 (R336). -/
def Chip.hhaCrcWrite (c : Chip) (w : Nat) : Chip :=
  let c := c.plainWrite HHA_CFG_CRC w
  c.when (c.fld HHA_HSTAT_STATE == 1 && !c.hhaCrcOk) (·.hhaReact 0x12)
def Chip.chhCrcWrite (c : Chip) (w : Nat) : Chip :=
  let c := c.plainWrite CHH_CFG_CRC w
  c.when (c.fld CHH_HSTAT_STATE == 1 && !c.chhCrcOk) (·.chhReact 0x12)

-- The commands

def execSafetyFrameSend (s : State) : Host.Outcome State Fault Refusal := .next (s.on (·.safetySend))
def execSafetyCopy (e : SafetyEnd) (second : Bool) (pdu : SafetyPdu) (s : State) : Host.Outcome State Fault Refusal :=
  .next (s.on fun c => c.safetyCopy e second pdu)
def execSetBroken (l : LaneId) (s : State) : Host.Outcome State Fault Refusal := .next (s.on fun c => c.setBroken (laneNum l))
def execCopyWindowExpiry (e : SafetyEnd) (seq : Word) (s : State) : Host.Outcome State Fault Refusal :=
  .next (s.on fun c => c.windowEnd e seq)
def execSafetyWatchdog (e : SafetyEnd) (s : State) : Host.Outcome State Fault Refusal := .next (s.on fun c => c.safetyDog e)
def execRqFall (p : Part) (s : State) : Host.Outcome State Fault Refusal := .next (s.on fun c => c.rqFall p)
def execRqRise (p : Part) (s : State) : Host.Outcome State Fault Refusal := .next (s.on fun c => c.rqRise p)
def execRqLevelTimer (p : Part) (s : State) : Host.Outcome State Fault Refusal := .next (s.on fun c => c.rqLevel p)
def execSbkReq (p : Part) (s : State) : Host.Outcome State Fault Refusal := .next (s.on fun c => c.sbkReq p)
def execSlv (s : State) : Host.Outcome State Fault Refusal := .next (s.on (·.slvTrip))
def execSlvTest (changed : Bool) (s : State) : Host.Outcome State Fault Refusal := .next (s.on fun c => c.slvTest changed)
def execSliTimeout (sec : Bool) (s : State) : Host.Outcome State Fault Refusal := .next (s.on fun c => c.sliTimeout (b2n sec))
def execSddMaskCheck (g : Fin 4) (s : State) : Host.Outcome State Fault Refusal :=
  .next (s.on fun c => c.sddCheck g)
def execSstop (_n : Fin 2) (s : State) : Host.Outcome State Fault Refusal := .next (s.on fun c => c.sstop 0x10)
def execSinDisc (s : State) : Host.Outcome State Fault Refusal := .next (s.on fun c => c.sstop 0x11)
def execRcOscStop (s : State) : Host.Outcome State Fault Refusal := .next (s.on (·.rcStop))
def execDeblock (_r : Requester) (s : State) : Host.Outcome State Fault Refusal := .next (s.on (·.deblock))

end Sys2Proof.Machine
end

