-- ==== Sys2Proof/Machine/Glasshouse.lean ====
section
/-!
DEFINITION. Glasshouse, the recorder of hub and cell, and LDD: channels, entries, triggers, cross-triggers, records and their headers
(R353 to R372). Hub channel c is c, cell channel c is 16 + c.
-/
namespace Sys2Proof.Machine

-- Channels and their registers (Tables 16-5, 16-6)

def Chip.setChState (c : Chip) (ch st : Nat) : Chip := c.setFld ⟨chBase ch + 4, 2, 0⟩ st
def Chip.chSlot (c : Chip) (ch : Nat) : Nat := c.chFld ch 4 7 4
def Chip.setChSlot (c : Chip) (ch n : Nat) : Chip := c.setFld ⟨chBase ch + 4, 7, 4⟩ n
def Chip.chDone (c : Chip) (ch : Nat) : Nat := c.chFld ch 4 23 8
def Chip.setChDone (c : Chip) (ch v : Nat) : Chip := c.setFld ⟨chBase ch + 4, 23, 8⟩ v
def Chip.chPre (c : Chip) (ch : Nat) : Nat := c.chFld ch 0x28 23 0
def Chip.chPost (c : Chip) (ch : Nat) : Nat := c.chFld ch 0x2C 23 0
def Chip.chSlots (c : Chip) (ch : Nat) : Nat := c.chFld ch 0x24 19 16 + 1
def Chip.chSize (c : Chip) (ch : Nat) : Nat := c.chFld ch 0x24 15 0
/-- Entries of a slot's data area. -/
def Chip.chData (c : Chip) (ch : Nat) : Nat := c.chSize ch * 256 - 4
/-- Channels of the same part. -/
def partChs (ch : Nat) : List Nat := if isCellCh ch then [16, 17] else List.range 16

-- Recorder memory

/-- The address of a slot's header in the LPDDR4X memory, or in the recorder SRAM of the cell. -/
def Chip.slotAddr (c : Chip) (ch slot : Nat) : Nat :=
  (if isCellCh ch then 0x21000000 else 0) + (c.chFld ch 0x20 20 0 + slot * c.chSize ch) * 4096

/-- A word of recorder memory. -/
def Chip.recWord (c : Chip) (ch a : Nat) : Nat := if isCellCh ch then c.cellWord a else memNat c.lddMem a 4
def Chip.setRecWord (c : Chip) (ch a v : Nat) : Chip :=
  if isCellCh ch then (c.setCellWord a v).eccCellWrite 2 a else { c with lddMem := memSetNat c.lddMem a 4 v }
def Chip.setRecWords (c : Chip) (ch a : Nat) : List Nat → Chip
  | [] => c
  | w :: ws => (c.setRecWord ch a w).setRecWords ch (a + 4) ws

/-- Where the entry with number `i` since arming stands. -/
def Chip.entAddr (c : Chip) (ch i : Nat) : Nat := c.slotAddr ch (c.chSlot ch) + 64 + 16 * (i % Nat.max (c.chData ch) 1)

/-- The FT in ns of the part that a channel belongs to, and its tick. -/
def Chip.recFt (c : Chip) (ch : Nat) : Nat := if isCellCh ch then c.cellFtNs else c.ftNs
def Chip.recTick (c : Chip) (ch : Nat) : Nat := if isCellCh ch then c.ctick else c.tick

/-- The number of the oldest entry held. -/
def Chip.oldest (c : Chip) (ch : Nat) : Nat := (c.recd ch).n - c.chData ch

-- Triggers (R358 to R362)

/-- The trigger field of a payload. -/
def Chip.trigField (c : Chip) (ch pay : Nat) : Int :=
  let w := c.chFld ch 0x10 10 6 + 1
  let v := pay / 2 ^ c.chFld ch 0x10 5 0 % 2 ^ w
  if c.chFld ch 0x10 11 11 == 1 then toSigned w v else v

/-- TLEVEL, TMASK and TVAL; TLEVEL is signed with the field. -/
def Chip.tlevel (c : Chip) (ch : Nat) : Int :=
  let v := c.reg (chBase ch + 0x14)
  if c.chFld ch 0x10 11 11 == 1 then toSigned 32 v else v

/-- The trigger test of an entry against the previous one of its SRCID: f and TRIG_FT where it triggers. -/
def Chip.entryTrig (c : Chip) (ch srcid pay ft : Nat) (prev : Option (Nat × Nat)) : Option (Nat × Nat) :=
  let mode := c.chFld ch 0 10 8
  let tsrc := c.chFld ch 0xC 31 24
  if tsrc != 0xFF && tsrc != srcid then none
  else if mode == 4 then
    let v := pay / 2 ^ c.chFld ch 0x10 5 0 % 2 ^ (c.chFld ch 0x10 10 6 + 1)
    if v &&& c.reg (chBase ch + 0x18) == c.reg (chBase ch + 0x1C) then some (0, ft) else none
  else
    match prev with
    | none => none
    | some (p0, ft0) =>
      let v0 := c.trigField ch p0
      let v1 := c.trigField ch pay
      let t := c.tlevel ch
      let up := v0 < t && t ≤ v1 && (mode == 1 || mode == 3)
      let down := t ≤ v0 && v1 < t && (mode == 2 || mode == 3)
      if up || down then
        let f := 256 * (t - v0).natAbs / (v1 - v0).natAbs
        some (f, wrapNat 64 ((ft0 : Int) + ((ft : Int) - ft0) * f / 256))
      else none

/-- MISSED of a channel (R361). -/
def Chip.missTrig (c : Chip) (ch : Nat) : Chip := (c.bump (chBase ch + 0x30)).recdUp ch fun x => { x with missed := x.missed + 1 }

/-- ALIGN as a header records it. -/
def Chip.alignOf (c : Chip) (ch : Nat) : Nat := if isCellCh ch then 0 else c.fld SDL_TDSTAT_ALIGN

/-- A channel takes its trigger at entry `idx`: POST begins. An f of 256, which [7:0] of word 6 cannot hold, is a free value there. -/
def Chip.fireTrig (c : Chip) (ch : Nat) (t : RTrig) : Chip :=
  let r := if t.f < 256 then (t.f, c) else (c.draw.1 % 256, c.draw.2)
  let t := { t with f := r.1, pre := Nat.min (c.chPre ch) (t.idx - c.oldest ch), align := c.alignOf ch, at' := c.recTick ch }
  (r.2.recdUp ch fun x => { x with trig := some t, force := false, stamps := [] }).setChState ch 2

/-- An XTRIG of channel `ch` (R364). -/
def Chip.xtrigSend (c : Chip) (ch ft : Nat) : Chip :=
  let q := c.gls.xseq
  let c := { c with gls := { c.gls with xseq := (q + 1) % 65536 } }
  c.originate [0, 1] (fun s =>
    mkHdr 0x30 true true 3 (c.fld GTH_GCTL_TTL_INIT) (c.fld GLS_GCTL_XGRP) (c.fld GTH_GSTAT_NODE_ID) 0xF 0 0 false s 16 0 0)
    [] (bytesLE 8 ft ++ bytesLE 1 ch ++ bytesLE 2 q ++ bytesLE 5 0) none

/-- FT of an entry: memory holds its low 48 bits, the others put it nearest to the present FT (R355). -/
def Chip.entFt (c : Chip) (ch i : Nat) : Nat :=
  let a := c.entAddr ch i
  let v : Nat := c.recWord ch a + c.recWord ch (a + 4) % 65536 * 2 ^ 32
  wrapNat 64 (c.recFt ch + toSigned 48 (wrapNat 48 ((v : Int) - c.recFt ch)))

/-- ETYPE of an entry is that of a GAP. -/
def Chip.entGap (c : Chip) (ch i : Nat) : Bool := bits (c.recWord ch (c.entAddr ch i + 4)) 23 16 == 0xFE

/-- The first entry from number `i` on, `n` of them, that is no GAP and satisfies `p`. -/
def Chip.findEntry (c : Chip) (ch : Nat) (p : Nat → Bool) : Nat → Nat → Option Nat
  | 0, _ => none
  | n + 1, i => if !c.entGap ch i && p i then some i else c.findEntry ch p n (i + 1)

/-- An XTRIG is due for the trigger of a channel: XOUT and XEN, and not for a received trigger alone (R364). -/
def Chip.sendsXtrig (c : Chip) (ch : Nat) : Bool := !isCellCh ch && c.chFld ch 0 12 12 == 1 && c.flag GLS_GCTL_XEN

/-- A further trigger in the tick in which the trigger entry was decided: one trigger of both, at the earlier entry (R361). -/
def Chip.mergeTrig (c : Chip) (ch : Nat) (g t : RTrig) : Chip :=
  let first := if t.idx < g.idx then { t with pre := Nat.min (c.chPre ch) (t.idx - c.oldest ch), align := g.align, at' := g.at' } else g
  let m := { first with src := g.src ||| t.src, quiet := g.quiet && t.quiet, org := if bit g.src 1 then g.org else t.org }
  let c := c.recdUp ch fun x => { x with trig := some m }
  c.when (g.quiet && !t.quiet && c.sendsXtrig ch) fun c => c.xtrigSend ch m.ft

/-- The trigger of a channel in POST that was decided in this tick. -/
def Chip.trigNow (c : Chip) (ch : Nat) : Option RTrig :=
  if c.chState ch == 2 then (c.recd ch).trig.filter fun g => g.at' == c.recTick ch else none

/-- A stamp given to a channel (R361, R362, R365): XTRIG, CHIN or TRIG_AT. The channels that follow it by CHIN are answered too. -/
def Chip.stampTrig (c : Chip) (ch : Nat) (s : RStamp) : Bool × Chip :=
  if !c.chEn ch || c.chMode ch == 0 then (false, if c.chEn ch then c else c.missTrig ch)
  else
    let x := c.recd ch
    let lo := c.oldest ch
    let early := lo < x.n && s.ft < c.entFt ch lo
    let src := 2 ^ s.bit
    let found := c.findEntry ch (fun i => s.ft ≤ c.entFt ch i) (x.n - lo) lo
    let trig (i : Nat) : RTrig := { idx := i, src := src, early := early, ft := c.entFt ch i, pre := 0, org := s.org, quiet := s.quiet }
    if c.chState ch == 1 then
      match found with
      | none => (false, c.recdUp ch fun x => { x with stamps := x.stamps ++ [{ s with early := early }] })
      | some i => (true, c.fireTrig ch (trig i))
    else match c.trigNow ch with
      | some g => (false, c.mergeTrig ch g (trig (found.getD x.n)))
      | none => (false, c.missTrig ch)

/-- Channels that follow a list of channels by CHIN, each with its stamp and whether it goes back to a received trigger, for at most `n`
further links: a follower that triggers sends its own XTRIG. -/
def Chip.chinAll (c : Chip) : Nat → List (Nat × Nat × Bool) → Chip
  | 0, _ => c
  | n + 1, l =>
    let r := l.foldl (fun (x : Chip × List (Nat × Nat × Bool)) t =>
      ((partChs t.1).filter fun d => d != t.1 && bit (x.1.chFld d 0 31 16) (t.1 % 16)).foldl (fun y d =>
        let z := y.1.stampTrig d { ft := t.2.1, bit := 3, quiet := t.2.2 }
        let ft := match (z.2.recd d).trig with
          | some g => g.ft
          | none => 0
        if z.1 then (z.2.when (!t.2.2 && z.2.sendsXtrig d) fun c => c.xtrigSend d ft, y.2 ++ [(d, ft, t.2.2)]) else (z.2, y.2)) x) (c, [])
    r.1.chinAll n r.2

/-- A trigger of a channel is passed on: by CHIN, and by XTRIG where it came from no received trigger (R362, R364). -/
def Chip.passTrig (c : Chip) (ch : Nat) : Chip :=
  match (c.recd ch).trig with
  | none => c
  | some t => (c.when (!t.quiet && c.sendsXtrig ch) fun c => c.xtrigSend ch t.ft).chinAll 16 [(ch, t.ft, t.quiet)]

-- Writing entries (R356, R357, R363)

/-- An entry written at the channel's next index. -/
def Chip.putEntry (c : Chip) (ch : Nat) (ft etype srcid pay : Nat) : Chip :=
  let n := (c.recd ch).n
  let c := c.setRecWords ch (c.entAddr ch n) [ft, ft / 2 ^ 32 % 2 ^ 16 + etype * 2 ^ 16 + srcid * 2 ^ 24, pay, pay / 2 ^ 32]
  c.recdUp ch fun x => { x with n := n + 1 }

/-- Entries that follow the trigger entry. -/
def Recd.after (x : Recd) : Nat := match x.trig with
  | some t => x.n - 1 - t.idx
  | none => 0

/-- An entry of the channel's source (R357, R358, R361, R365). -/
def Chip.writeEntry (c : Chip) (ch : Nat) (e : RIn) : Chip :=
  let x := c.recd ch
  let st := c.chState ch
  let lv := if c.chMode ch == 0 then none
    else c.entryTrig ch e.srcid e.pay e.ft (Assoc.get (fun _ => none) x.prev e.srcid)
  let c := c.recdUp ch fun x => { x with prev := Assoc.set (fun _ => none) x.prev e.srcid (some (e.pay, e.ft)) }
  if st == 1 then
    let c := c.putEntry ch e.ft e.etype e.srcid e.pay
    if c.chMode ch == 0 then c
    else
      let due := x.stamps.filter fun s => s.ft ≤ e.ft
      let src := (if lv.isSome then 1 else 0) + (if x.force then 4 else 0) + due.foldl (fun v s => v ||| 2 ^ s.bit) 0
      if src == 0 then c
      else
        let l := lv.getD (0, e.ft)
        let org := match due.find? fun s => s.bit == 1 with
          | some s => s.org
          | none => (0, 0, 0)
        (c.fireTrig ch { idx := x.n, f := l.1, src := src, early := due.any (·.early), ft := l.2, pre := 0, org := org,
                         quiet := lv.isNone && !x.force && due.all (·.quiet) }).passTrig ch
  else
    let c := c.when (st == 2 && x.after < c.chPost ch) fun c => c.putEntry ch e.ft e.etype e.srcid e.pay
    match lv, c.trigNow ch with
    | some l, some g => c.mergeTrig ch g { idx := x.n, f := l.1, src := 1, ft := l.2, pre := 0 }
    | some _, none => c.missTrig ch
    | none, _ => c

/-- The front entry of the input FIFO is written, unless entries were lost before it and their GAP has yet to be (R363). -/
def Chip.recEntry (c : Chip) (ch : Nat) : Chip :=
  match (c.recd ch).fifo with
  | [] => c
  | e :: es => if !c.chEn ch || e.lost.isSome then c else (c.recdUp ch fun x => { x with fifo := es }).writeEntry ch e

/-- REC_GAP of the part. -/
def Chip.raiseGap (c : Chip) (ch : Nat) : Chip :=
  if isCellCh ch then c.raiseCell ⟨8, 0, 2, noFlag CGS_GSTAT⟩ else c.raiseHub ⟨8, 0, 2, noFlag GLS_GSTAT⟩

/-- The entries lost whose GAP stands next, and the channel without them. -/
def Recd.nextLost (x : Recd) : Option (RLost × Recd) :=
  match x.fifo with
  | e :: es => e.lost.map fun l => (l, { x with fifo := { e with lost := none } :: es })
  | [] => x.lost.map fun l => (l, { x with lost := none })

/-- One GAP entry in the place of the lost entries that stand next (R363). -/
def Chip.recGap (c : Chip) (ch : Nat) : Chip :=
  if !c.chEn ch then c
  else match (c.recd ch).nextLost with
    | none => c
    | some (l, x) =>
      let st := c.chState ch
      let c := (c.bumpBy (chBase ch + 0x34) l.n).recdUp ch fun _ => { x with prev := [] }
      if !(st == 1 || (st == 2 && x.after < c.chPost ch)) then c
      else
        let c := (c.putEntry ch l.first 0xFE 0 (l.n % 2 ^ 32 + l.last % 2 ^ 32 * 2 ^ 32)).recdUp ch fun y =>
          { y with gaps := y.gaps ++ [(x.n, l.n)] }
        (c.bump (chBase ch + 0x38)).raiseGap ch

-- Records (R357, R366)

/-- The header of the record in the present slot, word 15 last. `flags` holds CONT and TRUNC at bits 17 and 18 of word 6. -/
def Chip.putHeader (c : Chip) (ch flags : Nat) : Chip :=
  let x := c.recd ch
  let t : RTrig := match x.trig with
    | some t => t
    | none => { idx := x.n - 1, src := 0, ft := c.entFt ch (x.n - 1), pre := x.n - 1 - c.oldest ch, align := c.alignOf ch }
  let post := Nat.min (x.n - 1 - t.idx) (if x.trig.isSome then c.chPost ch else 0)
  let d := Nat.max (c.chData ch) 1
  let held := x.gaps.filter fun g => t.idx ≤ g.1 + t.pre && g.1 ≤ t.idx + post
  let rseq := (x.rseq + 1) % 65536
  let valid := if x.n == 0 then 0 else 1
  let ws := [0x474C5352, ch % 16 + c.chSlot ch * 2 ^ 4 + c.chFld ch 0 6 4 * 2 ^ 8 + rseq * 2 ^ 16, t.pre, post, (t.idx - t.pre) % d, t.idx % d,
    t.f + t.src * 2 ^ 8 + b2n t.early * 2 ^ 16 + flags, t.ft, t.ft / 2 ^ 32, held.length, held.foldl (fun s g => s + g.2) 0, x.missed,
    t.org.1 + t.org.2.1 * 2 ^ 16, t.org.2.2, t.align, valid]
  let c := c.setRecWords ch (c.slotAddr ch (c.chSlot ch)) ws
  let c := c.recdUp ch fun y => { y with rseq := rseq, missed := 0 }
  (c.bump (chBase ch + 0x3C)).setChDone ch (c.chDone ch ||| 2 ^ c.chSlot ch)

/-- The channel arms in a slot. -/
def Chip.armSlot (c : Chip) (ch slot : Nat) : Chip :=
  ((c.setChSlot ch slot).setChState ch 1).recdUp ch fun x =>
    { x with n := 0, gaps := [], force := false, stamps := [], trig := none }

/-- The next slot after the present one that is not DONE. -/
def Chip.freeSlot (c : Chip) (ch : Nat) : Option Nat :=
  let n := c.chSlots ch
  ((List.range n).map fun i => (c.chSlot ch + 1 + i) % n).find? fun s => !bit (c.chDone ch) s

/-- POST entries have followed the trigger entry: the header is written in REARM. -/
def Chip.postComplete (c : Chip) (ch : Nat) : Chip :=
  if c.chEn ch && c.chState ch == 2 && c.chPost ch ≤ (c.recd ch).after then
    ((c.putHeader ch 0).setChState ch 3).recdUp ch fun x => { x with heldAt := c.time }
  else c

/-- HOLDOFF us have passed in REARM: the next free slot, or FULL; a channel of MODE 1 stays in FULL. -/
def Chip.holdoffEnd (c : Chip) (ch : Nat) : Chip :=
  if !c.chEn ch || c.chState ch != 3 || c.time < (c.recd ch).heldAt + 2000 * c.chFld ch 0x24 31 20 then c
  else if c.chMode ch == 1 then c.setChState ch 4
  else match c.freeSlot ch with
    | some s => c.armSlot ch s
    | none => c.setChState ch 4

/-- RELEASE: DONE of the selected slots clears, and a FULL channel re-arms (R357, R367). -/
def Chip.recRelease (c : Chip) (ch mask : Nat) : Chip :=
  let v := c.chDone ch
  let c := c.setChDone ch (v - (v &&& mask))
  if c.chEn ch && c.chState ch == 4 && c.chMode ch == 2 then
    match c.freeSlot ch with
    | some s => c.armSlot ch s
    | none => c
  else c

/-- FORCE: the next entry written triggers (R362). -/
def Chip.recForce (c : Chip) (ch : Nat) : Chip :=
  if c.chEn ch && c.chMode ch == 0 then c
  else if c.chEn ch && c.chState ch == 1 then c.recdUp ch fun x => { x with force := true }
  else if !c.chEn ch then c.missTrig ch
  else match c.trigNow ch with
    | some g => c.mergeTrig ch g { idx := (c.recd ch).n, src := 4, ft := g.ft, pre := 0 }
    | none => c.missTrig ch

-- Cross-triggers (R364, R365)

/-- An XTRIG received: discarded when it is one of the last eight accepted. -/
def Chip.xtrigRx (c : Chip) (node ft chan xseq : Nat) : Chip :=
  if c.gls.seen.contains (node, xseq) then c
  else
    let c := { c with gls := { c.gls with seen := ((node, xseq) :: c.gls.seen).take 8 } }
    let own := node == c.fld GTH_GSTAT_NODE_ID
    c.forEach ((List.range 16).filter fun ch => c.chFld ch 0 11 11 == 1 && !(own && ch == chan)) fun ch c =>
      let r := c.stampTrig ch { ft := ft, bit := 1, org := (node, chan, xseq), quiet := true }
      r.2.when r.1 (·.passTrig ch)

/-- The high word of TRIG_AT written: the stamp is given to every cell channel with XIN. -/
def Chip.trigAt (c : Chip) (ws : List Nat) : Chip :=
  let c := c.setWords CGS_TRIG_AT ws
  let ft := c.reg64 CGS_TRIG_AT
  c.forEach ([16, 17].filter fun ch => c.chFld ch 0 11 11 == 1) fun ch c =>
    let r := c.stampTrig ch { ft := ft, bit := 4, quiet := true }
    r.2.when r.1 (·.passTrig ch)

-- Register writes (R356, R370, R371)

/-- Bytes of recorder memory: of the LPDDR4X devices by SIZE, and of the recorder SRAM. -/
def Chip.recBytes (c : Chip) (ch : Nat) : Nat :=
  if isCellCh ch then 0x20000
  else match c.fld LDD_LDSTAT_SIZE with
    | 0 => 0
    | n => 2 ^ (29 + n)

def Chip.recReady (c : Chip) (ch : Nat) : Bool := isCellCh ch || c.flag LDD_LDSTAT_READY

/-- A refused write (R370). -/
def Chip.refuseRec (c : Chip) (ch : Nat) : Chip :=
  if isCellCh ch then c.raiseCell ⟨8, 1, 2, CGS_GSTAT_REFUSED⟩ else c.raiseHub ⟨8, 1, 2, GLS_GSTAT_REFUSED⟩

/-- A channel's region in 4 KB units: its first and the one after its last. -/
def Chip.region (c : Chip) (ch : Nat) : Nat × Nat :=
  let b := c.chFld ch 0x20 20 0
  (b, b + c.chSlots ch * c.chSize ch)

/-- EN may be set on a channel. -/
def Chip.enOk (c : Chip) (ch : Nat) : Bool :=
  let r := c.region ch
  c.recReady ch && c.chPre ch + c.chPost ch + 1 ≤ c.chData ch && r.2 * 4096 ≤ c.recBytes ch
    && ((partChs ch).all fun d => d == ch || !c.chEn d || (c.region d).2 ≤ r.1 || r.2 ≤ (c.region d).1)

/-- A write of CCTL: EN set arms the channel, EN cleared writes the header. -/
def Chip.cctlWrite (c : Chip) (ch w : Nat) : Chip :=
  let bad := 5 ≤ bits w 10 8 || bits w 2 1 == 3
  if c.chEn ch then
    if bit w 0 then (if c.changes (chBase ch) w then c.refuseRec ch else c)
    else if bad then c.refuseRec ch
    else
      let st := c.chState ch
      let mode := c.chMode ch
      let c := c.when (st == 1 || st == 2) fun c => c.putHeader ch (b2n (mode == 0) * 2 ^ 17 + b2n (st == 2) * 2 ^ 18)
      (((c.bumpBy (chBase ch + 0x34) (c.recd ch).lostSum).recdUp ch fun x => { x with fifo := [], lost := none }).plainWrite (chBase ch) w).setChState ch 0
  else if bad || (bit w 0 && !c.enOk ch) then c.refuseRec ch
  else
    let c := c.plainWrite (chBase ch) w
    if !bit w 0 then c
    else
      let c := c.forEach (List.range (c.chSlots ch)) fun s c => c.setRecWord ch (c.slotAddr ch s + 60) 0
      ((c.setChDone ch 0).recdUp ch fun _ => {}).armSlot ch 0

/-- A write of another channel register: refused while EN is 1 where it would change something, and SLOTSZ 0. -/
def Chip.chRegWrite (c : Chip) (ch a w : Nat) : Chip :=
  if (c.chEn ch && c.changes a w) || (a == chBase ch + 0x24 && bits w 15 0 == 0) then c.refuseRec ch else c.plainWrite a w

/-- A write of CCMD. -/
def Chip.ccmdWrite (c : Chip) (ch w : Nat) : Chip :=
  (c.recRelease ch (bits w 31 16)).when (bit w 0) (·.recForce ch)

-- LDD (R353)

/-- A write of LDCTL: setting EN starts training. -/
def Chip.ldctlWrite (c : Chip) (w : Nat) : Chip :=
  let start := bit w 0 && !c.flag LDD_LDCTL_EN
  (c.plainWrite LDD_LDCTL w).when start fun c => (c.clrFlag LDD_LDSTAT_READY).setFld LDD_LDSTAT_SIZE 0

/-- Training ends. -/
def Chip.trainingDone (c : Chip) (ok : Bool) (size : Nat) : Chip :=
  if !c.flag LDD_LDCTL_EN then c
  else if ok then
    ((c.raiseFlag LDD_LDSTAT_READY).setFld LDD_LDSTAT_SIZE size).setFld LDD_LDSTAT_RATE (c.fld LDD_LDCTL_RATE_LIM)
  else (c.clrFlag LDD_LDSTAT_READY).raiseHub ⟨12, 0, 3, LDD_LDSTAT_TRAIN_FAIL⟩

/-- MR4 read: LDD_TEMP is raised as the temperature leaves the range. -/
def Chip.mr4Read (c : Chip) (v : Nat) (inRange : Bool) : Chip :=
  let was := c.gls.hot
  let c := (c.setFld LDD_LDSTAT_MR4 v)
  let c := { c with gls := { c.gls with hot := !inRange } }
  c.when (!inRange && !was) (·.raiseHub ⟨12, 1, 2, noFlag LDD_LDSTAT⟩)

-- The commands

/-- A command of a channel that exists. -/
def onChannel (s : State) (p : Part) (c : Fin 16) (f : Nat → Chip → Chip) : Host.Outcome State Fault Refusal :=
  .next (s.on fun x => match chNum p c with
    | some ch => f ch x
    | none => x)

def execRecorderEntry (p : Part) (c : Fin 16) (s : State) : Host.Outcome State Fault Refusal := onChannel s p c fun ch x => x.recEntry ch
def execPostComplete (p : Part) (c : Fin 16) (s : State) : Host.Outcome State Fault Refusal := onChannel s p c fun ch x => x.postComplete ch
def execHoldoffExpiry (p : Part) (c : Fin 16) (s : State) : Host.Outcome State Fault Refusal := onChannel s p c fun ch x => x.holdoffEnd ch
def execGap (p : Part) (c : Fin 16) (s : State) : Host.Outcome State Fault Refusal := onChannel s p c fun ch x => x.recGap ch
def execForce (p : Part) (c : Fin 16) (s : State) : Host.Outcome State Fault Refusal := onChannel s p c fun ch x => x.recForce ch
def execRecorderRelease (p : Part) (c : Fin 16) (mask : BitVec 16) (s : State) : Host.Outcome State Fault Refusal :=
  onChannel s p c fun ch x => x.recRelease ch mask.toNat
def execXtrig (node : BitVec 10) (ft : DWord) (chan : BitVec 4) (xseq : BitVec 16) (s : State) : Host.Outcome State Fault Refusal :=
  .next (s.on fun c => c.xtrigRx node.toNat ft.toNat chan.toNat xseq.toNat)
def execTrigAt (r : Requester) (hi : Word) (s : State) : Host.Outcome State Fault Refusal :=
  .next (s.on fun c => if hubRequester r then c else (let x := c.applyWords r CGS_TRIG_AT 2 hi.toNat; x.2.trigAt x.1))
def execCctlWrite (p : Part) (c : Fin 16) (w : Word) (s : State) : Host.Outcome State Fault Refusal :=
  onChannel s p c fun ch x => x.cctlWrite ch w.toNat
def execLddEn (w : Word) (s : State) : Host.Outcome State Fault Refusal := .next (s.on fun c => c.ldctlWrite w.toNat)
def execTrainingDone (ok : Bool) (size : Fin 5) (s : State) : Host.Outcome State Fault Refusal :=
  .next (s.on fun c => c.trainingDone ok size)
def execMr4Read (v : Byte) (inRange : Bool) (s : State) : Host.Outcome State Fault Refusal :=
  .next (s.on fun c => c.mr4Read v.toNat inRange)

end Sys2Proof.Machine
end

