-- ==== Sys2Proof/Machine/Plan.lean ====
section
/-!
DEFINITION. Planning: keys, lists, the arm-wide merge, orders, re-plans and repair, and Bandstand's relay and test of commits (R95,
R96, R112 to R129).
-/
namespace Sys2Proof.Machine

-- Keys and lists (R113 to R115)

/-- The sign of the expected state of a cell with given ranks, by a forecast or a commit (R113). -/
def expected (rank : Option (Nat × Nat)) (n : Nat) (dir neg : Bool) : Int :=
  match rank with
  | none => 0
  | some (rc, rd) => if (if dir then rd else rc) < n then (if neg then -1 else 1) else 0

def sat16 (i : Int) : Nat := (clampInt 0 0xFFFF i).toNat

/-- The key base of a ranked cell for an expected state. -/
def PCell.base (x : PCell) (s : Int) : Nat := if s < 0 then x.baseN else if s == 0 then x.base0 else x.baseP

/-- The two keys of a cell (R114). -/
def PCell.keys (x : PCell) (hyst : Nat) (s : Int) : Nat × Nat :=
  let h : Int := if s == 0 then 0 else hyst
  (sat16 (x.base s - h + x.w), sat16 (x.base s + h - x.w))

/-- A list of (key, lane) with one more entry, smallest key first, lower lane first among equals; `rev` puts the largest first. -/
def insertKey (rev : Bool) (e : Nat × Nat) : List (Nat × Nat) → List (Nat × Nat)
  | [] => [e]
  | x :: xs =>
    let before := if rev then x.1 < e.1 else e.1 < x.1
    if before || (x.1 == e.1 && e.2 < x.2) then e :: x :: xs else x :: insertKey rev e xs

-- Merging (R117, R129)

/-- An entry of a merge: key, KEY_ID, position in its list, source node, lane. -/
structure MEnt where
  key : Nat
  keyId : Nat
  pos : Nat
  src : Nat
  lane : Nat
deriving DecidableEq, Repr

def MEnt.before (rev : Bool) (a b : MEnt) : Bool :=
  if a.key != b.key then (if rev then b.key < a.key else a.key < b.key)
  else if a.keyId != b.keyId then a.keyId < b.keyId
  else a.pos < b.pos

def insertEnt (rev : Bool) (e : MEnt) : List MEnt → List MEnt
  | [] => [e]
  | x :: xs => if e.before rev x then e :: x :: xs else x :: insertEnt rev e xs

/-- The merged order of one direction. -/
def Merge.order (m : Merge) (rev : Bool) : List MEnt :=
  (m.lists.flatMap fun x => ((if rev then x.2.2.2 else x.2.2.1).zipIdx).map fun e =>
    { key := e.1.1, keyId := x.2.1, pos := e.2, src := x.1, lane := e.1.2 : MEnt }).foldl (fun l e => insertEnt rev e l) []

/-- The ranks of one source's list, in the list's order. -/
def ranksOf (l : List MEnt) (src : Nat) (n : Nat) : List Nat :=
  (List.range n).map fun p => (l.findIdx? fun e => e.src == src && e.pos == p).getD 0xFFF

/-- The digest of a merged order: KEY_ID in two bytes and the lane, in rank order. -/
def mergeDigest (l : List MEnt) : Nat := crc32 (l.flatMap fun e => bytesLE 2 e.keyId ++ bytesLE 1 e.lane)

-- GATHER and RANKS frames (Table 5-4)

/-- 192 values of 12 bits, as bytes: two values in three bytes. -/
def pack12 : Nat → List Nat → List Byte
  | 0, _ => []
  | n + 1, l => bytesLE 3 (l.getD 0 0xFFF + l.getD 1 0xFFF * 2 ^ 12) ++ pack12 n (l.drop 2)

/-- The keys of a list, padded to 192. -/
def packKeys (l : List (Nat × Nat)) : List Byte := (List.range 192).flatMap fun i => bytesLE 2 (l.getD i (0, 0)).1

/-- The plane on which lists and ranks travel. -/
def Chip.planPlane (c : Chip) : Nat := c.fld BLV_BCTL_PLANE

/-- The words KSPEC of a planning frame: tag, KEY_ID, context and the counts. -/
def planK4 (tag keyId ctx : Nat) : Nat := tag + keyId * 2 ^ 12 + ctx * 2 ^ 22
def planK5 (nc nd : Nat) : Nat := nc + nd * 2 ^ 8

def Chip.sendGather (c : Chip) (p : PRun) (keyId : Nat) : Chip :=
  let pay := packKeys p.lc ++ packKeys p.ld
  c.originate [c.planPlane] (fun q => c.hubHdr 0x10 false (c.planPlane + 1) (c.fld BLV_GROUP_LEAD_ID) pay.length
    (planK4 (p.slot % 4096) keyId (p.slot % 2)) (planK5 p.lc.length p.ld.length) q) [] pay none

def Chip.sendRanks (c : Chip) (slot dst : Nat) (rc rd : List Nat) : Chip :=
  let pay := pack12 96 rc ++ pack12 96 rd
  c.originate [c.planPlane] (fun q => c.hubHdr 0x11 false (c.planPlane + 1) dst pay.length (planK4 (slot % 4096) 0 (slot % 2))
    (planK5 rc.length rd.length) q) [] pay none

-- Orders (R96, R119, R123, R125)

def Chip.theRun (c : Chip) (k : Nat) : Option PRun := c.blv.runs.find? fun p => p.slot == k
def Chip.endRun (c : Chip) (k : Nat) : Chip := c.blvUp fun b => { b with runs := b.runs.filter fun p => p.slot != k }

/-- A re-plan whose orders are not all handed over in time is abandoned (R125). -/
def Chip.replanLate (c : Chip) : Chip := (c.bump BND_REPLAN_LATE_CNT).raiseHub ⟨4, 2, 2, BND_NSTAT_REPLAN_LATE⟩

/-- Ticks until the base reaches the start of slot `k`, none if it does not advance (R38). -/
def Chip.ticksTo (c : Chip) (k : Nat) : Option Nat :=
  let d := 2 + c.fld SDL_SCTL_ARM_BASE
  let inc := c.reg64 (SDL_INC d)
  let at_ := slotStart c.slotsH (c.reg BLV_SLOT_ORG) k * one40
  if at_ ≤ (c.dom d).acc then some 0
  else if inc == 0 || !c.flag (SDL_DCTL_RUN d) then none
  else some ((at_ - (c.dom d).acc + inc - 1) / inc)

/-- The stagger-0 commit deadline of slot `k`, 60 ns before its start, has passed. -/
def Chip.pastDeadline (c : Chip) (k : Nat) : Bool := (c.ticksTo k).any fun t => t < 60

/-- An ORDER or REPAIR (Table 4-2). -/
def orderBlock (repair : Bool) (tag rc rd gen : Nat) (tjw : Bool) : DWord :=
  mkBlock (if repair then 0x42 else 0x41) (tag * 2 ^ 32 + rc * 2 ^ 20 + rd * 2 ^ 8 + gen * 2 ^ 6 + b2n tjw * 2 ^ 5)

/-- The order handed to a lane for a slot, recorded. -/
def Chip.recordOrder (c : Chip) (k l rc rd : Nat) (aborted : Bool) : Chip :=
  c.blvUp fun b =>
    let old := (Assoc.get (fun _ => []) b.sent k).filter fun x => x.1 != l
    { b with sent := Assoc.set (fun _ => []) b.sent k ((l, rc, rd, aborted) :: old) }

/-- The position of a lane in a list of (key, lane). -/
def posOf (l : List (Nat × Nat)) (lane : Nat) : Option Nat := l.findIdx? fun e => e.2 == lane

/-- The ranks of a plan have come, as lists in the order of the hub's lists: every lane of the arm is handed its ORDER or REPAIR;
a re-plan that comes too late is abandoned. -/
def Chip.handOrders (c : Chip) (p : PRun) (rc rd : List Nat) : Chip :=
  let k := p.slot
  if p.replan && c.pastDeadline k then
    c.replanLate.endRun k
  else
    let lanes := match Assoc.get (fun _ => none) c.blv.inputs k with
      | some x => x.lanes
      | none => []
    let rank (l : Nat) : Nat × Nat × Nat :=
      let at_ (q : List (Nat × Nat)) (r : List Nat) : Nat := ((posOf q l).map fun i => r.getD i 0xFFF).getD 0xFFF
      (l, at_ p.lc rc, at_ p.ld rd)
    let rs := lanes.map rank
    let c := c.blvUp fun b => { b with ranks := Assoc.set (fun _ => none) b.ranks k (some rs) }
    let c := c.forEach rs fun x c =>
      let c := c.setReg (BLV_OBSV x.1 + 12)
        (x.2.1 + x.2.2 * 2 ^ 16 + b2n ((posOf p.lc x.1).isSome) * 2 ^ 31)
      (c.queueBlock x.1 6 (orderBlock (p.repair.contains x.1) (k % 4096) x.2.1 x.2.2 p.gen (p.tjw.contains x.1))).recordOrder k x.1
        x.2.1 x.2.2 false
    (c.when (p.replan && !p.repair.isEmpty) (·.bump BND_REPAIR_ROUNDS)).endRun k

/-- An ABORT for one tag queued on a lane; it waits behind an order of that tag that still waits there (R96, R207). -/
def Chip.queueAbort (c : Chip) (l tag : Nat) : Chip := (c.bump BND_ABORT_SENT).queueBlock l 2 (mkBlock 0x48 (tag * 2 ^ 32))

-- The merge (R116 to R119)

def Chip.theMerge (c : Chip) (k : Nat) : Option Merge := c.blv.merges.find? fun m => m.slot == k
def Chip.setMerge (c : Chip) (m : Merge) : Chip :=
  c.blvUp fun b => { b with merges := (m :: b.merges.filter fun x => x.slot != m.slot).take 4 }

/-- Lists merged: NHUB of GROUP. -/
def Chip.nhub (c : Chip) : Nat := let n := c.fld BLV_GROUP_NHUB; if 1 ≤ n && n ≤ 12 then n else 12

/-- The node ID of this hub. -/
def Chip.nodeId (c : Chip) : Nat := c.fld GTH_GSTAT_NODE_ID

/-- A merge whose lists are all open or closed emits its ranks to the other hubs. -/
def Chip.emitMerge (c : Chip) (m : Merge) : Chip :=
  let oc := m.order false
  let od := m.order true
  (c.setMerge { m with closed := true }).forEach (m.lists.filter fun x => x.1 != c.nodeId) fun x c =>
    c.sendRanks m.slot x.1 (ranksOf oc x.1 x.2.2.1.length) (ranksOf od x.1 x.2.2.2.length)

/-- A list enters a merge; the last one lets it complete. -/
def Chip.joinMerge (c : Chip) (m : Merge) (src keyId : Nat) (lc ld : List (Nat × Nat)) : Chip :=
  let m := { m with lists := (m.lists.filter fun x => x.1 != src) ++ [(src, keyId, lc, ld)] }
  let c := c.blvUp fun b => { b with sources := src :: (b.sources.filter (· != src)).take 11 }
  if c.nhub ≤ m.lists.length then c.emitMerge m else c.setMerge m

/-- The ranks of a hub whose list came too late: 0xFFF throughout (R119). -/
def Chip.sendLate (c : Chip) (k src : Nat) : Chip := c.sendRanks k src (List.replicate 192 0xFFF) (List.replicate 192 0xFFF)

/-- Lists received for slot `k` (R116, R119): late keys are discarded and counted, and their hub gets ranks of 0xFFF if it has not had
them; a list of a hub that has already delivered to a closed merge belongs to a re-plan. -/
def Chip.listIn (c : Chip) (k src keyId : Nat) (lc ld : List (Nat × Nat)) : Chip :=
  match c.theMerge k with
  | none => c.joinMerge { slot := k, at' := c.tick, replan := false } src keyId lc ld
  | some m =>
    if !m.closed then c.joinMerge m src keyId lc ld
    else if m.lists.any fun x => x.1 == src then c.joinMerge { slot := k, at' := c.tick, replan := true } src keyId lc ld
    else
      let c := c.bump BLV_GATHER_LATE
      if m.answered.contains src then c else (c.setMerge { m with answered := src :: m.answered }).sendLate k src

/-- A GATHER frame at the merging hub (R116, R233). -/
def Chip.gatherIn (c : Chip) (f : GatherFrame) : Chip :=
  if !c.flag BLV_BCTL_MERGE then c
  else
    let l (x : List (BitVec 16 × BitVec 8)) : List (Nat × Nat) := x.map fun e => (e.1.toNat, e.2.toNat)
    (c.when (!f.eofOk) (·.bump GTH_GATHER_CRC)).listIn (c.slotOfTag f.tag.toNat) f.src.toNat f.keyId.toNat (l f.keysC) (l f.keysD)

/-- The tick from which the limits of a merge's slot count: the start of its planning here, else that of the merge (R119). -/
def Chip.planStart (c : Chip) (m : Merge) : Nat :=
  match c.theRun m.slot with
  | some p => p.at'
  | none => m.at'

/-- 750 ns after the start of planning: the open lists are closed empty, and the hubs known from earlier merges whose lists have not come
get ranks of 0xFFF (R119; DESIGN CHOICE, log entry 95). -/
def Chip.gatherDeadline (c : Chip) (tag : Nat) : Chip :=
  match c.theMerge (c.slotOfTag tag) with
  | some m =>
    if m.closed || !c.flag BLV_BCTL_MERGE || c.tick < c.planStart m + 750 then c
    else
      let late := c.blv.sources.filter fun n => n != c.nodeId && !(m.lists.any fun x => x.1 == n)
      let c := c.emitMerge { m with late := true, answered := late }
      (c.forEach late fun n c => c.sendLate m.slot n).raiseBlv 3 2 BLV_BSTAT_GATHER_MISS BLV_GATHER_MISS_CNT
  | none => c

/-- A merge completes: RCOUNT and DIGEST are published, and the hub's own cells get their orders (R117, R129). -/
def Chip.mergeComplete (c : Chip) (tag : Nat) : Chip :=
  match c.theMerge (c.slotOfTag tag) with
  | some m =>
    if !m.closed || m.done then c
    else
      let oc := m.order false
      let od := m.order true
      let t := m.slot % 4096
      let c := c.setReg BLV_RCOUNT (t * 2 ^ 16 + Nat.min oc.length 0xFFF)
      let c := c.setWords (BLV_DIGEST c.blv.dig) [t + b2n m.replan * 2 ^ 16, mergeDigest oc, mergeDigest od]
      let c := (c.blvUp fun b => { b with dig := (b.dig + 1) % 16 }).setMerge { m with done := true }
      match c.theRun m.slot, m.lists.find? fun x => x.1 == c.nodeId with
      | some p, some x => c.handOrders p (ranksOf oc x.1 x.2.2.1.length) (ranksOf od x.1 x.2.2.2.length)
      | _, _ => c
  | none => c

/-- A RANKS frame; one whose EOF fails counts as not received (R119, R233). -/
def Chip.ranksIn (c : Chip) (f : RanksFrame) : Chip :=
  match c.theRun (c.slotOfTag f.tag.toNat) with
  | some p => if f.eofOk then c.handOrders p (f.ranksC.map BitVec.toNat) (f.ranksD.map BitVec.toNat) else c
  | none => c

/-- The scatter deadline of a slot, 1,500 ns after the start of its planning, 900 ns in a small arm: the plan ends without orders (R119,
R120), and a re-plan is abandoned (R125). -/
def Chip.scatterDeadline (c : Chip) (tag : Nat) : Chip :=
  match c.theRun (c.slotOfTag tag) with
  | some p =>
    if c.tick < p.at' + (if c.flag BLV_GROUP_SMALL then 900 else 1500) then c
    else (((c.raiseBlv 4 2 BLV_BSTAT_SCATTER_MISS BLV_SCATTER_MISS_CNT).when p.replan (·.replanLate))).endRun p.slot
  | none => c

-- Plans and re-plans

/-- A running plan displaced by that of another slot; a re-plan is thereby abandoned (R125). -/
def Chip.displace (c : Chip) (k : Nat) : Chip := (c.when ((c.theRun k).any fun (p : PRun) => p.replan) (·.replanLate)).endRun k

/-- A plan takes a context: one that holds the same slot is displaced, else, with both in use, that of the lowest slot other than
the next. -/
def Chip.takeContext (c : Chip) (k : Nat) : Chip :=
  let rs := c.blv.runs
  if rs.any fun p => p.slot == k then c.endRun k
  else if rs.length < 2 then c
  else
    let others := (rs.map (·.slot)).filter (· != k + 1)
    match others with
    | [] => c
    | x :: xs => c.displace (xs.foldl Nat.min x)

/-- A plan of slot `k` starts from its kept inputs, with forecast or commit of slot `k` - 1 (R114, R115, R121, R123). -/
def Chip.startRun (c : Chip) (k n : Nat) (dir neg replan : Bool) (repair : List Nat) : Chip :=
  match Assoc.get (fun _ => none) c.blv.inputs k with
  | none => c
  | some inp =>
    let g := if replan then (Assoc.get (fun _ => 0) c.blv.gen k + 1) % 4 else 0
    let c := (c.takeContext k).blvUp fun b => { b with gen := Assoc.set (fun _ => 0) b.gen k g }
    let ks := inp.cells.map fun x => (x.lane, x.keys inp.hyst (expected x.rank n dir neg))
    let p : PRun := {
      slot := k, at' := c.tick, gen := g, replan := replan, repair := repair
      lc := ks.foldl (fun l x => insertKey false (x.2.1, x.1) l) []
      ld := ks.foldl (fun l x => insertKey true (x.2.2, x.1) l) []
      tjw := (inp.cells.filter fun x => x.w != 0).map (·.lane) }
    let c := c.blvUp fun b => { b with runs := b.runs ++ [p] }
    let c := c.forEach ks fun x c => c.setReg (BLV_OBSV x.1 + 4) (x.2.1 + x.2.2 * 2 ^ 16)
    if c.flag BLV_BCTL_MERGE then
      let m : Merge := match c.theMerge k with
        | some m => if m.closed || (replan && (!m.replan || m.lists.any fun x => x.1 == c.nodeId)) then { slot := k, at' := c.tick, replan := replan } else m
        | none => { slot := k, at' := c.tick, replan := replan }
      c.joinMerge m c.nodeId inp.keyId p.lc p.ld
    else c.sendGather p inp.keyId

/-- The inputs of the plan of slot `k` (R106, R112 to R114), and how many cells raise REP_MISS. `ts` is the length of slot `k` - 3. -/
def Chip.planInputs (c : Chip) (k ts : Nat) : Nat × Chip :=
  let lanes := c.armLanes
  let src := match Assoc.get (fun _ => none) c.blv.ranks (k - 1) with
    | some x => x
    | none => (Assoc.get (fun _ => none) c.blv.ranks (k - 2)).getD []
  let miss := lanes.filter fun l => (c.obs l).ranked && c.rankable l && !c.fresh l && !(c.obs l).miss
  let ok := lanes.filter fun l => c.rankable l && c.fresh l
  let c := c.forEach miss fun l c => c.obsUp l fun o => { o with miss := true }
  let w (l : Nat) : Int :=
    if !c.flag BLV_BCTL_TJW_EN then 0
    else
      let tj : Int := match (c.obs l).info with
        | some i => i.tj
        | none => 64
      clampInt (-1024) 1024 ((tj - 64 - toSigned 8 (c.fld BLV_KEYCFG_TJ_REF)) * (c.fld BLV_KEYCFG_TJ_GAIN : Int))
  let cells := ok.map fun l =>
    { lane := l, w := w l, baseN := c.predict l k (-1) ts, base0 := c.predict l k 0 ts, baseP := c.predict l k 1 ts
      rank := (src.find? fun x => x.1 == l).map (·.2) : PCell }
  let c := c.forEach c.obsLanes fun l c => c.obsUp l fun o => { o with ranked := ok.contains l }
  (miss.length, c.blvUp fun b => { b with
    inputs := Assoc.set (fun _ => none) (Assoc.from b.inputs (k - 20)) k
      (some { lanes := lanes, cells := cells, hyst := c.fld BLV_KEYCFG_HYST, keyId := c.fld BLV_GROUP_KEY_ID })
    ranks := Assoc.from b.ranks (k - 20), sent := Assoc.from b.sent (k - 20), gen := Assoc.from b.gen (k - 20) })

/-- The plan of slot `k` is to be redone, with the commit of slot `k` - 1 where one has been relayed (R96, R123, R126): orders handed, by
a plan or by TORD, are aborted; unsent ones are discarded, and the plan is made anew from its kept inputs. -/
def Chip.replan (c : Chip) (k : Nat) (cmt : Option Nat) : Chip :=
  if c.pastDeadline k then c
  else
    let sent := Assoc.get (fun _ => []) c.blv.sent k
    let c := c.forEach (sent.filter fun x => !x.2.2.2) fun x c => (c.queueAbort x.1 (k % 4096)).recordOrder k x.1 x.2.1 x.2.2.1 true
    match Assoc.get (fun _ => none) c.blv.inputs k with
    | none => c
    | some inp =>
      if !c.flag BLV_BCTL_EN then c
      else
        let handed := inp.lanes.filter fun l => sent.any fun x => x.1 == l
        let c := c.when ((c.theRun k).isSome && inp.lanes.any fun l => !handed.contains l) (·.bump BND_RESTARTS)
        match cmt with
        | some m => c.startRun k (bits m 27 16) (bit m 1) (bit m 0) true handed
        | none => let r := c.fcFrozen (k - 1); c.startRun k r.n r.dir r.neg true handed

-- Bandstand (R121, R122, R126)

/-- The content bits [55:16] of a COMMIT. -/
def cmtBits (w : DWord) : Nat := wbits w 55 16

def Chip.cmt (c : Chip) (n : Nat) : Option Cmt := Assoc.get (fun _ => none) c.blv.cms n
def Chip.setCmt (c : Chip) (n : Nat) (x : Cmt) : Chip :=
  c.blvUp fun b => { b with cms := Assoc.set (fun _ => none) (Assoc.from b.cms (c.slotNow - 32)) n (some x) }

/-- A COMMIT received from RXPLANE: relayed on every lane of the arm; an identical one is dropped, a differing one counted (R121). -/
def Chip.commitIn (c : Chip) (plane : Nat) (w : DWord) : Chip :=
  if plane != c.fld BND_NCTL_RXPLANE || !c.flag BND_NCTL_EN then c
  else
    let n := c.slotOfTag (wbits w 55 44)
    let x := cmtBits w
    let relay (c : Chip) : Chip :=
      ((c.bump BND_CMT_RELAYED).record false 4 0 (mkBlock 0x44 (x * 2 ^ 4)).toNat).forEach c.armLanes fun l c => c.queueBlock l 1 (mkBlock 0x44 (x * 2 ^ 4))
    match c.cmt n with
    | none => relay (c.setCmt n { first := x, seen := [x], at' := c.tick })
    | some m =>
      if m.seen.contains x then c.bump BND_CMT_DUP
      else relay (((c.bump BND_CMT_CONFLICT_CNT).raiseHub ⟨4, 1, 2, BND_NSTAT_CMT_CONFLICT⟩).setCmt n { m with seen := x :: m.seen })

/-- A first COMMIT compared with the frozen record of its slot (R122): N in [27:16], DIR and NEG in [1:0] of the content. -/
def Chip.compareCmt (c : Chip) (n : Nat) (m : Cmt) : Chip :=
  let c := c.setCmt n { m with tested := true, waits := false }
  let r := c.fcFrozen n
  let cn := bits m.first 27 16
  let dir := bit m.first 1 != r.dir
  let neg := bit m.first 0 != r.neg
  if dir || neg || r.tol < (if cn ≤ r.n then r.n - cn else cn - r.n) then
    let c := (c.bump BND_TEST_FAIL).raiseFlag BND_NSTAT_TEST_FAIL
    let c := c.setReg64 BND_LASTFAIL (n % 4096 + cn * 2 ^ 16 + r.n * 2 ^ 32 + b2n dir * 2 ^ 48 + b2n neg * 2 ^ 49)
    c.replan (n + 1) (some m.first)
  else c

/-- The commit test of a slot, made once, 50 ns after the commit's relay (R96, R122); before its record is frozen it waits for that. -/
def Chip.testCmt (c : Chip) (n : Nat) : Chip :=
  match c.cmt n with
  | none => c
  | some m =>
    if m.tested || c.blv.missed.contains n || !c.flag BND_NCTL_EN || c.tick < m.at' + 50 then c
    else if c.blv.frozen.contains n then c.compareCmt n m
    else c.setCmt n { m with waits := true }

def Chip.commitTest (c : Chip) (tag : Nat) : Chip := c.testCmt (c.slotOfTag tag)

/-- An ABORTX received from RXPLANE: each tag in order as after a failed test of the commit before it (R126). -/
def Chip.abortxIn (c : Chip) (plane : Nat) (w : DWord) : Chip :=
  if plane != c.fld BND_NCTL_RXPLANE || !c.flag BND_NCTL_EN then c
  else (c.record false 4 1 w.toNat).forEach (List.range (wbits w 43 42 + 1)) fun i c =>
    let k := c.slotOfTag ((wbits w 55 44 + i) % 4096)
    c.replan k ((c.cmt (k - 1)).map (·.first))

/-- An FCST record received from RXPLANE (R107). -/
def Chip.fcstFrame (c : Chip) (plane ra rb : Nat) : Chip := if plane == c.fld BND_NCTL_RXPLANE then c.fcstIn ra rb else c

/-- A firing frame of the arm lead to the group, on each plane whose REPL bit is set (R121, R190). -/
def Chip.bndSend (c : Chip) (kind : Nat) (pay : List Byte) : Chip :=
  let planes := [0, 1].filter fun p => if p == 0 then c.flag BND_NCTL_REPL_A else c.flag BND_NCTL_REPL_B
  let mask := planes.foldl (fun m p => m + 2 ^ p) 0
  c.originate planes (fun q => c.hubHdr kind true mask (c.fld BND_NCTL_GRP) pay.length 0 0 q) [] pay none

-- The start of a slot (R95)

/-- What the hub does when its base first reaches the start of slot `n`, in this order: the slot's length,
the forecast of slot `n` + 1, the current of slot `n` - 2, the observers, CMT_MISS of slot `n`, and the plan of slot `n` + 2. The
sources of one block are raised in the order of their numbers (R305). -/
def Chip.slotBegin (c : Chip) (n : Nat) : Chip :=
  let c := c.blvUp fun b => { b with acted := n + 1, cur := n, theta := Assoc.set (fun _ => none) (Assoc.from b.theta (n - 24)) n (some c.tick) }
  let fz := c.freezeFc (n + 1)
  let c := fz.1.when ((fz.1.cmt (n + 1)).any fun (m : Cmt) => m.waits) (·.testCmt (n + 1))
  let fcMiss (c : Chip) : Chip := c.when fz.2 fun c => c.raiseBlv 2 2 BLV_BSTAT_FCST_MISS BLV_FCST_MISS_CNT
  let cmtMiss (c : Chip) : Chip := c.when (c.flag BND_NCTL_EN && (c.cmt n).isNone) fun c =>
    ((c.blvUp fun b => { b with missed := n :: b.missed.take 31 }).bump BND_CMT_MISS_CNT).raiseHub ⟨4, 0, 2, BND_NSTAT_CMT_MISS⟩
  if !c.flag BLV_BCTL_EN then cmtMiss (fcMiss c)
  else
    let cur := c.formCurrent (n - 2)
    let t4 := cur.2.2.lenOr (n - 2)
    let t3 := t4.2.lenOr (n - 1)
    let adv := t3.2.advance (n - 2) cur.1 t4.1
    let c := adv.2.when (adv.1 == 2) (·.obsEccF)
    let c := c.forEach c.obsLanes fun l c => c.applyWaiting (n - 1) l
    let plan := decide (c.blv.resume ≤ n)
    let inp := if plan then c.planInputs (n + 2) t3.1 else (0, c)
    let c := inp.2.forEach (List.range inp.1) fun _ c => c.raiseBlv 0 2 BLV_BSTAT_REP_MISS BLV_REP_MISS_CNT
    let c := c.when cur.2.1 fun c => c.raiseHub ⟨3, 1, 2, BLV_BSTAT_MEAS_LOST⟩
    let c := fcMiss c
    let c := c.when (adv.1 == 1) fun c => c.raiseBlv 5 1 BLV_BSTAT_OBS_ECC_C BLV_OBS_ECC_CNT
    let c := c.when (adv.1 == 2) fun c => c.raiseBlv 5 3 BLV_BSTAT_OBS_ECC_F BLV_OBS_ECC_CNT
    let c := cmtMiss (c.checkLen (n - 1))
    let r := c.fcFrozen (n + 1)
    c.when plan fun c =>
      (c.blvUp fun b => { b with planned := n + 2 }).startRun (n + 2) r.n r.dir r.neg false []

/-- The base has reached the start of slot `n`: the SLOT line of every Kiosk, at each start (Table 7-12), and what is done once for each
slot. -/
def Chip.slotReached (c : Chip) (n : Nat) : Chip :=
  let c := c.forEach (List.range 16) fun k c => c.latchLine k 4
  c.when (c.blv.acted ≤ n) (·.slotBegin n)

/-- SLOT_START: the base has reached a slot start that is still to be acted on: one that it reached before a move (R76), else that of the
slot it stands in (R37). -/
def Chip.slotStartEvent (c : Chip) : Chip :=
  match c.blv.due with
  | some n => (c.blvUp fun b => { b with due := none }).slotReached n
  | none =>
    let n := c.slotNow
    if c.blv.next ≤ n then (c.blvUp fun b => { b with next := n + 1 }).slotReached n else c

-- The commands

def execSlotStart (s : State) : Host.Outcome State Fault Refusal := .next (s.on (·.slotStartEvent))
def execFcstFrame (p : Plane) (ra rb : Word) (s : State) : Host.Outcome State Fault Refusal :=
  .next (s.on fun c => c.fcstFrame (planeNum p) ra.toNat rb.toNat)
def execGather (f : GatherFrame) (s : State) : Host.Outcome State Fault Refusal := .next (s.on fun c => c.gatherIn f)
def execMergeComplete (tag : BitVec 12) (s : State) : Host.Outcome State Fault Refusal :=
  .next (s.on fun c => c.mergeComplete tag.toNat)
def execGatherDeadline (tag : BitVec 12) (s : State) : Host.Outcome State Fault Refusal :=
  .next (s.on fun c => c.gatherDeadline tag.toNat)
def execRanks (f : RanksFrame) (s : State) : Host.Outcome State Fault Refusal := .next (s.on fun c => c.ranksIn f)
def execScatterDeadline (tag : BitVec 12) (s : State) : Host.Outcome State Fault Refusal :=
  .next (s.on fun c => c.scatterDeadline tag.toNat)
def execCommitFrame (p : Plane) (w : DWord) (s : State) : Host.Outcome State Fault Refusal :=
  .next (s.on fun c => c.commitIn (planeNum p) w)
def execCommitTest (tag : BitVec 12) (s : State) : Host.Outcome State Fault Refusal := .next (s.on fun c => c.commitTest tag.toNat)
def execAbortx (p : Plane) (w : DWord) (s : State) : Host.Outcome State Fault Refusal :=
  .next (s.on fun c => c.abortxIn (planeNum p) w)

end Sys2Proof.Machine
end

