-- ==== Sys2Proof/Machine/Fabric.lean ====
section
/-!
DEFINITION. The consumers of fabric frames at their destination (Table 10-2): the Kiosk queues (R188, R202, R235, R246) and the blocks of
the hub; frames received, and frames that the hub delivers to itself.
-/
namespace Sys2Proof.Machine

-- Kiosk queues

/-- The account of queue `q` of Kiosk `k`. -/
def queueAcct (k q : Nat) : Nat := 204 + 4 * k + q

def Chip.rxq (c : Chip) (k q : Nat) : List RxMsg := Assoc.get (fun _ => []) (c.core k).rxq q
def Chip.setRxq (c : Chip) (k q : Nat) (l : List RxMsg) : Chip :=
  c.coreUp k fun x => { x with rxq := Assoc.set (fun _ => []) x.rxq q l }

/-- A message dropped at a core (R188). -/
def Chip.rxDropped (c : Chip) (k : Nat) : Chip := c.setSr k 0x27 (Nat.min (c.sr k 0x27 + 1) 0xFFFFFFFF)

/-- A message dropped at queue `q` of a core because its account allows no buffer (R188, R244). -/
def Chip.queueRefused (c : Chip) (k q : Nat) (ctl : Bool) : Chip := (c.poolDrop (queueAcct k q) ctl).rxDropped k

/-- The queue has room for a message of `n` bytes. -/
def Chip.queueTakes (c : Chip) (k q n : Nat) : Bool := (c.rxq k q).length < 16 && n ≤ c.sr k (0x28 + q)

/-- A message for the queues `qs`, as (Kiosk, queue), of bytes `l` in the frame bytes `fr`; `b` is the frame's buffer while no queue has it
(R246). The answer counts the queues that took it. -/
def Chip.fillQueues (c : Chip) (l fr : List Byte) (ctl : Bool) (b : Option Nat) (n : Nat) : List (Nat × Nat) → Nat × Chip
  | [] => (n, c)
  | (k, q) :: qs =>
    if !c.queueTakes k q l.length then (c.rxDropped k).fillQueues l fr ctl b n qs
    else
      let moved := match b with
        | some x => c.moveCharge x (queueAcct k q) ctl
        | none => none
      match b, moved with
      | some x, some c => ((c.holdBuf x).setRxq k q (c.rxq k q ++ [⟨l, x⟩])).fillQueues l fr ctl none (n + 1) qs
      | some x, none => (c.queueRefused k q ctl).fillQueues l fr ctl (some x) n qs
      | none, _ =>
        match c.allocBuf (queueAcct k q) ctl 1 with
        | (none, c) => (c.queueRefused k q ctl).fillQueues l fr ctl none n qs
        | (some x, c) => ((c.poolStore (bufAddr x) fr).setRxq k q (c.rxq k q ++ [⟨l, x⟩])).fillQueues l fr ctl none (n + 1) qs

/-- The queue of Kiosk `k` that MSUB subscription `i` names, when it is enabled for group `g` (Table 8-6). -/
def Chip.msub (c : Chip) (k g i : Nat) : Option Nat :=
  let v := c.sr k (0x2C + i)
  if bit v 31 && bits v 23 16 == g then some (bits v 1 0) else none

/-- The queues that subscribe to a group, each once (R202). -/
def Chip.subscribers (c : Chip) (g : Nat) : List (Nat × Nat) :=
  (List.range 16).flatMap fun k => (((List.range 4).filterMap (c.msub k g)).eraseDups).map fun q => (k, q)

/-- The queues that a frame goes to: the one its header names, or those of its group. -/
def Chip.frameQueues (c : Chip) (h : List Word) : List (Nat × Nat) :=
  if fKind h == 1 then [(fCore h, fQueue h)] else c.subscribers (fDst h % 256)

/-- A MSG, MMSG or MEAS frame at the Kiosk queues, under the rule of R235. -/
def Chip.toQueues (c : Chip) (plane : Nat) (f : Frame) (b : Option Nat) : Chip :=
  let src := fSrc f.hdr
  let qs := c.frameQueues f.hdr
  let d : Dlv := Assoc.get (fun _ => {}) c.gth.dlv src
  if qs.isEmpty then c
  else match d.check plane (fSeq f.hdr) with
    | 0 =>
      let r := c.fillQueues f.payload (frameBytes f.hdr f.ext f.payload) (fLevel f.hdr < 2) b 0 qs
      r.2.when (0 < r.1) fun c => c.gthUp fun g => { g with dlv := Assoc.set (fun _ => {}) g.dlv src (d.put plane (fSeq f.hdr)) }
    | 1 => c.bump GTH_DUP_DROP
    | _ => c.bump GTH_ORDER_DROP

-- Samples (R109, R110, R344)

/-- The first copy of a sample at HHA, by its source and frame SEQ. -/
def Chip.measHha (c : Chip) (f : Frame) : Chip :=
  let w0 := natLE (f.payload.take 4)
  let w1 := natLE ((f.payload.drop 4).take 4)
  let key := (fSrc f.hdr, fSeq f.hdr)
  match c.measSource (natLE ((f.payload.drop 8).take 4) % 1024) (bits w1 23 16) with
  | none => c
  | some i =>
    if c.hh.taken.contains key then c
    else (c.hhUp fun h => { h with taken := (key :: h.taken).take 256 }).hhaSample i (toSigned 24 (bits w0 31 8)) (bit w1 12) (bit w1 13)

/-- A MEAS frame received (R110). -/
def Chip.measRx (c : Chip) (plane : Nat) (f : Frame) (b : Option Nat) : Chip :=
  ((c.measIn plane f.payload).toQueues plane f b).measHha f

-- The other consumers

/-- The ports of a PATH word. -/
def pathOf (v : Nat) : List Nat := (List.range (v % 16)).map fun i => v / 16 ^ (i + 1) % 16

/-- The content of a HELLO frame (Table 10-5). -/
def helloOf (f : Frame) : Hello :=
  let n (i k : Nat) : Nat := natLE ((f.payload.drop i).take k)
  let path := n 16 8
  let hops := path % 16
  { serial := BitVec.ofNat 64 (n 0 8), flags := BitVec.ofNat 8 (n 8 1), nodeId := BitVec.ofNat 10 (n 10 2), prefId := BitVec.ofNat 10 (n 12 2),
    epoch := BitVec.ofNat 16 (n 14 2), hops := BitVec.ofNat 4 hops,
    path := pathOf path,
    nbr := (List.range 6).map fun i => BitVec.ofNat 64 (n (24 + 8 * i) 8), member := BitVec.ofNat 256 (n 72 32),
    seq := BitVec.ofNat 24 (fSeq f.hdr) }

/-- The content of a GATHER frame (Table 5-4). The frame names no lanes: they are free. -/
def Chip.gatherOf (c : Chip) (f : Frame) (ok : Bool) : GatherFrame × Chip :=
  let k4 := hw f.hdr 4
  let k5 := hw f.hdr 5
  let key (o i : Nat) : BitVec 16 × BitVec 8 :=
    (BitVec.ofNat 16 (natLE ((f.payload.drop (o + 2 * i)).take 2)), (Config.freeValue (c.free + i)).truncate 8)
  ({ tag := BitVec.ofNat 12 k4, keyId := BitVec.ofNat 10 (k4 / 2 ^ 12), src := BitVec.ofNat 10 (fSrc f.hdr),
     keysC := (List.range (Nat.min (bits k5 7 0) 192)).map (key 0), keysD := (List.range (Nat.min (bits k5 15 8) 192)).map (key 384),
     eofOk := ok }, { c with free := c.free + 192 })

/-- The 12-bit values of a packed list. -/
def unpack12 (l : List Byte) (n : Nat) : List (BitVec 12) :=
  (List.range n).map fun i => BitVec.ofNat 12 (natLE ((l.drop (i / 2 * 3)).take 3) / 2 ^ (12 * (i % 2)))

/-- The content of a RANKS frame (Table 5-4). -/
def ranksOfFrame (f : Frame) : RanksFrame :=
  let k5 := hw f.hdr 5
  { tag := BitVec.ofNat 12 (hw f.hdr 4), ranksC := unpack12 f.payload (Nat.min (bits k5 7 0) 192),
    ranksD := unpack12 (f.payload.drop 288) (Nat.min (bits k5 15 8) 192), eofOk := true }

/-- The time extension of a frame (Table 11-3). -/
def extOf (ext : List Byte) : TimeExt :=
  { origin := BitVec.ofNat 64 (extNum ext 0 8), ofrac := BitVec.ofNat 32 (extNum ext 8 4), corr := BitVec.ofNat 64 (extNum ext 12 8),
    hops := BitVec.ofNat 8 (extNum ext 20 1), uncal := bit (extNum ext 21 1) 0, tseq := BitVec.ofNat 16 (extNum ext 22 2),
    root := BitVec.ofNat 64 (extNum ext 24 8) }

/-- The payload of a TANN (Table 11-4). -/
def tannOf (l : List Byte) : TannPayload :=
  { serial := BitVec.ofNat 64 (extNum l 0 8), ft := BitVec.ofNat 64 (extNum l 8 8), stNs := BitVec.ofNat 32 (extNum l 16 4),
    stSec := BitVec.ofNat 48 (extNum l 20 6), stFrac := BitVec.ofNat 16 (extNum l 26 2), stValid := bit (extNum l 28 1) 0 }

/-- The hub's RX connection that expects a PDU's CONN, if one does. -/
def Chip.rxConnOf (c : Chip) (p : SafetyPdu) : Option (Fin 8) :=
  (List.finRange 8).find? fun n => c.flag (HHA_RXCONN_EN n) && c.fld (HHA_RXCONN_CONN n) == p.conn.toNat

/-- A safety frame from the fabric (R327, R328): of the cell on the lane it names, or of another hub. -/
def Chip.safetyRx (c : Chip) (plane : Nat) (l : List Byte) : Chip :=
  let p := payloadPdu l
  let lane := natLE ((l.drop 21).take 1)
  if h : lane < 192 then c.safetyCopy (.hubLane ⟨lane, h⟩) true p
  else match c.rxConnOf p with
    | some n => c.safetyCopy (.hubRx n) (plane == 1) p
    | none => c

/-- A frame delivered locally (Table 10-2). `port` is its port of arrival, none for a frame of this hub; `b` its buffer, none where it has
none. The contents of ASSIGN, RTLOAD and SWAPCMD are the model's (log entry 96). A PATHRSP from a port needs the time of its arrival and
comes as a command of its own. -/
def Chip.deliver (c : Chip) (port : Option Nat) (plane : Plane) (f : Frame) (b : Option Nat) : Chip :=
  let pl := planeNum plane
  let l := f.payload
  let ok := crc32 (frameB f) == f.crc.toNat || port.isNone
  let n (i k : Nat) : Nat := natLE ((l.drop i).take k)
  let k := fKind f.hdr
  if k == 1 || k == 2 then c.toQueues pl f b
  else if k == 8 then (match port with
    | some p => c.helloRx p (helloOf f) f.hdr (b.getD 8192)
    | none => c)
  else if k == 9 then c.assignRx pl (n 0 8) (n 8 2 % 1024) (pathOf (n 10 8)) f.hdr (b.getD 8192)
  else if k == 0xA then c.rtloadRx (n 0 2) (wordsLE ((l.length - 4) / 4) (l.drop 4)) (bit (n 0 4) 31)
  else if k == 0xB then c.swapcmdRx (n 0 8)
  else if k == 0x10 then (c.gatherOf f ok).2.gatherIn (c.gatherOf f ok).1
  else if k == 0x11 then c.ranksIn (ranksOfFrame f)
  else if k == 0x18 then c.commitIn pl (BitVec.ofNat 64 (n 0 8))
  else if k == 0x19 then c.abortxIn pl (BitVec.ofNat 64 (n 0 8))
  else if k == 0x1A then c.fcstFrame pl (n 0 4) (n 4 4)
  else if k == 0x1B then c.measRx pl f b
  else if k == 0x20 then (match port with
    | some p => c.tsyncRx p (extOf f.ext)
    | none => c.tsyncSelf)
  else if k == 0x21 then c.tannRx (tannOf l)
  else if k == 0x22 then (match port with
    | some p => c.pathReq p (fSrc f.hdr) (extOf f.ext)
    | none => c.pathAnswer pl (fSrc f.hdr) 0)
  else if k == 0x23 then (if port.isSome then c else c.pathSelf)
  else if k == 0x28 then c.safetyRx pl l
  else if k == 0x30 then c.xtrigRx (fSrc f.hdr) (n 0 8) (n 8 1 % 16) (n 9 2)
  else c.bump GTH_UNK_KIND

/-- A frame received on a port (R229). -/
def Chip.frameRx (c : Chip) (port : Nat) (f : Frame) (rx : Reception) : Chip :=
  c.frameIn port f rx fun c plane f b => c.deliver (some port) plane f (if b < 8192 then some b else none)

/-- The first frame that the hub has sent to itself is delivered, and its buffer let go (R229). -/
def Chip.loopStep (c : Chip) : Chip :=
  match c.gth.loopq with
  | [] => c
  | (p, h, e, l, b) :: q =>
    ((c.gthUp fun g => { g with loopq := q }).deliver none p { hdr := h, ext := e, payload := l, crc := 0 }
      (if b < 8192 then some b else none)).releaseBuf b

/-- Up to `n` frames that the hub has sent to itself are delivered. -/
def Chip.settleLoop (c : Chip) : Nat → Chip
  | 0 => c
  | n + 1 => c.loopStep.settleLoop n

/-- Those that stand there now are delivered. -/
def Chip.settleAll (c : Chip) : Chip := c.settleLoop c.gth.loopq.length

-- The commands

def execFrame (port : Fin 12) (f : Frame) (rx : Reception) (s : State) : Host.Outcome State Fault Refusal :=
  .next (s.on fun c => c.frameRx port f rx)
def execMsg (p : Plane) (f : Frame) (s : State) : Host.Outcome State Fault Refusal :=
  .next (s.on fun c => c.toQueues (planeNum p) f none)
def execMeasFrame (p : Plane) (f : Frame) (s : State) : Host.Outcome State Fault Refusal :=
  .next (s.on fun c => c.measRx (planeNum p) f none)

end Sys2Proof.Machine
end

