-- ==== Sys2Proof/Machine/OvAlu.lean ====
section
/-!
DEFINITION. The integer register and immediate instructions of Ovmin (R161, R162, Table 7-5).
-/
namespace Sys2Proof.Machine

/-- 1 or 0 as a register value. -/
def boolWord (b : Bool) : Word := if b then 1 else 0

/-- A number limited to the signed 32-bit range. -/
def satWord (i : Int) : Word := BitVec.ofInt 32 (clampInt (-2147483648) 2147483647 i)

def aluAdd (a b : Word) : Word := a + b
def aluSub (a b : Word) : Word := a - b
def aluAnd (a b : Word) : Word := a &&& b
def aluOr (a b : Word) : Word := a ||| b
def aluXor (a b : Word) : Word := a ^^^ b
def aluNor (a b : Word) : Word := ~~~(a ||| b)
def aluSlt (a b : Word) : Word := boolWord (a.slt b)
def aluSltu (a b : Word) : Word := boolWord (a.ult b)
def aluSll (a b : Word) : Word := a <<< (b.toNat % 32)
def aluSrl (a b : Word) : Word := a >>> (b.toNat % 32)
def aluSra (a b : Word) : Word := a.sshiftRight (b.toNat % 32)
def aluMul (a b : Word) : Word := a * b
/-- The high half of the signed product. -/
def aluMulh (a b : Word) : Word := BitVec.ofInt 32 (a.toInt * b.toInt / 2 ^ 32)
def aluMulhu (a b : Word) : Word := BitVec.ofNat 32 (a.toNat * b.toNat / 2 ^ 32)
/-- The signed quotient, rounded toward zero and saturating (R162). -/
def aluDiv (a b : Word) : Word :=
  if b = 0 then (if a.toInt < 0 then 0x80000000 else 0x7FFFFFFF) else satWord (a.toInt.tdiv b.toInt)
def aluDivu (a b : Word) : Word := if b = 0 then 0xFFFFFFFF else a / b
/-- The remainder with the sign of the dividend; 0 by zero (R162). -/
def aluRem (a b : Word) : Word := if b = 0 then 0 else BitVec.ofInt 32 (a.toInt.tmod b.toInt)
def aluRemu (a b : Word) : Word := if b = 0 then 0 else a % b
def aluMin (a b : Word) : Word := if a.slt b then a else b
def aluMax (a b : Word) : Word := if a.slt b then b else a
def aluMinu (a b : Word) : Word := if a.ult b then a else b
def aluMaxu (a b : Word) : Word := if a.ult b then b else a
def aluAdds (a b : Word) : Word := satWord (a.toInt + b.toInt)
def aluSubs (a b : Word) : Word := satWord (a.toInt - b.toInt)
/-- Leading zeros from bit `n` - 1 down. -/
def clzFrom : Nat → Nat → Nat
  | 0, _ => 0
  | n + 1, v => if bit v n then 0 else clzFrom n v + 1
def aluClz (a : Word) : Word := BitVec.ofNat 32 (clzFrom 32 a.toNat)
/-- The magnitude; that of 0x8000_0000 is 0x7FFF_FFFF. -/
def aluAbs (a : Word) : Word := satWord a.toInt.natAbs

/-- A T-format instruction: rd takes `f` of ra and rb. -/
def Chip.aluR (c : Chip) (k rd ra rb : Nat) (f : Word → Word → Word) : Chip :=
  c.issue k fun c => (c.setG k rd (f (c.g k ra) (c.g k rb))).seq k

/-- An I-format instruction: rd takes `f` of ra and the extended immediate. -/
def Chip.aluI (c : Chip) (k rd ra : Nat) (i : Word) (f : Word → Word → Word) : Chip :=
  c.issue k fun c => (c.setG k rd (f (c.g k ra) i)).seq k

/-- A one-operand instruction. -/
def Chip.aluU (c : Chip) (k rd ra : Nat) (f : Word → Word) : Chip :=
  c.issue k fun c => (c.setG k rd (f (c.g k ra))).seq k

-- The commands

def execAdd (c : CoreId) (rd ra rb : Fin 32) (s : State) : Host.Outcome State Fault Refusal :=
  .next (s.on fun x => x.aluR (coreNum c) rd ra rb aluAdd)
def execSub (c : CoreId) (rd ra rb : Fin 32) (s : State) : Host.Outcome State Fault Refusal :=
  .next (s.on fun x => x.aluR (coreNum c) rd ra rb aluSub)
def execAnd (c : CoreId) (rd ra rb : Fin 32) (s : State) : Host.Outcome State Fault Refusal :=
  .next (s.on fun x => x.aluR (coreNum c) rd ra rb aluAnd)
def execOr (c : CoreId) (rd ra rb : Fin 32) (s : State) : Host.Outcome State Fault Refusal :=
  .next (s.on fun x => x.aluR (coreNum c) rd ra rb aluOr)
def execXor (c : CoreId) (rd ra rb : Fin 32) (s : State) : Host.Outcome State Fault Refusal :=
  .next (s.on fun x => x.aluR (coreNum c) rd ra rb aluXor)
def execNor (c : CoreId) (rd ra rb : Fin 32) (s : State) : Host.Outcome State Fault Refusal :=
  .next (s.on fun x => x.aluR (coreNum c) rd ra rb aluNor)
def execSlt (c : CoreId) (rd ra rb : Fin 32) (s : State) : Host.Outcome State Fault Refusal :=
  .next (s.on fun x => x.aluR (coreNum c) rd ra rb aluSlt)
def execSltu (c : CoreId) (rd ra rb : Fin 32) (s : State) : Host.Outcome State Fault Refusal :=
  .next (s.on fun x => x.aluR (coreNum c) rd ra rb aluSltu)
def execSll (c : CoreId) (rd ra rb : Fin 32) (s : State) : Host.Outcome State Fault Refusal :=
  .next (s.on fun x => x.aluR (coreNum c) rd ra rb aluSll)
def execSrl (c : CoreId) (rd ra rb : Fin 32) (s : State) : Host.Outcome State Fault Refusal :=
  .next (s.on fun x => x.aluR (coreNum c) rd ra rb aluSrl)
def execSra (c : CoreId) (rd ra rb : Fin 32) (s : State) : Host.Outcome State Fault Refusal :=
  .next (s.on fun x => x.aluR (coreNum c) rd ra rb aluSra)
def execMul (c : CoreId) (rd ra rb : Fin 32) (s : State) : Host.Outcome State Fault Refusal :=
  .next (s.on fun x => x.aluR (coreNum c) rd ra rb aluMul)
def execMulh (c : CoreId) (rd ra rb : Fin 32) (s : State) : Host.Outcome State Fault Refusal :=
  .next (s.on fun x => x.aluR (coreNum c) rd ra rb aluMulh)
def execMulhu (c : CoreId) (rd ra rb : Fin 32) (s : State) : Host.Outcome State Fault Refusal :=
  .next (s.on fun x => x.aluR (coreNum c) rd ra rb aluMulhu)
def execDiv (c : CoreId) (rd ra rb : Fin 32) (s : State) : Host.Outcome State Fault Refusal :=
  .next (s.on fun x => x.aluR (coreNum c) rd ra rb aluDiv)
def execDivu (c : CoreId) (rd ra rb : Fin 32) (s : State) : Host.Outcome State Fault Refusal :=
  .next (s.on fun x => x.aluR (coreNum c) rd ra rb aluDivu)
def execRemS (c : CoreId) (rd ra rb : Fin 32) (s : State) : Host.Outcome State Fault Refusal :=
  .next (s.on fun x => x.aluR (coreNum c) rd ra rb aluRem)
def execRemu (c : CoreId) (rd ra rb : Fin 32) (s : State) : Host.Outcome State Fault Refusal :=
  .next (s.on fun x => x.aluR (coreNum c) rd ra rb aluRemu)
def execMin (c : CoreId) (rd ra rb : Fin 32) (s : State) : Host.Outcome State Fault Refusal :=
  .next (s.on fun x => x.aluR (coreNum c) rd ra rb aluMin)
def execMax (c : CoreId) (rd ra rb : Fin 32) (s : State) : Host.Outcome State Fault Refusal :=
  .next (s.on fun x => x.aluR (coreNum c) rd ra rb aluMax)
def execMinu (c : CoreId) (rd ra rb : Fin 32) (s : State) : Host.Outcome State Fault Refusal :=
  .next (s.on fun x => x.aluR (coreNum c) rd ra rb aluMinu)
def execMaxu (c : CoreId) (rd ra rb : Fin 32) (s : State) : Host.Outcome State Fault Refusal :=
  .next (s.on fun x => x.aluR (coreNum c) rd ra rb aluMaxu)
def execAdds (c : CoreId) (rd ra rb : Fin 32) (s : State) : Host.Outcome State Fault Refusal :=
  .next (s.on fun x => x.aluR (coreNum c) rd ra rb aluAdds)
def execSubs (c : CoreId) (rd ra rb : Fin 32) (s : State) : Host.Outcome State Fault Refusal :=
  .next (s.on fun x => x.aluR (coreNum c) rd ra rb aluSubs)
def execSlli (c : CoreId) (rd ra sh : Fin 32) (s : State) : Host.Outcome State Fault Refusal :=
  .next (s.on fun x => x.aluI (coreNum c) rd ra (BitVec.ofNat 32 sh) aluSll)
def execSrli (c : CoreId) (rd ra sh : Fin 32) (s : State) : Host.Outcome State Fault Refusal :=
  .next (s.on fun x => x.aluI (coreNum c) rd ra (BitVec.ofNat 32 sh) aluSrl)
def execSrai (c : CoreId) (rd ra sh : Fin 32) (s : State) : Host.Outcome State Fault Refusal :=
  .next (s.on fun x => x.aluI (coreNum c) rd ra (BitVec.ofNat 32 sh) aluSra)
def execClz (c : CoreId) (rd ra : Fin 32) (s : State) : Host.Outcome State Fault Refusal :=
  .next (s.on fun x => x.aluU (coreNum c) rd ra aluClz)
def execAbs (c : CoreId) (rd ra : Fin 32) (s : State) : Host.Outcome State Fault Refusal :=
  .next (s.on fun x => x.aluU (coreNum c) rd ra aluAbs)
def execAddi (c : CoreId) (rd ra : Fin 32) (imm : BitVec 16) (s : State) : Host.Outcome State Fault Refusal :=
  .next (s.on fun x => x.aluI (coreNum c) rd ra (simm imm) aluAdd)
def execAndi (c : CoreId) (rd ra : Fin 32) (imm : BitVec 16) (s : State) : Host.Outcome State Fault Refusal :=
  .next (s.on fun x => x.aluI (coreNum c) rd ra (zimm imm) aluAnd)
def execOri (c : CoreId) (rd ra : Fin 32) (imm : BitVec 16) (s : State) : Host.Outcome State Fault Refusal :=
  .next (s.on fun x => x.aluI (coreNum c) rd ra (zimm imm) aluOr)
def execXori (c : CoreId) (rd ra : Fin 32) (imm : BitVec 16) (s : State) : Host.Outcome State Fault Refusal :=
  .next (s.on fun x => x.aluI (coreNum c) rd ra (zimm imm) aluXor)
def execSlti (c : CoreId) (rd ra : Fin 32) (imm : BitVec 16) (s : State) : Host.Outcome State Fault Refusal :=
  .next (s.on fun x => x.aluI (coreNum c) rd ra (simm imm) aluSlt)
def execSltiu (c : CoreId) (rd ra : Fin 32) (imm : BitVec 16) (s : State) : Host.Outcome State Fault Refusal :=
  .next (s.on fun x => x.aluI (coreNum c) rd ra (simm imm) aluSltu)
def execLui (c : CoreId) (rd : Fin 32) (imm : BitVec 16) (s : State) : Host.Outcome State Fault Refusal :=
  .next (s.on fun x => x.issue (coreNum c) fun x => (x.setG (coreNum c) rd (zimm imm <<< 16)).seq (coreNum c))

end Sys2Proof.Machine
end

