-- ==== Sys2Proof/Machine/Flags.lean ====
section
/-!
DEFINITION. The flags and the rounding of binary32 arithmetic: FSR, rounding modes, tininess before rounding, flushing (R163).
-/
namespace Sys2Proof.Machine

/-- A result and the flags that it sets: [0] NV, [1] DZ, [2] OF, [3] UF, [4] NX. -/
structure FRes where
  v : Word
  flags : Nat
deriving DecidableEq, Repr

def flagNV : Nat := 1
def flagDZ : Nat := 2
def flagOF : Nat := 4
def flagUF : Nat := 8
def flagNX : Nat := 16

/-- Sticky flags of FSR set. -/
def Chip.setFlags (c : Chip) (k m : Nat) : Chip := c.setSr k 8 (c.sr k 8 ||| m)

/-- RM and FZ of FSR. -/
def Chip.fRm (c : Chip) (k : Nat) : Nat := bits (c.sr k 8) 7 5
def Chip.fFz (c : Chip) (k : Nat) : Bool := bit (c.sr k 8) 8

/-- A write of FSR: RM 5 to 7 are written as 0, reserved bits read zero (Table 7-9). -/
def fsrWord (v : Nat) : Nat := (if 5 ≤ bits v 7 5 then insertBits v 7 5 0 else v) % 2 ^ 9

-- binary32 values

def fSign (w : Word) : Bool := bit w.toNat 31
def fExp (w : Word) : Nat := bits w.toNat 30 23
def fFrac (w : Word) : Nat := bits w.toNat 22 0
def fIsNaN (w : Word) : Bool := fExp w == 255 && fFrac w != 0
def fIsSNaN (w : Word) : Bool := fIsNaN w && !bit w.toNat 22
def fIsInf (w : Word) : Bool := fExp w == 255 && fFrac w == 0
def fIsZero (w : Word) : Bool := fExp w == 0 && fFrac w == 0
def fIsSub (w : Word) : Bool := fExp w == 0 && fFrac w != 0

/-- The words of a signed zero and of a signed infinity, and the default NaN. -/
def fZero (s : Bool) : Word := BitVec.ofNat 32 (b2n s * 2 ^ 31)
def fInf (s : Bool) : Word := BitVec.ofNat 32 (b2n s * 2 ^ 31 + 0x7F800000)
def fDefault : Word := 0x7FE00000

/-- A NaN with its quiet bit set. -/
def fQuiet (w : Word) : Word := w ||| 0x400000

/-- A subnormal input read as zero of the same sign when FZ is 1. -/
def fFlushIn (fz : Bool) (w : Word) : Word := if fz && fIsSub w then fZero (fSign w) else w

/-- The magnitude of a finite value as `m` times 2 to the power `e`. -/
def fMant (w : Word) : Nat := if fExp w == 0 then fFrac w else fFrac w + 2 ^ 23
def fPow (w : Word) : Int := (if fExp w == 0 then 1 else (fExp w : Int)) - 150

/-- A finite value as a signed multiple of 2 to the power of `fPow`. -/
def fInt (w : Word) : Int := if fSign w then -(fMant w : Int) else fMant w

/-- The value rounds away from zero: sign, whether the kept part is odd, and the dropped part against a half (0 none, 1 below,
2 equal, 3 above). RM 0 to nearest even, 1 to nearest away, 2 up, 3 down, 4 toward zero. -/
def roundsUp (rm : Nat) (s odd : Bool) (rest : Nat) : Bool :=
  match rm with
  | 0 => rest == 3 || (rest == 2 && odd)
  | 1 => 2 ≤ rest
  | 2 => rest != 0 && !s
  | 3 => rest != 0 && s
  | _ => false

/-- How the dropped part compares with a half: `m` modulo 2^d, with a further part below it when `sticky`. -/
def restOf (m d : Nat) (sticky : Bool) : Nat :=
  let r := m % 2 ^ d
  if d == 0 then (if sticky then 1 else 0)
  else
    let h := 2 ^ (d - 1)
    if r < h then (if r == 0 && !sticky then 0 else 1)
    else if r == h && !sticky then 2
    else 3

/-- A magnitude `m` times 2 to the power `e`, with a further part below it when `sticky`, rounded to binary32. Tininess is
detected before rounding; with FZ a subnormal result becomes zero and sets UF. -/
def fRound (rm : Nat) (fz s : Bool) (m : Nat) (e : Int) (sticky : Bool) : FRes :=
  if m == 0 && !sticky then ⟨fZero s, 0⟩
  else
    let top : Int := e + Nat.log2 m
    let q : Int := max (top - 23) (-149)
    let d := (q - e).toNat
    let m := m * 2 ^ (e - q).toNat
    let rest := restOf m d sticky
    let kept := m / 2 ^ d
    let r := kept + b2n (roundsUp rm s (kept % 2 == 1) rest)
    let nx := if rest == 0 then 0 else flagNX
    let tiny := decide (top < -126)
    let uf := if tiny && rest != 0 then flagUF else 0
    let (r, q) := if r == 2 ^ 24 then (2 ^ 23, q + 1) else (r, q)
    if r < 2 ^ 23 then
      if fz && r != 0 then ⟨fZero s, flagUF ||| nx⟩
      else ⟨BitVec.ofNat 32 (b2n s * 2 ^ 31 + r), uf ||| nx⟩
    else
      let ex := q + 150
      if 255 ≤ ex then
        let toInf := rm == 0 || rm == 1 || (rm == 2 && !s) || (rm == 3 && s)
        ⟨if toInf then fInf s else BitVec.ofNat 32 (b2n s * 2 ^ 31 + 0x7F7FFFFF), flagOF ||| flagNX⟩
      else ⟨BitVec.ofNat 32 (b2n s * 2 ^ 31 + ex.toNat * 2 ^ 23 + (r - 2 ^ 23)), uf ||| nx⟩

/-- A signed multiple of 2 to the power `e` rounded; an exact zero sum takes sign `z`. -/
def fRoundInt (rm : Nat) (fz : Bool) (i e : Int) (z : Bool) : FRes :=
  if i == 0 then ⟨fZero z, 0⟩ else fRound rm fz (i < 0) i.natAbs e false

end Sys2Proof.Machine
end

