-- ==== Sys2Proof/Machine/OvFloat.lean ====
section
/-!
DEFINITION. The floating-point instructions of the Kiosk (R163, Table 7-6).
-/
namespace Sys2Proof.Machine

/-- The NaN result of an operation: the first NaN operand, quieted, or the default NaN. -/
def fNaN (ops : List Word) : Word :=
  match ops.find? fIsNaN with
  | some w => fQuiet w
  | none => fDefault

/-- NV when an operand is a signalling NaN. -/
def snanFlag (ops : List Word) : Nat := if ops.any fIsSNaN then flagNV else 0

/-- A sum of two finite values, exact, at the power of the smaller: the signed multiple and the power. -/
def exactSum (i1 e1 i2 e2 : Int) : Int × Int :=
  let e := min e1 e2
  (i1 * 2 ^ (e1 - e).toNat + i2 * 2 ^ (e2 - e).toNat, e)

/-- The sign of an exact zero sum: that of both operands when they agree, else minus only when rounding down. -/
def zeroSign (rm : Nat) (s1 s2 : Bool) : Bool := if s1 == s2 then s1 else rm == 3

/-- FADD. -/
def fAdd (rm : Nat) (fz : Bool) (a b : Word) : FRes :=
  let a := fFlushIn fz a
  let b := fFlushIn fz b
  if fIsNaN a || fIsNaN b then ⟨fNaN [a, b], snanFlag [a, b]⟩
  else if fIsInf a then (if fIsInf b && fSign a != fSign b then ⟨fDefault, flagNV⟩ else ⟨a, 0⟩)
  else if fIsInf b then ⟨b, 0⟩
  else
    let r := exactSum (fInt a) (fPow a) (fInt b) (fPow b)
    fRoundInt rm fz r.1 r.2 (zeroSign rm (fSign a) (fSign b))

/-- The word with its sign inverted. -/
def fNegate (w : Word) : Word := w ^^^ 0x80000000

/-- FSUB: NaN operands keep their sign. -/
def fSub (rm : Nat) (fz : Bool) (a b : Word) : FRes := if fIsNaN b then fAdd rm fz a b else fAdd rm fz a (fNegate b)

/-- FMUL. -/
def fMul (rm : Nat) (fz : Bool) (a b : Word) : FRes :=
  let a := fFlushIn fz a
  let b := fFlushIn fz b
  let s := xor (fSign a) (fSign b)
  if fIsNaN a || fIsNaN b then ⟨fNaN [a, b], snanFlag [a, b]⟩
  else if (fIsInf a && fIsZero b) || (fIsZero a && fIsInf b) then ⟨fDefault, flagNV⟩
  else if fIsInf a || fIsInf b then ⟨fInf s, 0⟩
  else fRound rm fz s (fMant a * fMant b) (fPow a + fPow b) false

/-- FDIV. -/
def fDiv (rm : Nat) (fz : Bool) (a b : Word) : FRes :=
  let a := fFlushIn fz a
  let b := fFlushIn fz b
  let s := xor (fSign a) (fSign b)
  if fIsNaN a || fIsNaN b then ⟨fNaN [a, b], snanFlag [a, b]⟩
  else if (fIsInf a && fIsInf b) || (fIsZero a && fIsZero b) then ⟨fDefault, flagNV⟩
  else if fIsInf a then ⟨fInf s, 0⟩
  else if fIsInf b then ⟨fZero s, 0⟩
  else if fIsZero b then ⟨fInf s, flagDZ⟩
  else
    let n := fMant a * 2 ^ 60
    fRound rm fz s (n / fMant b) (fPow a - fPow b - 60) (n % fMant b != 0)

/-- FSQRT. -/
def fSqrt (rm : Nat) (fz : Bool) (a : Word) : FRes :=
  let a := fFlushIn fz a
  if fIsNaN a then ⟨fNaN [a], snanFlag [a]⟩
  else if fIsZero a then ⟨a, 0⟩
  else if fSign a then ⟨fDefault, flagNV⟩
  else if fIsInf a then ⟨a, 0⟩
  else
    let odd := fPow a % 2 != 0
    let m := fMant a * 2 ^ (if odd then 61 else 60)
    let e := (if odd then fPow a - 61 else fPow a - 60) / 2
    fRound rm fz false (Nat.sqrt m) e (Nat.sqrt m * Nat.sqrt m != m)

/-- FMAC and FMSB: rd plus or minus ra times rb, rounded once. The NaN order is ra, rb, rd. -/
def fFma (rm : Nat) (fz neg : Bool) (d a b : Word) : FRes :=
  let a := fFlushIn fz a
  let b := fFlushIn fz b
  let d := fFlushIn fz d
  let bad := (fIsInf a && fIsZero b) || (fIsZero a && fIsInf b)
  let s := xor (xor (fSign a) (fSign b)) neg
  if fIsNaN a || fIsNaN b || fIsNaN d then
    ⟨fNaN [a, b, d], snanFlag [a, b, d] ||| (if bad && Config.fmaInvalid then flagNV else 0)⟩
  else if bad then ⟨fDefault, flagNV⟩
  else if fIsInf a || fIsInf b then
    (if fIsInf d && fSign d != s then ⟨fDefault, flagNV⟩ else ⟨fInf s, 0⟩)
  else if fIsInf d then ⟨d, 0⟩
  else
    let p : Int := (fMant a * fMant b : Nat)
    let r := exactSum (fInt d) (fPow d) (if s then -p else p) (fPow a + fPow b)
    fRoundInt rm fz r.1 r.2 (zeroSign rm (fSign d) s)

/-- The order of two values that are no NaN: less, with minus zero below plus zero when `zeros`. -/
def fLess (zeros : Bool) (a b : Word) : Bool :=
  if fIsZero a && fIsZero b then zeros && fSign a && !fSign b
  else
    let key (w : Word) : Int := if fSign w then -(w.toNat % 2 ^ 31 : Nat) else (w.toNat % 2 ^ 31 : Nat)
    key a < key b

/-- FMIN and FMAX of IEEE 754-2019. -/
def fMinMax (fz isMax : Bool) (a b : Word) : FRes :=
  let a := fFlushIn fz a
  let b := fFlushIn fz b
  if fIsNaN a || fIsNaN b then ⟨fNaN [a, b], snanFlag [a, b]⟩
  else ⟨if xor isMax (fLess true a b) then a else b, 0⟩

/-- FCMPQ and FCMPS: one-hot less, equal, greater, unordered. -/
def fCompare (fz signal : Bool) (a b : Word) : FRes :=
  let a := fFlushIn fz a
  let b := fFlushIn fz b
  if fIsNaN a || fIsNaN b then ⟨8, if signal then flagNV else snanFlag [a, b]⟩
  else if fLess false a b then ⟨1, 0⟩
  else if fLess false b a then ⟨4, 0⟩
  else ⟨2, 0⟩

/-- A finite magnitude rounded to an integer, and whether it was exact. -/
def fRoundMag (rm : Nat) (s : Bool) (m : Nat) (e : Int) : Nat × Bool :=
  let m := m * 2 ^ e.toNat
  let d := (-e).toNat
  let rest := restOf m d false
  let kept := m / 2 ^ d
  (kept + b2n (roundsUp rm s (kept % 2 == 1) rest), rest == 0)

/-- FTOI and FTOU: saturating with NV out of range; a NaN gives 0. -/
def fToInt (rm : Nat) (fz : Bool) (lo hi : Int) (a : Word) : FRes :=
  let a := fFlushIn fz a
  if fIsNaN a then ⟨0, flagNV⟩
  else if fIsInf a then ⟨BitVec.ofInt 32 (if fSign a then lo else hi), flagNV⟩
  else
    let r := fRoundMag rm (fSign a) (fMant a) (fPow a)
    let i : Int := if fSign a then -(r.1 : Int) else r.1
    if i < lo then ⟨BitVec.ofInt 32 lo, flagNV⟩
    else if hi < i then ⟨BitVec.ofInt 32 hi, flagNV⟩
    else ⟨BitVec.ofInt 32 i, if r.2 then 0 else flagNX⟩

/-- FCLASS (Table 7-6). -/
def fClass (fz : Bool) (a : Word) : Word :=
  let a := fFlushIn fz a
  let k := if fIsZero a then 2 else if fIsSub a then 4 else if fIsInf a then 16
    else if fIsSNaN a then 64 else if fIsNaN a then 32 else 8
  BitVec.ofNat 32 (b2n (fSign a) + k)

/-- A floating-point instruction: ILLEGAL in the Shed core; the result goes to rd, its flags to FSR. -/
def Chip.fOp (c : Chip) (k rd : Nat) (f : Nat → Bool → FRes) : Chip :=
  c.issue k fun c => c.kioskOnly k fun c =>
    let r := f (c.fRm k) (c.fFz k)
    ((c.setG k rd r.v).setFlags k r.flags).seq k

-- The commands

def execFadd (c : CoreId) (rd ra rb : Fin 32) (s : State) : Host.Outcome State Fault Refusal :=
  .next (s.on fun x => x.fOp (coreNum c) rd fun rm fz => fAdd rm fz (x.g (coreNum c) ra) (x.g (coreNum c) rb))
def execFsub (c : CoreId) (rd ra rb : Fin 32) (s : State) : Host.Outcome State Fault Refusal :=
  .next (s.on fun x => x.fOp (coreNum c) rd fun rm fz => fSub rm fz (x.g (coreNum c) ra) (x.g (coreNum c) rb))
def execFmul (c : CoreId) (rd ra rb : Fin 32) (s : State) : Host.Outcome State Fault Refusal :=
  .next (s.on fun x => x.fOp (coreNum c) rd fun rm fz => fMul rm fz (x.g (coreNum c) ra) (x.g (coreNum c) rb))
def execFdiv (c : CoreId) (rd ra rb : Fin 32) (s : State) : Host.Outcome State Fault Refusal :=
  .next (s.on fun x => x.fOp (coreNum c) rd fun rm fz => fDiv rm fz (x.g (coreNum c) ra) (x.g (coreNum c) rb))
def execFsqrt (c : CoreId) (rd ra : Fin 32) (s : State) : Host.Outcome State Fault Refusal :=
  .next (s.on fun x => x.fOp (coreNum c) rd fun rm fz => fSqrt rm fz (x.g (coreNum c) ra))
def execFmin (c : CoreId) (rd ra rb : Fin 32) (s : State) : Host.Outcome State Fault Refusal :=
  .next (s.on fun x => x.fOp (coreNum c) rd fun _ fz => fMinMax fz false (x.g (coreNum c) ra) (x.g (coreNum c) rb))
def execFmax (c : CoreId) (rd ra rb : Fin 32) (s : State) : Host.Outcome State Fault Refusal :=
  .next (s.on fun x => x.fOp (coreNum c) rd fun _ fz => fMinMax fz true (x.g (coreNum c) ra) (x.g (coreNum c) rb))
def execFmac (c : CoreId) (rd ra rb : Fin 32) (s : State) : Host.Outcome State Fault Refusal :=
  .next (s.on fun x => x.fOp (coreNum c) rd fun rm fz =>
    fFma rm fz false (x.g (coreNum c) rd) (x.g (coreNum c) ra) (x.g (coreNum c) rb))
def execFmsb (c : CoreId) (rd ra rb : Fin 32) (s : State) : Host.Outcome State Fault Refusal :=
  .next (s.on fun x => x.fOp (coreNum c) rd fun rm fz =>
    fFma rm fz true (x.g (coreNum c) rd) (x.g (coreNum c) ra) (x.g (coreNum c) rb))
def execFcmpq (c : CoreId) (rd ra rb : Fin 32) (s : State) : Host.Outcome State Fault Refusal :=
  .next (s.on fun x => x.fOp (coreNum c) rd fun _ fz => fCompare fz false (x.g (coreNum c) ra) (x.g (coreNum c) rb))
def execFcmps (c : CoreId) (rd ra rb : Fin 32) (s : State) : Host.Outcome State Fault Refusal :=
  .next (s.on fun x => x.fOp (coreNum c) rd fun _ fz => fCompare fz true (x.g (coreNum c) ra) (x.g (coreNum c) rb))
def execFtoi (c : CoreId) (rd ra : Fin 32) (s : State) : Host.Outcome State Fault Refusal :=
  .next (s.on fun x => x.fOp (coreNum c) rd fun rm fz => fToInt rm fz (-2147483648) 2147483647 (x.g (coreNum c) ra))
def execFtou (c : CoreId) (rd ra : Fin 32) (s : State) : Host.Outcome State Fault Refusal :=
  .next (s.on fun x => x.fOp (coreNum c) rd fun rm fz => fToInt rm fz 0 4294967295 (x.g (coreNum c) ra))
def execItof (c : CoreId) (rd ra : Fin 32) (s : State) : Host.Outcome State Fault Refusal :=
  .next (s.on fun x => x.fOp (coreNum c) rd fun rm fz => fRoundInt rm fz (x.g (coreNum c) ra).toInt 0 false)
def execUtof (c : CoreId) (rd ra : Fin 32) (s : State) : Host.Outcome State Fault Refusal :=
  .next (s.on fun x => x.fOp (coreNum c) rd fun rm fz => fRoundInt rm fz (x.g (coreNum c) ra).toNat 0 false)
def execFneg (c : CoreId) (rd ra : Fin 32) (s : State) : Host.Outcome State Fault Refusal :=
  .next (s.on fun x => x.fOp (coreNum c) rd fun _ _ => ⟨fNegate (x.g (coreNum c) ra), 0⟩)
def execFabs (c : CoreId) (rd ra : Fin 32) (s : State) : Host.Outcome State Fault Refusal :=
  .next (s.on fun x => x.fOp (coreNum c) rd fun _ _ => ⟨x.g (coreNum c) ra &&& 0x7FFFFFFF, 0⟩)
def execFclass (c : CoreId) (rd ra : Fin 32) (s : State) : Host.Outcome State Fault Refusal :=
  .next (s.on fun x => x.fOp (coreNum c) rd fun _ fz => ⟨fClass fz (x.g (coreNum c) ra), 0⟩)

end Sys2Proof.Machine
end

