-- ==== Sys2Proof/Machine/OvCtl.lean ====
section
/-!
DEFINITION. Control instructions of Ovmin: branches, jumps and loops (R167, R168), the system instructions (Table 7-8), MFS
(R170), the waits on time and angle (R183 to R186), and the opening, test and rollback of a speculative region (R193 to R201).
-/
namespace Sys2Proof.Machine

-- Branches and loops

/-- An address `n` words from the instruction at the program counter. -/
def Chip.rel (c : Chip) (k : Nat) (n : Int) : Nat := wrapNat 32 ((c.pc k : Int) + 4 * n)

/-- A B-format branch (R167). -/
def Chip.branch (c : Chip) (k ra rb : Nat) (off : BitVec 16) (taken : Word → Word → Bool) : Chip :=
  c.issue k fun c => if taken (c.g k ra) (c.g k rb) then c.goto k (c.rel k off.toInt) else c.seq k

/-- A loop level's registers are written inside an open region (R199). -/
def Chip.loopTouched (c : Chip) (k lvl : Nat) : Chip :=
  c.coreUp k fun x => { x with spec := x.spec.map fun (s : Spec) => { s with loops := s.loops ||| 2 ^ lvl } }

/-- The address of a loop level's first special register. -/
def loopSr (lvl : Bool) : Nat := if lvl then 0x13 else 0x10

/-- LOOP and LOOPI with a count (R168). -/
def Chip.setLoop (c : Chip) (k : Nat) (lvl : Bool) (count : Nat) (off : BitVec 16) : Chip :=
  if off = 0 then c.illegal k
  else
    let b := loopSr lvl
    let e := c.rel k off.toNat
    let next := if count = 0 then (e + 4) % 2 ^ 32 else c.rel k 1
    ((((c.setSr k b (c.rel k 1)).setSr k (b + 1) e).setSr k (b + 2) count).loopTouched k (b2n lvl)).setPc k next

-- System instructions

/-- An enabled line is pending. -/
def Chip.lineDue (c : Chip) (k : Nat) : Bool := (c.dueLine k).isSome

/-- WFI: completes at once when an enabled line is pending, parks the core else; in a region it rolls back with PARK. -/
def Chip.wfi (c : Chip) (k : Nat) : Chip :=
  if (c.core k).spec.isSome then c.rollback k 0x25 0
  else if c.lineDue k then c.seq k
  else c.setKstat k KS_KSTAT_WFI 1

/-- A parked core wakes. -/
def Chip.wfiWake (c : Chip) (k : Nat) : Chip :=
  if c.parked k && c.lineDue k then ((c.setKstat k KS_KSTAT_WFI 0).seq k).boundary k else c

/-- EBREAK: with DBGEN the core halts at the instruction, or, inside a region, once the region has closed (R179, R201). -/
def Chip.ebreak (c : Chip) (k : Nat) : Chip :=
  if !c.flag (KS_KCTL_DBGEN (coreBase k)) then c.exc k 0x0A
  else if (c.core k).spec.isSome then (c.coreUp k fun x => { x with haltReq := true, brk := true }).seq k
  else c.stopCore k 3

/-- An instruction that is not allowed inside a region (R196). -/
def Chip.outside (c : Chip) (k : Nat) (f : Chip → Chip) : Chip := if (c.core k).spec.isSome then c.illegal k else f c

/-- RETE. -/
def Chip.rete (c : Chip) (k : Nat) : Chip := c.outside k fun c => if c.exl k then c.leaveHandler k else c.illegal k

/-- DI and EI. -/
def Chip.di (c : Chip) (k rd : Nat) : Chip :=
  c.outside k fun c => ((c.setG k rd (BitVec.ofNat 32 (b2n (c.ie k)))).setStatus k false (c.pie k) (c.exl k)).seq k
def Chip.ei (c : Chip) (k : Nat) : Chip := c.outside k fun c => (c.setStatus k true (c.pie k) (c.exl k)).seq k

-- MFS (R170, Tables 7-9, 8-6)

/-- Messages waiting in a queue. -/
def Chip.rxLen (c : Chip) (k q : Nat) : Nat := (Assoc.get (fun _ => []) (c.core k).rxq q).length

/-- SPCNT: held effects and the watchdog of the open region; zero with no region open. -/
def Chip.spcnt (c : Chip) (k : Nat) : Nat :=
  match (c.core k).spec with
  | none => 0
  | some s => s.porch.length + (c.clock k - s.start) % 2 ^ 13 * 2 ^ 16

/-- CORE: the number of the core, the Shed bit, and the hub's node ID; the Shed core has none. -/
def Chip.coreWord (c : Chip) (k : Nat) : Nat :=
  if isShed k then 2 ^ 8 else k + c.fld GTH_GSTAT_NODE_ID * 2 ^ 16 + c.fld GTH_GSTAT_ID_VALID * 2 ^ 26

/-- FT in whole nanoseconds at the core: the hub's, or the cell's replica. -/
def Chip.ftOf (c : Chip) (k : Nat) : Nat := if isShed k then c.cellFtNs else c.ftNs

/-- The value of a special register that MFS reads; none where the core has no such register or it is write-only. -/
def Chip.srRead (c : Chip) (k n : Nat) : Option Nat :=
  let kiosk := !isShed k
  if n = 0 then some (c.sr k 0 + b2n (c.core k).spec.isSome * 8)
  else if n = 6 then some (c.ipend k)
  else if n ≤ 7 then some (c.sr k n)
  else if n = 8 then (if kiosk then some (c.sr k 8) else none)
  else if 0x10 ≤ n && n ≤ 0x15 then some (c.sr k n)
  else if n = 0x18 then some (c.cycles k % 2 ^ 32)
  else if n = 0x19 then some (c.core k).cycLatch
  else if n = 0x1A then some (c.coreWord k)
  else if 0x20 ≤ n && n ≤ 0x2F then
    if !kiosk then none
    else if n = 0x22 then some (c.spcnt k)
    else if n = 0x26 then some (c.rxLen k 0 + c.rxLen k 1 * 2 ^ 8 + c.rxLen k 2 * 2 ^ 16 + c.rxLen k 3 * 2 ^ 24)
    else some (c.sr k n)
  else if n = 0x100 then some (c.ftOf k % 2 ^ 32)
  else if n = 0x101 then some (c.core k).ftLatch
  else if n = 0x104 || n = 0x105 then some (c.sr k n)
  else none

/-- MFS: the value to rd; a read of CYCLE or FTL latches the upper word. -/
def Chip.mfs (c : Chip) (k rd n : Nat) : Chip :=
  match c.srRead k n with
  | none => c.illegal k
  | some v =>
    let c := c.when (n == 0x18) fun c => c.coreUp k fun x => { x with cycLatch := c.cycles k / 2 ^ 32 }
    let c := c.when (n == 0x100) fun c => c.coreUp k fun x => { x with ftLatch := c.ftOf k / 2 ^ 32 % 2 ^ 32 }
    (c.setG k rd (BitVec.ofNat 32 v)).seq k

-- Waits

/-- A wait ends: rd is written, and the instruction completes. -/
def Chip.endWait (c : Chip) (k rd v : Nat) : Chip :=
  ((c.coreUp k fun x => { x with wait := none }).setG k rd (BitVec.ofNat 32 v)).seq k

/-- An excess as a wait writes it, saturated (R183, R184). -/
def lateness (now target : Nat) : Nat := Nat.min (now - target) 0x7FFFFFFF

/-- TMW (R183). -/
def Chip.tmw (c : Chip) (k rd target : Nat) : Chip :=
  if target ≤ c.ftOf k then c.endWait k rd (lateness (c.ftOf k) target)
  else c.coreUp k fun x => { x with wait := some (.tmw rd target) }

/-- The whole-unit value of a base: angle base `d` of the hub, or the cell's replica. -/
def Chip.baseOf (c : Chip) (k d : Nat) : Nat := if isShed k then c.csd.ang / one40 else (c.dom (2 + d)).acc / one40

/-- The slot grid of a core: slots per cycle, 0 being treated as 1, and the origin (R70, R185). -/
def Chip.gridOf (c : Chip) (k : Nat) : Nat × Nat :=
  if isShed k then (c.slotsC, c.reg LDG_SLOT_ORG) else (Nat.max (c.fld BLV_SLOTS_S) 1, c.reg BLV_SLOT_ORG)

/-- The number of the slot that contains a base's value. -/
def Chip.slotAt (c : Chip) (k d : Nat) : Nat := slotIndex (c.gridOf k).1 (c.gridOf k).2 (c.baseOf k d)

/-- The slot's tag. -/
def Chip.slotTag (c : Chip) (k d : Nat) : Nat := c.slotAt k d % 4096

/-- What ANGW writes when its base `d` has reached the target. -/
def Chip.angwValue (c : Chip) (k d target : Nat) (slot : Bool) : Nat :=
  if slot then c.slotTag k d else lateness (c.baseOf k d) target

/-- ANGW to an instant (R184) and to a slot's tag (R185). -/
def Chip.angwTo (c : Chip) (k rd d target : Nat) (slot : Bool) : Chip :=
  if target ≤ c.baseOf k d then c.endWait k rd (c.angwValue k d target slot)
  else c.coreUp k fun x => { x with wait := some (.angw rd d target slot) }

def Chip.angwSlot (c : Chip) (k rd tag : Nat) : Chip :=
  let d := c.fld SDL_SCTL_ARM_BASE
  let n := c.slotAt k d
  let ahead := toSigned 12 (wrapNat 12 ((tag : Int) - (n % 4096 : Nat)))
  if ahead ≤ 0 then c.endWait k rd (c.slotTag k d)
  else c.angwTo k rd d (slotStart (c.gridOf k).1 (c.gridOf k).2 (n + ahead.toNat)) true

/-- ANGW: unused fields must be zero, and the Shed core has base 0 only (R160, R182). -/
def Chip.angw (c : Chip) (k rd ra rb : Nat) (slot : Bool) (base : Nat) : Chip :=
  if slot then
    if rb ≠ 0 || base ≠ 0 then c.illegal k else c.angwSlot k rd ((c.g k ra).toNat % 4096)
  else if isShed k && base ≠ 0 then c.illegal k
  else c.angwTo k rd base ((c.g k ra).toNat + (c.g k rb).toNat * 2 ^ 32) false

/-- The target of a wait has been reached. -/
def Chip.tmwWake (c : Chip) (k : Nat) : Chip :=
  match (c.core k).wait with
  | some (.tmw rd target) => if target ≤ c.ftOf k then (c.endWait k rd (lateness (c.ftOf k) target)).boundary k else c
  | _ => c

def Chip.angwWake (c : Chip) (k : Nat) : Chip :=
  match (c.core k).wait with
  | some (.angw rd d target slot) =>
    if target ≤ c.baseOf k d then (c.endWait k rd (c.angwValue k d target slot)).boundary k else c
  | _ => c

-- Speculative regions

/-- CKPT (R193). -/
def Chip.ckpt (c : Chip) (k rd : Nat) (off : BitVec 16) : Chip :=
  if (c.core k).spec.isSome then c.rollback k 0x24 0
  else if c.exl k then c.illegal k
  else
    let c := c.setSr k 0x21 (c.rel k off.toInt)
    (c.coreUp k fun x => { x with spec := some { g := x.g, fsr := c.sr k 8, rd := rd, start := c.clock k } }).seq k

/-- The integer test of VRFY, without wrapping, and the binary32 test: an exact difference, a NaN fails; none where both
operands are the same infinity, of which no difference is stated (R197). -/
def vrfyInt (a b t : Word) : Bool := ((a.toInt - b.toInt).natAbs : Int) ≤ t.toInt

def vrfyFloat (a b t : Word) : Option Bool :=
  if fIsNaN a || fIsNaN b || fIsNaN t then some false
  else if fIsInf a && fIsInf b && fSign a == fSign b then none
  else if fIsInf t then some (!fSign t)
  else if fIsInf a || fIsInf b then some false
  else
    let d := exactSum (fInt a) (fPow a) (-fInt b) (fPow b)
    some (0 ≤ (exactSum (fInt t) (fPow t) (-(d.1.natAbs : Int)) d.2).1)

/-- VRFY: a pass goes on, a failure rolls back with MISMATCH (R197). -/
def Chip.vrfy (c : Chip) (k rd ra rb : Nat) (f : Bool) : Chip :=
  if (c.core k).spec.isNone then c.illegal k
  else
    let r : Bool × Chip := match (if f then vrfyFloat (c.g k ra) (c.g k rb) (c.g k rd)
        else some (vrfyInt (c.g k ra) (c.g k rb) (c.g k rd))) with
      | some p => (p, c)
      | none => (bit c.draw.1 0, c.draw.2)
    if r.1 then r.2.seq k else r.2.rollback k 0x20 0

/-- ROLL: the open region rolls back with a user cause; with no region open there is none to roll back (log entry 82). -/
def Chip.roll (c : Chip) (k u : Nat) : Chip :=
  if (c.core k).spec.isSome then c.rollback k (0x38 + u) 0 else c.seq k

/-- The region watchdog: a region open 4,096 cycles rolls back; a wait is abandoned (R200). -/
def Chip.specWatchdog (c : Chip) (k : Nat) : Chip :=
  match (c.core k).spec with
  | some s => if s.start + 4096 ≤ c.clock k then (c.rollback k 0x22 0).boundary k else c
  | none => c

-- The commands

def execMfs (c : CoreId) (rd : Fin 32) (sr : BitVec 12) (s : State) : Host.Outcome State Fault Refusal :=
  .next (s.on fun x => x.issue (coreNum c) fun x => x.mfs (coreNum c) rd sr.toNat)
def execBeq (c : CoreId) (ra rb : Fin 32) (off : BitVec 16) (s : State) : Host.Outcome State Fault Refusal :=
  .next (s.on fun x => x.branch (coreNum c) ra rb off fun a b => a == b)
def execBne (c : CoreId) (ra rb : Fin 32) (off : BitVec 16) (s : State) : Host.Outcome State Fault Refusal :=
  .next (s.on fun x => x.branch (coreNum c) ra rb off fun a b => a != b)
def execBlt (c : CoreId) (ra rb : Fin 32) (off : BitVec 16) (s : State) : Host.Outcome State Fault Refusal :=
  .next (s.on fun x => x.branch (coreNum c) ra rb off fun a b => a.slt b)
def execBge (c : CoreId) (ra rb : Fin 32) (off : BitVec 16) (s : State) : Host.Outcome State Fault Refusal :=
  .next (s.on fun x => x.branch (coreNum c) ra rb off fun a b => !a.slt b)
def execBltu (c : CoreId) (ra rb : Fin 32) (off : BitVec 16) (s : State) : Host.Outcome State Fault Refusal :=
  .next (s.on fun x => x.branch (coreNum c) ra rb off fun a b => a.ult b)
def execBgeu (c : CoreId) (ra rb : Fin 32) (off : BitVec 16) (s : State) : Host.Outcome State Fault Refusal :=
  .next (s.on fun x => x.branch (coreNum c) ra rb off fun a b => !a.ult b)
/-- JAL and JALR: the return address to rd, then the jump (R167). -/
def execJal (c : CoreId) (rd : Fin 32) (off : BitVec 21) (s : State) : Host.Outcome State Fault Refusal :=
  .next (s.on fun x => x.issue (coreNum c) fun x =>
    let k := coreNum c
    (x.setG k rd (BitVec.ofNat 32 (x.pc k + 4))).goto k (x.rel k off.toInt))
def execJalr (c : CoreId) (rd ra : Fin 32) (imm : BitVec 16) (s : State) : Host.Outcome State Fault Refusal :=
  .next (s.on fun x => x.issue (coreNum c) fun x =>
    let k := coreNum c
    (x.setG k rd (BitVec.ofNat 32 (x.pc k + 4))).goto k (x.ea k ra imm / 4 * 4))
def execLoop (c : CoreId) (lvl : Bool) (ra : Fin 32) (off : BitVec 16) (s : State) : Host.Outcome State Fault Refusal :=
  .next (s.on fun x => x.issue (coreNum c) fun x => x.setLoop (coreNum c) lvl (x.g (coreNum c) ra).toNat off)
def execLoopi (c : CoreId) (lvl : Bool) (cnt : BitVec 9) (off : BitVec 16) (s : State) : Host.Outcome State Fault Refusal :=
  .next (s.on fun x => x.issue (coreNum c) fun x => x.setLoop (coreNum c) lvl cnt.toNat off)
def execNop (c : CoreId) (s : State) : Host.Outcome State Fault Refusal :=
  .next (s.on fun x => x.issue (coreNum c) fun x => x.seq (coreNum c))
/-- FENCE: every earlier load and store of the core has completed in this model when it issues (R166). -/
def execFence (c : CoreId) (s : State) : Host.Outcome State Fault Refusal :=
  .next (s.on fun x => x.issue (coreNum c) fun x => x.seq (coreNum c))
def execEcall (c : CoreId) (arg : BitVec 10) (s : State) : Host.Outcome State Fault Refusal :=
  .next (s.on fun x => x.issue (coreNum c) fun x => x.takeExc (coreNum c) 9 (x.pc (coreNum c)) none arg.toNat)
def execDi (c : CoreId) (rd : Fin 32) (s : State) : Host.Outcome State Fault Refusal :=
  .next (s.on fun x => x.issue (coreNum c) fun x => x.di (coreNum c) rd)
def execTmw (c : CoreId) (rd ra rb : Fin 32) (s : State) : Host.Outcome State Fault Refusal :=
  .next (s.on fun x => x.issue (coreNum c) fun x =>
    let k := coreNum c
    x.tmw k rd ((x.g k ra).toNat + (x.g k rb).toNat * 2 ^ 32))
def execAngw (c : CoreId) (rd ra rb : Fin 32) (slot : Bool) (base : Fin 4) (s : State) : Host.Outcome State Fault Refusal :=
  .next (s.on fun x => x.issue (coreNum c) fun x => x.angw (coreNum c) rd ra rb slot base)
def execCkpt (c : CoreId) (rd : Fin 32) (off : BitVec 16) (s : State) : Host.Outcome State Fault Refusal :=
  .next (s.on fun x => x.issue (coreNum c) fun x => x.kioskOnly (coreNum c) fun x => x.ckpt (coreNum c) rd off)
def execVrfy (c : CoreId) (rd ra rb : Fin 32) (f : Bool) (s : State) : Host.Outcome State Fault Refusal :=
  .next (s.on fun x => x.issue (coreNum c) fun x => x.kioskOnly (coreNum c) fun x => x.vrfy (coreNum c) rd ra rb f)
def execRoll (c : CoreId) (u : Fin 8) (s : State) : Host.Outcome State Fault Refusal :=
  .next (s.on fun x => x.issue (coreNum c) fun x => x.kioskOnly (coreNum c) fun x => x.roll (coreNum c) u)
def execWfi (c : CoreId) (s : State) : Host.Outcome State Fault Refusal :=
  .next (s.on fun x => x.issue (coreNum c) fun x => x.wfi (coreNum c))
def execEbreak (c : CoreId) (s : State) : Host.Outcome State Fault Refusal :=
  .next (s.on fun x => x.issue (coreNum c) fun x => x.ebreak (coreNum c))
def execRete (c : CoreId) (s : State) : Host.Outcome State Fault Refusal :=
  .next (s.on fun x => x.issue (coreNum c) fun x => x.rete (coreNum c))
def execEi (c : CoreId) (s : State) : Host.Outcome State Fault Refusal :=
  .next (s.on fun x => x.issue (coreNum c) fun x => x.ei (coreNum c))
def execWfiWake (c : CoreId) (s : State) : Host.Outcome State Fault Refusal := .next (s.on fun x => x.wfiWake (coreNum c))
def execTmwWake (c : CoreId) (s : State) : Host.Outcome State Fault Refusal := .next (s.on fun x => x.tmwWake (coreNum c))
def execAngwWake (c : CoreId) (s : State) : Host.Outcome State Fault Refusal := .next (s.on fun x => x.angwWake (coreNum c))
def execSpecWatchdog (c : CoreId) (s : State) : Host.Outcome State Fault Refusal := .next (s.on fun x => x.specWatchdog (coreNum c))

end Sys2Proof.Machine
end

