-- ==== Sys2Proof/Machine/Power.lean ====
section
/-!
DEFINITION. Resets, supplies, temperature, the Lodge, the PCIe endpoint and the TAPs (R375, R383 to R396).
-/
namespace Sys2Proof.Machine

-- Resets (Table 18-4, R389, R396)

/-- A write of RSTCMD: refused without KEY. -/
def Chip.rstCmd (c : Chip) (p : Part) (w : Nat) : Chip :=
  if bits w 31 16 != 0xA55A then
    match p with
    | .hub => c.raiseHub ⟨0, 2, 2, GLB_RDYSTAT_REFUSED⟩
    | .cell => c.raiseCell ⟨0, 2, 2, CGL_CCFG_REFUSED⟩
  else
    let cold := bit w 1
    let warm := bit w 0
    match p with
    | .hub =>
      if cold then (c.hubRequest true 2).when warm (·.hubRequest false 4) else c.when warm (·.hubRequest false 4)
    | .cell =>
      if cold then (c.cellRequest true false 1).when warm (·.cellRequest false false 2)
      else c.when warm (·.cellRequest false false 2)

/-- A write of WDT; with EN = 1 the count restarts. -/
def Chip.wdtWrite (c : Chip) (w : Nat) : Chip :=
  let c := c.plainWrite GLB_WDT w
  c.when (bit w 31) fun c => { c with sys := { c.sys with wdtAt := c.time } }

/-- The watchdog has run for its period in ms since WDT was last written. -/
def Chip.wdtDue (c : Chip) : Bool := c.flag GLB_WDT_EN && c.sys.wdtAt + 2000000 * Nat.max (c.fld GLB_WDT_PERIOD) 1 ≤ c.time
def Chip.watchdog (c : Chip) : Chip := if c.wdtDue then c.hubRequest false 5 else c

/-- What a reset of the hub leaves undefined takes free values: TEMP, QDATA and the Kiosks' registers (R5, R155).
Their cycle counts start. -/
def Chip.hubUndef (c : Chip) : Chip :=
  let c := c.draw.2.setFld GLB_TEMP_T c.draw.1
  let c := c.forEach (List.range 64) fun i c => c.draw.2.setReg (PCI_QDATA i) c.draw.1
  c.forEach (List.range 16) fun k c => (c.undefRegs k).coreUp k fun x => { x with cycBase := c.tick }

/-- The reset of the hub ends: the boot ROM starts (R378). -/
def Chip.hubRelease (c : Chip) : Chip :=
  match c.sys.hubRst with
  | none => c
  | some _ =>
    let c := ({ c with sys := { c.sys with hubRst := none } }).hubUndef
    if c.bootMode == 1 then c else c.qspiBoot

/-- A reset of the cell in force ends, not while VIN is below VWAKE: the Lodge tells of an unwritten record, the boot ROM runs
(R380, R387, R394). -/
def Chip.cellEnd (c : Chip) : Chip :=
  match c.sys.cellRst with
  | none => c
  | some (_, powerOn) =>
    if !c.sys.vin then c
    else
      let c := { c with sys := { c.sys with cellRst := none, heldWarm := false } }
      let c := (c.draw.2.setFld CGL_TEMP_T c.draw.1).undefRegs 16
      let c := c.when c.sys.late fun c => { c.raiseFlag LOD_LSTAT_LATE with sys := { c.sys with late := false } }
      c.cellBoot powerOn

/-- The warm reset of a SWAP whose answer has been sent (R382). -/
def Chip.swapReset (c : Chip) : Chip := if c.sys.swapDue && !c.imageBusy then c.cellRequest false false 4 else c

def Chip.cellRelease (c : Chip) : Chip :=
  (if c.sys.swapDue && c.sys.cellRst.isNone then c.cellRequest false false 4 else c).cellEnd

-- The cell's supply and the Lodge (R387, R388, R393 to R395)

/-- VIN falls below VBOR: a cold reset, and the power cycle is counted. -/
def Chip.vbor (c : Chip) : Chip :=
  let c := c.bump LOD_PCC
  ({ c with sys := { c.sys with vin := false } }).cellRequest true true 0

/-- VIN rises past VWAKE. -/
def Chip.vwake (c : Chip) : Chip := { c with sys := { c.sys with vin := true } }

/-- The words 12 to 15 of the keeper: the power-loss record (Table 18-7). -/
def Chip.lossRecord (c : Chip) : List Nat :=
  let n := c.reg64 PWM_SWCNT % 2 ^ 48
  let f := c.cellFtNs % 2 ^ 48
  let st := c.cellState + b2n (c.flag TRL_TSTAT_BYPASSED) * 8 + b2n (c.flag CFL_REACT_BLK) * 16
    + b2n (c.fld CHH_HSTAT_STATE == 1) * 32
  [n % 2 ^ 32, n / 2 ^ 32 + f % 2 ^ 16 * 2 ^ 16, f / 2 ^ 16, st + (c.reg LOD_PCC + 1) % 256 * 2 ^ 24]

/-- VIN falls below VWARN: the record is written. A fall on to VBOR within 1 us may leave it unwritten. -/
def Chip.vwarn (c : Chip) (fast : Bool) : Chip :=
  let r := if fast then (c.draw.1 % 2 == 0, c.draw.2) else (true, c)
  if r.1 then r.2.setWords (LOD_KEEPR 0) c.lossRecord else { r.2 with sys := { r.2.sys with late := true } }

/-- The Lodge resets: PCC is 0, the keeper undefined. -/
def Chip.lodgeReset (c : Chip) : Chip :=
  let c := ((c.setReg LOD_LSTAT 0).setReg LOD_LCTL 1).setReg LOD_PCC 0
  (c.forEach (List.range 16) fun w c => c.draw.2.setReg (LOD_KEEP w) c.draw.1).raiseFlag LOD_LSTAT_LODGE_NEW

def Chip.vbakLow (c : Chip) : Chip := if c.sys.vin then c.raiseCell ⟨11, 0, 2, LOD_LSTAT_VBAK_LOW⟩ else c

/-- A read of keeper word `w` that holds a byte of bad parity. -/
def Chip.keepRead (c : Chip) (w : Nat) : Chip :=
  ({ c with rdata := BitVec.ofNat 32 (c.reg (LOD_KEEP w)) }).raiseCell ⟨11, 1, 2, LOD_LSTAT_PAR_ERR⟩

/-- LSTAT as it reads: FRESH by byte 63 of the record; CHG while the charger works; VBAK_OK as the supply is, which no command tells:
free. -/
def Chip.lodStat (c : Chip) : Nat × Chip :=
  let v := insertBits (c.reg LOD_LSTAT) 5 5 (b2n (bits (c.reg (LOD_KEEPR 3)) 31 24 == c.reg LOD_PCC % 256))
  let v := insertBits v 1 1 (b2n (c.sys.vin && c.flag LOD_LCTL_CHG_EN))
  (insertBits v 0 0 c.draw.1, c.draw.2)

-- Temperature (R415)

/-- The die temperature `t`, in 0.25 degrees: as it rises above 145 degrees TEMP_HIGH is raised. -/
def Chip.tempHigh (c : Chip) (p : Part) (t : Nat) : Chip :=
  let hot := decide (580 < toSigned 12 t)
  match p with
  | .hub =>
    let was := c.sys.hotHub
    let c := { c.setFld GLB_TEMP_T t with sys := { c.sys with hotHub := hot } }
    c.when (hot && !was) (·.raiseHub ⟨0, 1, 2, noFlag GLB_TEMP⟩)
  | .cell =>
    let was := c.sys.hotCell
    let c := { c.setFld CGL_TEMP_T t with sys := { c.sys with hotCell := hot } }
    c.when (hot && !was) (·.raiseCell ⟨0, 1, 2, noFlag CGL_TEMP⟩)

-- The PCIe endpoint (R375)

/-- A hot reset, an FLR or the loss of the link: the host's held words go. -/
def Chip.pcieDown (c : Chip) : Chip :=
  let c := (c.setHold .host none).setFld PCI_PSTAT_LINK 0
  ((c.setFld PCI_PSTAT_WIDTH 0).setFld PCI_PSTAT_GEN 0).raiseHub ⟨11, 0, 2, PCI_PSTAT_DOWN_SEEN⟩

/-- The message of vector `v` pending in the PBA is sent, once the vector is unmasked and the link is up. -/
def Chip.msixPending (c : Chip) (v : Nat) : Chip :=
  let p := c.reg (PCI_PBA (v / 32))
  if bit p (v % 32) && !bit (c.reg (PCI_MSIX v + 12)) 0 && c.flag PCI_PSTAT_LINK then
    (c.setReg (PCI_PBA (v / 32)) (p - 2 ^ (v % 32))).emit (.msix v)
  else c

def Chip.msixUnmask (c : Chip) (v : Nat) : Chip :=
  (c.setReg (PCI_MSIX v + 12) (c.reg (PCI_MSIX v + 12) / 2 * 2)).msixPending v

def Chip.pcieUp (c : Chip) (width gen : Nat) : Chip :=
  let c := ((c.raiseFlag PCI_PSTAT_LINK).setFld PCI_PSTAT_WIDTH width).setFld PCI_PSTAT_GEN gen
  c.forEach ((List.range 2048).filter fun v => bit (c.reg (PCI_PBA (v / 32))) (v % 32)) fun v c => c.msixPending v

-- The TAPs (R383)

def Chip.tap (c : Chip) (p : Part) (i : Nat) : Chip :=
  match p with
  | .hub => { c with sys := { c.sys with tapHub := i } }
  | .cell => { c with sys := { c.sys with tapCell := i } }

/-- IDCODE of a part. -/
def idcodeOf (p : Part) : Nat :=
  0x10000001 + (match p with
    | .hub => 0x0192
    | .cell => 0x0004) * 2 ^ 12 + Config.jtagMaker.toNat * 2

/-- What a part does under EXTEST, CLAMP and HIGHZ, and until a warm reset: its cores and lanes stop and do not start again, its clocks do
not advance it, and the cell holds its gates L and its bypass outputs inactive. -/
def Chip.tapStop (c : Chip) (p : Part) : Chip :=
  let stopLanes (ls : List Nat) (c : Chip) : Chip := c.forEach ls fun l c =>
    ((c.dropTx l).clrFlag (LN_LSTAT_LOCK (laneBase l))).setLaneState l 0
  let stopCores (ks : List Nat) (c : Chip) : Chip := c.forEach ks fun k c =>
    (c.clrFlag (KS_KCTL_RUN (coreBase k))).stopCore k 5
  match p with
  | .hub =>
    let c := { c with sys := { c.sys with stopHub := true } }
    stopCores (List.range 16) (stopLanes (List.range 204) c)
  | .cell =>
    let c := { c with sys := { c.sys with stopCell := true } }
    let c := stopCores [16] (stopLanes [204, 205] c)
    let c := ((c.clrFlag TRL_TSTAT_BYP_RUN).clrFlag TRL_TSTAT_BYPF).clrFlag TRL_TSTAT_BYPC
    c.blockGates.setState 0

def Chip.tapDrive (c : Chip) (p : Part) (i : Nat) : Chip := (c.tap p i).tapStop p

/-- SAMPLE/PRELOAD: the levels at the pins, which nothing here tells, are shifted out, and the boundary register is loaded. -/
def Chip.tapSample (c : Chip) (p : Part) (v : DWord) : Chip :=
  let c := (c.tap p 2).draw.2.emit (.jtag p (BitVec.ofNat 64 c.draw.1))
  match p with
  | .hub => { c with sys := { c.sys with bsrHub := v } }
  | .cell => { c with sys := { c.sys with bsrCell := v } }

-- The commands

def execPorN (s : State) : Host.Outcome State Fault Refusal := .next (s.on fun c => c.hubRequest true 0)
def execSupervisorReset (s : State) : Host.Outcome State Fault Refusal := .next (s.on fun c => c.hubRequest true 1)
def execRstN (us : Nat) (s : State) : Host.Outcome State Fault Refusal :=
  .next (s.on fun c => if 1 ≤ us then c.hubRequest false 3 else c)
def execCold (p : Part) (w : Word) (s : State) : Host.Outcome State Fault Refusal := .next (s.on fun c => c.rstCmd p w.toNat)
def execWarm (p : Part) (w : Word) (s : State) : Host.Outcome State Fault Refusal := .next (s.on fun c => c.rstCmd p w.toNat)
def execWdtWrite (w : Word) (s : State) : Host.Outcome State Fault Refusal := .next (s.on fun c => c.wdtWrite w.toNat)
def execWatchdogExpiry (s : State) : Host.Outcome State Fault Refusal := .next (s.on (·.watchdog))
def execResetRelease (p : Part) (s : State) : Host.Outcome State Fault Refusal :=
  .next (s.on fun c => match p with
    | .hub => c.hubRelease
    | .cell => c.cellRelease)
def execVbor (s : State) : Host.Outcome State Fault Refusal := .next (s.on (·.vbor))
def execVwake (s : State) : Host.Outcome State Fault Refusal := .next (s.on (·.vwake))
def execVwarn (fast : Bool) (s : State) : Host.Outcome State Fault Refusal := .next (s.on fun c => c.vwarn fast)
def execLodgeReset (s : State) : Host.Outcome State Fault Refusal := .next (s.on (·.lodgeReset))
def execVbakLow (s : State) : Host.Outcome State Fault Refusal := .next (s.on (·.vbakLow))
def execKeepRead (_r : Requester) (w : Fin 16) (s : State) : Host.Outcome State Fault Refusal :=
  .next (s.on fun c => c.keepRead w)
def execTempHigh (p : Part) (t : BitVec 12) (s : State) : Host.Outcome State Fault Refusal :=
  .next (s.on fun c => c.tempHigh p t.toNat)
def execPllLock (s : State) : Host.Outcome State Fault Refusal := .next (s.on fun c => c.raiseFlag SDL_SSTAT_TICK_LOCK)
def execPcieLinkDown (s : State) : Host.Outcome State Fault Refusal := .next (s.on (·.pcieDown))
def execMsixUnmask (v : BitVec 11) (s : State) : Host.Outcome State Fault Refusal := .next (s.on fun c => c.msixUnmask v.toNat)
def execPcieLinkUp (width : BitVec 4) (gen : BitVec 3) (s : State) : Host.Outcome State Fault Refusal :=
  .next (s.on fun c => c.pcieUp width.toNat gen.toNat)
def execJtagBypass (p : Part) (s : State) : Host.Outcome State Fault Refusal :=
  .next (s.on fun c => (c.tap p 0).emit (.jtag p 0))
def execIdcode (p : Part) (s : State) : Host.Outcome State Fault Refusal :=
  .next (s.on fun c => (c.tap p 1).emit (.jtag p (BitVec.ofNat 64 (idcodeOf p))))
def execSamplePreload (p : Part) (v : DWord) (s : State) : Host.Outcome State Fault Refusal :=
  .next (s.on fun c => c.tapSample p v)
def execExtest (p : Part) (s : State) : Host.Outcome State Fault Refusal := .next (s.on fun c => c.tapDrive p 3)
def execClamp (p : Part) (s : State) : Host.Outcome State Fault Refusal := .next (s.on fun c => c.tapDrive p 4)
def execHighz (p : Part) (s : State) : Host.Outcome State Fault Refusal := .next (s.on fun c => c.tapDrive p 5)

end Sys2Proof.Machine
end

