-- ==== Sys2Proof/Machine/RegWrite.lean ====
section
/-!
DEFINITION. Register access by address (R3 to R7, R432): which operation a write of each register is, what each register reads as, and
the rules of wide registers; the host's access to the hub's memories (R159, R175, R249).
-/
namespace Sys2Proof.Machine

-- Writes. `a` is the address of a register, `ws` all its words, `w` its first word.

/-- GLB: resets and the watchdog. -/
def Chip.writeGlb (c : Chip) (a w : Nat) : Chip :=
  if a == GLB_RSTCMD then c.rstCmd .hub w
  else if a == GLB_WDT then c.wdtWrite w
  else c.plainWrite a w

/-- The words of a register written plainly. -/
def Chip.plainWords (c : Chip) (a : Nat) (ws : List Nat) : Chip := c.forEach ws.zipIdx fun x c => c.plainWrite (a + 4 * x.2) x.1

/-- A 64-bit number of two words. -/
def num64 (ws : List Nat) : Nat := ws.getD 0 0 + ws.getD 1 0 * 2 ^ 32

/-- SDL. -/
def Chip.writeSdl (c : Chip) (a : Nat) (ws : List Nat) : Chip :=
  let w := ws.getD 0 0
  if a == SDL_SCTL then c.sctlWrite w
  else if a == SDL_TDCFG then c.tdcfgWrite w
  else if a == SDL_PATHCTL then c.pathGo w
  else if 0x100100 ≤ a && a < 0x100700 then
    let d := (a - 0x100100) / 0x100
    if a == SDL_DCMD d then c.dcmdWrite d w
    else if (d < 2 && a == SDL_INC d) || (2 ≤ d && a == SDL_INCA (d - 2)) then c.incWrite d (num64 ws)
    else c.plainWords a ws
  else if 0x100800 ≤ a && a < 0x100900 then
    let n := (a - 0x100800) / 0x40
    if a == SDL_PCMD n then c.pcmdWrite n w else c.plainWords a ws
  else c.plainWords a ws

/-- ANG. -/
def Chip.writeAng (c : Chip) (a : Nat) (ws : List Nat) : Chip :=
  let w := ws.getD 0 0
  let v := (a - 0x200040) / 0x10
  let n := (a - 0x200100) / 0x100
  if 0x200040 ≤ a && v < 4 && a == ANG_VEC v then c.vecWrite v w
  else if 0x200100 ≤ a && n < 4 then
    if a == ANG_ICTL n then c.ictlWrite n w
    else if a == ANG_FILT n then c.filtWrite n w
    else if a == ANG_CPR n then c.cprWrite n w
    else if a == ANG_DIVR n then c.divrWrite n w
    else c.plainWords a ws
  else c.plainWords a ws

/-- BLV. -/
def Chip.writeBlv (c : Chip) (a : Nat) (ws : List Nat) : Chip :=
  let w := ws.getD 0 0
  if a == BLV_BCTL then c.bctlWrite w
  else if a == BLV_BCMD then c.when (bit w 0) (·.reseed)
  else if a == BLV_SLOTS || a == BLV_SLOT_ORG then c.gridWrite a w
  else c.plainWords a ws

/-- GTH. -/
def Chip.writeGth (c : Chip) (a : Nat) (ws : List Nat) : Chip :=
  let w := ws.getD 0 0
  if a == GTH_GCMD then
    if bit w 1 && !c.flag GTH_GSTAT_IS_LEAD then c.reroute
    else
      let c := (c.when (bit w 1) (·.reroute)).when (bit w 2) (·.armSwap)
      c.when (bit w 0) fun c => c.newEpoch (c.gth.epoch + 1)
  else if a == GTH_GCTL then
    let was := c.flag GTH_GCTL_EN
    let c := c.plainWords a ws
    c.when (!was && c.flag GTH_GCTL_EN) (·.gthUp fun g => { g with setAt := c.time })
  else c.plainWords a ws

/-- ORG. -/
def Chip.writeOrg (c : Chip) (r : Requester) (a : Nat) (ws : List Nat) : Chip :=
  let w := ws.getD 0 0
  if a == ORG_OCTL then c.octlApply w
  else if a == ORG_FREE then c.freeCmd (acctOf r) w
  else if 0x601000 ≤ a && a < 0x601900 then c.acctApply ((a - 0x601000) / 8) w
  else c.plainWords a ws

/-- HHA. -/
def Chip.writeHha (c : Chip) (a : Nat) (ws : List Nat) : Chip :=
  let w := ws.getD 0 0
  if a == HHA_HCMD then c.when (bit w 0) (·.sbkReq .hub)
  else if a == HHA_CFG_CRC then c.hhaCrcWrite w
  else if a != HHA_HSTAT && a < 0x700100 then c.hhaCfgWrite a ws
  else c.plainWords a ws

/-- A channel of GLS or CGS: `ch` its number, `o` the offset in its register group. -/
def Chip.writeChannel (c : Chip) (ch o a : Nat) (w : Nat) : Chip :=
  if o == 0 then c.cctlWrite ch w
  else if o == 8 then c.ccmdWrite ch w
  else if 0xC ≤ o && o < 0x30 then c.chRegWrite ch a w
  else c.plainWrite a w

/-- GLS. -/
def Chip.writeGls (c : Chip) (a : Nat) (ws : List Nat) : Chip :=
  if 0x800100 ≤ a && a < 0x800500 then c.writeChannel ((a - 0x800100) / 0x40) ((a - 0x800100) % 0x40) a (ws.getD 0 0)
  else c.plainWords a ws

/-- FLT. -/
def Chip.writeFlt (c : Chip) (a : Nat) (ws : List Nat) : Chip :=
  let w := ws.getD 0 0
  if a == FLT_FCTL then c.fctlWrite .hub w
  else if a == FLT_FCMD then c.when (bit w 0) (·.releaseHub)
  else if a == FLT_INJ then c.injWrite .hub w
  else if a == FLT_TKCTL then c.tkctlWrite w
  else if 0x900048 ≤ a && a < 0x900068 then c.tklistApply ((a - 0x900048) / 8) w (ws.getD 1 0)
  else if 0x980000 ≤ a then
    let b := (a - 0x980000) / 0x8000
    let o := (a - 0x980000) % 0x8000
    if 0x100 ≤ o && o < 0x180 then c.entryWrite .hub b ((o - 0x100) / 4) w
    else if 0x400 ≤ o && o < 0x800 then c.cstateWrite .hub b ((o - 0x400) / 4) w
    else c.plainWords a ws
  else c.plainWords a ws

/-- ETH. What the PHY answers to MDIO is free here; the command MDIO_GO carries it. -/
def Chip.writeEth (c : Chip) (a : Nat) (ws : List Nat) : Chip :=
  let n := (a - 0xA00000) / 0x1000
  if a == ETH_MDIO then c.draw.2.mdioGo (ws.getD 0 0) c.draw.1
  else if n < 2 && a == ETH_ETXD n then c.etxdSubmit n ws
  else c.plainWords a ws

/-- PCI. -/
def Chip.writePci (c : Chip) (a : Nat) (ws : List Nat) : Chip :=
  let w := ws.getD 0 0
  if a == PCI_BOOTCTL then c.when (bit w 0) (·.bootGo)
  else if a == PCI_OTPCMD then c.otpCmd .hub w
  else if a == PCI_QCMD then c.qcmd w
  else if 0xB10000 ≤ a && a < 0xB18000 && a % 16 == 12 then (c.plainWrite a w).msixPending ((a - 0xB10000) / 16)
  else c.plainWords a ws

/-- A lane of either part. -/
def Chip.writeLane (c : Chip) (l a : Nat) (ws : List Nat) : Chip :=
  let w := ws.getD 0 0
  let b := laneBase l
  if a == LN_LCTL b then c.lctlLaneWrite l w
  else if a == LN_LCMD b then
    let c := c.when (bit w 0) (·.retrain l)
    let c := c.when (bit w 1) (·.enterL1 l)
    let c := c.when (bit w 2) (·.enterL2Cmd l)
    let c := c.when (bit w 3) (·.wakeLane l)
    let c := c.when (bit w 4) (·.injOnceCmd l)
    let c := c.when (bit w 5) (·.msgSend l)
    c.when (bit w 6) (·.mrxDone l)
  else if a == LN_TCTL b then c.tctlWrite l w
  else if a == LN_INJ b then c.injRegWrite l w
  else if a == LN_PRBCTL b then c.prbctlWrite l w
  else c.plainWords a ws

/-- The control block of a core (Table 7-13). -/
def Chip.writeCore (c : Chip) (k a : Nat) (ws : List Nat) : Chip :=
  let w := ws.getD 0 0
  let b := coreBase k
  if a == KS_KCTL b then c.kctlWrite k w
  else if a == KS_KPC b then c.kpcWrite k 32 w
  else if a == KS_KDBELL b then c.doorbell k w
  else c.plainWords a ws

/-- CGL: a write of CCFG that would change HOMING or FB while the cell is neither in BLOCK nor OFFLINE is refused. -/
def Chip.writeCgl (c : Chip) (a : Nat) (ws : List Nat) : Chip :=
  let w := ws.getD 0 0
  if a == CGL_RSTCMD then c.rstCmd .cell w
  else if a == CGL_CCFG then
    if c.changes a w && !c.blocked then c.raiseCell ⟨0, 2, 2, CGL_CCFG_REFUSED⟩ else c.plainWrite a w
  else if a == CGL_BOOTCMD then c.when (bit w 0) (·.confirm)
  else if a == CGL_OTPCMD then c.otpCmd .cell w
  else if 0x40000100 ≤ a && a < 0x40000200 then c.writeCore 16 a ws
  else c.plainWords a ws

/-- CSD. -/
def Chip.writeCsd (c : Chip) (a : Nat) (ws : List Nat) : Chip :=
  if a == CSD_RCMD then c.rcmdWrite (ws.getD 0 0)
  else if a == CSD_FT_INC then c.repIncWrite false (num64 ws)
  else if a == CSD_ANG_INC then c.repIncWrite true (num64 ws)
  else if a == CSD_SYNC_TO then c.syncToWrite (ws.getD 0 0)
  else c.plainWords a ws

/-- LDG. -/
def Chip.writeLdg (c : Chip) (a : Nat) (ws : List Nat) : Chip :=
  let w := ws.getD 0 0
  if a == LDG_LCTL then c.lctlWrite w
  else if a == LDG_SLOTS then c.slotGridWrite false w
  else if a == LDG_SLOT_ORG then c.slotGridWrite true w
  else c.plainWords a ws

/-- PWM. -/
def Chip.writePwm (c : Chip) (a : Nat) (ws : List Nat) : Chip :=
  let w := ws.getD 0 0
  if a == PWM_PCTL then c.pctlWrite w
  else if a == PWM_DEADT || a == PWM_MINPW then c.pwmGuarded a w
  else if a == PWM_SEAL then c.sealWrite w
  else if a == PWM_EVCTL then c.evctlWrite w
  else c.plainWords a ws

/-- ADC. -/
def Chip.writeAdc (c : Chip) (a : Nat) (ws : List Nat) : Chip :=
  let w := ws.getD 0 0
  if a == ADC_ACTL then c.actlWrite w
  else if a == ADC_ACMD then c.acmdWrite w
  else if a == ADC_INJCFG || (0x40004040 ≤ a && a < 0x40004080) then c.pairWrite a w
  else if 0x40004080 ≤ a && a < 0x400040C0 then c.entbWrite ((a - 0x40004080) / 4) w
  else c.plainWords a ws

/-- TRL. -/
def Chip.writeTrl (c : Chip) (a : Nat) (ws : List Nat) : Chip :=
  let w := ws.getD 0 0
  if a == TRL_TCMD then c.tcmdWrite w
  else if a == TRL_DRVCFG then c.drvcfgWrite w
  else if a == TRL_TCTL || a == TRL_RBCFG || (0x40005018 ≤ a && a < 0x4000502C) then c.trlWrite a w
  else c.plainWords a ws

/-- CFL. -/
def Chip.writeCfl (c : Chip) (r : Requester) (a : Nat) (ws : List Nat) : Chip :=
  let w := ws.getD 0 0
  if a == CFL_FCTL then c.fctlWrite .cell w
  else if a == CFL_FCMD then c.when (bit w 0) (·.releaseCell)
  else if a == CFL_INJ then c.injWrite .cell w
  else if a == CFL_LOGCMD then (c.plainWrite a w).when (bit w 31) fun c => c.logSend (c.logLane r) w
  else if 0x40006400 ≤ a then c.entryWrite .cell ((a - 0x40006400) / 0x80) ((a - 0x40006400) % 0x80 / 4) w
  else if 0x40006100 ≤ a && a % 0x20 == 8 then c.cstateWrite .cell ((a - 0x40006100) / 0x20) 0 w
  else c.plainWords a ws

/-- CHH. -/
def Chip.writeChh (c : Chip) (a : Nat) (ws : List Nat) : Chip :=
  let w := ws.getD 0 0
  if a == CHH_HCMD then (c.when (bit w 0) (·.sbkReq .cell)).when (bit w 1) (·.deblock)
  else if a == CHH_CFG_CRC then c.chhCrcWrite w
  else if a == CHH_HCTL || a == CHH_CONN || a == CHH_RXCFG || a == CHH_SLVCFG then c.chhCfgWrite a w
  else c.plainWords a ws

/-- CGS. -/
def Chip.writeCgs (c : Chip) (a : Nat) (ws : List Nat) : Chip :=
  if a == CGS_TRIG_AT then c.trigAt ws
  else if 0x40008100 ≤ a && a < 0x40008180 then
    c.writeChannel (16 + (a - 0x40008100) / 0x40) ((a - 0x40008100) % 0x40) a (ws.getD 0 0)
  else c.plainWords a ws

/-- CLN: the lanes LA and LB, CCTL and the mailbox. -/
def Chip.writeCln (c : Chip) (a : Nat) (ws : List Nat) : Chip :=
  if a < 0x40009200 then c.writeLane (204 + (a - 0x40009000) / 0x100) a ws
  else if a == CLN_MBX_TX then (c.setReg a (ws.getD 0 0)).mbxTx (ws.getD 1 0)
  else c.plainWords a ws

/-- A register written whole. -/
def Chip.applyReg (c : Chip) (r : Requester) (a : Nat) (ws : List Nat) : Chip :=
  if a < 0x1000000 then
    match a / 0x100000 with
    | 0 => if ws.length == 1 then c.writeGlb a (ws.getD 0 0) else c.plainWords a ws
    | 1 => c.writeSdl a ws
    | 2 => c.writeAng a ws
    | 3 => c.writeBlv a ws
    | 5 => c.writeGth a ws
    | 6 => c.writeOrg r a ws
    | 7 => c.writeHha a ws
    | 8 => c.writeGls a ws
    | 9 => c.writeFlt a ws
    | 10 => c.writeEth a ws
    | 11 => c.writePci a ws
    | 12 => if a == LDD_LDCTL then c.ldctlWrite (ws.getD 0 0) else c.plainWords a ws
    | _ => c.plainWords a ws
  else if a < 0x1C00000 then c.writeLane ((a - 0x1000000) / 0x10000) a ws
  else if a < 0x2000000 then c.writeLane (192 + (a - 0x1C00000) / 0x10000) a ws
  else if a < 0x2100000 then c.writeCore ((a - 0x2000000) / 0x10000) a ws
  else
    match (a - 0x40000000) / 0x1000 with
    | 0 => c.writeCgl a ws
    | 1 => c.writeCsd a ws
    | 2 => c.writeLdg a ws
    | 3 => c.writePwm a ws
    | 4 => c.writeAdc a ws
    | 5 => c.writeTrl a ws
    | 6 => c.writeCfl r a ws
    | 7 => c.writeChh a ws
    | 8 => c.writeCgs a ws
    | 9 => c.writeCln a ws
    | _ => c.plainWords a ws

/-- KGREG: the core and the register that word address `a` names (Table 7-13, R180). -/
def kgreg (a : Nat) : Option (Nat × Nat) :=
  if 0x2000000 ≤ a && a < 0x2100000 && 0x80 ≤ a % 0x10000 && a % 0x10000 < 0x100 then
    some ((a - 0x2000000) / 0x10000, (a % 0x10000 - 0x80) / 4)
  else if 0x40000180 ≤ a && a < 0x40000200 then some (16, (a - 0x40000180) / 4)
  else none

/-- One register word written by a requester that reaches it: a word of a wide register that is not its highest is held, the highest
applies all (R7). -/
def Chip.writeWord (c : Chip) (r : Requester) (a v : Nat) : Chip :=
  match kgreg a with
  | some (k, n) => c.kpcWrite k n v
  | none =>
    match regAt a with
    | none => c
    | some (b, i, ws) =>
      if ws.length ≤ 1 then c.applyReg r b [v]
      else if i + 1 < ws.length then c.holdWord r b i v
      else
        let x := c.applyWords r b ws.length v
        x.2.applyReg r b x.1

/-- A requester reaches the register word at `a`: the host and the Kiosks those of the hub, the Shed core and the lane controller
those of the cell (R7, Table 0-5). -/
def regReach (r : Requester) (a : Nat) : Bool :=
  a % 4 == 0 && (if hubRequester r then a < 0x2100000 else 0x40000000 ≤ a && a < 0x4000B000)

-- The hub's memories as the host reaches them

/-- What word address `a` of the host's view is beside the registers: a word of Kiosk instruction memory, of Kiosk data memory, or of
the pool. -/
inductive HostMem where
  | imem (k off : Nat)
  | dmem (k : Nat)
  | pool
  | none
deriving DecidableEq, Repr

def hostMem (a : Nat) : HostMem :=
  if 0x10000000 ≤ a && a < 0x10400000 then
    let k := (a - 0x10000000) / 0x40000
    let o := (a - 0x10000000) % 0x40000
    if o < 0x10000 then .imem k o else if 0x20000 ≤ o then .dmem k else .none
  else if 0x40000000 ≤ a && a < poolEnd then .pool
  else .none

/-- A word of hub memory written by the host. -/
def Chip.hostMemWrite (c : Chip) (a v : Nat) : Chip :=
  match hostMem a with
  | .imem k o => c.imemWrite k o v
  | .dmem k => (c.setHubWord a v).eccHubWrite (32 + k) a 7
  | .pool => c.poolStore a (bytesLE 4 v)
  | .none => c

/-- A word of hub memory read by the host: errors are counted and raised; the word is delivered, or a free value when it cannot be
corrected (R175); the pool delivers it as it is (R249). -/
def Chip.hostMemRead (c : Chip) (a : Nat) : Chip :=
  let core : Chip :=
    let e := c.eccWord false a
    if e.1 == 2 then { e.2.draw.2 with rdata := BitVec.ofNat 32 e.2.draw.1 } else { e.2 with rdata := BitVec.ofNat 32 (e.2.hubWord a) }
  match hostMem a with
  | .imem .. => core
  | .dmem _ => core
  | .pool => { (c.poolRead a 4).2 with rdata := BitVec.ofNat 32 (c.hubWord a) }
  | .none => { c with rdata := 0 }

-- Reads

/-- The bits that the layout of domain `d` does not fix at zero (Table 2-2). -/
def layoutMasks (d : Nat) : List Nat :=
  if d == 0 then [0xFFFF0000, 0xFFFFFFFF, 0xFFFFFFFF, 0xFFFF] else [0xFFFFFF00, 0xFFFFFFFF, 0xFFFFFFFF, 0]

/-- The levels at the pins of GATE3 to GATE0 (R301). -/
def Chip.pinWord (c : Chip) : Nat := [0, 1, 2, 3].foldl (fun v g => if c.pinLevel g then v + 2 ^ g else v) 0

/-- The recorder channel whose DROPPED stands at `a`; 18 for none. -/
def droppedCh (a : Nat) : Nat := ((List.range 18).find? fun ch => a == chBase ch + 0x34).getD 18

/-- The words of the register at `a` as they read, where they are not as stored: counting values, levels and states of the parts. -/
def Chip.shownWords (c : Chip) (a n : Nat) : List Nat :=
  let d := (a - 0x100100) / 0x100
  let l := if a < 0x1C00000 then (a - 0x1000000) / 0x10000 else if a < 0x2000000 then 192 + (a - 0x1C00000) / 0x10000
    else 204 + (a - 0x40009000) / 0x100
  let lane := (0x1000000 ≤ a && a < 0x2000000) || (0x40009000 ≤ a && a < 0x40009200)
  let k := (a - 0x2000000) / 0x10000
  let serial (x : DWord) : List Nat := [x.toNat % 2 ^ 32, x.toNat / 2 ^ 32]
  if a == GLB_STRAP then [c.sys.bootPins.toNat + b2n c.sys.leadPin * 4]
  else if a == GLB_RDYSTAT then [c.rdystatWord]
  else if a == GLB_SERIAL || a == GTH_SERIAL then serial Config.hubSerial
  else if 0x100100 ≤ a && a < 0x100700 && a == SDL_VAL d then wordsOfAcc d (c.dom d).acc
  else if a == GTH_PORTS then [c.portsWord]
  else if droppedCh a < 18 then [Nat.min (c.reg a + (c.recd (droppedCh a)).lostSum) 0xFFFFFFFF]
  else if a == GTH_GSTAT then [insertBits (c.reg a) 15 15 (b2n c.sys.leadPin)]
  else if a == GLS_GSTAT then [insertBits (c.reg a) 0 0 (b2n (c.flag LDD_LDSTAT_READY))]
  else if a == PCI_OTPSTAT then [otpStat c.sys.otpHub]
  else if a == CGL_OTPSTAT then [otpStat c.sys.otpCell]
  else if lane && a == LN_DLY_USE (laneBase l) then [wrapNat 32 (c.dlyUse l)]
  else if 0x2000000 ≤ a && a < 0x2100000 && a == KS_KSTAT (coreBase k) then [c.kstatWord k]
  else if a == 0x40000104 then [c.kstatWord 16]
  else if a == CGL_SERIAL then serial Config.cellSerial
  else if a == CSD_RSTAT then [c.rstatWord]
  else if a == TRL_RBSTAT then [insertBits (c.reg a) 15 12 (c.pinWord)]
  else if 0x100810 ≤ a && a < 0x100900 && a % 0x40 == 0x10 then
    List.zipWith (· &&& ·) (layoutMasks (c.fld (SDL_PCTL_DOM ((a - 0x100800) / 0x40)))) (c.regWords a n)
  else if a == CSD_FT_VAL then wordsOfAcc 1 c.csd.ft
  else if a == CSD_ANG_VAL then wordsOfAcc 2 c.csd.ang
  else if a == PWM_TCNT then [c.tcnt]
  else if a == PWM_PCNT then [c.fire.pcnt]
  else if a == CFL_LOGENT then
    let e := (Assoc.get (fun _ => (0 : BitVec 128)) c.cellLog (256 * c.fld CFL_LOGSEL_BLK + c.fld CFL_LOGSEL_IDX)).toNat
    (List.range 4).map fun i => e / 2 ^ (32 * i) % 2 ^ 32
  else c.regWords a n

/-- A word answered. -/
def Chip.answer (c : Chip) (v : Nat) : Chip := { c with rdata := BitVec.ofNat 32 v }

/-- Reads that do more than answer: the lowest word of TRES_A, TRES_B, TANNR, ERXQ and ETXTS, FIFO, ALLOC; the registers whose value no
command tells. -/
def Chip.readEffect (c : Chip) (r : Requester) (a : Nat) : Option Chip :=
  if a == SDL_TRES 0 then some (c.tresRead r 0)
  else if a == SDL_TRES 1 then some (c.tresRead r 1)
  else if a == SDL_TANNR then some (c.tresRead r 2)
  else if a == ETH_ERXQ 0 then some (c.erxqRead r 0)
  else if a == ETH_ERXQ 1 then some (c.erxqRead r 1)
  else if a == ETH_ETXTS 0 then some (c.etxtsRead r 0)
  else if a == ETH_ETXTS 1 then some (c.etxtsRead r 1)
  else if a == ORG_ALLOC then some ((c.allocBy r).2.answer (c.allocBy r).1)
  else if a == ADC_FIFO then some (c.fifoRead.2.answer c.fifoRead.1)
  else if a == LOD_LSTAT then some (c.lodStat.2.answer c.lodStat.1)
  else if a == LOD_VBAK then some (c.draw.2.answer (c.draw.1 % 2 ^ 12))
  else none

/-- The recorder memory window (R367). -/
def Chip.windowRead (c : Chip) (a : Nat) : Chip :=
  let x := c.fld GLS_WINBASE_BASE * 2 ^ 19 + (a - 0x880000)
  let size := c.fld LDD_LDSTAT_SIZE
  if size == 0 || 2 ^ (29 + size) ≤ x then c.answer 0 else c.answer (memNat c.lddMem x 4)

/-- One register word read by a requester that reaches it: the lowest word of a wide register latches the others, a higher word answers
from the latch of its register, or as it is where the latch holds another (R7). -/
def Chip.readWord (c : Chip) (r : Requester) (a : Nat) : Chip :=
  if 0x880000 ≤ a && a < 0x900000 then c.windowRead a
  else match kgreg a with
  | some (k, n) => c.answer (c.g k n).toNat
  | none =>
    match c.readEffect r a with
    | some c => c
    | none =>
      match regAt a with
      | none => c.answer 0
      | some (b, i, ws) =>
        let vs := c.shownWords b ws.length
        if ws.length ≤ 1 then c.answer (vs.getD 0 0)
        else if i == 0 then c.latchRead r b vs
        else match c.latchOf r with
          | some x => c.answer ((if x.reg == b then x.words else vs).getD i 0)
          | none => c.answer (vs.getD i 0)

/-- A register or host memory word written (R6, R432), but for TAKE; in the hub ARM_READY is examined after it. -/
def Chip.putWord (c : Chip) (r : Requester) (a v : Nat) : Chip :=
  if regReach r a then (c.writeWord r a v).when (hubRequester r) (·.readyCheck)
  else if r == .host && a % 4 == 0 then c.hostMemWrite a v
  else c

/-- TAKE (R313): the takeover list is carried out while it is armed, else the TAKE is refused. A TAKE in the list does nothing. -/
def Chip.take (c : Chip) : Chip :=
  if c.flag FLT_TKCTL_ARMED then
    let n := c.fld FLT_TKCTL_CNT + 1
    let l := (List.range n).map fun j => (c.reg (FLT_TKLIST j), c.reg (FLT_TKLIST j + 4))
    let c := (c.clrFlag FLT_TKCTL_ARMED).raiseFlag FLT_TKCTL_DONE
    c.forEach l fun x c => c.putWord .host x.1 x.2
  else if c.flag FLT_TKCTL_DONE then c.raiseFlag FLT_FSTAT_ALREADY_DONE
  else c.raiseFlag FLT_FSTAT_REFUSED

/-- A TAKE reaction that waits is carried out. -/
def Chip.takeReaction (c : Chip) : Chip := if c.takeDue then ({ c with takeDue := false } : Chip).take else c

/-- A register or host memory word written: a 1 in TAKE of FCMD is the TAKE command. A TAKE reaction that was decided before goes first (R16). -/
def Chip.regWrite (c : Chip) (r : Requester) (a v : Nat) : Chip :=
  (c.takeReaction.putWord r a v).when (a == FLT_FCMD && bit v 1 && hubRequester r) (·.take)

/-- A register or host memory word read. -/
def Chip.regRead (c : Chip) (r : Requester) (a : Nat) : Chip :=
  if regReach r a then c.readWord r a
  else if r == .host && a % 4 == 0 then c.hostMemRead a
  else c.answer 0

/-- An access of a wrong size or alignment (R6): no effect in the hub, and a read answers 0; the access-fault exception in the Shed core.
The lane controller makes none. -/
def Chip.badAccess (c : Chip) (r : Requester) (a size : Nat) (isWrite : Bool) : Chip :=
  if size == 4 && a % 4 == 0 then c
  else match r with
  | .shed => c.issue 16 fun c => c.excAddr 16 (if isWrite then 5 else 4) a
  | .laneCtl _ => c
  | _ => if isWrite then c else c.answer 0

/-- The place of `a` in a wide register: the number of its word, and whether it is the highest. -/
def wideWord (a : Nat) : Option (Nat × Bool) :=
  match regAt a with
  | some (_, i, ws) => if ws.length ≤ 1 then none else some (i, i + 1 == ws.length)
  | none => none

-- The commands

def execRegisterWrite (r : Requester) (addr val : Word) (s : State) : Host.Outcome State Fault Refusal :=
  .next (s.on fun c => c.regWrite r addr.toNat val.toNat)
def execRegAccessBadSize (r : Requester) (addr : Word) (size : Fin 9) (isWrite : Bool) (s : State) : Host.Outcome State Fault Refusal :=
  .next (s.on fun c => c.badAccess r addr.toNat size isWrite)
def execWideReadLatch (r : Requester) (addr : Word) (s : State) : Host.Outcome State Fault Refusal :=
  .next (s.on fun c => c.regRead r addr.toNat)
def execWideWriteHold (r : Requester) (addr val : Word) (s : State) : Host.Outcome State Fault Refusal :=
  .next (s.on fun c => match wideWord addr.toNat with
    | some (_, false) => c.regWrite r addr.toNat val.toNat
    | _ => c)
def execWideWriteApply (r : Requester) (addr val : Word) (s : State) : Host.Outcome State Fault Refusal :=
  .next (s.on fun c => match wideWord addr.toNat with
    | some (_, true) => c.regWrite r addr.toNat val.toNat
    | _ => c)
def execAcctWrite (r : Requester) (addr w : Word) (s : State) : Host.Outcome State Fault Refusal :=
  .next (s.on fun c =>
    if addr.toNat == ORG_OCTL || (0x601000 ≤ addr.toNat && addr.toNat < 0x601900) then c.regWrite r addr.toNat w.toNat else c)
def execTklistWrite (r : Requester) (j : Fin 4) (v : Word) (s : State) : Host.Outcome State Fault Refusal :=
  .next (s.on fun c => c.regWrite r (FLT_TKLIST j + 4) v.toNat)

def execTake (s : State) : Host.Outcome State Fault Refusal := .next (s.on (·.takeReaction.take))
def execTkctlWrite (w : Word) (s : State) : Host.Outcome State Fault Refusal := .next (s.on fun c => c.takeReaction.tkctlWrite w.toNat)

end Sys2Proof.Machine
end

