-- ==== Sys2Proof/Machine/Remote.lean ====
section
/-!
DEFINITION. Accesses that a message or the boot ROM orders: the lane controller's REG_WR and REG_RD (R213), and the loading of the hub's
sections at the end of its boot (R377 to R379).
-/
namespace Sys2Proof.Machine

-- The cell's memories (Table 0-5)

/-- The cell memory that holds address `a`, as R316 numbers it: 0 SRAM, 1 MRAM, 2 recorder SRAM. -/
def cellMemOf (a : Nat) : Option Nat :=
  if a < 0x40000 then some 1
  else if 0x20000000 ≤ a && a < 0x20008000 then some 0
  else if 0x21000000 ≤ a && a < 0x21020000 then some 2
  else none

/-- The addresses of the boot record, whose layout the spec does not give: they read as free values. -/
def bootRecordAt (a : Nat) : Bool := 0x3E000 ≤ a && a < 0x40000

/-- The lane controller may access the word: SRAM, recorder SRAM and the cell blocks; in rescue the boot registers, by REG_RD. -/
def Chip.laneReach (c : Chip) (isWrite : Bool) (a : Nat) : Bool :=
  a % 4 == 0 &&
    if c.flag CGL_BOOTST_RESCUE then !isWrite && 0x40000200 ≤ a && a < 0x40000214
    else (0x40000000 ≤ a && a < 0x4000B000) || cellMemOf a == some 0 || cellMemOf a == some 2

/-- A word of cell memory `m` written. -/
def Chip.cellMemWrite (c : Chip) (m a v : Nat) : Chip := (c.setCellWord a v).eccCellWrite m a

/-- A write of the lane controller. -/
def Chip.laneWrite (c : Chip) (l : CellLane) (a v : Nat) : Chip :=
  match cellMemOf a with
  | some m => c.cellMemWrite m a v
  | none => c.regWrite (.laneCtl l) a v

/-- A read of the lane controller; a word of memory with an error of two bits is free. -/
def Chip.laneRead (c : Chip) (l : CellLane) (a : Nat) : Chip :=
  match cellMemOf a with
  | some _ =>
    let e := c.eccWord true a
    if e.1 == 2 then e.2.draw.2.answer e.2.draw.1 else e.2.answer (e.2.cellWord a)
  | none => c.regRead (.laneCtl l) a

/-- The accesses of a REG_WR: how many were performed, whether one stopped the message. -/
def Chip.laneWrites (c : Chip) (l : CellLane) (done : Nat) : List Nat → Nat × Bool × Chip
  | a :: v :: ws => if c.laneReach true a then (c.laneWrite l a v).laneWrites l (done + 1) ws else (done, true, c)
  | _ => (done, false, c)

/-- The accesses of a REG_RD, with the words read. -/
def Chip.laneReads (c : Chip) (l : CellLane) (got : List Nat) : List Nat → List Nat × Bool × Chip
  | a :: as =>
    if c.laneReach false a then
      let c := c.laneRead l a
      c.laneReads l (got ++ [c.rdata.toNat]) as
    else (got, true, c)
  | [] => (got, false, c)

/-- The answer to a REG_WR or REG_RD: a REG_RSP of the same SEQ on the lane of arrival. -/
def Chip.regRsp (c : Chip) (l : CellLane) (seq done : Nat) (error : Bool) (ws : List Nat) : Chip :=
  c.queueMsg (cellLaneNum l) (mkMsg 2 seq (bytesLE 4 (done + b2n error * 2 ^ 31) ++ ws.flatMap (bytesLE 4)))

/-- A REG_WR at the cell; in rescue it is not accepted (R380). -/
def Chip.regWrIn (c : Chip) (l : CellLane) (m : Message) : Chip :=
  if !c.hears l then c
  else
    c.msgIn (cellLaneNum l) m fun p c =>
      if c.flag CGL_BOOTST_RESCUE then c
      else
        let r := c.laneWrites l 0 (wordsLE (p.length / 4) p)
        r.2.2.regRsp l m.seq.toNat r.1 r.2.1 []

/-- A REG_RD at the cell. -/
def Chip.regRdIn (c : Chip) (l : CellLane) (m : Message) : Chip :=
  if !c.hears l then c
  else
    c.msgIn (cellLaneNum l) m fun p c =>
      let r := c.laneReads l [] (wordsLE (p.length / 4) p)
      r.2.2.regRsp l m.seq.toNat r.1.length r.2.1 r.1

-- The end of the hub's boot

/-- Bytes of a LOAD section stored at hub address `a`; what lies in no memory of the hub is not stored. -/
def Chip.loadBytes (c : Chip) (a : Nat) (l : List Byte) : Chip :=
  match hostMem a with
  | .pool => c.poolStore a (l.take (poolEnd - a))
  | .imem k o =>
    let l := l.take (0x10000 - o)
    ({ c with hubMem := memSetBytes c.hubMem a l }).forEach (List.range ((l.length + a % 4 + 3) / 4)) fun i c =>
      c.eccHubWrite (16 + k) (a / 4 * 4 + 4 * i) 7
  | .dmem k =>
    let l := l.take (0x20000 - (a - dmemBase k))
    ({ c with hubMem := memSetBytes c.hubMem a l }).forEach (List.range ((l.length + a % 4 + 3) / 4)) fun i c =>
      c.eccHubWrite (32 + k) (a / 4 * 4 + 4 * i) 7
  | .none => c

/-- The register writes of a REGS section: pairs of BAR0 offset and value, in order. -/
def Chip.loadRegs (c : Chip) : List Nat → Chip
  | a :: v :: ws => (if a < 0x10000000 then c.regWrite .host a v else c).loadRegs ws
  | _ => c

/-- One section (type, destination, length, file offset) of the image in the pool. -/
def Chip.loadSection (c : Chip) (x : Nat × Nat × Nat × Nat) : Chip :=
  let l := memBytes c.hubMem (0x40000000 + x.2.2.2) x.2.2.1
  if x.1 == 1 then c.loadBytes x.2.1 l else if x.1 == 2 then c.loadRegs (wordsLE (l.length / 4) l) else c

/-- The ROM has done: an image that passed is loaded, the Kiosks of RUNMASK run from KRST_PC, and DONE is set; without one FAIL is set
(R378, R379). -/
def Chip.bootDone (c : Chip) : Chip :=
  match c.sys.loading with
  | none => c
  | some none => (c.setLoading none).raiseFlag PCI_BOOTSTAT_FAIL
  | some (some src) =>
    let g := c.poolImg
    let mask := imgNum g 0x18 2
    let ver := imgNum g 8 4
    let c := (c.setLoading none).forEach (imgSections g) fun x c => c.loadSection x
    let c := (c.setReg PCI_IMG_VER ver).setFld PCI_BOOTSTAT_SRC src
    let c := c.forEach ((List.range 16).filter fun k => bit mask k) fun k c =>
      (c.setPc k (c.reg (KS_KRST_PC (coreBase k)))).setRun k true
    (c.clrFlag PCI_BOOTSTAT_FAIL).raiseFlag PCI_BOOTSTAT_DONE

-- The commands

def execRegWr (l : CellLane) (m : Message) (s : State) : Host.Outcome State Fault Refusal := .next (s.on fun c => c.regWrIn l m)
def execRegRd (l : CellLane) (m : Message) (s : State) : Host.Outcome State Fault Refusal := .next (s.on fun c => c.regRdIn l m)
def execBootDone (s : State) : Host.Outcome State Fault Refusal := .next (s.on (·.bootDone))

end Sys2Proof.Machine
end

