-- ==== Sys2Proof/Machine/OvEffect.lean ====
section
/-!
DEFINITION. The address spaces of the cores (R157, R158), and the effects of instructions that reach outside a core: outside a
speculative region they are performed as they issue, inside one they are held in the Porch until CMTK (R194, R198).
-/
namespace Sys2Proof.Machine

-- Places

/-- What an address of a core's data space is: a byte of core memory or of the pool, as a hub or cell address, a register, or nothing. -/
inductive Place where
  | mem (a : Nat)
  | pool (a : Nat)
  | reg (a : Nat)
  | none
deriving DecidableEq, Repr

/-- The Kiosk data space (Table 7-2) and the Shed core's map (R158). -/
def place (k a : Nat) : Place :=
  if isShed k then
    if (cellMemOf a).isSome then .mem a else if 0x40000000 ≤ a && a < 0x4000B000 then .reg a else .none
  else if a < 0x10000000 then .reg a
  else if 0xFFFE0000 ≤ a then .mem (dmemBase k + (a - 0xFFFE0000))
  else match hostMem a with
    | .dmem _ => .mem a
    | .pool => .pool a
    | _ => .none

/-- The requester that a core is at registers (R7). -/
def reqOf (k : Nat) : Requester := if h : k < 16 then .kiosk ⟨k, h⟩ else .shed

/-- A register access of `n` bytes at `a` is one that R6 allows. -/
def regSize (a n : Nat) : Bool := n == 4 && a % 4 == 0

/-- The exception of a load of `n` bytes at `a`: ALIGN_LOAD or ACCESS_LOAD. -/
def loadFault (k a n : Nat) : Option Nat :=
  match place k a with
  | .none => some 4
  | .reg _ => if isShed k && !regSize a n then some 4 else none
  | _ => if a % n == 0 then none else some 2

/-- The exception of a store of `n` bytes at `a`: ALIGN_STORE or ACCESS_STORE. -/
def storeFault (k a n : Nat) : Option Nat :=
  match place k a with
  | .none => some 5
  | .reg _ => if isShed k && !regSize a n then some 5 else none
  | .mem x => if isShed k && x < 0x40000 then some 5 else if a % n == 0 then none else some 3
  | .pool _ => if a % n == 0 then none else some 3

/-- The words of core memory among `n` bytes at `a` examined: whether one cannot be corrected. -/
def Chip.eccRange (c : Chip) (cell : Bool) (a n : Nat) : Bool × Chip :=
  ((List.range ((n + 3) / 4)).map fun i => a + 4 * i).foldl
    (fun (x : Bool × Chip) w => let e := x.2.eccWord cell w; (x.1 || e.1 == 2, e.2)) (false, c)

/-- Bytes written to core memory, with the check bits of their words. -/
def Chip.coreStore (c : Chip) (k a : Nat) (l : List Byte) : Chip :=
  let ws := (List.range ((l.length + a % 4 + 3) / 4)).map fun i => a / 4 * 4 + 4 * i
  if isShed k then
    ({ c with cellMem := memSetBytes c.cellMem a l }).forEach ws fun w c => c.eccCellWrite ((cellMemOf w).getD 0) w
  else
    ({ c with hubMem := memSetBytes c.hubMem a l }).forEach ws fun w c => c.eccHubWrite (32 + (w - 0x10000000) / 0x40000) w 7

/-- The bytes from `a` on, `n` of them, all in the core's own data memory: their hub address. -/
def ownData (k a n : Nat) : Option Nat :=
  match place k a with
  | .mem x => if dmemBase k ≤ x && x + n ≤ dmemBase k + 0x20000 then some x else none
  | _ => none

-- Held stores as later loads see them (R195)

/-- The hub address of a byte of memory or of the pool. -/
def memAddr (k a : Nat) : Option Nat :=
  match place k a with
  | .mem x => some x
  | .pool x => some x
  | _ => none

/-- The byte at hub address `h` as the held stores leave it, if one covers it. -/
def porchByte (k h : Nat) (l : List Eff) : Option Nat :=
  l.foldl (fun r e => match e with
    | .store a n v => match memAddr k a with
      | some x => if x ≤ h && h < x + n then some (v / 256 ^ (h - x) % 256) else r
      | none => r
    | _ => r) none

def Chip.porch (c : Chip) (k : Nat) : List Eff :=
  match (c.core k).spec with
  | some s => s.porch
  | none => []

def Chip.inRegion (c : Chip) (k : Nat) : Bool := (c.core k).spec.isSome

/-- The number of `n` bytes of memory at `h` as a load of core `k` sees it; the boot record of MRAM reads as free values. -/
def Chip.loadNum (c : Chip) (k h n : Nat) : Nat :=
  natLE ((List.range n).map fun i =>
    if isShed k && bootRecordAt (h + i) then (Config.freeValue (c.free + i)).truncate 8
    else match porchByte k (h + i) (c.porch k) with
      | some v => BitVec.ofNat 8 v
      | none => BitVec.ofNat 8 (memByte (if isShed k then c.cellMem else c.hubMem) (h + i)))

-- Messages (R187, Table 8-2)

/-- The buffer of a message to send: own data memory or the pool, all of it. -/
def sendBuf (k a n : Nat) : Option Place :=
  match ownData k a n with
  | some x => some (.mem x)
  | none => if 0x40000000 ≤ a && a + n ≤ poolEnd then some (.pool a) else none

/-- SEND or MCST is malformed: ACCESS_LOAD with BADADDR at the buffer. -/
def sendBad (k : Nat) (mc : Bool) (len desc a : Nat) : Bool :=
  len % 4 != 0 || len < 4 || 2048 < len || a % 4 != 0 || (sendBuf k a len).isNone || bits desc 28 26 != 0 || bits desc 15 6 != 0
    || (mc && bits desc 25 24 != 0)

/-- The planes of a message. For PLANES = 0 it is plane A where its table leads to the destination, else plane B. -/
def Chip.sendPlanes (c : Chip) (mc : Bool) (desc : Nat) : List Nat :=
  match bits desc 31 30 with
  | 1 => [0]
  | 2 => [1]
  | 3 => [0, 1]
  | _ =>
    let dst := bits desc 25 16
    let e := c.reg (GTH_MC (dst % 256))
    let viaA := if mc then bits e 6 0 != 0 else bit (c.reg (GTH_RT 0 dst)) 3 || (c.flag GTH_GSTAT_ID_VALID && dst == c.fld GTH_GSTAT_NODE_ID)
    if viaA then [0] else [1]

/-- The message of core `k` leaves with its payload; its local copies are delivered. -/
def Chip.sendMsg (c : Chip) (k : Nat) (mc : Bool) (desc : Nat) (l : List Byte) : Chip :=
  let ctl := bit desc 29
  (c.originate (c.sendPlanes mc desc) (fun q =>
    mkHdr (if mc then 2 else 1) ctl mc (bits desc 31 30) (c.fld GTH_GCTL_TTL_INIT) (bits desc 25 16) (c.fld GTH_GSTAT_NODE_ID) k
      (if mc then 0 else bits desc 5 4) (if mc then 0 else bits desc 3 0) false q l.length 0 0) [] l (some (268 + k))).settleAll

-- Firing blocks (Table 8-4)

def cmitBlock (ra rb : Nat) : DWord :=
  mkBlock 0x44 (bits ra 11 0 * 2 ^ 32 + bits ra 23 12 * 2 ^ 20 + bits rb 13 0 * 2 ^ 6 + bits ra 24 24 * 2 ^ 5 + bits ra 25 25 * 2 ^ 4)
def abrtBlock (ra : Nat) : DWord := mkBlock 0x48 (bits ra 11 0 * 2 ^ 32 + bits ra 13 12 * 2 ^ 30)
def tordBlock (ra rb : Nat) : DWord :=
  orderBlock (bit ra 26) (bits ra 11 0) (bits rb 11 0) (bits rb 27 16) (bits ra 25 24) (bit ra 27)

/-- FCST, CMIT and ABRT are carried out on an enabled lead only (R190). -/
def Chip.leads (c : Chip) : Bool := c.flag BND_NCTL_LEAD && c.flag BND_NCTL_EN

/-- TORD is not allowed on a lane (R192). -/
def Chip.tordBad (c : Chip) (l : Nat) : Bool :=
  191 < l || c.flag (LN_LCTL_MEAS (laneBase l)) || (c.flag BLV_BCTL_EN && c.rankEn l)

-- Effects

/-- The exception that an effect raises as its instruction issues: code and BADADDR. -/
def Chip.effFault (c : Chip) (k : Nat) : Eff → Option (Nat × Option Nat)
  | .store a n _ => (storeFault k a n).map fun x => (x, some a)
  | .send mc len desc buf => if sendBad k mc len desc buf then some (4, some buf) else none
  | .fcst _ _ => if c.leads then none else some (5, some 0x400000)
  | .cmit _ _ => if c.leads then none else some (5, some 0x400000)
  | .abrt _ => if c.leads then none else some (5, some 0x400000)
  | .tord ra _ => if c.tordBad (bits ra 23 16) then some (5, some 0x300000) else none
  | .mts _ _ => none
  | .recv _ => none

/-- A store performed: a partial store to a word that cannot be corrected raises ACCESS_STORE (R175). -/
def Chip.doStore (c : Chip) (k a n v : Nat) : Option (Nat × Option Nat) × Chip :=
  match place k a with
  | .reg x => (none, if regSize a n then c.regWrite (reqOf k) x v else c)
  | .pool x => (none, c.poolStore x (bytesLE n v))
  | .mem x =>
    let e := if n < 4 then c.eccRange (isShed k) x n else (false, c)
    if e.1 then (some (5, some a), e.2) else (none, e.2.coreStore k x (bytesLE n v))
  | .none => (none, c)

/-- A SEND or MCST performed: its payload is read now; a word that cannot be corrected raises ECC_LOAD. -/
def Chip.doSend (c : Chip) (k : Nat) (mc : Bool) (len desc buf : Nat) : Option (Nat × Option Nat) × Chip :=
  match sendBuf k buf len with
  | some (.mem x) =>
    let e := c.eccRange false x len
    if e.1 then (some (8, none), e.2) else (none, e.2.sendMsg k mc desc (memBytes e.2.hubMem x len))
  | some (.pool x) =>
    let e := c.poolRead x len
    if e.1 then (some (8, none), e.2) else (none, e.2.sendMsg k mc desc (memBytes e.2.hubMem x len))
  | _ => (none, c)

/-- An MTS to a device special register: XIRQ, HOSTIRQ, TCMPL, TCMPH (Table 7-9). -/
def Chip.doMts (c : Chip) (k n v : Nat) : Chip :=
  if n == 0x102 then c.latchLine (v % 16) (16 + k)
  else if n == 0x103 then c.msix (v % 2048)
  else if n == 0x105 then ((c.setSr k n v).coreUp k fun x => { x with tArmed := true }).timerFires k
  else c.setSr k n v

/-- The oldest message leaves its queue, and its buffer is freed (R246). -/
def Chip.doRecv (c : Chip) (k q : Nat) : Chip :=
  match c.rxq k q with
  | [] => c
  | m :: ms => (c.setRxq k q ms).releaseBuf m.buf

/-- An effect that nothing forbids. -/
def Chip.doNow (c : Chip) (k : Nat) : Eff → Option (Nat × Option Nat) × Chip
  | .store a n v => c.doStore k a n v
  | .send mc len desc buf => c.doSend k mc len desc buf
  | .fcst ra rb => (none, (c.bndSend 0x1A (bytesLE 4 (ra % 2 ^ 26) ++ bytesLE 4 rb)).settleAll)
  | .cmit ra rb => (none, (c.bndSend 0x18 (bytesLE 8 (cmitBlock ra rb).toNat)).settleAll)
  | .abrt ra => (none, (c.bndSend 0x19 (bytesLE 8 (abrtBlock ra).toNat)).settleAll)
  | .tord ra rb =>
    (none, (c.queueBlock (bits ra 23 16) 6 (tordBlock ra rb)).recordOrder (c.slotOfTag (bits ra 11 0)) (bits ra 23 16) (bits rb 11 0)
      (bits rb 27 16) false)
  | .mts n v => (none, c.doMts k n v)
  | .recv q => (none, c.doRecv k q)

/-- An effect performed: the exception it raises, if any. What it may not do is tested as it is performed (R198). -/
def Chip.doEff (c : Chip) (k : Nat) (e : Eff) : Option (Nat × Option Nat) × Chip :=
  match c.effFault k e with
  | some x => (some x, c)
  | none => c.doNow k e

/-- An effect held in the Porch: the 33rd rolls the region back with EFFECT_OVERFLOW (R194, Table 8-5). `f` is what the instruction does
besides. -/
def Chip.holdEff (c : Chip) (k : Nat) (e : Eff) (f : Chip → Chip) : Chip :=
  if 32 ≤ (c.porch k).length then c.rollback k 0x21 0
  else
    ((f c).coreUp k fun x => { x with spec := x.spec.map fun (s : Spec) => { s with porch := s.porch ++ [e] } }).seq k

/-- What an effect's outcome makes of its instruction: an exception, or completion. -/
def Chip.effEnd (k : Nat) (r : Option (Nat × Option Nat) × Chip) : Chip :=
  match r.1 with
  | some (code, bad) => r.2.takeExc k code (r.2.pc k) bad 0
  | none => r.2.seq k

/-- An instruction performs what `f` does, and completes or takes its exception. A reset of the core that it brings about ends it (Table 7-13). -/
def Chip.perform (c : Chip) (k : Nat) (f : Chip → Option (Nat × Option Nat) × Chip) : Chip :=
  let r := f (c.coreUp k fun x => { x with acting := true })
  if (r.2.core k).acting then Chip.effEnd k (r.1, r.2.coreUp k fun x => { x with acting := false }) else r.2

/-- An instruction whose whole action is an effect. -/
def Chip.effect (c : Chip) (k : Nat) (e : Eff) : Chip :=
  match c.effFault k e with
  | some (code, bad) => c.takeExc k code (c.pc k) bad 0
  | none => if c.inRegion k then c.holdEff k e id else c.perform k fun c => c.doNow k e

/-- The held effects performed in order; the first exception among them. A reset of the core ends them. -/
def Chip.doAll (c : Chip) (k : Nat) (x : Option (Nat × Option Nat)) : List Eff → Option (Nat × Option Nat) × Chip
  | [] => (x, c)
  | e :: es =>
    let r := c.doEff k e
    if (r.2.core k).acting then r.2.doAll k (x.or r.1) es else (none, r.2)

end Sys2Proof.Machine
end

