-- ==== Sys2Proof/Machine/OvMem.lean ====
section
/-!
DEFINITION. Ovmin loads, stores and atomics (R164 to R166), MTS (R170), messages and firing instructions (R187 to R192), and CMTK (R198).
-/
namespace Sys2Proof.Machine

-- Loads

/-- A register whose read changes it (R195). -/
def readOnce (a : Nat) : Bool :=
  [SDL_TRES 0, SDL_TRES 1, SDL_TANNR, ETH_ERXQ 0, ETH_ERXQ 1, ETH_ETXTS 0, ETH_ETXTS 1].contains a

/-- A load of `n` bytes at `a`; `put` writes what it delivers. -/
def Chip.load (c : Chip) (k a n : Nat) (put : Nat → Chip → Chip) : Chip :=
  match loadFault k a n with
  | some code => c.excAddr k code a
  | none =>
    match place k a with
    | .reg x =>
      if !regSize a n then (put 0 c).seq k
      else if c.inRegion k && readOnce x then c.rollback k 0x23 4
      else if c.inRegion k && x == ORG_ALLOC then (put 0 c).seq k
      else
        let c := c.regRead (reqOf k) x
        (put c.rdata.toNat c).seq k
    | .mem x =>
      let e := c.eccRange (isShed k) x n
      if e.1 then e.2.exc k 8
      else
        let v := e.2.loadNum k x n
        (put v (if isShed k && bootRecordAt x then { e.2 with free := e.2.free + n } else e.2)).seq k
    | .pool x =>
      let e := c.poolRead x n
      if e.1 then e.2.exc k 8 else (put (e.2.loadNum k x n) e.2).seq k
    | .none => c

/-- A value of `w` bits sign-extended to a word. -/
def sextNum (w v : Nat) : Word := BitVec.ofInt 32 (toSigned w v)

def Chip.loadReg (c : Chip) (k rd ra n : Nat) (imm : BitVec 16) (ext : Nat → Word) : Chip :=
  c.issue k fun c => c.load k (c.ea k ra imm) n fun v c => c.setG k rd (ext v)

/-- LD: a pair (R156, R164). -/
def Chip.loadPair (c : Chip) (k rd ra : Nat) (imm : BitVec 16) : Chip :=
  c.issue k fun c => c.kioskOnly k fun c =>
    if rd % 2 == 1 then c.illegal k else c.load k (c.ea k ra imm) 8 fun v c => c.setPair k rd (BitVec.ofNat 64 v)

-- Stores

/-- A store of `n` bytes: in a region it is held, but for the core's private range (R194, R195). -/
def Chip.store (c : Chip) (k a n v : Nat) : Chip :=
  let priv := match place k a with
    | .mem x => !isShed k && dmemBase k + c.sr k 0x23 ≤ x && x < dmemBase k + 0x20000
    | _ => false
  if c.inRegion k && priv && (c.effFault k (.store a n v)).isNone then Chip.effEnd k (c.doStore k a n v)
  else c.effect k (.store a n v)

def Chip.storeReg (c : Chip) (k rs ra n : Nat) (imm : BitVec 16) : Chip :=
  c.issue k fun c => c.store k (c.ea k ra imm) n ((c.g k rs).toNat % 256 ^ n)

/-- SD. -/
def Chip.storePair (c : Chip) (k rs ra : Nat) (imm : BitVec 16) : Chip :=
  c.issue k fun c => c.kioskOnly k fun c =>
    if rs % 2 == 1 then c.illegal k else c.store k (c.ea k ra imm) 8 (c.pair k rs).toNat

-- Atomics (R165)

/-- The address lies where SWAPW and ADDW may act: a Kiosk data memory, or SRAM. -/
def atomicAt (k a : Nat) : Option Nat :=
  match place k a with
  | .mem x => if isShed k && cellMemOf x != some 0 then none else some x
  | _ => none

def Chip.atomic (c : Chip) (k rd ra rb : Nat) (f : Word → Word → Word) : Chip :=
  c.issue k fun c => c.outside k fun c =>
    let a := (c.g k ra).toNat
    if a % 4 != 0 then c.excAddr k 3 a
    else match atomicAt k a with
      | none => c.excAddr k 5 a
      | some x =>
        let e := c.eccRange (isShed k) x 4
        if e.1 then e.2.exc k 8
        else
          let c := e.2
          let old : Word := BitVec.ofNat 32 (memNat (if isShed k then c.cellMem else c.hubMem) x 4)
          ((c.coreStore k x (bytesLE 4 (f old (c.g k rb)).toNat)).setG k rd old).seq k

-- MTS (R170, Tables 7-9, 8-6)

/-- QMAX as written: 4 to 2,048 in multiples of 4, other values 64. -/
def qmaxOf (v : Nat) : Nat :=
  let q := bits v 11 0
  if 4 ≤ q && q ≤ 2048 && q % 4 == 0 then q else 64

/-- What a special register holds after `v` is written, reserved bits left out; none where the core has no such register or may not
write it. -/
def srWritten (k n v : Nat) : Option Nat :=
  if n == 0 then some (v % 8)
  else if n == 1 then some (v / 512 * 512)
  else if n == 2 || n == 5 || n == 6 || n == 7 || (0x10 ≤ n && n ≤ 0x15) || n == 0x104 || n == 0x105 then some v
  else if isShed k then none
  else if n == 8 then some (insertBits (bits v 8 0) 7 5 (if bits v 7 5 < 5 then bits v 7 5 else 0))
  else if n == 0x23 then some (if 0x20000 < v then 0x20000 else v / 1024 * 1024)
  else if 0x28 ≤ n && n ≤ 0x2B then some (qmaxOf v)
  else if 0x2C ≤ n && n ≤ 0x2F then some (v &&& 0x80FF0003)
  else if n == 0x102 || n == 0x103 then some v
  else none

/-- MTS: forbidden in a region for STATUS, VBASE, EPC, IEN and IPEND (R196); a device register is an effect (R194). -/
def Chip.mts (c : Chip) (k n v : Nat) : Chip :=
  match srWritten k n v with
  | none => c.illegal k
  | some x =>
    if 0x100 ≤ n then c.effect k (.mts n x)
    else if c.inRegion k && (n ≤ 2 || n == 5 || n == 6) then c.illegal k
    else if n == 6 then (c.setSr k 6 (c.sr k 6 &&& (0xFFFFFFFF ^^^ x))).seq k
    else
      let c := c.setSr k n x
      let c := c.when (0x10 ≤ n && n ≤ 0x12) (·.loopTouched k 0)
      (c.when (0x13 ≤ n && n ≤ 0x15) (·.loopTouched k 1)).seq k

-- Messages

/-- SEND and MCST: outside a region the instruction is accepted, or stalls while the hub's transmit resources are busy, which no state of
the spec tells: free (R187). -/
def Chip.sendIns (c : Chip) (k rd ra rb : Nat) (mc : Bool) : Chip :=
  let e := Eff.send mc (c.g k rd).toNat (c.g k ra).toNat (c.g k rb).toNat
  if c.inRegion k || (c.effFault k e).isSome then c.effect k e
  else
    let d := c.draw
    if bit d.1 0 then
      d.2.coreUp k fun x => { x with wait := some (.send mc (c.g k rd).toNat (c.g k ra).toNat (c.g k rb).toNat) }
    else d.2.perform k fun c => c.doEff k e

/-- A stalled SEND or MCST is accepted. -/
def Chip.transmitAccept (c : Chip) (k : Nat) : Chip :=
  match (c.core k).wait with
  | some (.send mc len desc buf) =>
    ((c.coreUp k fun x => { x with wait := none }).perform k fun c => c.doEff k (.send mc len desc buf)).boundary k
  | _ => c

/-- The message that a RECV takes: the oldest that no held RECV has taken. -/
def Chip.nextMsg (c : Chip) (k q : Nat) : Option RxMsg := (c.rxq k q).drop ((c.porch k).filter (· == .recv q)).length |>.head?

/-- RECV with a message present: copied, its length to rd, and its removal, held in a region. -/
def Chip.recvMsg (c : Chip) (k rd a q : Nat) (m : RxMsg) : Chip :=
  let n := m.bytes.length
  match ownData k a n with
  | none => c.excAddr k 5 a
  | some x =>
    let e := c.poolRead (bufAddr m.buf) (32 + n)
    if e.1 then e.2.exc k 8
    else
      let fin (c : Chip) : Chip := (c.coreStore k x m.bytes).setG k rd (BitVec.ofNat 32 n)
      if e.2.inRegion k then e.2.holdEff k (.recv q) fin else ((fin e.2).doRecv k q).seq k

/-- RECV (R189). The buffer is checked before the queue. -/
def Chip.recv (c : Chip) (k rd ra q : Nat) (wait : Bool) : Chip :=
  let a := (c.g k ra).toNat
  if 3 < q then c.illegal k
  else if a % 4 != 0 || (ownData k a 4).isNone then c.excAddr k 5 a
  else match c.nextMsg k q with
    | some m => c.recvMsg k rd a q m
    | none =>
      if wait then c.coreUp k fun x => { x with wait := some (.recv rd a q) } else (c.setG k rd 0).seq k

/-- A message arrives for a waiting RECV. -/
def Chip.recvWake (c : Chip) (k : Nat) : Chip :=
  match (c.core k).wait with
  | some (.recv rd a q) =>
    match c.nextMsg k q with
    | some m => ((c.coreUp k fun x => { x with wait := none }).recvMsg k rd a q m).boundary k
    | none => c
  | _ => c

-- CMTK (R198)

/-- The held effects are performed in order and the region closes; an exception of one of them is taken at CMTK. -/
def Chip.cmtk (c : Chip) (k : Nat) : Chip :=
  match (c.core k).spec with
  | none => c.illegal k
  | some s =>
    c.perform k fun c =>
      let r := c.doAll k none s.porch
      if (r.2.core k).acting then
        let c := r.2.coreUp k fun x => { x with spec := none }
        (r.1, c.setSr k 0x25 (Nat.min (c.sr k 0x25 + 1) 0xFFFFFFFF))
      else r

-- The commands

def execLb (c : CoreId) (rd ra : Fin 32) (imm : BitVec 16) (s : State) : Host.Outcome State Fault Refusal :=
  .next (s.on fun x => x.loadReg (coreNum c) rd ra 1 imm (sextNum 8))
def execLbu (c : CoreId) (rd ra : Fin 32) (imm : BitVec 16) (s : State) : Host.Outcome State Fault Refusal :=
  .next (s.on fun x => x.loadReg (coreNum c) rd ra 1 imm (BitVec.ofNat 32))
def execLh (c : CoreId) (rd ra : Fin 32) (imm : BitVec 16) (s : State) : Host.Outcome State Fault Refusal :=
  .next (s.on fun x => x.loadReg (coreNum c) rd ra 2 imm (sextNum 16))
def execLhu (c : CoreId) (rd ra : Fin 32) (imm : BitVec 16) (s : State) : Host.Outcome State Fault Refusal :=
  .next (s.on fun x => x.loadReg (coreNum c) rd ra 2 imm (BitVec.ofNat 32))
def execLw (c : CoreId) (rd ra : Fin 32) (imm : BitVec 16) (s : State) : Host.Outcome State Fault Refusal :=
  .next (s.on fun x => x.loadReg (coreNum c) rd ra 4 imm (BitVec.ofNat 32))
def execLd (c : CoreId) (rd ra : Fin 32) (imm : BitVec 16) (s : State) : Host.Outcome State Fault Refusal :=
  .next (s.on fun x => x.loadPair (coreNum c) rd ra imm)
def execSb (c : CoreId) (rs ra : Fin 32) (imm : BitVec 16) (s : State) : Host.Outcome State Fault Refusal :=
  .next (s.on fun x => x.storeReg (coreNum c) rs ra 1 imm)
def execSh (c : CoreId) (rs ra : Fin 32) (imm : BitVec 16) (s : State) : Host.Outcome State Fault Refusal :=
  .next (s.on fun x => x.storeReg (coreNum c) rs ra 2 imm)
def execSw (c : CoreId) (rs ra : Fin 32) (imm : BitVec 16) (s : State) : Host.Outcome State Fault Refusal :=
  .next (s.on fun x => x.storeReg (coreNum c) rs ra 4 imm)
def execSd (c : CoreId) (rs ra : Fin 32) (imm : BitVec 16) (s : State) : Host.Outcome State Fault Refusal :=
  .next (s.on fun x => x.storePair (coreNum c) rs ra imm)
def execSwapw (c : CoreId) (rd ra rb : Fin 32) (s : State) : Host.Outcome State Fault Refusal :=
  .next (s.on fun x => x.atomic (coreNum c) rd ra rb fun _ b => b)
def execAddw (c : CoreId) (rd ra rb : Fin 32) (s : State) : Host.Outcome State Fault Refusal :=
  .next (s.on fun x => x.atomic (coreNum c) rd ra rb fun old b => old + b)
def execMts (c : CoreId) (ra : Fin 32) (sr : BitVec 12) (s : State) : Host.Outcome State Fault Refusal :=
  .next (s.on fun x => x.issue (coreNum c) fun x => x.mts (coreNum c) sr.toNat (x.g (coreNum c) ra).toNat)
def execSend (c : CoreId) (rd ra rb : Fin 32) (s : State) : Host.Outcome State Fault Refusal :=
  .next (s.on fun x => x.issue (coreNum c) fun x => x.kioskOnly (coreNum c) fun x => x.sendIns (coreNum c) rd ra rb false)
def execMcst (c : CoreId) (rd ra rb : Fin 32) (s : State) : Host.Outcome State Fault Refusal :=
  .next (s.on fun x => x.issue (coreNum c) fun x => x.kioskOnly (coreNum c) fun x => x.sendIns (coreNum c) rd ra rb true)
def execTransmitAccept (c : CoreId) (s : State) : Host.Outcome State Fault Refusal := .next (s.on fun x => x.transmitAccept (coreNum c))
def execRecv (c : CoreId) (rd ra q : Fin 32) (wait : Bool) (s : State) : Host.Outcome State Fault Refusal :=
  .next (s.on fun x => x.issue (coreNum c) fun x => x.kioskOnly (coreNum c) fun x => x.recv (coreNum c) rd ra q wait)
def execRecvWake (c : CoreId) (s : State) : Host.Outcome State Fault Refusal := .next (s.on fun x => x.recvWake (coreNum c))
/-- The effect of a firing instruction of operand words `a` and `b`. -/
def Chip.firing (x : Chip) (k ra rb : Nat) (f : Nat → Nat → Eff) : Chip :=
  x.issue k fun x => x.kioskOnly k fun x => x.effect k (f (x.g k ra).toNat (x.g k rb).toNat)
def execFcst (c : CoreId) (ra rb : Fin 32) (s : State) : Host.Outcome State Fault Refusal :=
  .next (s.on fun x => x.firing (coreNum c) ra rb .fcst)
def execTord (c : CoreId) (ra rb : Fin 32) (s : State) : Host.Outcome State Fault Refusal :=
  .next (s.on fun x => x.firing (coreNum c) ra rb .tord)
def execCmit (c : CoreId) (ra rb : Fin 32) (s : State) : Host.Outcome State Fault Refusal :=
  .next (s.on fun x => x.firing (coreNum c) ra rb .cmit)
def execAbrt (c : CoreId) (ra : Fin 32) (s : State) : Host.Outcome State Fault Refusal :=
  .next (s.on fun x => x.firing (coreNum c) ra 0 fun a _ => .abrt a)
def execCmtk (c : CoreId) (s : State) : Host.Outcome State Fault Refusal :=
  .next (s.on fun x => x.issue (coreNum c) fun x => x.kioskOnly (coreNum c) fun x => x.cmtk (coreNum c))

end Sys2Proof.Machine
end

