-- ==== Sys2Proof/Machine/OvPair.lean ====
section
/-!
DEFINITION. The pair instructions of the Kiosk (R156, Table 7-7).
-/
namespace Sys2Proof.Machine

def pairAdd (a b : DWord) : DWord := a + b
def pairSub (a b : DWord) : DWord := a - b
def pairMul (a b : DWord) : DWord := a * b
/-- The signed and the unsigned 64-bit product of two words. -/
def wideMul (a b : Word) : DWord := BitVec.ofInt 64 (a.toInt * b.toInt)
def wideMulu (a b : Word) : DWord := BitVec.ofNat 64 (a.toNat * b.toNat)
def pairSll (a : DWord) (b : Word) : DWord := a <<< (b.toNat % 64)
def pairSrl (a : DWord) (b : Word) : DWord := a >>> (b.toNat % 64)
def pairSra (a : DWord) (b : Word) : DWord := a.sshiftRight (b.toNat % 64)
def pairSlt (a b : DWord) : Word := boolWord (a.slt b)
def pairSltu (a b : DWord) : Word := boolWord (a.ult b)

/-- A register number that names no pair (R156). -/
def oddReg (n : Nat) : Bool := n % 2 == 1

/-- A pair instruction: ILLEGAL in the Shed core and on an odd pair field; otherwise `f`, then the next instruction. -/
def Chip.pairOp (c : Chip) (k : Nat) (fields : List Nat) (f : Chip → Chip) : Chip :=
  c.issue k fun c => c.kioskOnly k fun c => if fields.any oddReg then c.illegal k else (f c).seq k

-- The commands

def execPadd (c : CoreId) (rd ra rb : Fin 32) (s : State) : Host.Outcome State Fault Refusal :=
  .next (s.on fun x => x.pairOp (coreNum c) [rd, ra, rb] fun x =>
    x.setPair (coreNum c) rd (pairAdd (x.pair (coreNum c) ra) (x.pair (coreNum c) rb)))
def execPsub (c : CoreId) (rd ra rb : Fin 32) (s : State) : Host.Outcome State Fault Refusal :=
  .next (s.on fun x => x.pairOp (coreNum c) [rd, ra, rb] fun x =>
    x.setPair (coreNum c) rd (pairSub (x.pair (coreNum c) ra) (x.pair (coreNum c) rb)))
def execPmul (c : CoreId) (rd ra rb : Fin 32) (s : State) : Host.Outcome State Fault Refusal :=
  .next (s.on fun x => x.pairOp (coreNum c) [rd, ra, rb] fun x =>
    x.setPair (coreNum c) rd (pairMul (x.pair (coreNum c) ra) (x.pair (coreNum c) rb)))
def execPmulw (c : CoreId) (rd ra rb : Fin 32) (s : State) : Host.Outcome State Fault Refusal :=
  .next (s.on fun x => x.pairOp (coreNum c) [rd] fun x =>
    x.setPair (coreNum c) rd (wideMul (x.g (coreNum c) ra) (x.g (coreNum c) rb)))
def execPmulwu (c : CoreId) (rd ra rb : Fin 32) (s : State) : Host.Outcome State Fault Refusal :=
  .next (s.on fun x => x.pairOp (coreNum c) [rd] fun x =>
    x.setPair (coreNum c) rd (wideMulu (x.g (coreNum c) ra) (x.g (coreNum c) rb)))
def execPsll (c : CoreId) (rd ra rb : Fin 32) (s : State) : Host.Outcome State Fault Refusal :=
  .next (s.on fun x => x.pairOp (coreNum c) [rd, ra] fun x =>
    x.setPair (coreNum c) rd (pairSll (x.pair (coreNum c) ra) (x.g (coreNum c) rb)))
def execPsrl (c : CoreId) (rd ra rb : Fin 32) (s : State) : Host.Outcome State Fault Refusal :=
  .next (s.on fun x => x.pairOp (coreNum c) [rd, ra] fun x =>
    x.setPair (coreNum c) rd (pairSrl (x.pair (coreNum c) ra) (x.g (coreNum c) rb)))
def execPsra (c : CoreId) (rd ra rb : Fin 32) (s : State) : Host.Outcome State Fault Refusal :=
  .next (s.on fun x => x.pairOp (coreNum c) [rd, ra] fun x =>
    x.setPair (coreNum c) rd (pairSra (x.pair (coreNum c) ra) (x.g (coreNum c) rb)))
def execPslt (c : CoreId) (rd ra rb : Fin 32) (s : State) : Host.Outcome State Fault Refusal :=
  .next (s.on fun x => x.pairOp (coreNum c) [ra, rb] fun x =>
    x.setG (coreNum c) rd (pairSlt (x.pair (coreNum c) ra) (x.pair (coreNum c) rb)))
def execPsltu (c : CoreId) (rd ra rb : Fin 32) (s : State) : Host.Outcome State Fault Refusal :=
  .next (s.on fun x => x.pairOp (coreNum c) [ra, rb] fun x =>
    x.setG (coreNum c) rd (pairSltu (x.pair (coreNum c) ra) (x.pair (coreNum c) rb)))

end Sys2Proof.Machine
end

