-- ==== Sys2Proof/Machine/OvDecode.lean ====
section
/-!
DEFINITION. The instruction words of Ovmin (Tables 7-3 to 7-8, 8-1): which instruction a word is, under R160; and the debug command STEP,
which executes the word at the program counter (R179).
-/
namespace Sys2Proof.Machine

/-- A register field. -/
def r5 (n : Nat) : Fin 32 := Fin.ofNat 32 n

/-- The value of a key in a list of pairs. -/
def lookupOp {α : Type} (l : List (Nat × α)) (k : Nat) : Option α := (l.find? fun x => x.1 == k).map (·.2)

abbrev Op3 := CoreId → Fin 32 → Fin 32 → Fin 32 → Instr
abbrev Op2 := CoreId → Fin 32 → Fin 32 → Instr
abbrev OpI := CoreId → Fin 32 → Fin 32 → BitVec 16 → Instr

/-- Opcode 0x01 (Table 7-5). -/
def intOps : List (Nat × Op3) := [(0, .add), (1, .sub), (2, .and), (3, .or), (4, .xor), (5, .nor), (6, .slt), (7, .sltu), (8, .sll), (9, .srl),
  (0xA, .sra), (0xB, .slli), (0xC, .srli), (0xD, .srai), (0x10, .mul), (0x11, .mulh), (0x12, .mulhu), (0x13, .div), (0x14, .divu),
  (0x15, .remS), (0x16, .remu), (0x18, .min), (0x19, .max), (0x1A, .minu), (0x1B, .maxu), (0x1C, .adds), (0x1D, .subs)]
def intOps1 : List (Nat × Op2) := [(0x1E, .clz), (0x1F, .abs)]

/-- Opcode 0x0A (Table 7-6). -/
def floatOps : List (Nat × Op3) := [(0, .fadd), (1, .fsub), (2, .fmul), (3, .fdiv), (5, .fmin), (6, .fmax), (8, .fmac), (9, .fmsb),
  (0xC, .fcmpq), (0xD, .fcmps)]
def floatOps1 : List (Nat × Op2) := [(4, .fsqrt), (0x10, .ftoi), (0x11, .ftou), (0x12, .itof), (0x13, .utof), (0x14, .fneg), (0x15, .fabs),
  (0x16, .fclass)]

/-- Opcode 0x0B (Table 7-7). -/
def pairOps : List (Nat × Op3) := [(0, .padd), (1, .psub), (2, .pmul), (3, .pmulw), (4, .pmulwu), (5, .psll), (6, .psrl), (7, .psra),
  (8, .pslt), (9, .psltu)]

/-- Opcodes of format I (Table 7-4). -/
def immOps : List (Nat × OpI) := [(2, .addi), (3, .andi), (4, .ori), (5, .xori), (6, .slti), (7, .sltiu), (0x10, .lb), (0x11, .lbu),
  (0x12, .lh), (0x13, .lhu), (0x14, .lw), (0x15, .ld), (0x18, .sb), (0x19, .sh), (0x1A, .sw), (0x1B, .sd), (0x27, .jalr)]

/-- Opcodes of format B, rd being ra and ra being rb of Table 7-3. -/
def branchOps : List (Nat × (CoreId → Fin 32 → Fin 32 → BitVec 16 → Instr)) := [(0x20, .beq), (0x21, .bne), (0x22, .blt), (0x23, .bge),
  (0x24, .bltu), (0x25, .bgeu)]

/-- Opcodes of format T of their own (Tables 7-4, 8-1). -/
def ownOps : List (Nat × Op3) := [(0x16, .swapw), (0x17, .addw), (0x30, .tmw), (0x32, .send), (0x33, .mcst)]

/-- Opcode 0x00 with its fn (Table 7-8). -/
def sysOps : List (Nat × (CoreId → Instr)) := [(1, .nop), (2, .fence), (3, .wfi), (5, .ebreak), (6, .rete), (8, .ei)]

/-- Opcodes 0x30 to 0x3C whose unused fields are among the registers (Table 8-1). -/
def ovDecodeTime (c : CoreId) (op rd ra rb lo : Nat) : Option Instr :=
  if op == 0x31 then
    if bits lo 10 3 != 0 then none else some (.angw c (r5 rd) (r5 ra) (r5 rb) (bit lo 2) (Fin.ofNat 4 lo))
  else if op == 0x34 then if 1 < lo then none else some (.recv c (r5 rd) (r5 ra) (r5 rb) (bit lo 0))
  else if op == 0x3A then if 1 < lo then none else some (.vrfy c (r5 rd) (r5 ra) (r5 rb) (bit lo 0))
  else if op == 0x3C then if rd + ra + rb != 0 || 7 < lo then none else some (.roll c (Fin.ofNat 8 lo))
  else if rd != 0 || lo != 0 then none
  else if op == 0x35 then some (.fcst c (r5 ra) (r5 rb))
  else if op == 0x36 then some (.tord c (r5 ra) (r5 rb))
  else if op == 0x37 then some (.cmit c (r5 ra) (r5 rb))
  else if op == 0x38 then if rb != 0 then none else some (.abrt c (r5 ra))
  else if op == 0x3B then if ra + rb != 0 then none else some (.cmtk c)
  else none

/-- The instruction of word `w` at core `c`; none where the word raises ILLEGAL by its form (R160). -/
def ovDecode (c : CoreId) (w : Nat) : Option Instr :=
  let op := bits w 31 26
  let rd := bits w 25 21
  let ra := bits w 20 16
  let rb := bits w 15 11
  let lo := bits w 10 0
  let imm : BitVec 16 := BitVec.ofNat 16 w
  let three (l : List (Nat × Op3)) (one : List (Nat × Op2)) : Option Instr :=
    match lookupOp l lo, lookupOp one lo with
    | some f, _ => some (f c (r5 rd) (r5 ra) (r5 rb))
    | none, some f => if rb == 0 then some (f c (r5 rd) (r5 ra)) else none
    | none, none => none
  if op == 0 then
    let fn := bits w 5 0
    if bits w 15 6 != 0 then none
    else if fn == 4 then some (.ecall c (BitVec.ofNat 10 (bits w 25 16)))
    else if fn == 7 then if ra == 0 then some (.di c (r5 rd)) else none
    else if bits w 25 16 != 0 then none
    else (lookupOp sysOps fn).map (· c)
  else if op == 1 then three intOps intOps1
  else if op == 0xA then three floatOps floatOps1
  else if op == 0xB then three pairOps []
  else if op == 8 then if ra == 0 then some (.lui c (r5 rd) imm) else none
  else if op == 0xC then if ra == 0 && bits w 15 12 == 0 then some (.mfs c (r5 rd) (BitVec.ofNat 12 w)) else none
  else if op == 0xD then if rd == 0 && bits w 15 12 == 0 then some (.mts c (r5 ra) (BitVec.ofNat 12 w)) else none
  else if op == 0x26 then some (.jal c (r5 rd) (BitVec.ofNat 21 w))
  else if op == 0x28 then if bits w 24 21 == 0 then some (.loop c (bit w 25) (r5 ra) imm) else none
  else if op == 0x29 then some (.loopi c (bit w 25) (BitVec.ofNat 9 (bits w 24 16)) imm)
  else if op == 0x39 then if ra == 0 then some (.ckpt c (r5 rd) imm) else none
  else match lookupOp immOps op, lookupOp branchOps op, lookupOp ownOps op with
    | some f, _, _ => some (f c (r5 rd) (r5 ra) imm)
    | _, some f, _ => some (f c (r5 rd) (r5 ra) imm)
    | _, _, some f => if lo == 0 then some (f c (r5 rd) (r5 ra) (r5 rb)) else none
    | none, none, none => ovDecodeTime c op rd ra rb lo

/-- A word whose major opcode is `op` and whose other fields are zero (R160: [31:26]). -/
def ovWord (op : Nat) : Nat := op * 2 ^ 26

/-- Formats T and M (Table 7-3): rd, ra, rb and the low eleven bits; the special register number of format M is what stands below ra. -/
def ovT (op : Nat) (rd ra rb : Fin 32) (lo : Nat) : Nat :=
  ovWord op + rd.val * 2 ^ 21 + ra.val * 2 ^ 16 + rb.val * 2 ^ 11 + lo

/-- Formats I and B (Table 7-3): two register fields and 16 bits. -/
def ovI (op : Nat) (x y : Fin 32) (imm : BitVec 16) : Nat := ovWord op + x.val * 2 ^ 21 + y.val * 2 ^ 16 + imm.toNat

/-- The word of an Ovmin instruction, with its core (Tables 7-3 to 7-8, 8-1); none for a command that is no instruction. It is written
from the tables apart from `ovDecode`, which must read back what it writes. -/
def ovEncode (i : Instr) : Option (CoreId × Nat) :=
  match i with
  | .add c rd ra rb => some (c, ovT 0x01 rd ra rb 0x00)
  | .sub c rd ra rb => some (c, ovT 0x01 rd ra rb 0x01)
  | .and c rd ra rb => some (c, ovT 0x01 rd ra rb 0x02)
  | .or c rd ra rb => some (c, ovT 0x01 rd ra rb 0x03)
  | .xor c rd ra rb => some (c, ovT 0x01 rd ra rb 0x04)
  | .nor c rd ra rb => some (c, ovT 0x01 rd ra rb 0x05)
  | .slt c rd ra rb => some (c, ovT 0x01 rd ra rb 0x06)
  | .sltu c rd ra rb => some (c, ovT 0x01 rd ra rb 0x07)
  | .sll c rd ra rb => some (c, ovT 0x01 rd ra rb 0x08)
  | .srl c rd ra rb => some (c, ovT 0x01 rd ra rb 0x09)
  | .sra c rd ra rb => some (c, ovT 0x01 rd ra rb 0x0A)
  | .slli c rd ra rb => some (c, ovT 0x01 rd ra rb 0x0B)
  | .srli c rd ra rb => some (c, ovT 0x01 rd ra rb 0x0C)
  | .srai c rd ra rb => some (c, ovT 0x01 rd ra rb 0x0D)
  | .mul c rd ra rb => some (c, ovT 0x01 rd ra rb 0x10)
  | .mulh c rd ra rb => some (c, ovT 0x01 rd ra rb 0x11)
  | .mulhu c rd ra rb => some (c, ovT 0x01 rd ra rb 0x12)
  | .div c rd ra rb => some (c, ovT 0x01 rd ra rb 0x13)
  | .divu c rd ra rb => some (c, ovT 0x01 rd ra rb 0x14)
  | .remS c rd ra rb => some (c, ovT 0x01 rd ra rb 0x15)
  | .remu c rd ra rb => some (c, ovT 0x01 rd ra rb 0x16)
  | .min c rd ra rb => some (c, ovT 0x01 rd ra rb 0x18)
  | .max c rd ra rb => some (c, ovT 0x01 rd ra rb 0x19)
  | .minu c rd ra rb => some (c, ovT 0x01 rd ra rb 0x1A)
  | .maxu c rd ra rb => some (c, ovT 0x01 rd ra rb 0x1B)
  | .adds c rd ra rb => some (c, ovT 0x01 rd ra rb 0x1C)
  | .subs c rd ra rb => some (c, ovT 0x01 rd ra rb 0x1D)
  | .clz c rd ra => some (c, ovT 0x01 rd ra 0 0x1E)
  | .abs c rd ra => some (c, ovT 0x01 rd ra 0 0x1F)
  | .fadd c rd ra rb => some (c, ovT 0x0A rd ra rb 0x00)
  | .fsub c rd ra rb => some (c, ovT 0x0A rd ra rb 0x01)
  | .fmul c rd ra rb => some (c, ovT 0x0A rd ra rb 0x02)
  | .fdiv c rd ra rb => some (c, ovT 0x0A rd ra rb 0x03)
  | .fsqrt c rd ra => some (c, ovT 0x0A rd ra 0 0x04)
  | .fmin c rd ra rb => some (c, ovT 0x0A rd ra rb 0x05)
  | .fmax c rd ra rb => some (c, ovT 0x0A rd ra rb 0x06)
  | .fmac c rd ra rb => some (c, ovT 0x0A rd ra rb 0x08)
  | .fmsb c rd ra rb => some (c, ovT 0x0A rd ra rb 0x09)
  | .fcmpq c rd ra rb => some (c, ovT 0x0A rd ra rb 0x0C)
  | .fcmps c rd ra rb => some (c, ovT 0x0A rd ra rb 0x0D)
  | .ftoi c rd ra => some (c, ovT 0x0A rd ra 0 0x10)
  | .ftou c rd ra => some (c, ovT 0x0A rd ra 0 0x11)
  | .itof c rd ra => some (c, ovT 0x0A rd ra 0 0x12)
  | .utof c rd ra => some (c, ovT 0x0A rd ra 0 0x13)
  | .fneg c rd ra => some (c, ovT 0x0A rd ra 0 0x14)
  | .fabs c rd ra => some (c, ovT 0x0A rd ra 0 0x15)
  | .fclass c rd ra => some (c, ovT 0x0A rd ra 0 0x16)
  | .padd c rd ra rb => some (c, ovT 0x0B rd ra rb 0x00)
  | .psub c rd ra rb => some (c, ovT 0x0B rd ra rb 0x01)
  | .pmul c rd ra rb => some (c, ovT 0x0B rd ra rb 0x02)
  | .pmulw c rd ra rb => some (c, ovT 0x0B rd ra rb 0x03)
  | .pmulwu c rd ra rb => some (c, ovT 0x0B rd ra rb 0x04)
  | .psll c rd ra rb => some (c, ovT 0x0B rd ra rb 0x05)
  | .psrl c rd ra rb => some (c, ovT 0x0B rd ra rb 0x06)
  | .psra c rd ra rb => some (c, ovT 0x0B rd ra rb 0x07)
  | .pslt c rd ra rb => some (c, ovT 0x0B rd ra rb 0x08)
  | .psltu c rd ra rb => some (c, ovT 0x0B rd ra rb 0x09)
  | .addi c rd ra imm => some (c, ovI 0x02 rd ra imm)
  | .andi c rd ra imm => some (c, ovI 0x03 rd ra imm)
  | .ori c rd ra imm => some (c, ovI 0x04 rd ra imm)
  | .xori c rd ra imm => some (c, ovI 0x05 rd ra imm)
  | .slti c rd ra imm => some (c, ovI 0x06 rd ra imm)
  | .sltiu c rd ra imm => some (c, ovI 0x07 rd ra imm)
  | .lui c rd imm => some (c, ovI 0x08 rd 0 imm)
  | .mfs c rd sr => some (c, ovT 0x0C rd 0 0 sr.toNat)
  | .mts c ra sr => some (c, ovT 0x0D 0 ra 0 sr.toNat)
  | .lb c rd ra imm => some (c, ovI 0x10 rd ra imm)
  | .lbu c rd ra imm => some (c, ovI 0x11 rd ra imm)
  | .lh c rd ra imm => some (c, ovI 0x12 rd ra imm)
  | .lhu c rd ra imm => some (c, ovI 0x13 rd ra imm)
  | .lw c rd ra imm => some (c, ovI 0x14 rd ra imm)
  | .ld c rd ra imm => some (c, ovI 0x15 rd ra imm)
  | .swapw c rd ra rb => some (c, ovT 0x16 rd ra rb 0x00)
  | .addw c rd ra rb => some (c, ovT 0x17 rd ra rb 0x00)
  | .sb c rs ra imm => some (c, ovI 0x18 rs ra imm)
  | .sh c rs ra imm => some (c, ovI 0x19 rs ra imm)
  | .sw c rs ra imm => some (c, ovI 0x1A rs ra imm)
  | .sd c rs ra imm => some (c, ovI 0x1B rs ra imm)
  | .beq c ra rb off => some (c, ovI 0x20 ra rb off)
  | .bne c ra rb off => some (c, ovI 0x21 ra rb off)
  | .blt c ra rb off => some (c, ovI 0x22 ra rb off)
  | .bge c ra rb off => some (c, ovI 0x23 ra rb off)
  | .bltu c ra rb off => some (c, ovI 0x24 ra rb off)
  | .bgeu c ra rb off => some (c, ovI 0x25 ra rb off)
  | .jal c rd off => some (c, ovWord 0x26 + rd.val * 2 ^ 21 + off.toNat)
  | .jalr c rd ra imm => some (c, ovI 0x27 rd ra imm)
  | .loop c lvl ra off => some (c, ovWord 0x28 + b2n lvl * 2 ^ 25 + ra.val * 2 ^ 16 + off.toNat)
  | .loopi c lvl cnt off => some (c, ovWord 0x29 + b2n lvl * 2 ^ 25 + cnt.toNat * 2 ^ 16 + off.toNat)
  | .nop c => some (c, ovWord 0 + 1)
  | .fence c => some (c, ovWord 0 + 2)
  | .wfi c => some (c, ovWord 0 + 3)
  | .ebreak c => some (c, ovWord 0 + 5)
  | .rete c => some (c, ovWord 0 + 6)
  | .ei c => some (c, ovWord 0 + 8)
  | .ecall c arg => some (c, ovWord 0 + arg.toNat * 2 ^ 16 + 4)
  | .di c rd => some (c, ovWord 0 + rd.val * 2 ^ 21 + 7)
  | .tmw c rd ra rb => some (c, ovT 0x30 rd ra rb 0x00)
  | .angw c rd ra rb slot base => some (c, ovT 0x31 rd ra rb (b2n slot * 4 + base.val))
  | .send c rd ra rb => some (c, ovT 0x32 rd ra rb 0x00)
  | .mcst c rd ra rb => some (c, ovT 0x33 rd ra rb 0x00)
  | .recv c rd ra q wait => some (c, ovT 0x34 rd ra q (b2n wait))
  | .fcst c ra rb => some (c, ovT 0x35 0 ra rb 0)
  | .tord c ra rb => some (c, ovT 0x36 0 ra rb 0)
  | .cmit c ra rb => some (c, ovT 0x37 0 ra rb 0)
  | .abrt c ra => some (c, ovT 0x38 0 ra 0 0)
  | .ckpt c rd off => some (c, ovI 0x39 rd 0 off)
  | .vrfy c rd ra rb f => some (c, ovT 0x3A rd ra rb (b2n f))
  | .cmtk c => some (c, ovWord 0x3B)
  | .roll c u => some (c, ovWord 0x3C + u.val)
  | _ => none

/-- The meaning of an Ovmin instruction; a command of another kind is none, and changes nothing. -/
def ovRun (i : Instr) (s : State) : Host.Outcome State Fault Refusal :=
  match i with
  | .add c rd ra rb => execAdd c rd ra rb s
  | .sub c rd ra rb => execSub c rd ra rb s
  | .and c rd ra rb => execAnd c rd ra rb s
  | .or c rd ra rb => execOr c rd ra rb s
  | .xor c rd ra rb => execXor c rd ra rb s
  | .nor c rd ra rb => execNor c rd ra rb s
  | .slt c rd ra rb => execSlt c rd ra rb s
  | .sltu c rd ra rb => execSltu c rd ra rb s
  | .sll c rd ra rb => execSll c rd ra rb s
  | .srl c rd ra rb => execSrl c rd ra rb s
  | .sra c rd ra rb => execSra c rd ra rb s
  | .slli c rd ra sh => execSlli c rd ra sh s
  | .srli c rd ra sh => execSrli c rd ra sh s
  | .srai c rd ra sh => execSrai c rd ra sh s
  | .mul c rd ra rb => execMul c rd ra rb s
  | .mulh c rd ra rb => execMulh c rd ra rb s
  | .mulhu c rd ra rb => execMulhu c rd ra rb s
  | .div c rd ra rb => execDiv c rd ra rb s
  | .divu c rd ra rb => execDivu c rd ra rb s
  | .remS c rd ra rb => execRemS c rd ra rb s
  | .remu c rd ra rb => execRemu c rd ra rb s
  | .min c rd ra rb => execMin c rd ra rb s
  | .max c rd ra rb => execMax c rd ra rb s
  | .minu c rd ra rb => execMinu c rd ra rb s
  | .maxu c rd ra rb => execMaxu c rd ra rb s
  | .adds c rd ra rb => execAdds c rd ra rb s
  | .subs c rd ra rb => execSubs c rd ra rb s
  | .clz c rd ra => execClz c rd ra s
  | .abs c rd ra => execAbs c rd ra s
  | .addi c rd ra imm => execAddi c rd ra imm s
  | .andi c rd ra imm => execAndi c rd ra imm s
  | .ori c rd ra imm => execOri c rd ra imm s
  | .xori c rd ra imm => execXori c rd ra imm s
  | .slti c rd ra imm => execSlti c rd ra imm s
  | .sltiu c rd ra imm => execSltiu c rd ra imm s
  | .lui c rd imm => execLui c rd imm s
  | .fadd c rd ra rb => execFadd c rd ra rb s
  | .fsub c rd ra rb => execFsub c rd ra rb s
  | .fmul c rd ra rb => execFmul c rd ra rb s
  | .fdiv c rd ra rb => execFdiv c rd ra rb s
  | .fsqrt c rd ra => execFsqrt c rd ra s
  | .fmin c rd ra rb => execFmin c rd ra rb s
  | .fmax c rd ra rb => execFmax c rd ra rb s
  | .fmac c rd ra rb => execFmac c rd ra rb s
  | .fmsb c rd ra rb => execFmsb c rd ra rb s
  | .fcmpq c rd ra rb => execFcmpq c rd ra rb s
  | .fcmps c rd ra rb => execFcmps c rd ra rb s
  | .ftoi c rd ra => execFtoi c rd ra s
  | .ftou c rd ra => execFtou c rd ra s
  | .itof c rd ra => execItof c rd ra s
  | .utof c rd ra => execUtof c rd ra s
  | .fneg c rd ra => execFneg c rd ra s
  | .fabs c rd ra => execFabs c rd ra s
  | .fclass c rd ra => execFclass c rd ra s
  | .padd c rd ra rb => execPadd c rd ra rb s
  | .psub c rd ra rb => execPsub c rd ra rb s
  | .pmul c rd ra rb => execPmul c rd ra rb s
  | .pmulw c rd ra rb => execPmulw c rd ra rb s
  | .pmulwu c rd ra rb => execPmulwu c rd ra rb s
  | .psll c rd ra rb => execPsll c rd ra rb s
  | .psrl c rd ra rb => execPsrl c rd ra rb s
  | .psra c rd ra rb => execPsra c rd ra rb s
  | .pslt c rd ra rb => execPslt c rd ra rb s
  | .psltu c rd ra rb => execPsltu c rd ra rb s
  | .mfs c rd sr => execMfs c rd sr s
  | .mts c ra sr => execMts c ra sr s
  | .lb c rd ra imm => execLb c rd ra imm s
  | .lbu c rd ra imm => execLbu c rd ra imm s
  | .lh c rd ra imm => execLh c rd ra imm s
  | .lhu c rd ra imm => execLhu c rd ra imm s
  | .lw c rd ra imm => execLw c rd ra imm s
  | .ld c rd ra imm => execLd c rd ra imm s
  | .sb c rs ra imm => execSb c rs ra imm s
  | .sh c rs ra imm => execSh c rs ra imm s
  | .sw c rs ra imm => execSw c rs ra imm s
  | .sd c rs ra imm => execSd c rs ra imm s
  | .swapw c rd ra rb => execSwapw c rd ra rb s
  | .addw c rd ra rb => execAddw c rd ra rb s
  | .beq c ra rb off => execBeq c ra rb off s
  | .bne c ra rb off => execBne c ra rb off s
  | .blt c ra rb off => execBlt c ra rb off s
  | .bge c ra rb off => execBge c ra rb off s
  | .bltu c ra rb off => execBltu c ra rb off s
  | .bgeu c ra rb off => execBgeu c ra rb off s
  | .jal c rd off => execJal c rd off s
  | .jalr c rd ra imm => execJalr c rd ra imm s
  | .loop c lvl ra off => execLoop c lvl ra off s
  | .loopi c lvl cnt off => execLoopi c lvl cnt off s
  | .nop c => execNop c s
  | .fence c => execFence c s
  | .wfi c => execWfi c s
  | .ecall c arg => execEcall c arg s
  | .ebreak c => execEbreak c s
  | .rete c => execRete c s
  | .di c rd => execDi c rd s
  | .ei c => execEi c s
  | .tmw c rd ra rb => execTmw c rd ra rb s
  | .angw c rd ra rb slot base => execAngw c rd ra rb slot base s
  | .send c rd ra rb => execSend c rd ra rb s
  | .mcst c rd ra rb => execMcst c rd ra rb s
  | .recv c rd ra q wait => execRecv c rd ra q wait s
  | .fcst c ra rb => execFcst c ra rb s
  | .tord c ra rb => execTord c ra rb s
  | .cmit c ra rb => execCmit c ra rb s
  | .abrt c ra => execAbrt c ra s
  | .ckpt c rd off => execCkpt c rd off s
  | .vrfy c rd ra rb f => execVrfy c rd ra rb f s
  | .cmtk c => execCmtk c s
  | .roll c u => execRoll c u s
  | _ => .next s

/-- The word at the program counter of core `k`. -/
def Chip.fetchWord (c : Chip) (k : Nat) : Nat :=
  memNat (if isShed k then c.cellMem else c.hubMem) (fetchAddr k (c.pc k)) 4

/-- STEP: a halted or held core executes the word at its program counter and halts again. -/
def execDebugStep (c : CoreId) (s : State) : Host.Outcome State Fault Refusal :=
  let k := coreNum c
  if s.chip.flag (KS_KSTAT_HALTED (coreBase k)) && !s.chip.coreStopped k then
    let s := s.on (·.stepCore k)
    match ovDecode c (s.chip.fetchWord k) with
    | some i => ovRun i s
    | none => execIllegalInstruction c (BitVec.ofNat 32 (s.chip.fetchWord k)) s
  else .next s

end Sys2Proof.Machine
end

