-- ==== Sys2Proof/Machine/Transmit.lean ====
section
/-!
DEFINITION. The transmitter of a lane: the slot of the next block, in the order of R207, with the blocks that take their values as they
leave (R209, R210, R258, R259, R266) and the injections of R222.
-/
namespace Sys2Proof.Machine

/-- An ABORT waits behind an ORDER or REPAIR of its tag among the blocks `pre` queued before it (R96, R207). -/
def abortWaits (pre : List (Nat × DWord)) (w : DWord) : Bool :=
  blockType w == 0x48 && pre.any fun y => (blockType y.2 == 0x41 || blockType y.2 == 0x42) && wbits y.2 55 44 == wbits w 55 44

/-- The first block of the lowest priority number among the available ones, and the others; `pre` stood before them. -/
def pickBlock (pre : List (Nat × DWord)) : List (Nat × DWord) → Option ((Nat × DWord) × List (Nat × DWord))
  | [] => none
  | x :: xs =>
    match pickBlock (x :: pre) xs with
    | none => if abortWaits pre x.2 then none else some (x, xs)
    | some (y, ys) => if abortWaits pre x.2 || y.1 < x.1 then some (y, x :: ys) else some (x, xs)

/-- A block put on the line, with the injections of R222: `isBal` says that it is a BALANCE. -/
def Chip.putBlock (c : Chip) (l : Nat) (control isBal : Bool) (w : DWord) : Chip :=
  let b := laneBase l
  let ln := c.lane l
  let mode := c.fld (LN_INJ_MODE b)
  let badChk := control && (mode == 4 || (mode == 3 && ln.injOnce))
  let w := if badChk then w ^^^ 0xFFF else w
  let period := c.injPeriod l
  let cnt := if mode == 2 then ln.injCnt + 66 else 0
  let flip := (mode == 1 && ln.injOnce) || (mode == 2 && period ≤ cnt)
  let used := mode == 1 || (control && mode == 3)
  let c := c.setLane l { ln.feedBlock control w with
    lastBal := (isBal :: ln.lastBal).take 3
    injOnce := ln.injOnce && !used
    injCnt := if period ≤ cnt then cnt - period else cnt }
  let c := c.when flip (·.emit (.flip l))
  (c.when control fun c => c.recordBlock true l w).emit (if control then .block l w else .data l w)

/-- The SOF of a port's frame leaves: the frame takes its stamp (R258, R259) and TURN (R266), its bytes and its EOF. A double-bit error of
its buffer makes the EOF fail (R249); a frame that failed ends with the EOF as received, or, where its bytes are changed, with the inverse of
their CRC-32 (R233, R259). -/
def Chip.sofDepart (c : Chip) (p : Nat) : Chip :=
  match (c.port p).cur, (c.lane (192 + p)).msgs with
  | some f, m :: ms =>
    let g := { f with
      ext := if f.off == 0 then c.stamp f else f.ext
      hdr := match f.req with
        | some t => withHchk (setHw f.hdr 5 ((c.time - t) * 8))
        | none => f.hdr }
    let all := g.words
    let l := wordsBytes all
    let r := if f.buf < 8192 then c.poolRead (bufAddr f.buf) l.length else (false, c)
    let fin := if r.1 then failEof l
      else match f.eof with
        | none => mkEof (crc32 l) f.upto.isSome
        | some e => if fTx f.hdr then failEof l else mkEof e f.upto.isSome
    let c := (r.2.when (f.level != 0) (·.awaitsNot p)).laneUp (192 + p) fun ln =>
      { ln with msgs := { m with words := all.drop f.off, all := all, fin := fin } :: ms }
    c.when (f.off == 0) (·.emit (.frame p g.hdr g.ext g.payload))
  | _, _ => c

/-- The base whose cycle count a SYNC_EPOCH goes with: that of the SYNC_ANG queued behind it. -/
def Chip.epochBase (c : Chip) (l : Nat) : Nat :=
  match (c.lane l).q.find? fun x => blockType x.2 / 4 == 9 with
  | some x => blockType x.2 - 0x24
  | none => c.fld SDL_SCTL_ARM_BASE

/-- A block as it leaves: a sync block takes the value that the domain has then (R210). -/
def Chip.departing (c : Chip) (l : Nat) (w : DWord) : DWord :=
  let t := blockType w
  if l < 192 && (t == 0x20 || t == 0x21 || t / 4 == 9) then c.syncBlock t (c.epochBase l) else w

/-- A queued control block sent, with what its departure brings about. -/
def Chip.sendControl (c : Chip) (l : Nat) (w : DWord) : Chip :=
  let t := blockType w
  let c := c.putBlock l true false (c.departing l w)
  if t == 0x10 then c.msgBegun l
  else if t == 0x12 then (c.when (192 ≤ l && l < 204) (·.sofDepart (l - 192))).msgBegun l
  else if t == 0x11 || t == 0x13 then c.msgEnded l
  else if t == 10 && wbits w 55 54 == 2 then c.enterL2 l
  else if t == 8 && c.laneState l == 2 && (c.lane l).capRx then c.enterRate l
  else c

/-- The next data block of the message in progress sent; after the last one its end is queued. -/
def Chip.sendData (c : Chip) (l : Nat) : Chip :=
  match (c.lane l).msgs with
  | { start := s, words := w :: ws, fin := f, begun := true, all := a, hold := h } :: ms =>
    let c := (c.putBlock l false false w).laneUp l fun ln =>
      { ln with msgs := { start := s, words := ws, fin := f, begun := true, all := a, hold := h } :: ms }
    c.when (ws.isEmpty && !h) (·.pushBlock l 6 f)
  | _ => c.putBlock l true false (mkBlock 1 0)

/-- The slot for the next block opens on a lane whose transmitter sends blocks (R207): a CAP where one is due, and the first block in the
order of R207 among those queued before this clock. -/
def Chip.txSlot (c : Chip) (l : Nat) : Chip :=
  let st := c.laneState l
  if st == 0 || st == 7 || st == 8 then c
  else
    let due := st == 2 && (c.lane l).capCnt == 0
    let c := c.when (st == 2) fun c => c.laneUp l fun ln =>
      { ln with capCnt := if due then 31 else ln.capCnt - 1, q := if due then (6, c.capBlock l) :: ln.q else ln.q }
    let ln := c.lane l
    let av := ln.available (c.laneClock l)
    let balance (c : Chip) : Chip := (c.putBlock l true true ln.balance).bump (LN_BAL_CNT (laneBase l))
    match pickBlock [] av.1 with
    | some (x, rest) =>
      if 3 ≤ x.1 && ln.wantsBalance then balance c
      else (c.setLane l { ln with q := rest ++ av.2 }).sendControl l x.2
    | none => if ln.wantsBalance then balance c else c.sendData l

def execTxSlot (l : LaneId) (s : State) : Host.Outcome State Fault Refusal := .next (s.on fun c => c.txSlot (laneNum l))

end Sys2Proof.Machine
end

