-- ==== Sys2Proof/Machine/Dispatch.lean ====
section
/-!
DEFINITION. The dispatch: one arm per command, each one call of its meaning.
-/
namespace Sys2Proof.Machine

/-- The command's effect on everything but the queue. -/
def exec (i : Instr) (s : State) : Host.Outcome State Fault Refusal :=
  match i with
  | .registerWrite r addr val => Sys2Proof.Machine.execRegisterWrite r addr val s
  | .regAccessBadSize r addr size isWrite => Sys2Proof.Machine.execRegAccessBadSize r addr size isWrite s
  | .wideReadLatch r addr => Sys2Proof.Machine.execWideReadLatch r addr s
  | .wideWriteHold r addr val => Sys2Proof.Machine.execWideWriteHold r addr val s
  | .wideWriteApply r addr val => Sys2Proof.Machine.execWideWriteApply r addr val s
  | .load d w => Sys2Proof.Machine.execLoad d w s
  | .step d w => Sys2Proof.Machine.execStep d w s
  | .armInc d w => Sys2Proof.Machine.execArmInc d w s
  | .cancelInc d w => Sys2Proof.Machine.execCancelInc d w s
  | .slew d w => Sys2Proof.Machine.execSlew d w s
  | .cancelSlew d w => Sys2Proof.Machine.execCancelSlew d w s
  | .incWrite d v => Sys2Proof.Machine.execIncWrite d v s
  | .incChangeDue d => Sys2Proof.Machine.execIncChangeDue d s
  | .slewEnd d => Sys2Proof.Machine.execSlewEnd d s
  | .snap w => Sys2Proof.Machine.execSnap w s
  | .arm n w => Sys2Proof.Machine.execArm n w s
  | .disarm n w => Sys2Proof.Machine.execDisarm n w s
  | .pulseStart n => Sys2Proof.Machine.execPulseStart n s
  | .pulseEnd n => Sys2Proof.Machine.execPulseEnd n s
  | .pllLockLoss => Sys2Proof.Machine.execPllLockLoss s
  | .replicaIncWrite ang v => Sys2Proof.Machine.execReplicaIncWrite ang v s
  | .stepFt w => Sys2Proof.Machine.execStepFt w s
  | .stepAng w => Sys2Proof.Machine.execStepAng w s
  | .loadFt w => Sys2Proof.Machine.execLoadFt w s
  | .loadAng w => Sys2Proof.Machine.execLoadAng w s
  | .syncEpoch l w => Sys2Proof.Machine.execSyncEpoch l w s
  | .syncFt l w => Sys2Proof.Machine.execSyncFt l w s
  | .syncAng l w => Sys2Proof.Machine.execSyncAng l w s
  | .syncLost => Sys2Proof.Machine.execSyncLost s
  | .anginEdge n v held => Sys2Proof.Machine.execAnginEdge n v held s
  | .chatterWindow n => Sys2Proof.Machine.execChatterWindow n s
  | .los n => Sys2Proof.Machine.execLos n s
  | .ictlWrite n w => Sys2Proof.Machine.execIctlWrite n w s
  | .vec b w => Sys2Proof.Machine.execVec b w s
  | .order l w => Sys2Proof.Machine.execOrder l w s
  | .repair l w => Sys2Proof.Machine.execRepair l w s
  | .commit l w => Sys2Proof.Machine.execCommit l w s
  | .abort l w => Sys2Proof.Machine.execAbort l w s
  | .commitDeadline => Sys2Proof.Machine.execCommitDeadline s
  | .executionInstant => Sys2Proof.Machine.execExecutionInstant s
  | .stall => Sys2Proof.Machine.execStall s
  | .gateOnEdge g => Sys2Proof.Machine.execGateOnEdge g s
  | .vernierEnd => Sys2Proof.Machine.execVernierEnd s
  | .slotStart => Sys2Proof.Machine.execSlotStart s
  | .report n w => Sys2Proof.Machine.execReport n w s
  | .event n w => Sys2Proof.Machine.execEvent n w s
  | .meas n w => Sys2Proof.Machine.execMeas n w s
  | .measFrame p f => Sys2Proof.Machine.execMeasFrame p f s
  | .fcstFrame p ra rb => Sys2Proof.Machine.execFcstFrame p ra rb s
  | .gather f => Sys2Proof.Machine.execGather f s
  | .mergeComplete tag => Sys2Proof.Machine.execMergeComplete tag s
  | .gatherDeadline tag => Sys2Proof.Machine.execGatherDeadline tag s
  | .ranks f => Sys2Proof.Machine.execRanks f s
  | .scatterDeadline tag => Sys2Proof.Machine.execScatterDeadline tag s
  | .commitFrame p w => Sys2Proof.Machine.execCommitFrame p w s
  | .commitTest tag => Sys2Proof.Machine.execCommitTest tag s
  | .abortx p w => Sys2Proof.Machine.execAbortx p w s
  | .reseed w => Sys2Proof.Machine.execReseed w s
  | .blvEn w => Sys2Proof.Machine.execBlvEn w s
  | .deblock r => Sys2Proof.Machine.execDeblock r s
  | .modeWrite w => Sys2Proof.Machine.execModeWrite w s
  | .periodBoundary => Sys2Proof.Machine.execPeriodBoundary s
  | .pwmCompare n => Sys2Proof.Machine.execPwmCompare n s
  | .sealPer w => Sys2Proof.Machine.execSealPer w s
  | .sealCmp w => Sys2Proof.Machine.execSealCmp w s
  | .evctlWrite w => Sys2Proof.Machine.execEvctlWrite w s
  | .blankWindowEnd n => Sys2Proof.Machine.execBlankWindowEnd n s
  | .haltReq c => Sys2Proof.Machine.execHaltReq c s
  | .halt c => Sys2Proof.Machine.execHalt c s
  | .resume c => Sys2Proof.Machine.execResume c s
  | .debugStep c => Sys2Proof.Machine.execDebugStep c s
  | .coreRst k => Sys2Proof.Machine.execCoreRst k s
  | .run c w => Sys2Proof.Machine.execRun c w s
  | .kpcWrite c reg v => Sys2Proof.Machine.execKpcWrite c reg v s
  | .imemHostWrite k addr v => Sys2Proof.Machine.execImemHostWrite k addr v s
  | .clkStop => Sys2Proof.Machine.execClkStop s
  | .clockReturn => Sys2Proof.Machine.execClockReturn s
  | .slotGridWrite org w => Sys2Proof.Machine.execSlotGridWrite org w s
  | .lctlWrite w => Sys2Proof.Machine.execLctlWrite w s
  | .activeWrite w => Sys2Proof.Machine.execActiveWrite w s
  | .add c rd ra rb => Sys2Proof.Machine.execAdd c rd ra rb s
  | .sub c rd ra rb => Sys2Proof.Machine.execSub c rd ra rb s
  | .and c rd ra rb => Sys2Proof.Machine.execAnd c rd ra rb s
  | .or c rd ra rb => Sys2Proof.Machine.execOr c rd ra rb s
  | .xor c rd ra rb => Sys2Proof.Machine.execXor c rd ra rb s
  | .nor c rd ra rb => Sys2Proof.Machine.execNor c rd ra rb s
  | .slt c rd ra rb => Sys2Proof.Machine.execSlt c rd ra rb s
  | .sltu c rd ra rb => Sys2Proof.Machine.execSltu c rd ra rb s
  | .sll c rd ra rb => Sys2Proof.Machine.execSll c rd ra rb s
  | .srl c rd ra rb => Sys2Proof.Machine.execSrl c rd ra rb s
  | .sra c rd ra rb => Sys2Proof.Machine.execSra c rd ra rb s
  | .slli c rd ra sh => Sys2Proof.Machine.execSlli c rd ra sh s
  | .srli c rd ra sh => Sys2Proof.Machine.execSrli c rd ra sh s
  | .srai c rd ra sh => Sys2Proof.Machine.execSrai c rd ra sh s
  | .mul c rd ra rb => Sys2Proof.Machine.execMul c rd ra rb s
  | .mulh c rd ra rb => Sys2Proof.Machine.execMulh c rd ra rb s
  | .mulhu c rd ra rb => Sys2Proof.Machine.execMulhu c rd ra rb s
  | .div c rd ra rb => Sys2Proof.Machine.execDiv c rd ra rb s
  | .divu c rd ra rb => Sys2Proof.Machine.execDivu c rd ra rb s
  | .remS c rd ra rb => Sys2Proof.Machine.execRemS c rd ra rb s
  | .remu c rd ra rb => Sys2Proof.Machine.execRemu c rd ra rb s
  | .min c rd ra rb => Sys2Proof.Machine.execMin c rd ra rb s
  | .max c rd ra rb => Sys2Proof.Machine.execMax c rd ra rb s
  | .minu c rd ra rb => Sys2Proof.Machine.execMinu c rd ra rb s
  | .maxu c rd ra rb => Sys2Proof.Machine.execMaxu c rd ra rb s
  | .adds c rd ra rb => Sys2Proof.Machine.execAdds c rd ra rb s
  | .subs c rd ra rb => Sys2Proof.Machine.execSubs c rd ra rb s
  | .clz c rd ra => Sys2Proof.Machine.execClz c rd ra s
  | .abs c rd ra => Sys2Proof.Machine.execAbs c rd ra s
  | .addi c rd ra imm => Sys2Proof.Machine.execAddi c rd ra imm s
  | .andi c rd ra imm => Sys2Proof.Machine.execAndi c rd ra imm s
  | .ori c rd ra imm => Sys2Proof.Machine.execOri c rd ra imm s
  | .xori c rd ra imm => Sys2Proof.Machine.execXori c rd ra imm s
  | .slti c rd ra imm => Sys2Proof.Machine.execSlti c rd ra imm s
  | .sltiu c rd ra imm => Sys2Proof.Machine.execSltiu c rd ra imm s
  | .lui c rd imm => Sys2Proof.Machine.execLui c rd imm s
  | .fadd c rd ra rb => Sys2Proof.Machine.execFadd c rd ra rb s
  | .fsub c rd ra rb => Sys2Proof.Machine.execFsub c rd ra rb s
  | .fmul c rd ra rb => Sys2Proof.Machine.execFmul c rd ra rb s
  | .fdiv c rd ra rb => Sys2Proof.Machine.execFdiv c rd ra rb s
  | .fsqrt c rd ra => Sys2Proof.Machine.execFsqrt c rd ra s
  | .fmin c rd ra rb => Sys2Proof.Machine.execFmin c rd ra rb s
  | .fmax c rd ra rb => Sys2Proof.Machine.execFmax c rd ra rb s
  | .fmac c rd ra rb => Sys2Proof.Machine.execFmac c rd ra rb s
  | .fmsb c rd ra rb => Sys2Proof.Machine.execFmsb c rd ra rb s
  | .fcmpq c rd ra rb => Sys2Proof.Machine.execFcmpq c rd ra rb s
  | .fcmps c rd ra rb => Sys2Proof.Machine.execFcmps c rd ra rb s
  | .ftoi c rd ra => Sys2Proof.Machine.execFtoi c rd ra s
  | .ftou c rd ra => Sys2Proof.Machine.execFtou c rd ra s
  | .itof c rd ra => Sys2Proof.Machine.execItof c rd ra s
  | .utof c rd ra => Sys2Proof.Machine.execUtof c rd ra s
  | .fneg c rd ra => Sys2Proof.Machine.execFneg c rd ra s
  | .fabs c rd ra => Sys2Proof.Machine.execFabs c rd ra s
  | .fclass c rd ra => Sys2Proof.Machine.execFclass c rd ra s
  | .padd c rd ra rb => Sys2Proof.Machine.execPadd c rd ra rb s
  | .psub c rd ra rb => Sys2Proof.Machine.execPsub c rd ra rb s
  | .pmul c rd ra rb => Sys2Proof.Machine.execPmul c rd ra rb s
  | .pmulw c rd ra rb => Sys2Proof.Machine.execPmulw c rd ra rb s
  | .pmulwu c rd ra rb => Sys2Proof.Machine.execPmulwu c rd ra rb s
  | .psll c rd ra rb => Sys2Proof.Machine.execPsll c rd ra rb s
  | .psrl c rd ra rb => Sys2Proof.Machine.execPsrl c rd ra rb s
  | .psra c rd ra rb => Sys2Proof.Machine.execPsra c rd ra rb s
  | .pslt c rd ra rb => Sys2Proof.Machine.execPslt c rd ra rb s
  | .psltu c rd ra rb => Sys2Proof.Machine.execPsltu c rd ra rb s
  | .mfs c rd sr => Sys2Proof.Machine.execMfs c rd sr s
  | .mts c ra sr => Sys2Proof.Machine.execMts c ra sr s
  | .lb c rd ra imm => Sys2Proof.Machine.execLb c rd ra imm s
  | .lbu c rd ra imm => Sys2Proof.Machine.execLbu c rd ra imm s
  | .lh c rd ra imm => Sys2Proof.Machine.execLh c rd ra imm s
  | .lhu c rd ra imm => Sys2Proof.Machine.execLhu c rd ra imm s
  | .lw c rd ra imm => Sys2Proof.Machine.execLw c rd ra imm s
  | .ld c rd ra imm => Sys2Proof.Machine.execLd c rd ra imm s
  | .sb c rs ra imm => Sys2Proof.Machine.execSb c rs ra imm s
  | .sh c rs ra imm => Sys2Proof.Machine.execSh c rs ra imm s
  | .sw c rs ra imm => Sys2Proof.Machine.execSw c rs ra imm s
  | .sd c rs ra imm => Sys2Proof.Machine.execSd c rs ra imm s
  | .swapw c rd ra rb => Sys2Proof.Machine.execSwapw c rd ra rb s
  | .addw c rd ra rb => Sys2Proof.Machine.execAddw c rd ra rb s
  | .beq c ra rb off => Sys2Proof.Machine.execBeq c ra rb off s
  | .bne c ra rb off => Sys2Proof.Machine.execBne c ra rb off s
  | .blt c ra rb off => Sys2Proof.Machine.execBlt c ra rb off s
  | .bge c ra rb off => Sys2Proof.Machine.execBge c ra rb off s
  | .bltu c ra rb off => Sys2Proof.Machine.execBltu c ra rb off s
  | .bgeu c ra rb off => Sys2Proof.Machine.execBgeu c ra rb off s
  | .jal c rd off => Sys2Proof.Machine.execJal c rd off s
  | .jalr c rd ra imm => Sys2Proof.Machine.execJalr c rd ra imm s
  | .loop c lvl ra off => Sys2Proof.Machine.execLoop c lvl ra off s
  | .loopi c lvl cnt off => Sys2Proof.Machine.execLoopi c lvl cnt off s
  | .nop c => Sys2Proof.Machine.execNop c s
  | .fence c => Sys2Proof.Machine.execFence c s
  | .wfi c => Sys2Proof.Machine.execWfi c s
  | .wfiWake c => Sys2Proof.Machine.execWfiWake c s
  | .ecall c arg => Sys2Proof.Machine.execEcall c arg s
  | .ebreak c => Sys2Proof.Machine.execEbreak c s
  | .rete c => Sys2Proof.Machine.execRete c s
  | .di c rd => Sys2Proof.Machine.execDi c rd s
  | .ei c => Sys2Proof.Machine.execEi c s
  | .interruptEntry c => Sys2Proof.Machine.execInterruptEntry c s
  | .doorbell k v => Sys2Proof.Machine.execDoorbell k v s
  | .timer c => Sys2Proof.Machine.execTimer c s
  | .tmw c rd ra rb => Sys2Proof.Machine.execTmw c rd ra rb s
  | .tmwWake c => Sys2Proof.Machine.execTmwWake c s
  | .angw c rd ra rb slot base => Sys2Proof.Machine.execAngw c rd ra rb slot base s
  | .angwWake c => Sys2Proof.Machine.execAngwWake c s
  | .send c rd ra rb => Sys2Proof.Machine.execSend c rd ra rb s
  | .mcst c rd ra rb => Sys2Proof.Machine.execMcst c rd ra rb s
  | .transmitAccept c => Sys2Proof.Machine.execTransmitAccept c s
  | .recv c rd ra q wait => Sys2Proof.Machine.execRecv c rd ra q wait s
  | .recvWake c => Sys2Proof.Machine.execRecvWake c s
  | .fcst c ra rb => Sys2Proof.Machine.execFcst c ra rb s
  | .tord c ra rb => Sys2Proof.Machine.execTord c ra rb s
  | .cmit c ra rb => Sys2Proof.Machine.execCmit c ra rb s
  | .abrt c ra => Sys2Proof.Machine.execAbrt c ra s
  | .ckpt c rd off => Sys2Proof.Machine.execCkpt c rd off s
  | .vrfy c rd ra rb f => Sys2Proof.Machine.execVrfy c rd ra rb f s
  | .cmtk c => Sys2Proof.Machine.execCmtk c s
  | .roll c u => Sys2Proof.Machine.execRoll c u s
  | .specWatchdog c => Sys2Proof.Machine.execSpecWatchdog c s
  | .txSlot l => Sys2Proof.Machine.execTxSlot l s
  | .balanceReceive l w => Sys2Proof.Machine.execBalanceReceive l w s
  | .unknownBlock l w => Sys2Proof.Machine.execUnknownBlock l w s
  | .strayDataBlock l fin => Sys2Proof.Machine.execStrayDataBlock l fin s
  | .syncSend => Sys2Proof.Machine.execSyncSend s
  | .regWr l m => Sys2Proof.Machine.execRegWr l m s
  | .regRd l m => Sys2Proof.Machine.execRegRd l m s
  | .regRsp n m => Sys2Proof.Machine.execRegRsp n m s
  | .mailbox l m => Sys2Proof.Machine.execMailbox l m s
  | .log n m => Sys2Proof.Machine.execLog n m s
  | .lockAcquired l => Sys2Proof.Machine.execLockAcquired l s
  | .lockLoss l => Sys2Proof.Machine.execLockLoss l s
  | .signalLoss l => Sys2Proof.Machine.execSignalLoss l s
  | .linkDownTimeout l => Sys2Proof.Machine.execLinkDownTimeout l s
  | .en l w => Sys2Proof.Machine.execEn l w s
  | .cap l w => Sys2Proof.Machine.execCap l w s
  | .capxTimeout l => Sys2Proof.Machine.execCapxTimeout l s
  | .propose l w => Sys2Proof.Machine.execPropose l w s
  | .proposeRepeat l => Sys2Proof.Machine.execProposeRepeat l s
  | .accept l w => Sys2Proof.Machine.execAccept l w s
  | .rateSwitch l => Sys2Proof.Machine.execRateSwitch l s
  | .huntTimeout l => Sys2Proof.Machine.execHuntTimeout l s
  | .adaptEnd l vm hm => Sys2Proof.Machine.execAdaptEnd l vm hm s
  | .fallback l w => Sys2Proof.Machine.execFallback l w s
  | .up l w => Sys2Proof.Machine.execUp l w s
  | .fomUpdate l vm hm => Sys2Proof.Machine.execFomUpdate l vm hm s
  | .berWindow l => Sys2Proof.Machine.execBerWindow l s
  | .enterL1 l => Sys2Proof.Machine.execEnterL1 l s
  | .enterL2 l => Sys2Proof.Machine.execEnterL2 l s
  | .l2Req l w => Sys2Proof.Machine.execL2Req l w s
  | .l2Ack l w => Sys2Proof.Machine.execL2Ack l w s
  | .l2Nak l w => Sys2Proof.Machine.execL2Nak l w s
  | .wake l => Sys2Proof.Machine.execWake l s
  | .signalDetect l => Sys2Proof.Machine.execSignalDetect l s
  | .l2ExitTimeout l => Sys2Proof.Machine.execL2ExitTimeout l s
  | .retrain l => Sys2Proof.Machine.execRetrain l s
  | .test l w => Sys2Proof.Machine.execTest l w s
  | .checkerLock l line => Sys2Proof.Machine.execCheckerLock l line s
  | .injOnce l => Sys2Proof.Machine.execInjOnce l s
  | .msgSend n => Sys2Proof.Machine.execMsgSend n s
  | .mrxDone n => Sys2Proof.Machine.execMrxDone n s
  | .mbxTxGo w => Sys2Proof.Machine.execMbxTxGo w s
  | .frame port f rx => Sys2Proof.Machine.execFrame port f rx s
  | .frameTxStart port => Sys2Proof.Machine.execFrameTxStart port s
  | .earlyEof port => Sys2Proof.Machine.execEarlyEof port s
  | .msg p f => Sys2Proof.Machine.execMsg p f s
  | .hello port h => Sys2Proof.Machine.execHello port h s
  | .helloSend => Sys2Proof.Machine.execHelloSend s
  | .nbrTimeout port => Sys2Proof.Machine.execNbrTimeout port s
  | .leadChoice => Sys2Proof.Machine.execLeadChoice s
  | .leadLost => Sys2Proof.Machine.execLeadLost s
  | .rediscover => Sys2Proof.Machine.execRediscover s
  | .assign port serial id path => Sys2Proof.Machine.execAssign port serial id path s
  | .rtload off ws last => Sys2Proof.Machine.execRtload off ws last s
  | .swapcmd at' => Sys2Proof.Machine.execSwapcmd at' s
  | .swap => Sys2Proof.Machine.execSwap s
  | .tableSwap => Sys2Proof.Machine.execTableSwap s
  | .reroute => Sys2Proof.Machine.execReroute s
  | .alloc r => Sys2Proof.Machine.execAlloc r s
  | .free r w => Sys2Proof.Machine.execFree r w s
  | .acctWrite r addr w => Sys2Proof.Machine.execAcctWrite r addr w s
  | .probeSend l => Sys2Proof.Machine.execProbeSend l s
  | .probe l w turn => Sys2Proof.Machine.execProbe l w turn s
  | .echo l w rtt => Sys2Proof.Machine.execEcho l w rtt s
  | .probeTimeout l => Sys2Proof.Machine.execProbeTimeout l s
  | .prbctlWrite l w => Sys2Proof.Machine.execPrbctlWrite l w s
  | .tsyncSend => Sys2Proof.Machine.execTsyncSend s
  | .tsync port x => Sys2Proof.Machine.execTsync port x s
  | .tsLost p => Sys2Proof.Machine.execTsLost p s
  | .uncalLong => Sys2Proof.Machine.execUncalLong s
  | .tannSend => Sys2Proof.Machine.execTannSend s
  | .tann p x t => Sys2Proof.Machine.execTann p x t s
  | .pathGo w => Sys2Proof.Machine.execPathGo w s
  | .pathreq port src x => Sys2Proof.Machine.execPathreq port src x s
  | .pathrsp port x reqCorr turn rtt => Sys2Proof.Machine.execPathrsp port x reqCorr turn rtt s
  | .pathTimeout => Sys2Proof.Machine.execPathTimeout s
  | .tresRead r which => Sys2Proof.Machine.execTresRead r which s
  | .ethRx n fr fcsOk ago => Sys2Proof.Machine.execEthRx n fr fcsOk ago s
  | .etxdSubmit n w3 => Sys2Proof.Machine.execEtxdSubmit n w3 s
  | .ethTxDone n ago => Sys2Proof.Machine.execEthTxDone n ago s
  | .erxqRead r n => Sys2Proof.Machine.execErxqRead r n s
  | .etxtsRead r n => Sys2Proof.Machine.execEtxtsRead r n s
  | .mdioGo w phy => Sys2Proof.Machine.execMdioGo w phy s
  | .actlWrite w => Sys2Proof.Machine.execActlWrite w s
  | .go => Sys2Proof.Machine.execGo s
  | .tdlyExpiry => Sys2Proof.Machine.execTdlyExpiry s
  | .tperExpiry => Sys2Proof.Machine.execTperExpiry s
  | .conversionEnd v refin clamp => Sys2Proof.Machine.execConversionEnd v refin clamp s
  | .injGo => Sys2Proof.Machine.execInjGo s
  | .injectionStart => Sys2Proof.Machine.execInjectionStart s
  | .fifoClr => Sys2Proof.Machine.execFifoClr s
  | .fifoRead r => Sys2Proof.Machine.execFifoRead r s
  | .refSettled => Sys2Proof.Machine.execRefSettled s
  | .refLost => Sys2Proof.Machine.execRefLost s
  | .gateRb levels g => Sys2Proof.Machine.execGateRb levels g s
  | .drvstEdge n level held => Sys2Proof.Machine.execDrvstEdge n level held s
  | .dpolWrite w => Sys2Proof.Machine.execDpolWrite w s
  | .bypGo => Sys2Proof.Machine.execBypGo s
  | .bypfAssert => Sys2Proof.Machine.execBypfAssert s
  | .bypfForced => Sys2Proof.Machine.execBypfForced s
  | .bypcAssert => Sys2Proof.Machine.execBypcAssert s
  | .bypfRelease => Sys2Proof.Machine.execBypfRelease s
  | .bypcRelease => Sys2Proof.Machine.execBypcRelease s
  | .bypNoclose => Sys2Proof.Machine.execBypNoclose s
  | .contactSample v => Sys2Proof.Machine.execContactSample v s
  | .cinChatterWindow => Sys2Proof.Machine.execCinChatterWindow s
  | .disc p => Sys2Proof.Machine.execDisc p s
  | .discRst w => Sys2Proof.Machine.execDiscRst w s
  | .vauxDip => Sys2Proof.Machine.execVauxDip s
  | .vauxRise => Sys2Proof.Machine.execVauxRise s
  | .vauxUv => Sys2Proof.Machine.execVauxUv s
  | .vauxOk => Sys2Proof.Machine.execVauxOk s
  | .faultNPulseEnd p => Sys2Proof.Machine.execFaultNPulseEnd p s
  | .faultnIn p => Sys2Proof.Machine.execFaultnIn p s
  | .release p => Sys2Proof.Machine.execRelease p s
  | .take => Sys2Proof.Machine.execTake s
  | .tkctlWrite w => Sys2Proof.Machine.execTkctlWrite w s
  | .tklistWrite r j v => Sys2Proof.Machine.execTklistWrite r j v s
  | .cstateWrite p b x w => Sys2Proof.Machine.execCstateWrite p b x w s
  | .entryWrite p b x w => Sys2Proof.Machine.execEntryWrite p b x w s
  | .logcmdSend r w => Sys2Proof.Machine.execLogcmdSend r w s
  | .injWrite p w => Sys2Proof.Machine.execInjWrite p w s
  | .safetyFrameSend => Sys2Proof.Machine.execSafetyFrameSend s
  | .safetyCopy e second pdu => Sys2Proof.Machine.execSafetyCopy e second pdu s
  | .setBroken l => Sys2Proof.Machine.execSetBroken l s
  | .copyWindowExpiry e seq => Sys2Proof.Machine.execCopyWindowExpiry e seq s
  | .safetyWatchdog e => Sys2Proof.Machine.execSafetyWatchdog e s
  | .rqFall p => Sys2Proof.Machine.execRqFall p s
  | .rqRise p => Sys2Proof.Machine.execRqRise p s
  | .rqLevelTimer p => Sys2Proof.Machine.execRqLevelTimer p s
  | .sbkReq p => Sys2Proof.Machine.execSbkReq p s
  | .slv => Sys2Proof.Machine.execSlv s
  | .slvTest changed => Sys2Proof.Machine.execSlvTest changed s
  | .sliTimeout sec => Sys2Proof.Machine.execSliTimeout sec s
  | .sddMaskCheck g => Sys2Proof.Machine.execSddMaskCheck g s
  | .sstop n => Sys2Proof.Machine.execSstop n s
  | .sinDisc => Sys2Proof.Machine.execSinDisc s
  | .rcOscStop => Sys2Proof.Machine.execRcOscStop s
  | .recorderEntry p c => Sys2Proof.Machine.execRecorderEntry p c s
  | .postComplete p c => Sys2Proof.Machine.execPostComplete p c s
  | .holdoffExpiry p c => Sys2Proof.Machine.execHoldoffExpiry p c s
  | .gap p c => Sys2Proof.Machine.execGap p c s
  | .force p c => Sys2Proof.Machine.execForce p c s
  | .recorderRelease p c mask => Sys2Proof.Machine.execRecorderRelease p c mask s
  | .xtrig node ft chan xseq => Sys2Proof.Machine.execXtrig node ft chan xseq s
  | .trigAt r hi => Sys2Proof.Machine.execTrigAt r hi s
  | .cctlWrite p c w => Sys2Proof.Machine.execCctlWrite p c w s
  | .lddEn w => Sys2Proof.Machine.execLddEn w s
  | .trainingDone ok size => Sys2Proof.Machine.execTrainingDone ok size s
  | .mr4Read v inRange => Sys2Proof.Machine.execMr4Read v inRange s
  | .bootGo => Sys2Proof.Machine.execBootGo s
  | .bootDone => Sys2Proof.Machine.execBootDone s
  | .qcmdGo r w => Sys2Proof.Machine.execQcmdGo r w s
  | .otpcmdGo p w => Sys2Proof.Machine.execOtpcmdGo p w s
  | .pcieLinkDown => Sys2Proof.Machine.execPcieLinkDown s
  | .msixUnmask v => Sys2Proof.Machine.execMsixUnmask v s
  | .confirm => Sys2Proof.Machine.execConfirm s
  | .bootWdExpiry => Sys2Proof.Machine.execBootWdExpiry s
  | .imageWrite l m => Sys2Proof.Machine.execImageWrite l m s
  | .imageCheck l m => Sys2Proof.Machine.execImageCheck l m s
  | .imageSwap l m => Sys2Proof.Machine.execImageSwap l m s
  | .imageStatus l m => Sys2Proof.Machine.execImageStatus l m s
  | .jtagBypass p => Sys2Proof.Machine.execJtagBypass p s
  | .idcode p => Sys2Proof.Machine.execIdcode p s
  | .samplePreload p v => Sys2Proof.Machine.execSamplePreload p v s
  | .extest p => Sys2Proof.Machine.execExtest p s
  | .clamp p => Sys2Proof.Machine.execClamp p s
  | .highz p => Sys2Proof.Machine.execHighz p s
  | .porN => Sys2Proof.Machine.execPorN s
  | .supervisorReset => Sys2Proof.Machine.execSupervisorReset s
  | .rstN us => Sys2Proof.Machine.execRstN us s
  | .cold p w => Sys2Proof.Machine.execCold p w s
  | .warm p w => Sys2Proof.Machine.execWarm p w s
  | .wdtWrite w => Sys2Proof.Machine.execWdtWrite w s
  | .watchdogExpiry => Sys2Proof.Machine.execWatchdogExpiry s
  | .resetRelease p => Sys2Proof.Machine.execResetRelease p s
  | .vbor => Sys2Proof.Machine.execVbor s
  | .vwake => Sys2Proof.Machine.execVwake s
  | .vwarn fast => Sys2Proof.Machine.execVwarn fast s
  | .lodgeReset => Sys2Proof.Machine.execLodgeReset s
  | .vbakLow => Sys2Proof.Machine.execVbakLow s
  | .keepRead r w => Sys2Proof.Machine.execKeepRead r w s
  | .tempHigh p t => Sys2Proof.Machine.execTempHigh p t s
  | .pllLock => Sys2Proof.Machine.execPllLock s
  | .invalidHeader l => Sys2Proof.Machine.execInvalidHeader l s
  | .adaptTimeout l => Sys2Proof.Machine.execAdaptTimeout l s
  | .pcieLinkUp width gen => Sys2Proof.Machine.execPcieLinkUp width gen s
  | .ethLink n up => Sys2Proof.Machine.execEthLink n up s
  | .illegalInstruction c w => Sys2Proof.Machine.execIllegalInstruction c w s
  | .refReturn => Sys2Proof.Machine.execRefReturn s

end Sys2Proof.Machine
end

