-- ==== Sys2Proof/Machine/Tick.lean ====
section
/-!
DEFINITION. One nanosecond of the chipset with no command waiting: the clocks of the two parts advance, and what is due is carried out
(DESIGN CHOICE, log entry 3: the opcode table has no command for a tick).
-/
namespace Sys2Proof.Machine

/-- DSTAT [4:0] of a domain and ALIGN, as bits [9:3] of an entry's payload (Table 16-2). -/
def Chip.dstatNow (c : Chip) (d : Nat) : Nat := bits (c.reg (SDL_DSTAT d)) 4 0 * 2 ^ 3 + c.fld SDL_TDSTAT_ALIGN * 2 ^ 8

/-- Each domain whose DSTAT [4:0] or ALIGN has changed since the recorder saw it last gives an entry (Table 16-2). -/
def Chip.recordDstat (c : Chip) : Chip :=
  let now := (List.range 6).map c.dstatNow
  if c.gls.dst == now then c
  else
    let was := c.gls.dst
    let c := if was.isEmpty then c else c.forEach (List.range 6) fun d c =>
      c.when (was.getD d 0 != now.getD d 0) fun c =>
        c.record false 6 d ((wordsOfAcc d (c.dom d).acc).getD 1 0 + (d + now.getD d 0) * 2 ^ 32)
    { c with gls := { c.gls with dst := now } }

/-- One tick of the hub's clock: the six domains, each with FT as it was before the tick (R31, R45), and the pulse outputs. -/
def Chip.hubTick (c : Chip) : Chip :=
  let c := c.recordDstat
  let ft := c.ftNs
  let c' := c.forEach (List.range 6) fun d c => c.domTick ft d
  (c'.forEach (List.range 4) fun n c => c.pulseTick n).recordDstat

/-- The replicas' tick: the starts that the angle reaches by its increment, then what a step or load of it carries over (R46, R48, R71,
R77). -/
def Chip.cellReplicas (c : Chip) : Chip :=
  let moved := c.csd.angStep.isSome || c.csd.angLoad.isSome
  let mid := if c.flag CSD_RCTL_RUN_ANG then moveAcc 1 c.csd.ang (c.reg64 CSD_ANG_INC) else c.csd.ang
  (c.replicaTick.markStarts (c.ctick + 1) mid).when moved (·.replicaMoved mid)

/-- One tick of the cell's timing clock: 2.5 ns. It does not come while the clock is stopped (R147). -/
def Chip.cellTick (c : Chip) : Chip :=
  if c.fire.clkStop then c
  else
    let c' := c.cellReplicas
    ({ c' with ctick := c'.ctick + 1 } : Chip).gateTick.pwmTick.rbTick

/-- Ticks of the cell's clock that have come between two times in half nanoseconds. -/
def cellTicks (t u : Nat) : Nat := u / 5 - t / 5

/-- Lanes in test mode send the pattern bits of this nanosecond (R221). -/
def Chip.lanesTick (c : Chip) : Chip := c.forEach (List.range 206) fun l c => c.testTick l

/-- What waits beside the queue is carried out: a TAKE reaction, frames of the hub to itself, the reset of a SWAP. -/
def Chip.settleTick (c : Chip) : Chip := c.takeReaction.settleAll.swapReset.readyCheck

/-- One nanosecond passes: a part in reset, or stopped by its TAP (R383), does not advance. -/
def Chip.idle (c : Chip) : Chip :=
  let t := c.time
  let c1 : Chip := { c with time := t + 2 }
  let c2 := c1.when (c1.sys.hubRst.isNone && !c1.sys.stopHub) (·.hubTick)
  let c3 := c2.when (c2.sys.cellRst.isNone && !c2.sys.stopCell) fun c => c.forEach (List.range (cellTicks t (t + 2))) fun _ c => c.cellTick
  c3.lanesTick.settleTick

end Sys2Proof.Machine
end

