-- ==== Sys2Proof/Machine/Step.lean ====
section
/-!
DEFINITION. One step of the machine: the command at the front of the queue, or a nanosecond when none waits.
-/
namespace Sys2Proof.Machine

/-- One step: the front command's effect with the queue's rest; on an empty queue one nanosecond passes. -/
def step (s : State) : Host.Outcome State Fault Refusal :=
  match s.pending with
  | [] => .next (s.on (·.idle))
  | i :: rest => exec i { s with pending := rest }

/-- The state with the command that a word of the opcode table spells in front of its queue; the table gives no row bits, so no word
spells one. -/
def State.withFetchWord (s : State) (nbits w : Nat) : State :=
  match decodeTableWord nbits w with
  | some i => { s with pending := i :: s.pending }
  | none => s

end Sys2Proof.Machine
end

