-- ==== Sys2Proof/Safety.lean ====
section
/-!
DEFINITION. The terms in which claims speak of the machine: when a step is safe, when the state is in its canonical form, when a core
issues an instruction, and what a command leaves alone.
-/
namespace Sys2Proof.Machine

/-- A memory is in its canonical form: addresses strictly rising, no entry equal to what an unlisted address reads as. -/
def Memory.wf (m : List Host.Cell) : Bool := Assoc.wf memReset m

/-- The register words, the memories of both parts and the two memories beside them are in their canonical form. -/
def Chip.canon (c : Chip) : Bool :=
  Assoc.wf regReset c.regs && Memory.wf c.hubMem && Memory.wf c.cellMem && Memory.wf c.lddMem && Assoc.wf flashReset c.flash

/-- A step is safe when it answers a next state. -/
def safe (s : State) : Prop := ∃ t, step s = .next t

/-- The command completes at `s`, and its next state is as `p` says. -/
def completes (i : Instr) (s : State) (p : Chip → Prop) : Prop := ∃ t, exec i s = .next t ∧ t.pending = s.pending ∧ p t.chip

/-- Every register word but those of the list is unchanged. -/
def Chip.regsBut (c t : Chip) (l : List Nat) : Prop := ∀ a, a ∉ l → t.reg a = c.reg a

/-- Nothing but register words has changed, and of these only those of the list. -/
def Chip.onlyRegs (c t : Chip) (l : List Nat) : Prop := t = { c with regs := t.regs } ∧ c.regsBut t l

/-- The core issues the instruction at its program counter, outside a debug step and with no stop due, and the word there has no error
of its check bits. -/
def Chip.canIssue (c : Chip) (k : Nat) : Bool :=
  c.issuing k && !(c.core k).stepping && !(c.core k).holdReq && fetchOk k (c.pc k)
    && (c.eccWord (isShed k) (fetchAddr k (c.pc k))).1 == 0

/-- Nothing but core `k` has changed, and of it only its general registers, its special registers of the list and the counts of its two
loops, and its program counter. -/
def Chip.onlyCore (c t : Chip) (k : Nat) (srs : List Nat) : Prop :=
  t = { c with regs := t.regs, cores := t.cores } ∧ c.regsBut t [KS_KPC (coreBase k)] ∧ (∀ j, j ≠ k → t.core j = c.core j)
    ∧ t.core k = { c.core k with g := (t.core k).g, sr := (t.core k).sr }
    ∧ ∀ n, n ∉ srs → n ≠ 0x12 → n ≠ 0x15 → t.sr k n = c.sr k n

/-- The general registers after a write of `v` to `rd`: g0 takes nothing and reads zero. -/
def Chip.wroteG (c t : Chip) (k rd : Nat) (v : Word) : Prop :=
  ∀ n, t.g k n = if n = 0 then 0 else if n = rd then v else c.g k n

/-- The instruction completes at a core, writes `v` to `rd` and changes nothing else. -/
def writesG (i : Instr) (k rd : Nat) (v : Word) (s : State) : Prop :=
  completes i s fun t => s.chip.onlyCore t k [] ∧ s.chip.wroteG t k rd v

/-- The instruction completes at a Kiosk, writes the result to `rd`, sets the result's flags in FSR beside those that stand, and changes
nothing else. -/
def writesF (i : Instr) (k rd : Nat) (r : FRes) (s : State) : Prop :=
  completes i s fun t =>
    s.chip.onlyCore t k [8] ∧ s.chip.wroteG t k rd r.v ∧ t.sr k 8 = (s.chip.sr k 8 ||| r.flags) % 2 ^ 32

/-- The general registers after a write of a pair: the low word to `rd`, the high word to `rd` + 1, nothing to pair g0. -/
def Chip.wrotePair (c t : Chip) (k rd : Nat) (v : DWord) : Prop :=
  ∀ n, t.g k n = if rd = 0 then c.g k n else if n = rd then v.setWidth 32 else if n = rd + 1 then (v >>> 32).setWidth 32 else c.g k n

/-- The instruction completes at a Kiosk, writes the pair `rd` and changes nothing else. -/
def writesP (i : Instr) (k rd : Nat) (v : DWord) (s : State) : Prop :=
  completes i s fun t => s.chip.onlyCore t k [] ∧ s.chip.wrotePair t k rd v

/-- Core `k` has entered a handler at offset `off` from VBASE (R173): EPC, CAUSE and the status bits; its general registers stay. -/
def Chip.entered (c t : Chip) (k epc cause off : Nat) : Prop :=
  t.sr k 2 = epc % 2 ^ 32 ∧ t.sr k 3 = cause % 2 ^ 32 ∧ t.sr k 0 = b2n (c.ie k) * 2 + 4 ∧ t.pc k = (c.sr k 1 + off) % 2 ^ 32
    ∧ (t.core k).g = (c.core k).g ∧ c.regsBut t [KS_KPC (coreBase k)] ∧ (∀ j, j ≠ k → t.core j = c.core j)
    ∧ t = { c with regs := t.regs, cores := t.cores }

/-- The next address of an instruction that completes at address `p` without a branch (R169), from the loop registers after its own
writes. -/
def nextPc (p ls0 le0 lc0 ls1 le1 lc1 : Nat) : Nat :=
  if lc1 ≠ 0 ∧ le1 = p ∧ (lc1 - 1) % 2 ^ 32 ≠ 0 then ls1 % 2 ^ 32
  else if lc0 ≠ 0 ∧ le0 = p ∧ (lc0 - 1) % 2 ^ 32 ≠ 0 then ls0 % 2 ^ 32
  else (p + 4) % 2 ^ 32

/-- The instruction completes at core `k` by going on to address `t`: nothing but the program counter changes. -/
def jumps (i : Instr) (k t : Nat) (s : State) : Prop :=
  completes i s fun u => s.chip.onlyRegs u [KS_KPC (coreBase k)] ∧ u.pc k = t

/-- The counts of the two loops after an instruction at address `p` that does not branch (R169): level 1 first. -/
def nextCounts (p le0 lc0 le1 lc1 : Nat) : Nat × Nat :=
  let hit1 := lc1 ≠ 0 ∧ le1 = p
  let d1 := if hit1 then (lc1 - 1) % 2 ^ 32 else lc1
  let d0 := if ¬ (hit1 ∧ d1 ≠ 0) ∧ lc0 ≠ 0 ∧ le0 = p then (lc0 - 1) % 2 ^ 32 else lc0
  (d0, d1)

/-- Core `k` has gone from `c` on to the next address of R169, with the loops' counts as it says. -/
def Chip.wentOn (c t : Chip) (k : Nat) : Prop :=
  t.pc k = nextPc (c.pc k) (c.sr k 0x10) (c.sr k 0x11) (c.sr k 0x12) (c.sr k 0x13) (c.sr k 0x14) (c.sr k 0x15)
    ∧ (t.sr k 0x12, t.sr k 0x15) = nextCounts (c.pc k) (c.sr k 0x11) (c.sr k 0x12) (c.sr k 0x14) (c.sr k 0x15)

/-- The instruction completes at core `k` with the next address and no register written. -/
def falls (i : Instr) (k : Nat) (s : State) : Prop :=
  completes i s fun t => s.chip.onlyCore t k [] ∧ (t.core k).g = (s.chip.core k).g ∧ s.chip.wentOn t k

/-- A word address moved by a signed number of words, modulo 2^32. -/
def movedBy (p : Nat) (n : Int) : Nat := (((p : Int) + 4 * n) % 2 ^ 32).toNat

/-- The instruction ends at core `k` in an exception: the handler is entered, and no other special register but those of R173 changes. -/
def traps (i : Instr) (k epc cause : Nat) (bad : Option Nat) (s : State) : Prop :=
  completes i s fun t => s.chip.entered t k epc cause 0
    ∧ t.sr k 4 = (match bad with | some a => a % 2 ^ 32 | none => s.chip.sr k 4)
    ∧ ∀ n, n ∉ [0, 2, 3, 4] → t.sr k n = s.chip.sr k n

/-- The core can issue outside a region and outside a handler. -/
def Chip.calm (c : Chip) (k : Nat) : Bool := c.canIssue k && (c.core k).spec.isNone && !c.exl k

/-- The memory that core `k` reaches: a Kiosk's in the hub, the Shed core's in the cell. -/
def Chip.ownMem (c : Chip) (k : Nat) : List Host.Cell := if isShed k then c.cellMem else c.hubMem

/-- No word among `n` bytes at `x` has an error of its check bits. -/
def Chip.cleanAt (c : Chip) (k x n : Nat) : Bool := decide (c.eccRange (isShed k) x n = (false, c))

/-- No check-bit injection is armed for memories of either part. -/
def Chip.noInject (c : Chip) : Bool := c.fld FLT_INJ_MODE == 0 && c.fld CFL_INJ_MODE == 0

/-- A load of `n` bytes at `a` outside a region reads memory at `x`. -/
def Chip.loadsFrom (c : Chip) (k a n x : Nat) : Bool :=
  c.canIssue k && (c.core k).spec.isNone && place k a == .mem x && a % n == 0 && c.cleanAt k x n
    && !(isShed k && (List.range n).any fun i => bootRecordAt (x + i))

/-- A store of `n` bytes at `a` outside a region writes memory at `x`. -/
def Chip.storesTo (c : Chip) (k a n x : Nat) : Bool :=
  c.canIssue k && (c.core k).spec.isNone && place k a == .mem x && a % n == 0 && !(isShed k && x < 0x40000)
    && (4 ≤ n || c.cleanAt k x n) && c.noInject

/-- Every byte of memory but the `n` at `x` of core `k`'s memory is unchanged, and these hold `v`, least significant byte first. -/
def Chip.storedNum (c t : Chip) (k x n v : Nat) : Prop :=
  (∀ i, i < n → memByte (t.ownMem k) (x + i) = v / 256 ^ i % 256)
    ∧ (∀ a, ¬ (x ≤ a ∧ a < x + n) → memByte (t.ownMem k) a = memByte (c.ownMem k) a)
    ∧ (if isShed k then t.hubMem = c.hubMem else t.cellMem = c.cellMem)

/-- The instruction completes, stores `v` at `x`, and changes no register but the program counter. -/
def stores (i : Instr) (k x n v : Nat) (s : State) : Prop :=
  completes i s fun t => s.chip.storedNum t k x n v ∧ s.chip.regsBut t [KS_KPC (coreBase k)] ∧ (t.core k).g = (s.chip.core k).g
    ∧ s.chip.wentOn t k

/-- The open region of core `k` has rolled back with a cause (R199): snapshot, cause, counts and recovery address. -/
def Chip.regionUndone (c t : Chip) (k cause code : Nat) : Prop :=
  ∃ sp, (c.core k).spec = some sp ∧ (t.core k).spec = none ∧ (t.core k).wait = none
    ∧ (∀ n, n < 32 → t.g k n = if n = 0 then 0 else if n = sp.rd then BitVec.ofNat 32 cause else Assoc.get (fun _ => 0) sp.g n)
    ∧ t.sr k 8 = sp.fsr % 2 ^ 32 ∧ t.pc k = c.sr k 0x21 % 2 ^ 32
    ∧ t.sr k 0x20 = (cause + code * 2 ^ 8 + sp.porch.length * 2 ^ 16) % 2 ^ 32
    ∧ t.sr k 0x24 = Nat.min (c.sr k 0x24 + 1) 0xFFFFFFFF
    ∧ (bit sp.loops 0 = true → t.sr k 0x12 = 0) ∧ (bit sp.loops 1 = true → t.sr k 0x15 = 0)
    ∧ (∀ n, n ∈ [2, 3, 4, 0] → t.sr k n = c.sr k n) ∧ t.hubMem = c.hubMem ∧ c.regsBut t [KS_KPC (coreBase k)]

/-- The core waits: its program counter stays, and an instruction is in flight. -/
def waits (i : Instr) (k : Nat) (w : Wait) (s : State) : Prop :=
  completes i s fun t => (t.core k).wait = some w ∧ t.regs = s.chip.regs ∧ (t.core k).g = (s.chip.core k).g
    ∧ (t.core k).sr = (s.chip.core k).sr ∧ t.hubMem = s.chip.hubMem ∧ t.cellMem = s.chip.cellMem

/-- An effect has been held in the Porch of core `k`: nothing outside the core has changed (R194). -/
def heldIn (i : Instr) (k : Nat) (e : Eff) (s : State) : Prop :=
  completes i s fun t => t.porch k = s.chip.porch k ++ [e] ∧ t = { s.chip with regs := t.regs, cores := t.cores }
    ∧ s.chip.regsBut t [KS_KPC (coreBase k)] ∧ (t.core k).g = (s.chip.core k).g ∧ ∀ j, j ≠ k → t.core j = s.chip.core j

/-- As `writesG`, of an instruction in flight: its wait ends too. -/
def writesG' (i : Instr) (k rd : Nat) (v : Word) (s : State) : Prop :=
  completes i s fun t => (t.core k).wait = none ∧ s.chip.wroteG t k rd v ∧ s.chip.regsBut t [KS_KPC (coreBase k)]
    ∧ (∀ j, j ≠ k → t.core j = s.chip.core j) ∧ t.hubMem = s.chip.hubMem ∧ t.cellMem = s.chip.cellMem

/-- A core with an instruction in flight, outside a region and a handler, with no stop due. -/
def Chip.calmWait (c : Chip) (k : Nat) : Bool :=
  (c.core k).spec.isNone && !c.exl k && !(c.core k).stepping && !(c.core k).holdReq

/-- A standing-order entry of FLT whose check bits are whole. -/
def entryClean (c : Chip) (b x : Nat) : Bool := Assoc.get (fun _ => 0) c.hubEcc (FLT_ENTRY b x) == 0

/-- Of the `n` lowest bits, no bit but number `b` is set in the command word. -/
abbrev soleBit (w : Word) (n b : Nat) : Prop := ∀ j < n, j ≠ b → bit w.toNat j = false

/-- Nothing but domain `d` of Sundial and the register words of the list has changed. -/
def Chip.onlyDom (c t : Chip) (d : Nat) (l : List Nat) : Prop :=
  t = { c with regs := t.regs, doms := t.doms } ∧ c.regsBut t l ∧ ∀ e, e ≠ d → t.dom e = c.dom e

/-- Nothing but pulse output `n` and the register words of the list has changed. -/
def Chip.onlyPulse (c t : Chip) (n : Nat) (l : List Nat) : Prop :=
  t = { c with regs := t.regs, pulses := t.pulses } ∧ c.regsBut t l ∧ ∀ e, e ≠ n → t.pulse e = c.pulse e

end Sys2Proof.Machine
end

