-- ==== Sys2Proof/Certificates/Slice0/Obligations.lean ====
section
/-!
DEFINITION. The statements for the provers, from the numbered rules of the spec. `completes` and the other terms are those of Safety.
-/
open Sys2Proof Sys2Proof.Machine

-- Ovmin: integer, floating point, pairs

/-- R161: the immediate instructions write `rd` from `ra` and the extended immediate, and nothing else; a word of LUI with a non-zero ra
field is no instruction. -/
def Obligations.IntegerImmediate : Prop :=
  ∀ (c : CoreId) (rd ra : Fin 32) (imm : BitVec 16) (s : State), s.chip.canIssue (coreNum c) = true →
    let a := s.chip.g (coreNum c) ra
    writesG (.addi c rd ra imm) (coreNum c) rd (a + imm.signExtend 32) s
      ∧ writesG (.andi c rd ra imm) (coreNum c) rd (a &&& imm.zeroExtend 32) s
      ∧ writesG (.ori c rd ra imm) (coreNum c) rd (a ||| imm.zeroExtend 32) s
      ∧ writesG (.xori c rd ra imm) (coreNum c) rd (a ^^^ imm.zeroExtend 32) s
      ∧ writesG (.slti c rd ra imm) (coreNum c) rd (if a.toInt < imm.toInt then 1 else 0) s
      ∧ writesG (.sltiu c rd ra imm) (coreNum c) rd (if a.toNat < (imm.signExtend 32).toNat then 1 else 0) s
      ∧ writesG (.lui c rd imm) (coreNum c) rd (BitVec.ofNat 32 (imm.toNat * 65536)) s
      ∧ (ra ≠ 0 → ovDecode c (0x08 * 2 ^ 26 + rd.val * 2 ^ 21 + ra.val * 2 ^ 16 + imm.toNat) = none)

/-- Table 7-5: the register instructions that add, compare, shift, multiply and select. -/
def Obligations.IntegerRegister : Prop :=
  ∀ (c : CoreId) (rd ra rb : Fin 32) (s : State), s.chip.canIssue (coreNum c) = true →
    let k := coreNum c
    let a := s.chip.g k ra
    let b := s.chip.g k rb
    writesG (.add c rd ra rb) k rd (BitVec.ofNat 32 (a.toNat + b.toNat)) s
      ∧ writesG (.sub c rd ra rb) k rd (BitVec.ofInt 32 (a.toInt - b.toInt)) s
      ∧ writesG (.and c rd ra rb) k rd (a &&& b) s
      ∧ writesG (.or c rd ra rb) k rd (a ||| b) s
      ∧ writesG (.xor c rd ra rb) k rd (a ^^^ b) s
      ∧ writesG (.nor c rd ra rb) k rd (~~~(a ||| b)) s
      ∧ writesG (.slt c rd ra rb) k rd (if a.toInt < b.toInt then 1 else 0) s
      ∧ writesG (.sltu c rd ra rb) k rd (if a.toNat < b.toNat then 1 else 0) s
      ∧ writesG (.sll c rd ra rb) k rd (BitVec.ofNat 32 (a.toNat * 2 ^ (b.toNat % 32))) s
      ∧ writesG (.srl c rd ra rb) k rd (BitVec.ofNat 32 (a.toNat / 2 ^ (b.toNat % 32))) s
      ∧ writesG (.sra c rd ra rb) k rd (BitVec.ofInt 32 (a.toInt / 2 ^ (b.toNat % 32))) s
      ∧ writesG (.slli c rd ra rb) k rd (BitVec.ofNat 32 (a.toNat * 2 ^ rb.val)) s
      ∧ writesG (.srli c rd ra rb) k rd (BitVec.ofNat 32 (a.toNat / 2 ^ rb.val)) s
      ∧ writesG (.srai c rd ra rb) k rd (BitVec.ofInt 32 (a.toInt / 2 ^ rb.val)) s
      ∧ writesG (.mul c rd ra rb) k rd (BitVec.ofNat 32 (a.toNat * b.toNat)) s
      ∧ writesG (.mulh c rd ra rb) k rd (BitVec.ofInt 32 (a.toInt * b.toInt / 2 ^ 32)) s
      ∧ writesG (.mulhu c rd ra rb) k rd (BitVec.ofNat 32 (a.toNat * b.toNat / 2 ^ 32)) s
      ∧ writesG (.min c rd ra rb) k rd (if a.toInt ≤ b.toInt then a else b) s
      ∧ writesG (.max c rd ra rb) k rd (if a.toInt ≤ b.toInt then b else a) s
      ∧ writesG (.minu c rd ra rb) k rd (if a.toNat ≤ b.toNat then a else b) s
      ∧ writesG (.maxu c rd ra rb) k rd (if a.toNat ≤ b.toNat then b else a) s

/-- R162 and Table 7-5: division saturates instead of trapping, ADDS and SUBS saturate, CLZ counts, ABS saturates. -/
def Obligations.IntegerSaturation : Prop :=
  ∀ (c : CoreId) (rd ra rb : Fin 32) (s : State), s.chip.canIssue (coreNum c) = true →
    let k := coreNum c
    let a := s.chip.g k ra
    let b := s.chip.g k rb
    (b = 0 → 0 ≤ a.toInt → writesG (.div c rd ra rb) k rd 0x7FFFFFFF s)
      ∧ (b = 0 → a.toInt < 0 → writesG (.div c rd ra rb) k rd 0x80000000 s)
      ∧ (b ≠ 0 → ¬ (a = 0x80000000 ∧ b = 0xFFFFFFFF) → writesG (.div c rd ra rb) k rd (BitVec.ofInt 32 (a.toInt.tdiv b.toInt)) s)
      ∧ (a = 0x80000000 → b = 0xFFFFFFFF → writesG (.div c rd ra rb) k rd 0x7FFFFFFF s)
      ∧ (b = 0 → writesG (.divu c rd ra rb) k rd 0xFFFFFFFF s)
      ∧ (b ≠ 0 → writesG (.divu c rd ra rb) k rd (BitVec.ofNat 32 (a.toNat / b.toNat)) s)
      ∧ (b = 0 → writesG (.remS c rd ra rb) k rd 0 s)
      ∧ (b ≠ 0 → writesG (.remS c rd ra rb) k rd (BitVec.ofInt 32 (a.toInt.tmod b.toInt)) s)
      ∧ (b = 0 → writesG (.remu c rd ra rb) k rd 0 s)
      ∧ (b ≠ 0 → writesG (.remu c rd ra rb) k rd (BitVec.ofNat 32 (a.toNat % b.toNat)) s)
      ∧ writesG (.adds c rd ra rb) k rd (BitVec.ofInt 32 (max (-2147483648) (min 2147483647 (a.toInt + b.toInt)))) s
      ∧ writesG (.subs c rd ra rb) k rd (BitVec.ofInt 32 (max (-2147483648) (min 2147483647 (a.toInt - b.toInt)))) s
      ∧ writesG (.clz c rd ra) k rd (if a = 0 then 32 else BitVec.ofNat 32 (31 - Nat.log2 a.toNat)) s
      ∧ writesG (.abs c rd ra) k rd (if a = 0x80000000 then 0x7FFFFFFF else BitVec.ofNat 32 a.toInt.natAbs) s

/-- Table 7-7: the pair instructions of a Kiosk; a field P names an even register. -/
def Obligations.PairMode : Prop :=
  ∀ (k : Fin 16) (rd ra rb : Fin 32) (s : State), s.chip.canIssue k = true →
    let c := CoreId.kiosk k
    let p := s.chip.pair k ra
    let q := s.chip.pair k rb
    let a := s.chip.g k ra
    let b := s.chip.g k rb
    (rd.val % 2 = 0 → ra.val % 2 = 0 → rb.val % 2 = 0 →
        writesP (.padd c rd ra rb) k rd (p + q) s ∧ writesP (.psub c rd ra rb) k rd (p - q) s
        ∧ writesP (.pmul c rd ra rb) k rd (BitVec.ofNat 64 (p.toNat * q.toNat)) s)
      ∧ (rd.val % 2 = 0 → writesP (.pmulw c rd ra rb) k rd (BitVec.ofInt 64 (a.toInt * b.toInt)) s
        ∧ writesP (.pmulwu c rd ra rb) k rd (BitVec.ofNat 64 (a.toNat * b.toNat)) s)
      ∧ (rd.val % 2 = 0 → ra.val % 2 = 0 →
        writesP (.psll c rd ra rb) k rd (BitVec.ofNat 64 (p.toNat * 2 ^ (b.toNat % 64))) s
        ∧ writesP (.psrl c rd ra rb) k rd (BitVec.ofNat 64 (p.toNat / 2 ^ (b.toNat % 64))) s
        ∧ writesP (.psra c rd ra rb) k rd (BitVec.ofInt 64 (p.toInt / 2 ^ (b.toNat % 64))) s)
      ∧ (ra.val % 2 = 0 → rb.val % 2 = 0 → writesG (.pslt c rd ra rb) k rd (if p.toInt < q.toInt then 1 else 0) s
        ∧ writesG (.psltu c rd ra rb) k rd (if p.toNat < q.toNat then 1 else 0) s)

/-- Table 7-6: every floating-point instruction of a Kiosk completes with one result register and sticky flags. -/
def Obligations.FloatCompletes : Prop :=
  ∀ (k : Fin 16) (rd ra rb : Fin 32) (s : State), s.chip.canIssue k = true →
    let c := CoreId.kiosk k
    let a := s.chip.g k ra
    let b := s.chip.g k rb
    let d := s.chip.g k rd
    let rm := bits (s.chip.sr k 8) 7 5
    let fz := (s.chip.sr k 8).testBit 8
    writesF (.fadd c rd ra rb) k rd (fAdd rm fz a b) s ∧ writesF (.fsub c rd ra rb) k rd (fSub rm fz a b) s
      ∧ writesF (.fmul c rd ra rb) k rd (fMul rm fz a b) s ∧ writesF (.fdiv c rd ra rb) k rd (fDiv rm fz a b) s
      ∧ writesF (.fsqrt c rd ra) k rd (fSqrt rm fz a) s
      ∧ writesF (.fmin c rd ra rb) k rd (fMinMax fz false a b) s ∧ writesF (.fmax c rd ra rb) k rd (fMinMax fz true a b) s
      ∧ writesF (.fmac c rd ra rb) k rd (fFma rm fz false d a b) s ∧ writesF (.fmsb c rd ra rb) k rd (fFma rm fz true d a b) s
      ∧ writesF (.fcmpq c rd ra rb) k rd (fCompare fz false a b) s ∧ writesF (.fcmps c rd ra rb) k rd (fCompare fz true a b) s
      ∧ writesF (.ftoi c rd ra) k rd (fToInt rm fz (-2147483648) 2147483647 a) s
      ∧ writesF (.ftou c rd ra) k rd (fToInt rm fz 0 4294967295 a) s
      ∧ writesF (.itof c rd ra) k rd (fRoundInt rm fz a.toInt 0 false) s
      ∧ writesF (.utof c rd ra) k rd (fRoundInt rm fz a.toNat 0 false) s
      ∧ writesF (.fneg c rd ra) k rd ⟨a ^^^ 0x80000000, 0⟩ s
      ∧ writesF (.fabs c rd ra) k rd ⟨a &&& 0x7FFFFFFF, 0⟩ s
      ∧ writesF (.fclass c rd ra) k rd ⟨fClass fz a, 0⟩ s

/-- R163: a NaN result is the first NaN operand in the order ra, rb, rd with its quiet bit set, and the default NaN when no operand is a
NaN. Table 7-6: FCMPQ and FCMPS write exactly one of the four relation bits, bit 3 exactly when an operand is a NaN; they differ only in
the flag of a quiet NaN. -/
def Obligations.FloatNaNAndRelation : Prop :=
  (∀ (rm : Nat) (fz : Bool) (a b d : Word),
    (fIsNaN a = true → (fAdd rm fz a b).v = a ||| 0x400000 ∧ (fSub rm fz a b).v = a ||| 0x400000 ∧ (fMul rm fz a b).v = a ||| 0x400000
        ∧ (fDiv rm fz a b).v = a ||| 0x400000 ∧ (fSqrt rm fz a).v = a ||| 0x400000 ∧ (fMinMax fz false a b).v = a ||| 0x400000
        ∧ (fMinMax fz true a b).v = a ||| 0x400000 ∧ (fFma rm fz false d a b).v = a ||| 0x400000
        ∧ (fFma rm fz true d a b).v = a ||| 0x400000)
      ∧ (fIsNaN a = false → fIsNaN b = true → (fAdd rm fz a b).v = b ||| 0x400000 ∧ (fSub rm fz a b).v = b ||| 0x400000
        ∧ (fMul rm fz a b).v = b ||| 0x400000 ∧ (fDiv rm fz a b).v = b ||| 0x400000 ∧ (fMinMax fz false a b).v = b ||| 0x400000
        ∧ (fMinMax fz true a b).v = b ||| 0x400000 ∧ (fFma rm fz false d a b).v = b ||| 0x400000
        ∧ (fFma rm fz true d a b).v = b ||| 0x400000)
      ∧ (fIsNaN a = false → fIsNaN b = false → fIsNaN d = true → (fFma rm fz false d a b).v = d ||| 0x400000
        ∧ (fFma rm fz true d a b).v = d ||| 0x400000)
      ∧ (fMul rm fz 0x7F800000 0).v = 0x7FE00000 ∧ (fAdd rm fz 0x7F800000 0xFF800000).v = 0x7FE00000
      ∧ (fDiv rm fz 0 0).v = 0x7FE00000 ∧ (fSqrt rm fz 0xBF800000).v = 0x7FE00000)
    ∧ (∀ (fz q : Bool) (a b : Word),
    (fCompare fz q a b).v ∈ ([1, 2, 4, 8] : List Word)
      ∧ ((fCompare fz q a b).v = 8 ↔ (fIsNaN a = true ∨ fIsNaN b = true))
      ∧ (fCompare fz true a b).v = (fCompare fz false a b).v
      ∧ ((fCompare fz true a b).flags = 1 ↔ (fIsNaN a = true ∨ fIsNaN b = true))
      ∧ ((fCompare fz false a b).flags = 1 ↔ (fIsSNaN a = true ∨ fIsSNaN b = true)))

-- Ovmin: control

/-- R169: an instruction that completes without a branch goes on to the next address, and the loops' counts move as the rule says; NOP and
FENCE do nothing else. -/
def Obligations.NextAddress : Prop :=
  ∀ (c : CoreId) (s : State), s.chip.canIssue (coreNum c) = true → falls (.nop c) (coreNum c) s ∧ falls (.fence c) (coreNum c) s

/-- R167: the branches compare, and continue at PC + 4 sext(off16) or at the next address; a taken branch leaves the loops alone, and one
whose target lies outside instruction memory raises ACCESS_FETCH with EPC and BADADDR at the target. R167: JAL and JALR write PC + 4 to
rd and continue at their target, JALR's with its two low bits cleared and from ra as it was; a target outside instruction memory raises
ACCESS_FETCH with EPC and BADADDR at the target. -/
def Obligations.BranchesAndJumps : Prop :=
  (∀ (c : CoreId) (ra rb : Fin 32) (off : BitVec 16) (s : State), s.chip.canIssue (coreNum c) = true →
    let k := coreNum c
    let a := s.chip.g k ra
    let b := s.chip.g k rb
    let t := movedBy (s.chip.pc k) off.toInt
    let out := fetchOk k t = false ∧ s.chip.calm k = true
    (fetchOk k t = true → a = b → jumps (.beq c ra rb off) k t s)
      ∧ (out → a = b → traps (.beq c ra rb off) k t 6 (some t) s) ∧ (a ≠ b → falls (.beq c ra rb off) k s)
      ∧ (fetchOk k t = true → a ≠ b → jumps (.bne c ra rb off) k t s)
      ∧ (out → a ≠ b → traps (.bne c ra rb off) k t 6 (some t) s) ∧ (a = b → falls (.bne c ra rb off) k s)
      ∧ (fetchOk k t = true → a.toInt < b.toInt → jumps (.blt c ra rb off) k t s)
      ∧ (out → a.toInt < b.toInt → traps (.blt c ra rb off) k t 6 (some t) s) ∧ (b.toInt ≤ a.toInt → falls (.blt c ra rb off) k s)
      ∧ (fetchOk k t = true → b.toInt ≤ a.toInt → jumps (.bge c ra rb off) k t s)
      ∧ (out → b.toInt ≤ a.toInt → traps (.bge c ra rb off) k t 6 (some t) s) ∧ (a.toInt < b.toInt → falls (.bge c ra rb off) k s)
      ∧ (fetchOk k t = true → a.toNat < b.toNat → jumps (.bltu c ra rb off) k t s)
      ∧ (out → a.toNat < b.toNat → traps (.bltu c ra rb off) k t 6 (some t) s) ∧ (b.toNat ≤ a.toNat → falls (.bltu c ra rb off) k s)
      ∧ (fetchOk k t = true → b.toNat ≤ a.toNat → jumps (.bgeu c ra rb off) k t s)
      ∧ (out → b.toNat ≤ a.toNat → traps (.bgeu c ra rb off) k t 6 (some t) s) ∧ (a.toNat < b.toNat → falls (.bgeu c ra rb off) k s))
    ∧ (∀ (c : CoreId) (rd ra : Fin 32) (off : BitVec 21) (imm : BitVec 16) (s : State), s.chip.canIssue (coreNum c) = true →
    let k := coreNum c
    let r := BitVec.ofNat 32 (s.chip.pc k + 4)
    let t := movedBy (s.chip.pc k) off.toInt
    let u := (s.chip.g k ra + imm.signExtend 32).toNat / 4 * 4
    (fetchOk k t = true → completes (.jal c rd off) s fun v =>
        s.chip.onlyCore v k [] ∧ s.chip.wroteG v k rd r ∧ v.pc k = t ∧ v.sr k 0x12 = s.chip.sr k 0x12 ∧ v.sr k 0x15 = s.chip.sr k 0x15)
      ∧ (fetchOk k u = true → completes (.jalr c rd ra imm) s fun v =>
        s.chip.onlyCore v k [] ∧ s.chip.wroteG v k rd r ∧ v.pc k = u ∧ v.sr k 0x12 = s.chip.sr k 0x12 ∧ v.sr k 0x15 = s.chip.sr k 0x15)
      ∧ (fetchOk k t = false → s.chip.calm k = true → completes (.jal c rd off) s fun v =>
        v.sr k 2 = t ∧ v.sr k 4 = t ∧ v.sr k 3 = 6 ∧ v.pc k = s.chip.sr k 1 % 2 ^ 32 ∧ s.chip.wroteG v k rd r)
      ∧ (fetchOk k u = false → s.chip.calm k = true → completes (.jalr c rd ra imm) s fun v =>
        v.sr k 2 = u ∧ v.sr k 4 = u ∧ v.sr k 3 = 6 ∧ v.pc k = s.chip.sr k 1 % 2 ^ 32 ∧ s.chip.wroteG v k rd r))

/-- R168: LOOP and LOOPI set the start, the end and the count of the level named, and continue at the next address, or past the end when the
count is 0; an off16 of 0 raises ILLEGAL. -/
def Obligations.Loops : Prop :=
  ∀ (c : CoreId) (lvl : Bool) (ra : Fin 32) (cnt : BitVec 9) (off : BitVec 16) (s : State), s.chip.canIssue (coreNum c) = true →
    let k := coreNum c
    let p := s.chip.pc k
    let b := if lvl then 0x13 else 0x10
    let e := (p + 4 * off.toNat) % 2 ^ 32
    let sets (i : Instr) (n : Nat) : Prop := completes i s fun t =>
      t.sr k b = (p + 4) % 2 ^ 32 ∧ t.sr k (b + 1) = e ∧ t.sr k (b + 2) = n
        ∧ t.pc k = (if n = 0 then (e + 4) % 2 ^ 32 else (p + 4) % 2 ^ 32)
        ∧ (∀ m, m ∉ [b, b + 1, b + 2] → t.sr k m = s.chip.sr k m) ∧ (t.core k).g = (s.chip.core k).g
        ∧ s.chip.regsBut t [KS_KPC (coreBase k)]
    (off ≠ 0 → sets (.loop c lvl ra off) (s.chip.g k ra).toNat ∧ sets (.loopi c lvl cnt off) cnt.toNat)
      ∧ (off = 0 → s.chip.calm k = true → traps (.loop c lvl ra off) k p 1 none s ∧ traps (.loopi c lvl cnt off) k p 1 none s)

/-- R173: ECALL, EBREAK with DBGEN = 0 and an illegal instruction word enter the handler at VBASE with EPC at their own address, CAUSE with
the code of Table 7-11 and ECALL's argument, IE moved to PIE, and EXL set. -/
def Obligations.ExceptionEntry : Prop :=
  ∀ (c : CoreId) (arg : BitVec 10) (w : Word) (s : State), s.chip.calm (coreNum c) = true →
    let k := coreNum c
    traps (.ecall c arg) k (s.chip.pc k) (9 + arg.toNat * 2 ^ 16) none s
      ∧ traps (.illegalInstruction c w) k (s.chip.pc k) 1 none s
      ∧ (s.chip.flag (KS_KCTL_DBGEN (coreBase k)) = false → traps (.ebreak c) k (s.chip.pc k) 0x0A none s)

/-- R174: an exception raised while EXL = 1 is a double fault: the core halts with HALT_WHY = 4 and its code in DCAUSE, DOUBLE is set, and
EPC, CAUSE and BADADDR keep the values of the first exception. -/
def Obligations.DoubleFault : Prop :=
  ∀ (k : Fin 16) (arg : BitVec 10) (s : State), s.chip.canIssue k = true → (s.chip.core k).spec = none → s.chip.exl k = true →
    let b := coreBase k
    completes (.ecall (.kiosk k) arg) s fun t =>
      t.fld (KS_KSTAT_HALT_WHY b) = 4 ∧ t.fld (KS_KSTAT_DCAUSE b) = 9 ∧ t.flag (KS_KSTAT_DOUBLE b) = true
        ∧ t.flag (KS_KSTAT_HALTED b) = true ∧ t.flag (KS_KSTAT_RUNNING b) = false
        ∧ t.sr k 2 = s.chip.sr k 2 ∧ t.sr k 3 = s.chip.sr k 3 ∧ t.sr k 4 = s.chip.sr k 4

/-- Table 7-8: RETE returns, DI and EI write IE, WFI completes when an enabled line is pending and else parks; EBREAK with DBGEN = 1 halts a
Kiosk at the instruction. -/
def Obligations.SystemInstructions : Prop :=
  ∀ (c : CoreId) (rd : Fin 32) (s : State), s.chip.canIssue (coreNum c) = true → (s.chip.core (coreNum c)).spec = none →
    let k := coreNum c
    (s.chip.exl k = true → completes (.rete c) s fun t =>
        t.pc k = s.chip.sr k 2 % 2 ^ 32 ∧ t.ie k = s.chip.pie k ∧ t.exl k = false ∧ (∀ n, n ≠ 0 → t.sr k n = s.chip.sr k n)
          ∧ (t.core k).g = (s.chip.core k).g ∧ s.chip.regsBut t [KS_KPC (coreBase k)])
      ∧ (s.chip.exl k = false → traps (.rete c) k (s.chip.pc k) 1 none s)
      ∧ (completes (.di c rd) s fun t => s.chip.onlyCore t k [0] ∧ t.ie k = false ∧ t.pie k = s.chip.pie k ∧ t.exl k = s.chip.exl k
          ∧ s.chip.wroteG t k rd (if s.chip.ie k then 1 else 0) ∧ s.chip.wentOn t k)
      ∧ (completes (.ei c) s fun t => s.chip.onlyCore t k [0] ∧ t.ie k = true ∧ t.pie k = s.chip.pie k ∧ t.exl k = s.chip.exl k
          ∧ (t.core k).g = (s.chip.core k).g ∧ s.chip.wentOn t k)
      ∧ (s.chip.lineDue k = true → falls (.wfi c) k s)
      ∧ (s.chip.lineDue k = false → completes (.wfi c) s fun t =>
          s.chip.onlyRegs t [KS_KSTAT (coreBase k)] ∧ t.parked k = true ∧ t.pc k = s.chip.pc k)
      ∧ (k < 16 → s.chip.flag (KS_KCTL_DBGEN (coreBase k)) = true → completes (.ebreak c) s fun t =>
          t.flag (KS_KSTAT_HALTED (coreBase k)) = true ∧ t.running k = false ∧ t.fld (KS_KSTAT_HALT_WHY (coreBase k)) = 3
            ∧ t.pc k = s.chip.pc k ∧ s.chip.regsBut t [KS_KSTAT (coreBase k)] ∧ (t.core k).g = (s.chip.core k).g)

/-- R176, R178: an interrupt is taken at a boundary when a line is pending and enabled, IE = 1, EXL = 0 and no region is open: EPC at the
program counter, CAUSE with bit 31 and the lowest line, the handler at VBASE + 0x100. A parked core wakes for an enabled line. -/
def Obligations.Interrupts : Prop :=
  ∀ (c : CoreId) (line : Nat) (s : State),
    let k := coreNum c
    s.chip.dueLine k = some line →
      (s.chip.running k = true → s.chip.parked k = false → (s.chip.core k).stepping = false → (s.chip.core k).stalled = false →
        s.chip.ie k = true → s.chip.exl k = false → (s.chip.core k).spec = none →
        completes (.interruptEntry c) s fun t => s.chip.entered t k (s.chip.pc k) (2 ^ 31 + line * 2 ^ 16) 0x100)
      ∧ bit (s.chip.ipend k) line = true ∧ bit (s.chip.sr k 5) line = true
      ∧ (∀ j, j < line → (bit (s.chip.ipend k) j && bit (s.chip.sr k 5) j) = false)
      ∧ ((s.chip.ie k = false ∨ s.chip.exl k = true ∨ (s.chip.core k).spec ≠ none) → completes (.interruptEntry c) s fun t => t = s.chip)
      ∧ (s.chip.parked k = true → (s.chip.core k).stepping = false → (s.chip.core k).holdReq = false →
        completes (.wfiWake c) s fun t => t.parked k = false ∧ (t.core k).g = (s.chip.core k).g ∧ s.chip.wentOn t k)

-- Ovmin: memory and special registers

/-- R164: a load outside a region writes the bytes at ra + sext(imm16), extended as the instruction says, and changes nothing else. R164,
R165: a misaligned access of memory raises ALIGN_LOAD or ALIGN_STORE with BADADDR at the address and makes no access; an address of
nothing raises ACCESS_LOAD or ACCESS_STORE. -/
def Obligations.LoadsAndAccess : Prop :=
  (∀ (c : CoreId) (rd ra : Fin 32) (imm : BitVec 16) (x : Nat) (s : State),
    let k := coreNum c
    let a := (s.chip.g k ra + imm.signExtend 32).toNat
    let m := s.chip.ownMem k
    (s.chip.loadsFrom k a 1 x = true →
        writesG (.lb c rd ra imm) k rd ((BitVec.ofNat 8 (memByte m x)).signExtend 32) s
        ∧ writesG (.lbu c rd ra imm) k rd (BitVec.ofNat 32 (memByte m x)) s)
      ∧ (s.chip.loadsFrom k a 2 x = true →
        writesG (.lh c rd ra imm) k rd ((BitVec.ofNat 16 (memNat m x 2)).signExtend 32) s
        ∧ writesG (.lhu c rd ra imm) k rd (BitVec.ofNat 32 (memNat m x 2)) s)
      ∧ (s.chip.loadsFrom k a 4 x = true → writesG (.lw c rd ra imm) k rd (BitVec.ofNat 32 (memNat m x 4)) s)
      ∧ (s.chip.loadsFrom k a 8 x = true → k < 16 → rd.val % 2 = 0 →
        writesP (.ld c rd ra imm) k rd (BitVec.ofNat 64 (memNat m x 8)) s))
    ∧ (∀ (c : CoreId) (rd ra : Fin 32) (imm : BitVec 16) (x : Nat) (s : State), s.chip.calm (coreNum c) = true →
    let k := coreNum c
    let a := (s.chip.g k ra + imm.signExtend 32).toNat
    let p := s.chip.pc k
    (place k a = .mem x → a % 2 ≠ 0 → traps (.lh c rd ra imm) k p 2 (some a) s ∧ traps (.lhu c rd ra imm) k p 2 (some a) s)
      ∧ (place k a = .mem x → a % 4 ≠ 0 → traps (.lw c rd ra imm) k p 2 (some a) s)
      ∧ (place k a = .mem x → ¬ (isShed k = true ∧ x < 0x40000) → a % 2 ≠ 0 → traps (.sh c rd ra imm) k p 3 (some a) s)
      ∧ (place k a = .mem x → ¬ (isShed k = true ∧ x < 0x40000) → a % 4 ≠ 0 → traps (.sw c rd ra imm) k p 3 (some a) s)
      ∧ (place k a = .none → traps (.lb c rd ra imm) k p 4 (some a) s ∧ traps (.lw c rd ra imm) k p 4 (some a) s
        ∧ traps (.sb c rd ra imm) k p 5 (some a) s ∧ traps (.sw c rd ra imm) k p 5 (some a) s))

/-- R164: a store outside a region writes exactly its bytes, least significant first, at ra + sext(imm16). -/
def Obligations.Stores : Prop :=
  ∀ (c : CoreId) (rs ra : Fin 32) (imm : BitVec 16) (x : Nat) (s : State),
    let k := coreNum c
    let a := (s.chip.g k ra + imm.signExtend 32).toNat
    let v := (s.chip.g k rs).toNat
    (s.chip.storesTo k a 1 x = true → stores (.sb c rs ra imm) k x 1 v s)
      ∧ (s.chip.storesTo k a 2 x = true → stores (.sh c rs ra imm) k x 2 v s)
      ∧ (s.chip.storesTo k a 4 x = true → stores (.sw c rs ra imm) k x 4 v s)
      ∧ (s.chip.storesTo k a 8 x = true → k < 16 → rs.val % 2 = 0 → stores (.sd c rs ra imm) k x 8 (s.chip.pair k rs).toNat s)

/-- R165, outside a region and a handler: SWAPW and ADDW set rd to the word at ra, and store rb, or the word plus rb, there, in one step; a
misaligned address raises ALIGN_STORE, an aligned one elsewhere ACCESS_STORE with no effect. -/
def Obligations.Atomics : Prop :=
  ∀ (c : CoreId) (rd ra rb : Fin 32) (x : Nat) (s : State), s.chip.calm (coreNum c) = true →
    let k := coreNum c
    let a := (s.chip.g k ra).toNat
    let old := memNat (s.chip.ownMem k) x 4
    let b := (s.chip.g k rb).toNat
    let p := s.chip.pc k
    (a % 4 = 0 → atomicAt k a = some x → s.chip.cleanAt k x 4 = true → s.chip.noInject = true →
      (completes (.swapw c rd ra rb) s fun t => s.chip.wroteG t k rd (BitVec.ofNat 32 old) ∧ s.chip.storedNum t k x 4 b
        ∧ s.chip.regsBut t [KS_KPC (coreBase k)] ∧ s.chip.wentOn t k)
      ∧ (completes (.addw c rd ra rb) s fun t => s.chip.wroteG t k rd (BitVec.ofNat 32 old) ∧ s.chip.storedNum t k x 4 (old + b)
        ∧ s.chip.regsBut t [KS_KPC (coreBase k)] ∧ s.chip.wentOn t k))
      ∧ (a % 4 ≠ 0 → traps (.swapw c rd ra rb) k p 3 (some a) s ∧ traps (.addw c rd ra rb) k p 3 (some a) s)
      ∧ (a % 4 = 0 → atomicAt k a = none → traps (.swapw c rd ra rb) k p 5 (some a) s ∧ traps (.addw c rd ra rb) k p 5 (some a) s)

/-- R170 and Table 7-9: MTS writes the special registers of both cores, reserved bits left out, and raises ILLEGAL for a read-only or absent
one; XIRQ raises line 16 + own number at the target, and a write of TCMPL is held there. R170 and Table 7-9: MFS reads the special
registers, the pending lines with the level lines among them, and the open region in bit 3 of STATUS; a read of CYCLE latches CYCLEH; a
write-only or absent register raises ILLEGAL. -/
def Obligations.SpecialRegisters : Prop :=
  (∀ (c : CoreId) (ra : Fin 32) (sr : BitVec 12) (s : State), s.chip.calm (coreNum c) = true →
    let k := coreNum c
    let n := sr.toNat
    let v := (s.chip.g k ra).toNat
    let sets (w : Nat) : Prop := completes (.mts c ra sr) s fun t =>
      t.sr k n = w ∧ s.chip.onlyCore t k [n] ∧ (t.core k).g = (s.chip.core k).g
    (n = 0 → sets (v % 8)) ∧ (n = 1 → sets (v / 512 * 512)) ∧ (n ∈ [2, 5, 7, 0x10, 0x11, 0x13, 0x14, 0x104] → sets v)
      ∧ (n = 6 → sets (s.chip.sr k 6 &&& (0xFFFFFFFF ^^^ v)))
      ∧ (n = 0x23 → k < 16 → sets (if v ≤ 0x20000 then v / 1024 * 1024 else 0x20000))
      ∧ (n ∈ [0x28, 0x29, 0x2A, 0x2B] → k < 16 →
        sets (if 4 ≤ v % 4096 ∧ v % 4096 ≤ 2048 ∧ v % 4 = 0 then v % 4096 else 64))
      ∧ (n = 8 → k < 16 → completes (.mts c ra sr) s fun t => s.chip.onlyCore t k [8] ∧ t.sr k 8 % 32 = v % 32
        ∧ bits (t.sr k 8) 7 5 = (if bits v 7 5 < 5 then bits v 7 5 else 0) ∧ bit (t.sr k 8) 8 = bit v 8)
      ∧ (n = 0x102 → k < 16 → v % 16 ≠ k → completes (.mts c ra sr) s fun t => bit (t.sr (v % 16) 6) (16 + k) = true
        ∧ (t.core k).g = (s.chip.core k).g)
      ∧ (n ∈ [0x12, 0x15] → s.chip.sr k 0x11 ≠ s.chip.pc k → s.chip.sr k 0x14 ≠ s.chip.pc k → sets v)
      ∧ (n ∈ [0x2C, 0x2D, 0x2E, 0x2F] → k < 16 → sets (v &&& 0x80FF0003))
      ∧ (n = 0x105 → completes (.mts c ra sr) s fun t => t.sr k 0x105 = v ∧ (t.core k).g = (s.chip.core k).g
        ∧ (s.chip.ftOf k % 2 ^ 64 < s.chip.sr k 0x104 + v * 2 ^ 32 → (t.core k).tArmed = true))
      ∧ (n = 0x103 → k < 16 → bit (s.chip.reg (PCI_MSIX (v % 2048) + 12)) 0 = false → s.chip.flag PCI_PSTAT_LINK = true →
        completes (.mts c ra sr) s fun t => t.sent = .msix (v % 2048) :: s.chip.sent ∧ (t.core k).g = (s.chip.core k).g)
      ∧ (n ∈ [3, 4, 0x18, 0x19, 0x1A, 0x20, 0x21, 0x22, 0x24, 0x25, 0x26, 0x27, 0x100, 0x101] →
        traps (.mts c ra sr) k (s.chip.pc k) 1 none s)
      ∧ (n ∉ [0, 1, 2, 5, 6, 7, 8, 0x10, 0x11, 0x12, 0x13, 0x14, 0x15, 0x23, 0x28, 0x29, 0x2A, 0x2B, 0x2C, 0x2D, 0x2E, 0x2F, 0x102, 0x103,
          0x104, 0x105] → traps (.mts c ra sr) k (s.chip.pc k) 1 none s))
    ∧ (∀ (c : CoreId) (rd : Fin 32) (sr : BitVec 12) (s : State), s.chip.canIssue (coreNum c) = true →
    let k := coreNum c
    let n := sr.toNat
    let reads (v : Nat) : Prop := writesG (.mfs c rd sr) k rd (BitVec.ofNat 32 v) s
    (n ∈ [1, 2, 3, 4, 5, 7, 0x10, 0x11, 0x12, 0x13, 0x14, 0x15, 0x104, 0x105] → reads (s.chip.sr k n))
      ∧ (n = 0 → reads (s.chip.sr k 0 + if (s.chip.core k).spec.isSome then 8 else 0))
      ∧ (n = 6 → reads (s.chip.sr k 6 ||| s.chip.levelLines k))
      ∧ (n ∈ [8, 0x20, 0x21, 0x23, 0x24, 0x25, 0x27, 0x28, 0x29, 0x2A, 0x2B, 0x2C, 0x2D, 0x2E, 0x2F] → k < 16 → reads (s.chip.sr k n))
      ∧ (n = 0x18 → completes (.mfs c rd sr) s fun t => s.chip.wroteG t k rd (BitVec.ofNat 32 (s.chip.cycles k))
        ∧ (t.core k).cycLatch = s.chip.cycles k / 2 ^ 32)
      ∧ (n = 0x1A → reads (if k = 16 then 256 else k + s.chip.fld GTH_GSTAT_NODE_ID * 2 ^ 16 + s.chip.fld GTH_GSTAT_ID_VALID * 2 ^ 26))
      ∧ (n = 0x22 → k < 16 → (s.chip.core k).spec = none → reads 0)
      ∧ (n = 0x26 → k < 16 → reads ((s.chip.rxq k 0).length + (s.chip.rxq k 1).length * 2 ^ 8 + (s.chip.rxq k 2).length * 2 ^ 16
        + (s.chip.rxq k 3).length * 2 ^ 24))
      ∧ (n = 0x19 → reads (s.chip.core k).cycLatch)
      ∧ (n = 0x100 → k < 16 → completes (.mfs c rd sr) s fun t => s.chip.wroteG t k rd (BitVec.ofNat 32 s.chip.ftNs)
        ∧ (t.core k).ftLatch = s.chip.ftNs / 2 ^ 32 % 2 ^ 32)
      ∧ (n = 0x101 → reads (s.chip.core k).ftLatch)
      ∧ (n ∈ [0x102, 0x103] → s.chip.calm k = true → traps (.mfs c rd sr) k (s.chip.pc k) 1 none s)
      ∧ (n ∈ [8, 0x20, 0x23, 0x28, 0x2C] → k = 16 → s.chip.calm k = true → traps (.mfs c rd sr) k (s.chip.pc k) 1 none s))

-- Ovmin: waits, speculation, fabric and firing

/-- R183 to R186: TMW and ANGW complete at once with the excess when their target is reached, saturated at 0x7FFF_FFFF, and else hold the
core; a held core goes on when the target has been reached. -/
def Obligations.Waits : Prop :=
  ∀ (c : CoreId) (rd ra rb : Fin 32) (base : Fin 4) (s : State),
    let k := coreNum c
    let a := (s.chip.g k ra).toNat
    let u := a + (s.chip.g k rb).toNat * 2 ^ 32
    let ft := s.chip.ftOf k
    let th := s.chip.baseOf k base
    (s.chip.canIssue k = true → u ≤ ft → writesG (.tmw c rd ra rb) k rd (BitVec.ofNat 32 (Nat.min (ft - u) 0x7FFFFFFF)) s)
      ∧ (s.chip.canIssue k = true → ft < u → waits (.tmw c rd ra rb) k (.tmw rd u) s)
      ∧ (s.chip.canIssue k = true → (k < 16 ∨ base = 0) → u ≤ th →
        writesG (.angw c rd ra rb false base) k rd (BitVec.ofNat 32 (Nat.min (th - u) 0x7FFFFFFF)) s)
      ∧ (s.chip.canIssue k = true → (k < 16 ∨ base = 0) → th < u → waits (.angw c rd ra rb false base) k (.angw rd base u false) s)
      ∧ (s.chip.canIssue k = true → rb = 0 → a % 4096 = s.chip.slotAt k (s.chip.fld SDL_SCTL_ARM_BASE) % 4096 →
        writesG (.angw c rd ra rb true 0) k rd (BitVec.ofNat 32 (a % 4096)) s)
      ∧ (s.chip.calm 16 = true → base ≠ 0 → traps (.angw .shed rd ra rb false base) 16 (s.chip.pc 16) 1 none s)
      ∧ (∀ t : Nat, (s.chip.core k).wait = some (.tmw rd t) → (s.chip.core k).stepping = false → (s.chip.core k).holdReq = false →
        (t ≤ ft → writesG' (.tmwWake c) k rd (BitVec.ofNat 32 (Nat.min (ft - t) 0x7FFFFFFF)) s)
        ∧ (ft < t → completes (.tmwWake c) s fun x => x = s.chip))
      ∧ (∀ t : Nat, (s.chip.core k).wait = some (.angw rd base t false) → (s.chip.core k).stepping = false →
          (s.chip.core k).holdReq = false →
        (t ≤ th → writesG' (.angwWake c) k rd (BitVec.ofNat 32 (Nat.min (th - t) 0x7FFFFFFF)) s)
        ∧ (th < t → completes (.angwWake c) s fun x => x = s.chip))

/-- R193, R197 to R201: CKPT opens a region with its snapshot; a passing VRFY goes on and a failing one rolls back; CMTK with no effect held
closes the region; ROLL, a nested CKPT and the region watchdog roll back. R194, R195: inside a region a store, a firing block and a
message are held in the Porch and nothing outside the core changes; the 33rd effect rolls back; a later load returns memory as the held
store leaves it. -/
def Obligations.Speculation : Prop :=
  (∀ (k : Fin 16) (rd ra rb : Fin 32) (off : BitVec 16) (u : Fin 8) (s : State),
    let c := CoreId.kiosk k
    let a := (s.chip.g k ra).toInt
    let b := (s.chip.g k rb).toInt
    let tol := (s.chip.g k rd).toInt
    (s.chip.calm k = true → completes (.ckpt c rd off) s fun t =>
        (t.core k).spec = some { g := (s.chip.core k).g, fsr := s.chip.sr k 8, rd := rd, porch := [], loops := 0, start := s.chip.tick }
          ∧ t.sr k 0x21 = movedBy (s.chip.pc k) off.toInt ∧ (t.core k).g = (s.chip.core k).g ∧ t.hubMem = s.chip.hubMem)
      ∧ (s.chip.canIssue k = true → (s.chip.core k).spec = none → s.chip.exl k = true →
        completes (.ckpt c rd off) s fun t => (t.core k).spec = none ∧ t.flag (KS_KSTAT_HALTED (coreBase k)) = true)
      ∧ (∀ sp, (s.chip.core k).spec = some sp → s.chip.canIssue k = true →
        (completes (.ckpt c rd off) s fun t => s.chip.regionUndone t k 0x24 0)
        ∧ (completes (.roll c u) s fun t => s.chip.regionUndone t k (0x38 + u) 0)
        ∧ (completes (.wfi c) s fun t => s.chip.regionUndone t k 0x25 0)
        ∧ (((a - b).natAbs : Int) ≤ tol → falls (.vrfy c rd ra rb false) k s)
        ∧ (tol < ((a - b).natAbs : Int) → completes (.vrfy c rd ra rb false) s fun t => s.chip.regionUndone t k 0x20 0)
        ∧ (sp.porch = [] → completes (.cmtk c) s fun t => (t.core k).spec = none
          ∧ t.sr k 0x25 = Nat.min (s.chip.sr k 0x25 + 1) 0xFFFFFFFF ∧ (t.core k).g = (s.chip.core k).g ∧ t.hubMem = s.chip.hubMem
          ∧ s.chip.regsBut t [KS_KPC (coreBase k)]))
      ∧ (∀ sp, (s.chip.core k).spec = some sp → (s.chip.core k).stepping = false → (s.chip.core k).holdReq = false →
        (sp.start + 4096 ≤ s.chip.tick → completes (.specWatchdog c) s fun t => s.chip.regionUndone t k 0x22 0)
        ∧ (s.chip.tick < sp.start + 4096 → completes (.specWatchdog c) s fun t => t = s.chip))
      ∧ (s.chip.calm k = true → traps (.cmtk c) k (s.chip.pc k) 1 none s ∧ traps (.vrfy c rd ra rb false) k (s.chip.pc k) 1 none s))
    ∧ (∀ (k : Fin 16) (rd ra rb : Fin 32) (imm : BitVec 16) (x : Nat) (s : State), s.chip.canIssue k = true →
    ∀ sp, (s.chip.core k).spec = some sp →
    let c := CoreId.kiosk k
    let a := (s.chip.g k ra + imm.signExtend 32).toNat
    let v := (s.chip.g k rb).toNat
    let w := (s.chip.g k ra).toNat
    (sp.porch.length < 32 → place k a = .mem x → ¬ (dmemBase k + s.chip.sr k 0x23 ≤ x ∧ x < dmemBase k + 0x20000) → a % 4 = 0 →
        heldIn (.sw c rb ra imm) k (.store a 4 v) s)
      ∧ (32 ≤ sp.porch.length → place k a = .mem x → ¬ (dmemBase k + s.chip.sr k 0x23 ≤ x ∧ x < dmemBase k + 0x20000) → a % 4 = 0 →
        completes (.sw c rb ra imm) s fun t => s.chip.regionUndone t k 0x21 0)
      ∧ (sp.porch.length < 32 → s.chip.leads = true → heldIn (.cmit c ra rb) k (.cmit w v) s ∧ heldIn (.fcst c ra rb) k (.fcst w v) s
        ∧ heldIn (.abrt c ra) k (.abrt w) s)
      ∧ (sp.porch.length < 32 → s.chip.tordBad (bits w 23 16) = false → heldIn (.tord c ra rb) k (.tord w v) s)
      ∧ (sp.porch.length < 32 → sendBad k false (s.chip.g k rd).toNat w v = false →
        heldIn (.send c rd ra rb) k (.send false (s.chip.g k rd).toNat w v) s)
      ∧ (sp.porch.length < 32 → sendBad k true (s.chip.g k rd).toNat w v = false →
        heldIn (.mcst c rd ra rb) k (.send true (s.chip.g k rd).toNat w v) s)
      ∧ (∀ y, sp.porch = [.store a 4 y] → y < 2 ^ 32 → place k a = .mem x → a % 4 = 0 → s.chip.cleanAt k x 4 = true →
        writesG (.lw c rd ra imm) k rd (BitVec.ofNat 32 y) s))

/-- R187 to R192: a malformed SEND or MCST raises ACCESS_LOAD with BADADDR at its buffer and sends nothing; FCST, CMIT and ABRT raise
ACCESS_STORE off an enabled lead, TORD on a lane it may not rank; RECV of an empty queue writes 0 or waits. Otherwise each is accepted:
SEND and MCST at once or after a stall, TORD with its block queued on the lane. R187, R189: a stalled SEND or MCST goes on once it is
accepted. RECV copies the oldest message of its queue to ra, writes its length to rd and removes it; a waiting RECV does so when a
message arrives. -/
def Obligations.MessagesAndFiring : Prop :=
  (∀ (k : Fin 16) (rd ra rb : Fin 32) (q : Fin 32) (s : State), s.chip.calm k = true →
    let c := CoreId.kiosk k
    let p := s.chip.pc k
    let a := (s.chip.g k ra).toNat
    let b := (s.chip.g k rb).toNat
    let n := (s.chip.g k rd).toNat
    (sendBad k false n a b = true → traps (.send c rd ra rb) k p 4 (some b) s)
      ∧ (sendBad k true n a b = true → traps (.mcst c rd ra rb) k p 4 (some b) s)
      ∧ (s.chip.leads = false → traps (.fcst c ra rb) k p 5 (some 0x400000) s ∧ traps (.cmit c ra rb) k p 5 (some 0x400000) s
        ∧ traps (.abrt c ra) k p 5 (some 0x400000) s)
      ∧ (s.chip.tordBad (bits a 23 16) = true → traps (.tord c ra rb) k p 5 (some 0x300000) s)
      ∧ (3 < q.val → traps (.recv c rd ra q false) k p 1 none s)
      ∧ (q.val ≤ 3 → (a % 4 ≠ 0 ∨ ownData k a 4 = none) → traps (.recv c rd ra q false) k p 5 (some a) s)
      ∧ (q.val ≤ 3 → a % 4 = 0 → (ownData k a 4).isSome = true → s.chip.rxq k q = [] →
        writesG (.recv c rd ra q false) k rd 0 s ∧ waits (.recv c rd ra q true) k (.recv rd a q) s)
      ∧ (sendBad k false n a b = false → completes (.send c rd ra rb) s fun t =>
        (t.core k).wait = some (.send false n a b) ∧ t.pc k = p ∨ (t.core k).wait = none ∧ (t.core k).g = (s.chip.core k).g)
      ∧ (sendBad k true n a b = false → completes (.mcst c rd ra rb) s fun t =>
        (t.core k).wait = some (.send true n a b) ∧ t.pc k = p ∨ (t.core k).wait = none ∧ (t.core k).g = (s.chip.core k).g)
      ∧ (s.chip.leads = true → (completes (.fcst c ra rb) s fun t => s.chip.wentOn t k ∧ (t.core k).g = (s.chip.core k).g)
        ∧ (completes (.cmit c ra rb) s fun t => s.chip.wentOn t k ∧ (t.core k).g = (s.chip.core k).g)
        ∧ (completes (.abrt c ra) s fun t => s.chip.wentOn t k ∧ (t.core k).g = (s.chip.core k).g))
      ∧ (s.chip.tordBad (bits a 23 16) = false → s.chip.laneState (bits a 23 16) = 5 → s.chip.silenced (bits a 23 16) = false →
        completes (.tord c ra rb) s fun t =>
          (t.lane (bits a 23 16)).q = (s.chip.lane (bits a 23 16)).q ++ [(6, tordBlock a b)] ∧ s.chip.wentOn t k))
    ∧ (∀ (k : Fin 16) (rd ra : Fin 32) (q : Fin 32) (w : Bool) (s : State),
    let c := CoreId.kiosk k
    let a := (s.chip.g k ra).toNat
    let took (rd x : Nat) (m : List Byte) (ms : List RxMsg) (t : Chip) : Prop :=
      s.chip.wroteG t k rd (BitVec.ofNat 32 m.length) ∧ t.rxq k q = ms ∧ memBytes t.hubMem x m.length = m ∧ (t.core k).wait = none
    (∀ y, (s.chip.core k).wait = some y → (∃ mc len desc buf, y = .send mc len desc buf) → s.chip.calmWait k = true →
        completes (.transmitAccept c) s fun t => (t.core k).wait = none ∧ (t.core k).g = (s.chip.core k).g)
      ∧ (∀ m ms, s.chip.rxq k q = m :: ms → q.val ≤ 3 → s.chip.noInject = true →
        s.chip.poolRead (bufAddr m.buf) (32 + m.bytes.length) = (false, s.chip) →
        (∀ x, ownData k a m.bytes.length = some x → s.chip.calm k = true → a % 4 = 0 → (ownData k a 4).isSome = true →
          completes (.recv c rd ra q w) s fun t => took rd x m.bytes ms t)
        ∧ (∀ y, (s.chip.core k).wait = some y → s.chip.calmWait k = true → ∀ b, y = .recv rd b q → ∀ x, ownData k b m.bytes.length = some x →
          completes (.recvWake c) s fun t => took rd x m.bytes ms t)))

-- Cores: control

/-- R179, R180 and Table 7-13: halt requests, halts, RESUME, RUN and STEP of a Kiosk; a refused halt request of the Shed core. Table 7-13,
R157 and R179: a core reset, host writes of KPC, KGREG and instruction memory, the doorbell and the timer line. -/
def Obligations.DebugAndCoreAccess : Prop :=
  (∀ (k : Fin 16) (w : Word) (s : State),
    let c := CoreId.kiosk k
    let b := coreBase k
    (s.chip.running k = true → completes (.haltReq c) s fun t => (t.core k).haltReq = true ∧ t.regs = s.chip.regs)
      ∧ (s.chip.haltAccepted = false → completes (.haltReq .shed) s fun t =>
        t.reg PWM_HALT_REF_CNT = Nat.min (s.chip.reg PWM_HALT_REF_CNT + 1) 0xFFFFFFFF
          ∧ t.flag (KS_KSTAT_REFUSED (coreBase 16)) = true ∧ (t.core 16).haltReq = (s.chip.core 16).haltReq)
      ∧ ((s.chip.core k).haltReq = true → (s.chip.core k).brk = false → (s.chip.core k).wait = none → (s.chip.core k).spec = none →
        completes (.halt c) s fun t => t.flag (KS_KSTAT_HALTED b) = true ∧ t.running k = false ∧ t.fld (KS_KSTAT_HALT_WHY b) = 1
          ∧ t.pc k = s.chip.pc k ∧ (t.core k).g = (s.chip.core k).g ∧ s.chip.regsBut t [KS_KSTAT b])
      ∧ (((s.chip.core k).wait ≠ none ∨ (s.chip.core k).spec ≠ none) → completes (.halt c) s fun t => t = s.chip)
      ∧ (s.chip.flag (KS_KSTAT_HALTED b) = true → s.chip.flag (KS_KCTL_RUN b) = true → s.chip.sys.stopHub = false →
        completes (.resume c) s fun t => t.running k = true ∧ t.flag (KS_KSTAT_HALTED b) = false ∧ t.pc k = s.chip.pc k
          ∧ s.chip.regsBut t [KS_KSTAT b])
      ∧ (bit w.toNat 0 = true → s.chip.flag (KS_KCTL_RUN b) = false → s.chip.sys.stopHub = false → completes (.run c w) s fun t =>
        t.flag (KS_KCTL_RUN b) = true ∧ t.running k = true ∧ t.flag (KS_KSTAT_HALTED b) = false ∧ t.pc k = s.chip.pc k)
      ∧ (bit w.toNat 0 = false → s.chip.flag (KS_KCTL_RUN b) = true → s.chip.running k = true → (s.chip.core k).wait = none →
        completes (.run c w) s fun t => t.flag (KS_KCTL_RUN b) = false ∧ t.running k = false ∧ t.fld (KS_KSTAT_HALT_WHY b) = 5)
      ∧ (s.chip.flag (KS_KSTAT_HALTED b) = true → s.chip.sys.stopHub = false → s.chip.fetchWord k = 1 → fetchOk k (s.chip.pc k) = true →
        (s.chip.core k).wait = none → (s.chip.core k).spec = none →
        (s.chip.eccWord false (fetchAddr k (s.chip.pc k))).1 = 0 → completes (.debugStep c) s fun t =>
          t.flag (KS_KSTAT_HALTED b) = true ∧ t.fld (KS_KSTAT_HALT_WHY b) = 2 ∧ (t.core k).g = (s.chip.core k).g ∧ s.chip.wentOn t k)
      ∧ (s.chip.flag (KS_KSTAT_HALTED b) = false ∨ s.chip.sys.stopHub = true → completes (.debugStep c) s fun t => t = s.chip))
    ∧ (∀ (k : Fin 16) (n : Fin 33) (a : BitVec 16) (v : Word) (s : State),
    let c := CoreId.kiosk k
    let b := coreBase k
    (completes (.coreRst k) s fun t => t.pc k = s.chip.reg (KS_KRST_PC b) ∧ t.flag (KS_KCTL_RUN b) = false
        ∧ t.flag (KS_KSTAT_HALTED b) = true ∧ t.running k = false ∧ (t.core k).spec = none ∧ (t.core k).wait = none
        ∧ (∀ m, m ∉ [2, 4, 7] → t.sr k m = srReset m) ∧ t.hubMem = s.chip.hubMem)
      ∧ (s.chip.running k = true → completes (.kpcWrite c n v) s fun t =>
        t.flag (KS_KSTAT_REFUSED b) = true ∧ t.pc k = s.chip.pc k ∧ t.cores = s.chip.cores)
      ∧ (s.chip.running k = false → n.val = 32 → completes (.kpcWrite c n v) s fun t =>
        t.pc k = v.toNat ∧ s.chip.onlyRegs t [KS_KPC b])
      ∧ (s.chip.running k = false → n.val < 32 → completes (.kpcWrite c n v) s fun t =>
        s.chip.wroteG t k n v ∧ t.regs = s.chip.regs)
      ∧ ((s.chip.flag (KS_KCTL_RUN b) = true ∨ s.chip.running k = true) → completes (.imemHostWrite k a v) s fun t =>
        t.flag (KS_KSTAT_IMW_REF b) = true ∧ t.hubMem = s.chip.hubMem)
      ∧ (s.chip.flag (KS_KCTL_RUN b) = false → s.chip.running k = false → (s.chip.core k).stepping = false → a.toNat % 4 = 0 →
        completes (.imemHostWrite k a v) s fun t =>
        t.hubWord (imemBase k + a.toNat) = v.toNat
          ∧ ∀ x, ¬ (imemBase k + a.toNat ≤ x ∧ x < imemBase k + a.toNat + 4) → memByte t.hubMem x = memByte s.chip.hubMem x)
      ∧ (completes (.doorbell k v) s fun t => t.reg (KS_KDBV b) = v.toNat ∧ bit (t.sr k 6) 0 = true ∧ s.chip.regsBut t [KS_KDBV b]
        ∧ (t.core k).g = (s.chip.core k).g)
      ∧ ((s.chip.core k).tArmed = true → s.chip.sr k 0x104 + s.chip.sr k 0x105 * 2 ^ 32 ≤ s.chip.ftNs % 2 ^ 64 →
        completes (.timer c) s fun t => bit (t.sr k 6) 1 = true ∧ (t.core k).tArmed = false ∧ t.regs = s.chip.regs)
      ∧ ((s.chip.core k).tArmed = false → completes (.timer c) s fun t => t = s.chip))

-- Registers

/-- R5: register words of every block of both parts hold the reset values of their tables right after reset, and no command waits. -/
def Obligations.ResetValues : Prop :=
  (∀ k : Fin 16, State.reset.chip.reg (KS_KSTAT (coreBase k)) = 0x502 ∧ State.reset.chip.reg (KS_KCTL (coreBase k)) = 0)
    ∧ (∀ d : Fin 6, State.reset.chip.reg (SDL_DCTL d) = 0)
    ∧ State.reset.chip.reg GTH_GCTL = 0xF0 ∧ State.reset.chip.reg GTH_DISCCFG = 0x320A ∧ State.reset.chip.reg BND_NCTL = 4
    ∧ State.reset.chip.sr 0 0x23 = 0x20000 ∧ State.reset.chip.sr 3 0x28 = 0x40 ∧ State.reset.pending = []

/-- R4 and Table 0-4: bit by bit, what a write of `v` makes of a register word: a read-write bit takes the written bit, a write-one-to-clear
bit clears where a 1 is written, every other bit stays. R4, R6, R7: a register write by the host or a Kiosk has, on a one-word register
of Bandstand, the effect of its access bits on that word and on no other, and none where no register lies; the same by a cell requester
on the registers of Lodge. A requester does not reach the registers of the other part, nor the host a misaligned word. -/
def Obligations.RegisterWrite : Prop :=
  (∀ (m : RegWord) (old v i : Nat), m.rw &&& m.w1c = 0 →
    (writtenWord m old v).testBit i =
      (if m.rw.testBit i then v.testBit i else if m.w1c.testBit i && v.testBit i then false else old.testBit i))
    ∧ (∀ (r : Requester) (addr v : Word) (s : State), s.chip.takeDue = false →
    let c := s.chip
    let a := addr.toNat
    let m := regWord a
    let one := regAt a = some (a, 0, [m])
    let wrote (t : Chip) : Prop := t.reg a = writtenWord m (c.reg a) v.toNat % 2 ^ 32 ∧ c.regsBut t [a]
    (hubRequester r = true → (c.sys.ready = false ∨ c.armReady = true) → 0x400000 ≤ a → a < 0x500000 → a % 4 = 0 →
        (one → completes (.registerWrite r addr v) s fun t =>
          wrote t ∧ t.hubMem = c.hubMem ∧ t.cores = c.cores ∧ t.lanes = c.lanes ∧ t.sent = c.sent)
        ∧ (regAt a = none → completes (.registerWrite r addr v) s fun t => t.regs = c.regs))
      ∧ (hubRequester r = false → 0x4000A000 ≤ a → a < 0x4000B000 → a % 4 = 0 →
        (one → completes (.registerWrite r addr v) s fun t => wrote t ∧ t = { c with regs := t.regs })
        ∧ (regAt a = none → completes (.registerWrite r addr v) s fun t => t = c))
      ∧ (hubRequester r = false → a < 0x40000000 → completes (.registerWrite r addr v) s fun t => t = c)
      ∧ (∀ k : Fin 16, r = .kiosk k → 0x2100000 ≤ a → completes (.registerWrite r addr v) s fun t => t = c)
      ∧ (r = .host → a % 4 ≠ 0 → completes (.registerWrite r addr v) s fun t => t = c))

/-- R7: a write of the low word of a wide register is held and changes no register; the write of its highest word applies both; a read of
the low word answers it and latches the high one, which a later read answers whatever the register then holds. R6: an access of a wrong
size or alignment has no effect in the hub, a read answering 0; in the Shed core it raises the access exception with BADADDR at the
address. -/
def Obligations.WideAndWrongSize : Prop :=
  (∀ (r : Requester) (d : Fin 6) (v w : Word) (s : State), hubRequester r = true → s.chip.sys.ready = false → s.chip.takeDue = false →
    let a := SDL_STEP d
    let held := match s.chip.holdOf r with
      | some (b, l) => if b == a then l.filter (fun x => x.1 != 0) else []
      | none => []
    (completes (.wideWriteHold r (BitVec.ofNat 32 a) v) s fun t =>
        t.regs = s.chip.regs ∧ t.holdOf r = some (a, held ++ [(0, v.toNat)]))
      ∧ (s.chip.holdOf r = some (a, [(0, v.toNat)]) → completes (.wideWriteApply r (BitVec.ofNat 32 (a + 4)) w) s fun t =>
        t.reg64 a = v.toNat + w.toNat * 2 ^ 32 ∧ s.chip.regsBut t [a, a + 4] ∧ t.holdOf r = none)
      ∧ (completes (.wideReadLatch r (BitVec.ofNat 32 a)) s fun t => t.rdata.toNat = s.chip.reg a ∧ t.regs = s.chip.regs
        ∧ t.latchOf r = some ⟨a, [s.chip.reg a, s.chip.reg (a + 4)]⟩)
      ∧ (∀ x y, s.chip.latchOf r = some ⟨a, [x, y]⟩ → completes (.wideReadLatch r (BitVec.ofNat 32 (a + 4))) s fun t =>
        t.rdata = BitVec.ofNat 32 y ∧ t.regs = s.chip.regs))
    ∧ (∀ (r : Requester) (addr : Word) (size : Fin 9) (s : State), ¬ (size.val = 4 ∧ addr.toNat % 4 = 0) →
    (hubRequester r = true → (completes (.regAccessBadSize r addr size true) s fun t => t = s.chip)
        ∧ (completes (.regAccessBadSize r addr size false) s fun t => t = { s.chip with rdata := 0 }))
      ∧ (s.chip.calm 16 = true → traps (.regAccessBadSize .shed addr size true) 16 (s.chip.pc 16) 5 (some addr.toNat) s
        ∧ traps (.regAccessBadSize .shed addr size false) 16 (s.chip.pc 16) 4 (some addr.toNat) s))

-- Faults and standing orders

/-- R302 to R305, R315, shown on FAULT_N driven from outside (source 0 of FLT, class K): with no reaction ordered, the fault sets PEND_K,
counts in CNT_K and is logged with its time, class and status; while PEND_K is set it is escalated to class F and counted as such. -/
def Obligations.FaultClasses : Prop :=
  ∀ (s : State), s.chip.flag FLT_FSTAT_FN_DRIVE = false → s.chip.reg (FLT_ENTRY 9 0) = 0 → entryClean s.chip 9 0 = true →
    let wr := s.chip.fld (FLT_LOGCTL_WR_IDX 9)
    let old := s.chip.reg (FLT_CSTATE 9 0)
    let logged (t : Chip) (w2 : Nat) : Prop :=
      t.regWords (FLT_LOGE 9 wr) 4 = [s.chip.ftNs % 2 ^ 32, s.chip.ftNs / 2 ^ 32 % 2 ^ 32, w2, s.chip.reg FLT_FSTAT]
        ∧ t.fld (FLT_LOGCTL_WR_IDX 9) = (wr + 1) % 1024
    let touched := [FLT_CSTATE 9 0, FLT_CNT_K 9, FLT_CNT_F 9, FLT_ESC_CNT 9, FLT_LOGE 9 wr, FLT_LOGE 9 wr + 4, FLT_LOGE 9 wr + 8,
      FLT_LOGE 9 wr + 12, FLT_LOGCTL 9, FLT_LOST 9]
    (bit old 1 = false → completes (.faultnIn .hub) s fun t => t.reg (FLT_CSTATE 9 0) = old ||| 2
        ∧ t.reg (FLT_CNT_K 9) = Nat.min (s.chip.reg (FLT_CNT_K 9) + 1) 0xFFFFFFFF ∧ t.reg (FLT_CNT_F 9) = s.chip.reg (FLT_CNT_F 9)
        ∧ logged t 0x40 ∧ s.chip.onlyRegs { t with gls := s.chip.gls } touched)
      ∧ (bit old 1 = true → completes (.faultnIn .hub) s fun t => t.reg (FLT_CSTATE 9 0) = old ||| 4
        ∧ t.reg (FLT_CNT_F 9) = Nat.min (s.chip.reg (FLT_CNT_F 9) + 1) 0xFFFFFFFF
        ∧ t.reg (FLT_ESC_CNT 9) = Nat.min (s.chip.reg (FLT_ESC_CNT 9) + 1) 0xFFFFFFFF ∧ logged t 0xE0 ∧ s.chip.onlyRegs { t with gls := s.chip.gls } touched)

/-- R308, R310, R312: the reactions of a standing order: IRQ sets the IRQ bit of the class and sends the block's MSI-X vector, FAULT_N
drives the pin; at the cell BLOCK sets its latch and records the block that ordered it. An own drive of FAULT_N is not seen as a fault.
R305: acknowledging clears the pending bits written 1 together with their IRQ bits, and nothing else. -/
def Obligations.FaultReactions : Prop :=
  (∀ (s : State),
    (s.chip.flag FLT_FSTAT_FN_DRIVE = false → s.chip.reg (FLT_ENTRY 9 0) = 0x0100 → entryClean s.chip 9 0 = true →
        s.chip.reg (FLT_CSTATE 9 0) = 0 → s.chip.flag (FLT_IRQDST_HOST 9) = true → s.chip.flag PCI_PSTAT_LINK = true →
        bit (s.chip.reg (PCI_MSIX (s.chip.fld (FLT_IRQDST_VEC 9)) + 12)) 0 = false →
        completes (.faultnIn .hub) s fun t => t.reg (FLT_CSTATE 9 0) = 0x22 ∧ t.sent = .msix (s.chip.fld (FLT_IRQDST_VEC 9)) :: s.chip.sent)
      ∧ (s.chip.flag FLT_FSTAT_FN_DRIVE = false → s.chip.reg (FLT_ENTRY 9 0) = 0x0200 → entryClean s.chip 9 0 = true →
        s.chip.reg (FLT_CSTATE 9 0) = 0 →
        completes (.faultnIn .hub) s fun t => t.flag FLT_FSTAT_FN_PULSE = true ∧ t.flag FLT_FSTAT_FN_DRIVE = true
          ∧ t.flag FLT_FSTAT_FN_PIN = true ∧ t.fnEndHub = s.chip.time + 2000 * Nat.max (s.chip.fld FLT_FCTL_FN_WIDTH) 1)
      ∧ (s.chip.flag FLT_FSTAT_FN_DRIVE = true → completes (.faultnIn .hub) s fun t => t = s.chip)
      ∧ (s.chip.flag CFL_FSTAT_FN_DRIVE = true → completes (.faultnIn .cell) s fun t => t = s.chip)
      ∧ (s.chip.flag CFL_FSTAT_FN_DRIVE = false → s.chip.fire.clkStop = false → s.chip.reg (CFL_ENTRY 6 0) = 0x0400 →
        Assoc.get (fun _ => 0) s.chip.cellEcc (CFL_ENTRY 6 0) = 0 → s.chip.reg (CFL_CSTATE 6) = 0 →
        completes (.faultnIn .cell) s fun t => t.flag CFL_REACT_BLK = true ∧ bit (t.reg CFL_BLK_BY) 6 = true
          ∧ t.reg (CFL_CSTATE 6) = 2)
      ∧ (s.chip.fire.clkStop = true → s.chip.flag CFL_FSTAT_FN_DRIVE = false →
        s.chip.held.any (fun y => y.blk == 6 && y.src == 0) = false →
        completes (.faultnIn .cell) s fun t => t.regs = s.chip.regs ∧ t.held = s.chip.held ++ [⟨6, 0, 2, noFlag CFL_FSTAT⟩]))
    ∧ (∀ (b : Fin 16) (i : Byte) (w : Word) (j : Fin 3) (s : State),
    (completes (.cstateWrite .hub b i w) s fun t =>
        bit (t.reg (FLT_CSTATE b i.toNat)) j = (bit (s.chip.reg (FLT_CSTATE b i.toNat)) j && !bit w.toNat j)
        ∧ bit (t.reg (FLT_CSTATE b i.toNat)) (j + 4) = (bit (s.chip.reg (FLT_CSTATE b i.toNat)) (j + 4) && !bit w.toNat j)
        ∧ s.chip.onlyRegs t [FLT_CSTATE b i.toNat])
      ∧ (b.val ≤ 12 → completes (.cstateWrite .cell b i w) s fun t =>
        bit (t.reg (CFL_CSTATE b)) j = (bit (s.chip.reg (CFL_CSTATE b)) j && !bit w.toNat j)
        ∧ bit (t.reg (CFL_CSTATE b)) (j + 4) = (bit (s.chip.reg (CFL_CSTATE b)) (j + 4) && !bit w.toNat j)
        ∧ s.chip.onlyRegs t [CFL_CSTATE b]))

/-- R306, R313, R316: a standing-order entry is written unless it orders a reaction its block cannot have, and then only REFUSED is set; INJ
is refused for an undefined memory; a 1 written to ARMED clears DONE; a takeover entry is refused when its offset is out of range or
misaligned. -/
def Obligations.StandingOrders : Prop :=
  ∀ (b : Fin 16) (x : Fin 32) (w : Word) (r : Requester) (j : Fin 4) (s : State), s.chip.noInject = true → s.chip.sys.ready = false →
    s.chip.takeDue = false →
    let hubBad := entryHas w.toNat 0x1C = true ∨ b.val = 9 ∧ entryHas w.toNat 0x40 = true ∨ b.val ≠ 9 ∧ entryHas w.toNat 0x80 = true
    let cellBad := b.val = 6 ∧ entryHas w.toNat 0x40 = true ∨ entryHas w.toNat 0x80 = true
    (hubBad → completes (.entryWrite .hub b x w) s fun t => t.flag FLT_FSTAT_REFUSED = true ∧ s.chip.onlyRegs t [FLT_FSTAT])
      ∧ (¬ hubBad → completes (.entryWrite .hub b x w) s fun t =>
        t.reg (FLT_ENTRY b x) = writtenWord (regWord (FLT_ENTRY b x)) (s.chip.reg (FLT_ENTRY b x)) w.toNat % 2 ^ 32
          ∧ s.chip.regsBut t [FLT_ENTRY b x])
      ∧ (b.val ≤ 12 → cellBad → completes (.entryWrite .cell b x w) s fun t =>
        t.flag CFL_FSTAT_REFUSED = true ∧ s.chip.onlyRegs t [CFL_FSTAT])
      ∧ (b.val ≤ 12 → ¬ cellBad → completes (.entryWrite .cell b x w) s fun t =>
        t.reg (CFL_ENTRY b x) = writtenWord (regWord (CFL_ENTRY b x)) (s.chip.reg (CFL_ENTRY b x)) w.toNat % 2 ^ 32
          ∧ s.chip.regsBut t [CFL_ENTRY b x])
      ∧ (injMemOk .hub (w.toNat % 256) = false → completes (.injWrite .hub w) s fun t =>
        t.flag FLT_FSTAT_REFUSED = true ∧ s.chip.onlyRegs t [FLT_FSTAT])
      ∧ (injMemOk .cell (w.toNat % 256) = true → bits w.toNat 9 8 ≠ 3 → completes (.injWrite .cell w) s fun t =>
        t.fld CFL_INJ_MODE = bits w.toNat 9 8 ∧ t.fld CFL_INJ_MEM = w.toNat % 256 ∧ s.chip.onlyRegs t [CFL_INJ])
      ∧ (completes (.tkctlWrite w) s fun t => t.flag FLT_TKCTL_ARMED = bit w.toNat 0 ∧ t.fld FLT_TKCTL_CNT = bits w.toNat 2 1
        ∧ (bit w.toNat 0 = true → t.flag FLT_TKCTL_DONE = false) ∧ s.chip.onlyRegs t [FLT_TKCTL])
      ∧ (∀ off : Nat, hubRequester r = true → s.chip.holdOf r = some (FLT_TKLIST j, [(0, off)]) → off < 0x1000000 → off % 4 = 0 →
        completes (.tklistWrite r j w) s fun t => t.regWords (FLT_TKLIST j) 2 = [off, w.toNat]
          ∧ s.chip.regsBut t [FLT_TKLIST j, FLT_TKLIST j + 4])
      ∧ (∀ off : Nat, hubRequester r = true → s.chip.holdOf r = some (FLT_TKLIST j, [(0, off)]) → (0x1000000 ≤ off ∨ off % 4 ≠ 0) →
        completes (.tklistWrite r j w) s fun t => t.flag FLT_FSTAT_REFUSED = true ∧ s.chip.regsBut t [FLT_FSTAT])

/-- R313: TAKE carries the armed list out once: ARMED clears, DONE is set, and the entry's register is written; a second TAKE is only
recorded, and so is one that comes before a standing order's TAKE has been carried out (R16). R309 to R312: RELEASE ends the silences
whose blocks have nothing pending, the end of a FAULT_N pulse gives the pin FN_SW, and a LOG message takes the unread entries of its
block. Table 14-4 and R309: RELEASE at the cell clears BLK, HLD and the silences when no block that ordered them has K or F pending, and
is refused while one has. -/
def Obligations.TakeoverAndRelease : Prop :=
  (∀ (r : Requester) (w : Word) (v : Nat) (s : State),
    let due := s.chip.takeDue
    let listed := s.chip.flag FLT_TKCTL_ARMED = true ∧ s.chip.fld FLT_TKCTL_CNT = 0 ∧ s.chip.reg (FLT_TKLIST 0) = BND_NCTL
      ∧ s.chip.reg (FLT_TKLIST 0 + 4) = v ∧ s.chip.sys.ready = false
    (due = true → listed → completes .take s fun t => t.flag FLT_TKCTL_ARMED = false ∧ t.flag FLT_TKCTL_DONE = true
          ∧ t.reg BND_NCTL = writtenWord (regWord BND_NCTL) (s.chip.reg BND_NCTL) v % 2 ^ 32 ∧ t.flag FLT_FSTAT_ALREADY_DONE = true
          ∧ t.takeDue = false ∧ s.chip.regsBut t [FLT_TKCTL, BND_NCTL, FLT_FSTAT])
      ∧ (due = false → listed →
        completes .take s fun t => t.flag FLT_TKCTL_ARMED = false ∧ t.flag FLT_TKCTL_DONE = true
          ∧ t.reg BND_NCTL = writtenWord (regWord BND_NCTL) (s.chip.reg BND_NCTL) v % 2 ^ 32 ∧ s.chip.regsBut t [FLT_TKCTL, BND_NCTL])
      ∧ (due = false → s.chip.flag FLT_TKCTL_ARMED = false → s.chip.flag FLT_TKCTL_DONE = true →
        completes .take s fun t => t.flag FLT_FSTAT_ALREADY_DONE = true ∧ s.chip.onlyRegs t [FLT_FSTAT])
      ∧ (due = false → s.chip.flag FLT_TKCTL_ARMED = false → s.chip.flag FLT_TKCTL_DONE = false →
        completes .take s fun t => t.flag FLT_FSTAT_REFUSED = true ∧ s.chip.onlyRegs t [FLT_FSTAT])
      ∧ ((∀ b < 16, bit (s.chip.reg FLT_SILBY) b = true → s.chip.hubPendKF b = false) → completes (.release .hub) s fun t =>
        t.regWords FLT_SILENCED 6 = [0, 0, 0, 0, 0, 0] ∧ t.reg FLT_FSIL = 0 ∧ t.reg FLT_SILBY = 0)
      ∧ (∀ b < 16, bit (s.chip.reg FLT_SILBY) b = true → s.chip.hubPendKF b = true → completes (.release .hub) s fun t =>
        t.flag FLT_FSTAT_REFUSED = true ∧ s.chip.onlyRegs t [FLT_FSTAT])
      ∧ (s.chip.flag FLT_FSTAT_FN_PULSE = false ∨ s.chip.time < s.chip.fnEndHub → completes (.faultNPulseEnd .hub) s fun t => t = s.chip)
      ∧ (s.chip.flag FLT_FSTAT_FN_PULSE = true → s.chip.fnEndHub ≤ s.chip.time → completes (.faultNPulseEnd .hub) s fun t => t.flag FLT_FSTAT_FN_PULSE = false
        ∧ t.fld FLT_FSTAT_FN_DRIVE = s.chip.fld FLT_FCTL_FN_SW ∧ t.fld FLT_FSTAT_FN_PIN = s.chip.fld FLT_FCTL_FN_SW
        ∧ s.chip.onlyRegs t [FLT_FSTAT])
      ∧ (s.chip.flag CFL_FSTAT_FN_PULSE = false ∨ s.chip.time < s.chip.fnEndCell → completes (.faultNPulseEnd .cell) s fun t => t = s.chip)
      ∧ (s.chip.flag CFL_FSTAT_FN_PULSE = true → s.chip.fnEndCell ≤ s.chip.time → completes (.faultNPulseEnd .cell) s fun t => t.flag CFL_FSTAT_FN_PULSE = false
        ∧ t.fld CFL_FSTAT_FN_DRIVE = s.chip.fld CFL_FCTL_FN_SW ∧ s.chip.onlyRegs t [CFL_FSTAT])
      ∧ (let b := w.toNat % 16
         let rd := s.chip.fld (CFL_LOGCTL_RD_IDX b)
         let n := (s.chip.fld (CFL_LOGCTL_WR_IDX b) + 256 - rd) % 256
         let l := s.chip.logLane r
         b ≤ 12 → 0 < n → bits w.toNat 23 16 = 1 → s.chip.laneState l = 5 → s.chip.silenced l = false →
         completes (.logcmdSend r w) s fun t => t.fld (CFL_LOGCTL_RD_IDX b) = (rd + 1) % 256
           ∧ (t.lane l).msgs.length = (s.chip.lane l).msgs.length + 1)
      ∧ (let b := w.toNat % 16
         s.chip.fld (CFL_LOGCTL_RD_IDX b) = s.chip.fld (CFL_LOGCTL_WR_IDX b) → completes (.logcmdSend r w) s fun t => t = s.chip))
    ∧ (∀ (s : State),
    ((∀ b < 13, s.chip.pendKF b = false) → completes (.release .cell) s fun t =>
        t.flag CFL_REACT_BLK = false ∧ t.flag CFL_REACT_HLD = false ∧ t.flag CFL_REACT_SIL_A = false ∧ t.flag CFL_REACT_SIL_B = false
          ∧ t.reg CFL_BLK_BY = 0 ∧ t.reg CFL_HLD_BY = 0 ∧ t.reg CFL_SIL_BY = 0)
      ∧ (∀ b < 13, s.chip.flag CFL_REACT_BLK = true → bit (s.chip.reg CFL_BLK_BY) b = true → s.chip.pendKF b = true →
        completes (.release .cell) s fun t => t.flag CFL_REACT_BLK = true ∧ t.reg CFL_BLK_BY = s.chip.reg CFL_BLK_BY
          ∧ t.flag CFL_FSTAT_REFUSED = true))

-- Sundial and the cell replicas

/-- R27, R29, R31 to R35: what each command of DCMD does when it stands alone in the word and is not refused: its operands are captured, and
nothing but the domain and its state word changes. A word with a command that is refused has no effect but REFUSED and its fault; a
direct write of INC out of range is refused too. -/
def Obligations.DomainCommands : Prop :=
  ∀ (d : Fin 6) (w : Word) (v : DWord) (s : State),
    let c := s.chip
    let refused (i : Instr) : Prop := completes i s fun t =>
      t.flag (SDL_DSTAT_REFUSED d) = true ∧ t.doms = c.doms ∧ t.reg64 (SDL_INC d) = c.reg64 (SDL_INC d)
        ∧ t.flag (SDL_DSTAT_LOAD_PEND d) = c.flag (SDL_DSTAT_LOAD_PEND d) ∧ t.flag (SDL_DSTAT_INC_ARMED d) = c.flag (SDL_DSTAT_INC_ARMED d)
        ∧ t.flag (SDL_DSTAT_SLEW_ACT d) = c.flag (SDL_DSTAT_SLEW_ACT d) ∧ t.reg (SDL_SLEW_LEFT d) = c.reg (SDL_SLEW_LEFT d)
        ∧ t.flag (SDL_DSTAT_SLEW_CUT d) = c.flag (SDL_DSTAT_SLEW_CUT d)
    (soleBit w 6 0 → ¬ (d.val = 0 ∧ 10 ^ 9 ≤ c.reg (SDL_SETV 0 + 4)) → completes (.load d w) s fun t =>
        t.flag (SDL_DSTAT_LOAD_PEND d) = true ∧ c.onlyDom t d [SDL_DSTAT d]
          ∧ t.dom d = { c.dom d with
            setv := accOfWords d (c.reg (SDL_SETV d)) (c.reg (SDL_SETV d + 4)) (c.reg (SDL_SETV d + 8)) (c.reg (SDL_SETV d + 12)) })
      ∧ (soleBit w 6 1 → completes (.step d w) s fun t =>
        t.flag (SDL_DSTAT_STEP_PEND d) = true ∧ c.onlyDom t d [SDL_DSTAT d]
          ∧ t.dom d = { c.dom d with stepv := toSigned 64 (c.reg64 (SDL_STEP d)) * 2 ^ 16 })
      ∧ (soleBit w 6 2 → incOk d (c.reg64 (SDL_INC_NEXT d)) = true → completes (.armInc d w) s fun t =>
        t.flag (SDL_DSTAT_INC_ARMED d) = true
          ∧ t.flag (SDL_DSTAT_LATE d) = (decide (c.reg64 (SDL_INC_AT d) < c.ftNs) || c.flag (SDL_DSTAT_LATE d))
          ∧ c.onlyDom t d [SDL_DSTAT d]
          ∧ t.dom d = { c.dom d with incNext := c.reg64 (SDL_INC_NEXT d), incAt := c.reg64 (SDL_INC_AT d) })
      ∧ (soleBit w 6 3 → completes (.cancelInc d w) s fun t =>
        t.flag (SDL_DSTAT_INC_ARMED d) = false ∧ c.onlyRegs t [SDL_DSTAT d])
      ∧ (soleBit w 6 4 → c.reg (SDL_SLEW_TICKS d) ≠ 0 → incOk d (c.reg64 (SDL_SLEW_INC d)) = true → completes (.slew d w) s fun t =>
        t.flag (SDL_DSTAT_SLEW_ACT d) = true ∧ t.reg (SDL_SLEW_LEFT d) = c.reg (SDL_SLEW_TICKS d)
          ∧ t.flag (SDL_DSTAT_SLEW_CUT d) = (c.flag (SDL_DSTAT_SLEW_ACT d) || c.flag (SDL_DSTAT_SLEW_CUT d))
          ∧ c.onlyDom t d [SDL_DSTAT d, SDL_SLEW_LEFT d] ∧ t.dom d = { c.dom d with slewInc := c.reg64 (SDL_SLEW_INC d) })
      ∧ (soleBit w 6 5 → c.flag (SDL_DSTAT_SLEW_ACT d) = true → completes (.cancelSlew d w) s fun t =>
        t.flag (SDL_DSTAT_SLEW_ACT d) = false ∧ t.flag (SDL_DSTAT_SLEW_CUT d) = true ∧ t.reg (SDL_SLEW_LEFT d) = 0
          ∧ c.onlyRegs t [SDL_DSTAT d, SDL_SLEW_LEFT d])
      ∧ (soleBit w 6 5 → c.flag (SDL_DSTAT_SLEW_ACT d) = false → completes (.cancelSlew d w) s fun t => t = c)
      ∧ (soleBit w 6 2 → bit w.toNat 2 = true → incOk d (c.reg64 (SDL_INC_NEXT d)) = true → completes (.cancelInc d w) s fun t =>
        t.flag (SDL_DSTAT_INC_ARMED d) = true ∧ (t.dom d).incNext = c.reg64 (SDL_INC_NEXT d))
      ∧ (d.val = 0 → 10 ^ 9 ≤ c.reg (SDL_SETV 0 + 4) → refused (.load d w))
      ∧ (d.val = 0 → 10 ^ 9 ≤ c.reg (SDL_SETV 0 + 4) → bit w.toNat 0 = true → refused (.step d w))
      ∧ (incOk d (c.reg64 (SDL_INC_NEXT d)) = false → refused (.armInc d w))
      ∧ (c.reg (SDL_SLEW_TICKS d) = 0 ∨ incOk d (c.reg64 (SDL_SLEW_INC d)) = false → refused (.slew d w))
      ∧ (incOk d v.toNat = false → refused (.incWrite d v))

/-- R29, R31 to R33: a write of INC in its range takes effect, one out of range is refused; an armed change takes effect once FT has reached
INC_AT; a slew ends when SLEW_LEFT has come to 0 and no sooner, and the domain's own increment is in force again. R31: the tick of a
running domain with no change armed, nothing pending and no slew adds INC, modulo the domain's wrap; while a slew runs it adds the
slew's increment and counts SLEW_LEFT down; a stopped domain stays. -/
def Obligations.DomainCounting : Prop :=
  (∀ (d : Fin 6) (v : DWord) (s : State),
    let c := s.chip
    (incOk d v.toNat = true → completes (.incWrite d v) s fun t =>
        t.reg64 (SDL_INC d) = v.toNat ∧ c.onlyRegs t [SDL_INC d, SDL_INC d + 4])
      ∧ (incOk d v.toNat = false → completes (.incWrite d v) s fun t =>
        t.reg64 (SDL_INC d) = c.reg64 (SDL_INC d) ∧ t.flag (SDL_DSTAT_REFUSED d) = true ∧ t.doms = c.doms)
      ∧ (c.flag (SDL_DSTAT_INC_ARMED d) = true → (c.dom d).incAt ≤ c.ftNs → completes (.incChangeDue d) s fun t =>
        t.reg64 (SDL_INC d) = (c.dom d).incNext % 2 ^ 64 ∧ t.flag (SDL_DSTAT_INC_ARMED d) = false
          ∧ c.onlyRegs t [SDL_INC d, SDL_INC d + 4, SDL_DSTAT d])
      ∧ (¬ (c.flag (SDL_DSTAT_INC_ARMED d) = true ∧ (c.dom d).incAt ≤ c.ftNs) → completes (.incChangeDue d) s fun t => t = c)
      ∧ (c.flag (SDL_DSTAT_SLEW_ACT d) = true → c.reg (SDL_SLEW_LEFT d) = 0 → completes (.slewEnd d) s fun t =>
        t.flag (SDL_DSTAT_SLEW_ACT d) = false ∧ t.flag (SDL_DSTAT_SLEW_CUT d) = c.flag (SDL_DSTAT_SLEW_CUT d)
          ∧ c.onlyRegs t [SDL_DSTAT d])
      ∧ (c.flag (SDL_DSTAT_SLEW_ACT d) = false ∨ c.reg (SDL_SLEW_LEFT d) ≠ 0 → completes (.slewEnd d) s fun t => t = c))
    ∧ (∀ (c : Chip) (d : Fin 6) (ft : Nat), c.flag (SDL_DSTAT_INC_ARMED d) = false → c.flag (SDL_DSTAT_STEP_PEND d) = false →
    c.flag (SDL_DSTAT_LOAD_PEND d) = false →
    let n := c.domTick ft d
    (c.flag (SDL_DCTL_RUN d) = false → (n.dom d).acc = (c.dom d).acc ∧ n.reg (SDL_SLEW_LEFT d) = c.reg (SDL_SLEW_LEFT d))
      ∧ (c.flag (SDL_DCTL_RUN d) = true → c.flag (SDL_DSTAT_SLEW_ACT d) = false →
        (n.dom d).acc = ((c.dom d).acc + c.reg64 (SDL_INC d)) % domMod d ∧ n.reg (SDL_SLEW_LEFT d) = c.reg (SDL_SLEW_LEFT d))
      ∧ (c.flag (SDL_DCTL_RUN d) = true → c.flag (SDL_DSTAT_SLEW_ACT d) = true →
        (n.dom d).acc = ((c.dom d).acc + (c.dom d).slewInc) % domMod d ∧ n.reg (SDL_SLEW_LEFT d) = c.reg (SDL_SLEW_LEFT d) - 1
          ∧ n.flag (SDL_DSTAT_SLEW_ACT d) = decide (1 < c.reg (SDL_SLEW_LEFT d)))
      ∧ ∀ e, e ≠ d.val → n.dom e = c.dom e)

/-- R39, R50: a write of SCTL with SNAP copies the present values of all six domains into SNAPV and counts; a SYNC_PER out of range is
refused and changes nothing. A fall of the PLL's lock clears TICK_LOCK and sets TICK_LOST. R40 to R45: ARM captures the output's
operands or is refused; a pulse starts when the domain has reached the next instant, of a repeating output the next instant is then the
first above the present value, a single one is disarmed; DISARM waits for the pulse in progress; a pulse ends after PWID ns, or with
WCLIP when the next tick reaches its next instant; POL turns the pin's level. That an output of one pulse is disarmed at its start, and
that no pulse ends in its first tick, is the model's choice (log entry 91). -/
def Obligations.SnapAndPulses : Prop :=
  (∀ (w : Word) (d : Fin 6) (s : State),
    let c := s.chip
    (10 ≤ bits w.toNat 29 16 → bits w.toNat 29 16 ≤ 10000 → completes (.snap w) s fun t =>
        t.regWords (SDL_SNAPV d) 4 = (wordsOfAcc d (c.dom d).acc).map (· % 2 ^ 32)
          ∧ t.fld SDL_SSTAT_SNAP_CNT = (c.fld SDL_SSTAT_SNAP_CNT + 1) % 256 ∧ t.fld SDL_SCTL_SYNC_PER = bits w.toNat 29 16
          ∧ t.doms = c.doms
          ∧ c.regsBut t ([SDL_SCTL, SDL_SSTAT] ++ (List.range 6).flatMap fun e => (List.range 4).map fun i => SDL_SNAPV e + 4 * i))
      ∧ (bits w.toNat 29 16 < 10 ∨ 10000 < bits w.toNat 29 16 → completes (.snap w) s fun t =>
        t.flag SDL_SSTAT_REFUSED = true ∧ c.onlyRegs t [SDL_SSTAT])
      ∧ (completes .pllLockLoss s fun t => t.flag SDL_SSTAT_TICK_LOCK = false ∧ t.flag SDL_SSTAT_TICK_LOST = true ∧ t.doms = c.doms))
    ∧ (∀ (n : Fin 4) (w : Word) (s : State),
    let c := s.chip
    let m := c.fld (SDL_PCTL_MODE n)
    let d := c.fld (SDL_PCTL_DOM n)
    let p := c.pulse n
    let v := (c.dom p.dom).acc
    let bad := m = 0 ∨ m = 3 ∨ 5 < d ∨ c.fld (SDL_PWID_WIDTH n) = 0 ∨ 1000000 < c.fld (SDL_PWID_WIDTH n)
      ∨ (d = 0 ∧ 10 ^ 9 ≤ c.reg (SDL_PSTART n + 4)) ∨ (m = 2 ∧ d < 2 ∧ c.reg64 (SDL_PPER n) = 0)
    let starts := c.flag (SDL_PSTAT_ARMED n) = true ∧ c.flag (SDL_DCTL_RUN p.dom) = true ∧ p.next ≤ v ∧ p.disarm = false
    let v0 := (c.dom d).acc
    let room := v0 + (if c.reg64 (SDL_PPER n) = 0 then 2 ^ 32 else c.reg64 (SDL_PPER n)) * 2 ^ 40 < domMod d
    let level := c.flag (SDL_PSTAT_LEVEL n) = true ∧ p.began < c.tick
    let cuts := c.flag (SDL_PSTAT_ARMED n) = true ∧ c.flag (SDL_DCTL_RUN p.dom) = true ∧ p.next ≤ c.nextAcc p.dom
    let ended (t : Chip) (clip : Bool) : Prop := t.flag (SDL_PSTAT_LEVEL n) = false ∧ t.ppo n = p.pol
      ∧ t.flag (SDL_PSTAT_WCLIP n) = (clip || c.flag (SDL_PSTAT_WCLIP n))
      ∧ t.flag (SDL_PSTAT_ARMED n) = (!p.disarm && c.flag (SDL_PSTAT_ARMED n)) ∧ c.onlyPulse t n [SDL_PSTAT n]
    (bad → completes (.arm n w) s fun t =>
        t.flag (SDL_PSTAT_REFUSED n) = true ∧ t.flag (SDL_PSTAT_ARMED n) = c.flag (SDL_PSTAT_ARMED n) ∧ t.pulses = c.pulses)
      ∧ (bit w.toNat 1 = false → ¬ bad → completes (.arm n w) s fun t =>
        let start := c.accAt d (SDL_PSTART n)
        t.flag (SDL_PSTAT_ARMED n) = true
          ∧ t.flag (SDL_PSTAT_LATE n) = (decide (start ≤ (c.dom d).acc) || c.flag (SDL_PSTAT_LATE n))
          ∧ (t.pulse n).mode = m ∧ (t.pulse n).dom = d ∧ (t.pulse n).wid = c.fld (SDL_PWID_WIDTH n) ∧ (t.pulse n).disarm = false
          ∧ (t.pulse n).pol = c.flag (SDL_PCTL_POL n)
          ∧ (m = 1 → (t.pulse n).next = start) ∧ (m = 2 → room → start ≤ (t.pulse n).next)
          ∧ (m = 2 → room → start ≤ (c.dom d).acc → (c.dom d).acc < (t.pulse n).next) ∧ c.onlyPulse t n [SDL_PSTAT n])
      ∧ (bit w.toNat 0 = false → c.flag (SDL_PSTAT_LEVEL n) = false → completes (.disarm n w) s fun t =>
        t.flag (SDL_PSTAT_ARMED n) = false ∧ c.onlyRegs t [SDL_PSTAT n])
      ∧ (bit w.toNat 0 = false → c.flag (SDL_PSTAT_LEVEL n) = true → completes (.disarm n w) s fun t =>
        t.pulse n = { p with disarm := true } ∧ c.onlyPulse t n [])
      ∧ (starts → p.mode ≠ 2 → completes (.pulseStart n) s fun t =>
        t.flag (SDL_PSTAT_LEVEL n) = true ∧ t.flag (SDL_PSTAT_FIRED n) = true ∧ t.flag (SDL_PSTAT_ARMED n) = false
          ∧ t.ppo n = !p.pol
          ∧ t.pulse n = { p with began := c.tick } ∧ c.onlyPulse t n [SDL_PSTAT n])
      ∧ (starts → p.mode = 2 → 0 < p.per → v + p.per < domMod p.dom → completes (.pulseStart n) s fun t =>
        t.flag (SDL_PSTAT_LEVEL n) = true ∧ t.flag (SDL_PSTAT_FIRED n) = true ∧ t.flag (SDL_PSTAT_ARMED n) = true
          ∧ v < (t.pulse n).next ∧ (t.pulse n).next ≤ v + p.per ∧ ((t.pulse n).next - p.next) % p.per = 0
          ∧ t.reg (SDL_PMISS n) = Nat.min (c.reg (SDL_PMISS n) + (v - p.next) / p.per) 0xFFFFFFFF
          ∧ c.onlyPulse t n [SDL_PSTAT n, SDL_PMISS n])
      ∧ (¬ starts → completes (.pulseStart n) s fun t => t = c)
      ∧ (level → p.began + p.wid ≤ c.tick → completes (.pulseEnd n) s fun t => ended t false)
      ∧ (level → c.tick < p.began + p.wid → cuts → completes (.pulseEnd n) s fun t => ended t true)
      ∧ (¬ (level ∧ (p.began + p.wid ≤ c.tick ∨ cuts)) → completes (.pulseEnd n) s fun t => t = c))

/-- R46, R48, R51: the replica's increments in their ranges are written, others refused; RCMD takes the steps, and the loads from the latest
sync block of their kind on the active lane, and is refused as a whole when a load has none. A SYNC_TO out of range is refused. -/
def Obligations.ReplicaCommands : Prop :=
  ∀ (ang : Bool) (v : DWord) (w : Word) (s : State),
    let c := s.chip
    let y := if c.activeB then c.csd.lb else c.csd.la
    let a := if ang then CSD_ANG_INC else CSD_FT_INC
    let ok := if ang then v.toNat ≤ 0x14000000000000 else 0x14000000000 ≤ v.toNat ∧ v.toNat ≤ 0x3C000000000
    let onlyCsd (t : Chip) : Prop := t = { c with csd := t.csd }
    (ok → completes (.replicaIncWrite ang v) s fun t => t.reg64 a = v.toNat ∧ c.onlyRegs t [a, a + 4])
      ∧ (¬ ok → c.fire.clkStop = false → completes (.replicaIncWrite ang v) s fun t =>
        t.reg64 a = c.reg64 a ∧ t.flag CSD_RSTAT_REFUSED = true ∧ t.csd = c.csd)
      ∧ (soleBit w 4 0 → completes (.stepFt w) s fun t =>
        t.csd = { c.csd with ftStep := some (toSigned 64 (c.reg64 CSD_FT_STEP) * 2 ^ 16) } ∧ onlyCsd t)
      ∧ (soleBit w 4 1 → completes (.stepAng w) s fun t =>
        t.csd = { c.csd with angStep := some (toSigned 64 (c.reg64 CSD_ANG_STEP) * 2 ^ 16) } ∧ onlyCsd t)
      ∧ (soleBit w 4 2 → y.ft ≠ none → completes (.loadFt w) s fun t => t.csd = { c.csd with ftLoad := y.ft } ∧ onlyCsd t)
      ∧ (soleBit w 4 3 → y.ang ≠ none → completes (.loadAng w) s fun t => t.csd = { c.csd with angLoad := y.ang } ∧ onlyCsd t)
      ∧ (y.ft = none → c.fire.clkStop = false → completes (.loadFt w) s fun t => t.flag CSD_RSTAT_REFUSED = true ∧ t.csd = c.csd)
      ∧ (y.ang = none → c.fire.clkStop = false → completes (.loadAng w) s fun t => t.flag CSD_RSTAT_REFUSED = true ∧ t.csd = c.csd)
      ∧ (bits w.toNat 17 0 < 20 ∨ 160000 < bits w.toNat 17 0 → c.syncToWrite w.toNat = c)
      ∧ (20 ≤ bits w.toNat 17 0 → bits w.toNat 17 0 ≤ 160000 → (c.syncToWrite w.toNat).fld CSD_SYNC_TO_TIMEOUT = bits w.toNat 17 0)

/-- R47, R49, R205, R210: a sync block whose check fails is discarded and counted; SYNC_EPOCH of a lane is kept; SYNC_FT and SYNC_ANG
without an epoch of the preceding microsecond count in SYNC_NOEP; with one, the corrected value is kept, the replica latched, and at the
tick that follows the error stored in the word of the active lane or of the other (which tick that is, is the model's choice, log entry
92). SYNC_TO without a block of the active lane raises SYNC_LOST once. -/
def Obligations.SyncBlocks : Prop :=
  ∀ (l : CellLane) (w : DWord) (s : State),
    let c := s.chip
    let ln := cellLaneNum l
    let y := if l = .lb then c.csd.lb else c.csd.la
    let kept (t : Chip) : CellSync := if l = .lb then t.csd.lb else t.csd.la
    let heard := l = .la ∨ c.dual = true
    let active := (l == .lb) = c.activeB
    let chk := LN_CHK_ERR (laneBase ln)
    let good := blockOk w = true ∧ c.laneFresh ln = false
    let act := if c.activeB then c.csd.lb else c.csd.la
    let overdue := (c.lane (if c.activeB then 205 else 204)).upOnce = true ∧ c.syncFrom + 2000 * c.fld CSD_SYNC_TO_TIMEOUT ≤ c.time
      ∧ act.lost = false
    let counted (i : Instr) : Prop := completes i s fun t =>
      t.reg chk = Nat.min (c.reg chk + 1) 0xFFFFFFFF ∧ c.onlyRegs t [chk]
    (blockOk w = false → c.laneFresh ln = false → counted (.syncEpoch l w) ∧ counted (.syncFt l w) ∧ counted (.syncAng l w))
      ∧ (good → ¬ heard → completes (.syncEpoch l w) s fun t => { t with gls := c.gls } = c)
      ∧ (good → heard → completes (.syncEpoch l w) s fun t =>
        kept t = { y with epoch := some (bits w.toNat 55 32, bits w.toNat 31 12, c.time) }
          ∧ (active → bit (t.sr 16 6) 5 = true) ∧ t.regs = c.regs)
      ∧ (good → heard → y.epoch = none → c.fire.clkStop = false → completes (.syncFt l w) s fun t =>
        t.reg CLN_SYNC_NOEP = Nat.min (c.reg CLN_SYNC_NOEP + 1) 0xFFFFFFFF ∧ t.csd = c.csd)
      ∧ (good → heard → y.epoch = none → c.fire.clkStop = false → completes (.syncAng l w) s fun t =>
        t.reg CLN_SYNC_NOEP = Nat.min (c.reg CLN_SYNC_NOEP + 1) 0xFFFFFFFF ∧ t.csd = c.csd)
      ∧ (∀ hi g at' : Nat, good → heard → y.epoch = some (hi, g, at') → at' ≤ c.time → c.time ≤ at' + 2000 →
        let ft := ((hi * 2 ^ 40 + bits w.toNat 55 16) * 2 ^ 40 + bits w.toNat 15 12 * 2 ^ 36 + c.dlyUse ln * 2 ^ 36)
          % (domMod 1 : Nat)
        let ang := (((g * 2 ^ 12 + bits w.toNat 23 12) * 2 ^ 32 + bits w.toNat 55 24) * 2 ^ 40
          + c.dlyUse ln * (c.reg64 CSD_ANG_INC : Nat) / (40 * 2 ^ 40) * 2 ^ 40) % (domMod 1 : Nat)
        (completes (.syncFt l w) s fun t =>
          kept t = { y with ft := some ⟨ft.toNat, c.ctick, c.time⟩, ftLatch := some (c.csd.ft, decide active), lost := false }
            ∧ t.regs = c.regs ∧ (active → bit (t.sr 16 6) 5 = true))
          ∧ completes (.syncAng l w) s fun t =>
            kept t = { y with ang := some ⟨ang.toNat, c.ctick, c.time⟩, angLatch := some (c.csd.ang, decide active), lost := false }
              ∧ c.regsBut t [CSD_RSTAT] ∧ (active → t.fld CSD_RSTAT_BASE = bits w.toNat 57 56 ∧ bit (t.sr 16 6) 5 = true))
      ∧ (∀ r, c.csd.la.ft = some r → ∀ rep now, c.csd.la.ftLatch = some (rep, now) → now = true → c.csd.lb.ftLatch = none →
        c.csd.ftLoad = none → c.replicaTick.reg64 CSD_FT_ERR = syncErr r.val (moveAcc 1 rep (c.csd.ftStep.getD 0)))
      ∧ (overdue → c.fire.clkStop = false → completes .syncLost s fun t =>
        bits t.rstatWord 1 0 = 0 ∧ t.flag CSD_RSTAT_SYNC_LOST = true ∧ (if t.activeB then t.csd.lb else t.csd.la) = { act with lost := true })
      ∧ (¬ overdue → completes .syncLost s fun t => t = c)

-- Cell measurement, the PWM block and the ledger

/-- R274 to R288: a trigger starts a round when the converter is enabled, idle and its reference has settled, and is counted as missed while
a round runs; injections; the FIFO; the reference, settled 2 ms after it was switched on; a guarded write of ACTL; the code of a
conversion from the voltages at its inputs, and what its end writes. -/
def Obligations.CellMeasurement : Prop :=
  ∀ (w : Word) (r : Requester) (v : Vector Int 16) (refin : Nat) (clamp : Bool) (s : State), 0 < refin →
    let c := s.chip
    let a := c.adc
    let onlyAdc (t : Chip) (l : List Nat) : Prop := t = { c with regs := t.regs, adc := t.adc } ∧ c.regsBut t l
    let en := c.flag ADC_ACTL_EN
    let trig := c.fld ADC_ACTL_TRIG
    let guarded := bits (c.reg ADC_ACTL) 6 4 ≠ bits w.toNat 6 4 ∨ bits (c.reg ADC_ACTL) 2 1 ≠ bits w.toNat 2 1
    let badRef := bits w.toNat 5 4 = 3 ∨ (bit w.toNat 0 = true ∧ bits w.toNat 5 4 = 0 ∧ bit w.toNat 6 = false)
    let vref : Nat := if c.fld ADC_ACTL_REFSEL = 0 then 2500000000 else if c.fld ADC_ACTL_REFSEL = 1 then refin else 1800000000
    let ea := if a.injRun then c.reg ADC_INJCFG else Assoc.get (fun _ => 0) a.entA a.ent
    let vi (i : Nat) : Int := v.toList.getD i 0
    let vin : Int := (if bit ea 4 then vi (bits ea 3 0) - vi (bits ea 3 0 + 1) else vi (bits ea 3 0)) * 2 ^ bits ea 6 5
    let raw : Int := (2 * (vin * 2 ^ 17) + vref) / (2 * vref : Nat)
    let beyond := clamp || decide (113 * (vref : Int) < 100 * (vin.natAbs : Int))
    let round (i : Instr) (ok none_ : Prop) : Prop :=
      (ok → en = true → c.flag ADC_ASTAT_BUSY = false → a.live = true → completes i s fun t =>
          t.flag ADC_ASTAT_BUSY = true ∧ t.adc.rounds = a.rounds + 1 ∧ t.adc.ent = 0 ∧ t.adc.nent = c.fld ADC_ACTL_NENT
            ∧ onlyAdc t [ADC_ASTAT])
        ∧ (ok → en = true → c.flag ADC_ASTAT_BUSY = true → completes i s fun t =>
          t.flag ADC_ASTAT_TRIG_MISS = true ∧ t.reg ADC_TRIG_MISS_CNT = Nat.min (c.reg ADC_TRIG_MISS_CNT + 1) 0xFFFFFFFF
            ∧ onlyAdc t [ADC_ASTAT, ADC_TRIG_MISS_CNT])
        ∧ (none_ → completes i s fun t => t = c)
    let due := a.tdly.any fun x => x ≤ c.ctick
    round .go (trig ≠ 1) (trig = 1)
      ∧ round .tdlyExpiry (due = true ∧ trig = 2) (due = false)
      ∧ round .tperExpiry (trig = 3) (trig ≠ 3)
      ∧ (c.flag ADC_ASTAT_REF_SETTLED = true → c.flag ADC_ASTAT_INJ_PEND = false → completes .injGo s fun t =>
        t.flag ADC_ASTAT_INJ_PEND = true ∧ c.onlyRegs t [ADC_ASTAT])
      ∧ (c.flag ADC_ASTAT_REF_SETTLED = true → c.flag ADC_ASTAT_INJ_PEND = true → completes .injGo s fun t =>
        t.flag ADC_ASTAT_INJ_MISS = true ∧ t.reg ADC_INJ_MISS_CNT = Nat.min (c.reg ADC_INJ_MISS_CNT + 1) 0xFFFFFFFF
          ∧ c.onlyRegs t [ADC_ASTAT, ADC_INJ_MISS_CNT])
      ∧ (c.flag ADC_ASTAT_REF_SETTLED = false → c.fire.clkStop = false → completes .injGo s fun t =>
        t.flag ADC_ASTAT_REFUSED = true ∧ t.flag ADC_ASTAT_INJ_PEND = c.flag ADC_ASTAT_INJ_PEND)
      ∧ (c.flag ADC_ASTAT_INJ_PEND = true → completes .injectionStart s fun t => t = { c with adc := { a with injRun := true } })
      ∧ (c.flag ADC_ASTAT_INJ_PEND = false → completes .injectionStart s fun t => t = c)
      ∧ (completes .fifoClr s fun t => t.adc = { a with fifo := [] } ∧ t.fld ADC_FLEVEL_LEVEL = 0 ∧ onlyAdc t [ADC_FLEVEL])
      ∧ (a.fifo = [] → completes (.fifoRead r) s fun t => t = { c with rdata := 0x200 })
      ∧ (∀ x q, a.fifo = x :: q → completes (.fifoRead r) s fun t =>
        t.rdata = BitVec.ofNat 32 x ∧ t.adc = { a with fifo := q } ∧ t.fld ADC_FLEVEL_LEVEL = q.length % 128
          ∧ c.regsBut t [ADC_FLEVEL])
      ∧ (c.fld ADC_ACTL_REFSEL = 0 → c.flag ADC_ACTL_REFEN = true → a.refOut = false → a.refAt + 4000000 ≤ c.time → trig ≠ 1 →
        completes .refSettled s fun t =>
          t.flag ADC_ASTAT_REF_SETTLED = true ∧ t.adc = { a with live := en } ∧ onlyAdc t [ADC_ASTAT])
      ∧ (c.fld ADC_ACTL_REFSEL ≠ 0 ∨ c.flag ADC_ACTL_REFEN = false ∨ a.refOut = true ∨ c.time < a.refAt + 4000000 → completes .refSettled s fun t => t = c)
      ∧ (c.fld ADC_ACTL_REFSEL = 0 → c.flag ADC_ASTAT_REF_SETTLED = true → c.fire.clkStop = false → completes .refLost s fun t =>
        t.flag ADC_ASTAT_REF_SETTLED = false ∧ t.flag ADC_ASTAT_REF_LOST = true ∧ t.adc = { a with refOut := true })
      ∧ (completes .refReturn s fun t => t = { c with adc := { a with refOut := false, refAt := c.time } })
      ∧ (c.fire.clkStop = false → (en = true ∧ guarded) ∨ badRef → completes (.actlWrite w) s fun t =>
        t.reg ADC_ACTL = c.reg ADC_ACTL ∧ t.flag ADC_ASTAT_REFUSED = true ∧ t.adc = a)
      ∧ (¬ (en = true ∧ guarded) → ¬ badRef → bits w.toNat 2 1 ≠ 1 → completes (.actlWrite w) s fun t =>
        t.reg ADC_ACTL = writtenWord (regWord ADC_ACTL) (c.reg ADC_ACTL) w.toNat % 2 ^ 32
          ∧ (bits w.toNat 5 4 ≠ 0 → t.flag ADC_ASTAT_REF_SETTLED = true) ∧ onlyAdc t [ADC_ACTL, ADC_ASTAT]
          ∧ (en = false → bit w.toNat 0 = true → t.adc.rounds = 0 ∧ t.adc.filts = [] ∧ t.adc.usable = [] ∧ t.adc.enAt = c.time
            ∧ t.adc.live = t.flag ADC_ASTAT_REF_SETTLED)
          ∧ (en = true → bit w.toNat 0 = false → t.adc.filts = [] ∧ t.adc.tdly = [] ∧ t.adc.live = false
            ∧ t.adc.ending = c.flag ADC_ASTAT_BUSY))
      ∧ (a.injRun = true → c.flag ADC_INJCFG_INJ_FIFO = false → a.ending = false → completes (.conversionEnd v refin clamp) s fun t =>
        let conds := convConds a.prevGain a.prevBeyond (c.fld ADC_INJCFG_GAIN) (c.fld ADC_INJCFG_ACQ) (codeSat raw != raw || beyond)
        t.flag ADC_ASTAT_INJ_PEND = false ∧ t.flag ADC_ASTAT_INJ_DONE = true
          ∧ t.reg ADC_INJ_LAST = sampleWord (codeSat raw) 0 (!c.flag ADC_ASTAT_REF_SETTLED) conds true (a.rounds - 1) % 2 ^ 32
          ∧ t.adc = { a with injRun := false, prevGain := some (c.fld ADC_INJCFG_GAIN), prevBeyond := beyond }
          ∧ onlyAdc { t with gls := c.gls } [ADC_ASTAT, ADC_INJ_LAST, ADC_SETTLE_CNT, ADC_RECOV_CNT, ADC_OVR_CNT])
      ∧ (a.injRun = false → c.flag ADC_ASTAT_BUSY = false → completes (.conversionEnd v refin clamp) s fun t => t = c)
      ∧ (a.injRun = false → c.flag ADC_ASTAT_BUSY = true → a.ending = true → trig ≠ 1 → completes (.conversionEnd v refin clamp) s fun t =>
        t.flag ADC_ASTAT_BUSY = false ∧ t.adc.ending = false ∧ t.adc.filts = a.filts ∧ t.adc.fifo = a.fifo)
      ∧ (let conds := convConds a.prevGain a.prevBeyond (bits ea 6 5) (bits ea 16 8) (codeSat raw != raw || beyond)
         let r := filtStep (Assoc.get (fun _ => {}) a.filts a.ent) (Assoc.get (fun _ => 0) a.entB a.ent) (codeSat raw) conds
           (c.flag ADC_ASTAT_REF_SETTLED)
         a.injRun = false → c.flag ADC_ASTAT_BUSY = true → a.ending = false → a.ent < a.nent →
         (r.2 = none → completes (.conversionEnd v refin clamp) s fun t =>
            t.adc = { a with
              ent := a.ent + 1, prevGain := some (bits ea 6 5), prevBeyond := beyond
              filts := Assoc.set (fun _ => {}) a.filts a.ent r.1 }
              ∧ onlyAdc t [ADC_SETTLE_CNT, ADC_RECOV_CNT])
          ∧ ∀ y inv cs, r.2 = some (y, inv, cs) → codeSat y = y → bit cs 1 = false → bit (c.fld ADC_MASKS_FIFOMASK) a.ent = true →
            a.fifo.length < 64 → completes (.conversionEnd v refin clamp) s fun t =>
              t.reg (ADC_LATEST a.ent) = sampleWord y a.ent inv cs false (a.rounds - 1) % 2 ^ 32
                ∧ t.adc.fifo = a.fifo ++ [sampleWord y a.ent inv cs false (a.rounds - 1)] ∧ t.adc.ent = a.ent + 1
                ∧ onlyAdc { t with gls := c.gls } [ADC_LATEST a.ent, ADC_FLEVEL, ADC_SETTLE_CNT, ADC_RECOV_CNT])

/-- R134, R139 to R149, R314: the counter's boundary and compares, seals, events, pending turn-ons and the vernier end, none of which comes
while the outputs are frozen; the stop of the timing clock freezes them, and its return raises what was held. -/
def Obligations.PwmBlock : Prop :=
  ∀ (w : Word) (n g : Fin 4) (s : State),
    let c := s.chip
    let frozen := c.flag PWM_PSTAT_HALTED = true ∨ c.fire.clkStop = true
    let blocked := c.fld LDG_LSTAT_STATE = 0 ∨ c.fld LDG_LSTAT_STATE = 1
    let come (x : Option Nat) : Bool := x.any fun d => d ≤ c.ctick
    (bit w.toNat 0 = c.flag PWM_PCTL_MODE ∨ blocked → completes (.modeWrite w) s fun t =>
        t.reg PWM_PCTL = writtenWord (regWord PWM_PCTL) (c.reg PWM_PCTL) w.toNat % 2 ^ 32
          ∧ t.fld LDG_LSTAT_STATE = c.fld LDG_LSTAT_STATE ∧ c.regsBut t [PWM_PCTL, LDG_LSTAT])
      ∧ (bit w.toNat 0 ≠ c.flag PWM_PCTL_MODE → ¬ blocked → c.fire.clkStop = false → completes (.modeWrite w) s fun t =>
        t.reg PWM_PCTL = c.reg PWM_PCTL ∧ t.flag PWM_PSTAT_REFUSED = true)
      ∧ (frozen → (completes .periodBoundary s fun t => t = c) ∧ (completes (.pwmCompare n) s fun t => t = c)
        ∧ (completes .vernierEnd s fun t => t = c)
        ∧ (c.fire.haltByp = false ∨ c.fire.clkStop = true → completes (.gateOnEdge g) s fun t => t = c))
      ∧ (c.fire.pcnt + 1 < c.reg PWM_PER → completes .periodBoundary s fun t => t = c)
      ∧ (¬ frozen → c.reg PWM_PER ≤ c.fire.pcnt + 1 → completes .periodBoundary s fun t =>
        t.fire.pcnt = 0 ∧ t.flag PWM_SSTAT_PER_PEND = false ∧ t.flag PWM_SSTAT_CMP_PEND = false
          ∧ (∀ v, c.fire.sealPer = some v → t.reg PWM_PER = v % 2 ^ 32) ∧ (c.fire.sealPer = none → t.reg PWM_PER = c.reg PWM_PER)
          ∧ (∀ x0 x1 x2 x3, c.fire.sealCmp = some (x0, x1, x2, x3) →
            t.regWords (PWM_CMP 0) 4 = [x0, x1, x2, x3].map (· % 2 ^ 32))
          ∧ (c.fire.sealCmp = none → t.regWords (PWM_CMP 0) 4 = c.regWords (PWM_CMP 0) 4)
          ∧ (c.flag PWM_PCTL_MODE = false → t.reg PWM_PSTAT = c.reg PWM_PSTAT ∧ t.gates = c.gates))
      ∧ (c.reg PWM_PER ≤ c.reg (PWM_CMP n) ∨ c.fire.pcnt ≠ c.reg (PWM_CMP n) → completes (.pwmCompare n) s fun t => t = c)
      ∧ (¬ frozen → c.reg (PWM_CMP n) < c.reg PWM_PER → c.fire.pcnt = c.reg (PWM_CMP n) → bit (c.fld PWM_EVCTL_EN) (2 + n) = true → c.fld PWM_EVCTL_PSC = 0 →
        completes (.pwmCompare n) s fun t =>
          t.reg PWM_EVSTAT = c.reg PWM_EVSTAT ||| (if bit (c.reg PWM_EVSTAT) (2 + n) then 2 ^ (10 + n.val) else 2 ^ (2 + n.val)))
      ∧ (bit w.toNat 1 = false → 2 ≤ c.fld PWM_PER_SH_T → completes (.sealPer w) s fun t =>
        t.fire = { c.fire with sealPer := some (c.fld PWM_PER_SH_T) } ∧ t.flag PWM_SSTAT_PER_PEND = true ∧ c.regsBut t [PWM_SSTAT])
      ∧ (bit w.toNat 1 = false → c.fld PWM_PER_SH_T < 2 → c.fire.clkStop = false → completes (.sealPer w) s fun t =>
        t.fire.sealPer = c.fire.sealPer ∧ t.flag PWM_PSTAT_REFUSED = true)
      ∧ (bit w.toNat 0 = false → completes (.sealCmp w) s fun t =>
        t.fire = { c.fire with
          sealCmp := some (c.fld (PWM_CMP_SH_T 0), c.fld (PWM_CMP_SH_T 1), c.fld (PWM_CMP_SH_T 2), c.fld (PWM_CMP_SH_T 3)) }
          ∧ t.flag PWM_SSTAT_CMP_PEND = true ∧ c.regsBut t [PWM_SSTAT])
      ∧ (completes (.evctlWrite w) s fun t =>
        t.reg PWM_EVCTL = writtenWord (regWord PWM_EVCTL) (c.reg PWM_EVCTL) w.toNat % 2 ^ 32 ∧ t.fire = { c.fire with evCnt := [] }
          ∧ t = { c with regs := t.regs, fire := t.fire } ∧ c.regsBut t [PWM_EVCTL])
      ∧ (come (c.gate g).due = true → ¬ frozen → completes (.gateOnEdge g) s fun t =>
        bit (t.fld PWM_PSTAT_GATE) g = true ∧ (t.gate g).due = none
          ∧ ∀ j : Fin 4, j ≠ g → bit (t.fld PWM_PSTAT_GATE) j = bit (c.fld PWM_PSTAT_GATE) j)
      ∧ (come (c.gate g).due = false → completes (.gateOnEdge g) s fun t => t = c)
      ∧ (come c.fire.vernEnd = true → ¬ frozen → completes .vernierEnd s fun t =>
        t.fire.vernEnd = none ∧ t.fld LDG_LSTAT_STATE = (if c.fld LDG_LSTAT_STATE = 6 then 2 else c.fld LDG_LSTAT_STATE)
          ∧ ∀ j : Fin 4, bit (c.pattern 2) j = false → bit (t.fld PWM_PSTAT_GATE) j = false)
      ∧ (come c.fire.vernEnd = false → completes .vernierEnd s fun t => t = c)
      ∧ (c.fire.clkStop = false → completes .clkStop s fun t =>
        t.fire.clkStop = true ∧ t.flag PWM_PSTAT_FROZEN = true ∧ t.flag PWM_PSTAT_CLK_STOP = true)
      ∧ (c.fire.clkStop = true → completes .clkStop s fun t => t = c)
      ∧ (c.fire.clkStop = false → completes .clockReturn s fun t => t = c)
      ∧ (c.fire.clkStop = true → c.held = [] → completes .clockReturn s fun t =>
        t.fire = { c.fire with clkStop := false } ∧ t.flag PWM_PSTAT_FROZEN = c.flag PWM_PSTAT_HALTED ∧ c.regsBut t [PWM_PSTAT])
      ∧ (c.fire.clkStop = true → c.held = [srcClkStop] → completes .clockReturn s fun t =>
        t.fire.clkStop = false ∧ t.held = [] ∧ t.flag PWM_PSTAT_CLK_STOP = true
          ∧ (bit (t.reg (CFL_CSTATE 3)) 2 = true))

/-- R75, R78, R86, Table 4-8: a firing block whose check fails is counted; a tag outside the window counts as stale or early; in the window
an order or a commit takes an entry of its tag, a second order is counted as a duplicate, a repair replaces the order, an abort removes
it. R87 to R94: at the commit deadline T moves on and a plan is made: an executable pair counts in EXEC_CNT and its entry is erased, a
missing one counts as a lapse and holds. The execution instant takes the plan. R74, R150: stalls and guarded writes. -/
def Obligations.OrderLedger : Prop :=
  ∀ (l : CellLane) (w : DWord) (v : Word) (org : Bool) (e : Fin 4) (s : State),
    let c := s.chip
    let seen (t : Chip) : Chip := { t with gls := c.gls } -- the recorder set aside
    let b := if l = .la then 0 else 1
    let tag := bits w.toNat 55 44
    let diff := (tag + 4096 - c.fld LDG_LSTAT_T) % 4096
    let heard := blockOk w = true ∧ c.laneFresh (cellLaneNum l) = false ∧ (l = .la ∨ c.dual = true) ∧ c.fire.clkStop = false
    let chk := LN_CHK_ERR (laneBase (cellLaneNum l))
    let counted (i : Instr) : Prop := completes i s fun t => t.reg chk = Nat.min (c.reg chk + 1) 0xFFFFFFFF ∧ c.onlyRegs t [chk]
    let new := c.findEnt tag = none ∧ ∃ f : Fin 4, c.entValid f = false
    let blocked := c.fld LDG_LSTAT_STATE = 0 ∨ c.fld LDG_LSTAT_STATE = 1
    let a := if org then LDG_SLOT_ORG else LDG_SLOTS
    let x := v.toNat &&& (regWord a).rw
    let ticks (n : Nat) : Prop := ∀ m, c.slotTicks = some m → n < m
    let reacting := c.flag CFL_REACT_BLK = true ∨ c.flag CFL_REACT_BYP = true ∨ c.flag CFL_REACT_HLD = true
    let due := (c.startTick c.fire.num).any fun t => t + c.fld LDG_LCTL_STAGGER ≤ c.ctick + 24
    let free := ¬ blocked ∧ ¬ reacting ∧ c.flag PWM_PCTL_MODE = false
    (blockOk w = false → c.laneFresh (cellLaneNum l) = false → counted (.order l w) ∧ counted (.repair l w) ∧ counted (.commit l w) ∧ counted (.abort l w))
      ∧ (heard → diff < 8 → new → completes (.order l w) s fun t =>
        ∃ f : Fin 4, c.entValid f = false ∧ t.reg (LDG_ENTRY f) = tag + 2 ^ 16 + 2 ^ (17 + b) ∧ t.ordOf f b = bits w.toNat 55 12
          ∧ c.draw.2.onlyRegs (seen t) [LDG_ENTRY f, ordAddr f b, ordAddr f b + 4])
      ∧ (heard → diff < 8 → c.findEnt tag = some e.val → c.flag (ordBit e b) = false → c.flag (abortBit e b) = false →
        completes (.order l w) s fun t => t.flag (ordBit e b) = true ∧ t.ordOf e b = bits w.toNat 55 12
          ∧ c.onlyRegs (seen t) [LDG_ENTRY e, ordAddr e b, ordAddr e b + 4])
      ∧ (heard → diff < 8 → c.findEnt tag = some e.val → c.flag (ordBit e b) = true → completes (.order l w) s fun t =>
        t.reg LDG_DUP_CNT = Nat.min (c.reg LDG_DUP_CNT + 1) 0xFFFFFFFF ∧ c.onlyRegs (seen t) [LDG_DUP_CNT])
      ∧ (heard → diff < 8 → c.findEnt tag = some e.val → completes (.repair l w) s fun t =>
        t.flag (ordBit e b) = true ∧ t.flag (abortBit e b) = false ∧ t.ordOf e b = bits w.toNat 55 12
          ∧ c.onlyRegs (seen t) [LDG_ENTRY e, ordAddr e b, ordAddr e b + 4])
      ∧ (heard → diff < 8 → new → completes (.commit l w) s fun t =>
        ∃ f : Fin 4, c.entValid f = false ∧ t.reg (LDG_ENTRY f) = tag + 2 ^ 16 + 2 ^ (21 + 2 * b) ∧ t.cmtOf f b = bits w.toNat 55 12
          ∧ c.draw.2.onlyRegs (seen t) [LDG_ENTRY f, cmtAddr f b, cmtAddr f b + 4])
      ∧ (heard → diff < 8 → c.findEnt tag = some e.val → c.fld (cmtFld e b) = 1 → c.cmtOf e b ≠ bits w.toNat 55 12 →
        completes (.commit l w) s fun t => t.fld (cmtFld e b) = 2 ∧ c.onlyRegs (seen t) [LDG_ENTRY e, cmtAddr e b, cmtAddr e b + 4])
      ∧ (heard → diff < 8 → bits w.toNat 43 42 = 0 → c.findEnt tag = some e.val → c.flag (abortBit e b) = false →
        completes (.abort l w) s fun t => t.flag (abortBit e b) = true ∧ t.flag (ordBit e b) = false ∧ t.ordOf e b = 0
          ∧ c.onlyRegs (seen t) [LDG_ENTRY e, ordAddr e b, ordAddr e b + 4])
      ∧ (heard → diff < 8 → bits w.toNat 43 42 = 0 → c.findEnt tag = none → completes (.abort l w) s fun t => seen t = c)
      ∧ (heard → 2048 ≤ diff → completes (.order l w) s fun t =>
        t.reg LDG_STALE_CNT = Nat.min (c.reg LDG_STALE_CNT + 1) 0xFFFFFFFF ∧ t.regWords (LDG_ENTRY e) 9 = c.regWords (LDG_ENTRY e) 9)
      ∧ (heard → 8 ≤ diff → diff < 2048 → completes (.order l w) s fun t =>
        t.reg LDG_EARLY_CNT = Nat.min (c.reg LDG_EARLY_CNT + 1) 0xFFFFFFFF ∧ t.regWords (LDG_ENTRY e) 9 = c.regWords (LDG_ENTRY e) 9)
      ∧ (c.fire.clkStop = true → (completes .commitDeadline s fun t => t = c) ∧ (completes .executionInstant s fun t => t = c)
        ∧ (completes .stall s fun t => t = c))
      ∧ (due = false → completes .commitDeadline s fun t => t = c)
      ∧ (c.fire.clkStop = false → due = true → completes .commitDeadline s fun t =>
        t.fire.num = c.notCarried (c.fire.num + 1) ∧ t.fld LDG_LSTAT_T = t.fire.num % 4096 ∧ t.fire.plans.length = c.fire.plans.length + 1
          ∧ t.fire.activeB = c.flag CLN_CCTL_ACTIVE ∧ t.fire.lastDl = c.ctick ∧ t.fire.stalled = false)
      ∧ (c.fire.clkStop = false → c.flag PWM_PSTAT_HALTED = false → free → due = true →
        c.dual = false → ticks (c.fld LDG_LCTL_STAGGER) → c.findEnt (c.fld LDG_LSTAT_T) = some e.val → c.fld (cmtFld e 0) = 1 →
        c.flag (ordBit e 0) = true → completes .commitDeadline s fun t =>
          t.reg LDG_EXEC_CNT = Nat.min (c.reg LDG_EXEC_CNT + 1) 0xFFFFFFFF ∧ t.fld LDG_LSTAT_LAPSE_RUN = 0
            ∧ t.regWords (LDG_ENTRY e) 9 = List.replicate 9 0)
      ∧ (c.fire.clkStop = false → c.flag PWM_PSTAT_HALTED = false → free → due = true →
        ticks (c.fld LDG_LCTL_STAGGER) → c.findEnt (c.fld LDG_LSTAT_T) = none → completes .commitDeadline s fun t =>
          t.reg LDG_LAPSE_CNT = Nat.min (c.reg LDG_LAPSE_CNT + 1) 0xFFFFFFFF
            ∧ t.fld LDG_LSTAT_LAPSE_RUN = Nat.min (c.fld LDG_LSTAT_LAPSE_RUN + 1) 15)
      ∧ (c.fire.plans = [] → completes .executionInstant s fun t => t = c)
      ∧ (∀ p ps, c.fire.plans = p :: ps → c.instantDue p = false → completes .executionInstant s fun t => t = c)
      ∧ (∀ p ps, c.fire.plans = p :: ps → c.instantDue p = true → c.flag PWM_PSTAT_HALTED = false → c.flag PWM_PCTL_MODE = false →
        c.fire.repCnt ≠ 0 → completes .executionInstant s fun t =>
          t.fire.plans = ps ∧ t.fire.pcnt = 0
            ∧ (p.act = .hold → t.fld LDG_LSTAT_STATE = 5)
            ∧ (c.flag CFL_REACT_HLD = true → p.act ≠ .idle → t.fld LDG_LSTAT_STATE = 5)
            ∧ (∀ st : Fin 5, p.act = .go st → c.flag CFL_REACT_HLD = false → c.sddOff st = false → t.fld LDG_LSTAT_STATE = st.val ∧ t.fire.vernEnd = none
              ∧ ∀ j : Fin 4, bit (c.pattern st) j = false → bit (t.fld PWM_PSTAT_GATE) j = false)
            ∧ (∀ (st : Fin 5) (n : Nat), p.act = .pulse st n → 0 < n → c.flag CFL_REACT_HLD = false → c.sddOff st = false → t.fld LDG_LSTAT_STATE = 6
              ∧ t.fire.vernEnd = some (c.ctick + n)))
      ∧ (free → c.fire.stalled = false → c.fire.clkStop = false → c.fire.lastDl + 25600 ≤ c.ctick → completes .stall s fun t =>
        t.reg LDG_STALL_CNT = Nat.min (c.reg LDG_STALL_CNT + 1) 0xFFFFFFFF ∧ t.fire.stalled = true ∧ t.flag LDG_LFLAG_STALL = true)
      ∧ (¬ free ∨ c.fire.stalled = true ∨ c.ctick < c.fire.lastDl + 25600 → completes .stall s fun t => t = c)
      ∧ (x = c.reg a → completes (.slotGridWrite org v) s fun t => t = c)
      ∧ (x ≠ c.reg a → blocked → completes (.slotGridWrite org v) s fun t =>
        t.reg a = x ∧ t.regWords (LDG_ENTRY e) 9 = List.replicate 9 0 ∧ t.fire.plans = [] ∧ t.fire.evtCodes = []
          ∧ t.fire.carried = [] ∧ t.fld LDG_LSTAT_T = t.fire.num % 4096)
      ∧ (x ≠ c.reg a → ¬ blocked → c.fire.clkStop = false → completes (.slotGridWrite org v) s fun t =>
        t.reg a = c.reg a ∧ t.flag LDG_LFLAG_REFUSED = true ∧ t.regWords (LDG_ENTRY e) 9 = c.regWords (LDG_ENTRY e) 9)
      ∧ (bits v.toNat 9 0 = c.fld LDG_LCTL_STAGGER ∨ blocked → completes (.lctlWrite v) s fun t =>
        t.reg LDG_LCTL = writtenWord (regWord LDG_LCTL) (c.reg LDG_LCTL) v.toNat % 2 ^ 32 ∧ c.onlyRegs t [LDG_LCTL])
      ∧ (bits v.toNat 9 0 ≠ c.fld LDG_LCTL_STAGGER → ¬ blocked → c.fire.clkStop = false → completes (.lctlWrite v) s fun t =>
        t.fld LDG_LCTL_STAGGER = c.fld LDG_LCTL_STAGGER ∧ t.fld LDG_LCTL_LAPSE_MAX = bits v.toNat 15 12
          ∧ t.fld LDG_LCTL_REP_DIV = bits v.toNat 19 16 ∧ t.flag LDG_LFLAG_REFUSED = true)
      ∧ (completes (.activeWrite v) s fun t =>
        t.reg CLN_CCTL = writtenWord (regWord CLN_CCTL) (c.reg CLN_CCTL) v.toNat % 2 ^ 32 ∧ c.onlyRegs t [CLN_CCTL])

-- Angle inputs and Trellis

/-- R52 to R68: the guarded write of ICTL; a change of the filtered lines counts a position in the direction it gives, or an error when both
lines change; a change held too short is counted as a glitch; the index mark takes the position to zero, is checked, and has the time of
the first of its samples; chatter, loss of signal, each at its time, a change of CPR while EN is 1, and the grid vector's check. That
CHATTER comes at the window's end is in the command table. -/
def Obligations.AngleInputs : Prop :=
  ∀ (n b : Fin 4) (v : Lines) (held : BitVec 10) (w : Word) (s : State),
    let c := s.chip
    let x := c.ain n
    let en := c.flag (ANG_ICTL_EN n) = true
    let o := x.lines
    let da := o.a ≠ v.a
    let db := o.b ≠ v.b
    let rising := o.z = false ∧ v.z = true
    let ab (t : Chip) (l : List Nat) : Prop := t = { c with regs := t.regs, angin := t.angin } ∧ c.regsBut t l
    let kept := held.toNat < c.fld (ANG_FILT_FILT_N n)
    let quad := en ∧ ¬ kept ∧ c.flag (ANG_ICTL_MODE n) = false ∧ c.fld (ANG_ICTL_MARK n) = 0
    let m := Nat.max (c.fld (ANG_CPR_COUNT n)) 1
    let p := c.reg (ANG_POS n)
    let dir := xor (if da then v.a == v.b else v.a != v.b) (c.flag (ANG_ICTL_DIRINV n))
    let guarded := bit w.toNat 1 ≠ c.flag (ANG_ICTL_MODE n) ∨ bits w.toNat 17 16 ≠ c.fld (ANG_ICTL_MARK n)
    let mag := Nat.min ((toSigned 16 (bits w.toNat 15 0) * toSigned 16 (bits w.toNat 15 0)
      + toSigned 16 (bits w.toNat 31 16) * toSigned 16 (bits w.toNat 31 16)).toNat / 2 ^ 14) 0xFFFF
    let inWin := c.fld (ANG_VWIN_VLO b) ≤ mag ∧ mag ≤ c.fld (ANG_VWIN_VHI b)
    let win := 1000 * Nat.max (c.fld (ANG_CHAT_CHAT_WIN n)) 1
    let count := bits w.toNat 23 0
    (en → guarded → completes (.ictlWrite n w) s fun t =>
        t.reg (ANG_ICTL n) = c.reg (ANG_ICTL n) ∧ t.flag (ANG_ISTAT_REFUSED n) = true ∧ t.angin = c.angin)
      ∧ (¬ (en ∧ guarded) → completes (.ictlWrite n w) s fun t =>
        t.reg (ANG_ICTL n) = writtenWord (regWord (ANG_ICTL n)) (c.reg (ANG_ICTL n)) w.toNat % 2 ^ 32
          ∧ (¬ en → bit w.toNat 0 = true → t.reg (ANG_FREQ n) = 0 ∧ t.flag (ANG_ISTAT_FVALID n) = false ∧ (t.ain n).hist = [])
          ∧ (en → bit w.toNat 0 = false → t.flag (ANG_ISTAT_LOCKED n) = false)
          ∧ (bit w.toNat 0 = true → bit w.toNat 1 = true → t.flag (ANG_ISTAT_DIR n) = xor o.b (t.flag (ANG_ICTL_DIRINV n))) ∧ ab t [ANG_ICTL n, ANG_FREQ n, ANG_ISTAT n])
      ∧ (¬ en → completes (.anginEdge n v held) s fun t => t.regs = c.regs ∧ (kept → t = c) ∧ (¬ kept → (t.ain n).lines = v))
      ∧ (en → kept → completes (.anginEdge n v held) s fun t =>
        t.reg (ANG_GLITCH_CNT n) =
            Nat.min (c.reg (ANG_GLITCH_CNT n) + ((if da then 1 else 0) + (if db then 1 else 0) + (if o.z ≠ v.z then 1 else 0))) 0xFFFFFFFF
          ∧ (t.ain n).lines = o ∧ ab t [ANG_GLITCH_CNT n])
      ∧ (quad → ¬ rising → da → db → completes (.anginEdge n v held) s fun t =>
        t.reg (ANG_QERR_CNT n) = Nat.min (c.reg (ANG_QERR_CNT n) + 1) 0xFFFFFFFF ∧ t.reg (ANG_POS n) = p
          ∧ t.flag (ANG_ISTAT_QERR n) = true ∧ t.flag (ANG_ISTAT_LOCKED n) = false
          ∧ bit (t.reg ANG_ASUSP) (c.fld (ANG_ICTL_BASE n)) = true)
      ∧ (quad → ¬ rising → (da ∧ ¬ db ∨ ¬ da ∧ db) → completes (.anginEdge n v held) s fun t =>
        t.reg (ANG_POS n) = (if x.zeroNext then 0 else if dir then (p + m - 1) % m else (p + 1) % m)
          ∧ t.flag (ANG_ISTAT_DIR n) = dir ∧ t.flag (ANG_ISTAT_LOS n) = false ∧ (t.ain n).lines = v
          ∧ ab t [ANG_POS n, ANG_ISTAT n, ANG_FREQ n])
      ∧ (quad → rising → ¬ da → ¬ db → (p ≤ 2 ∨ m ≤ p + 2) → completes (.anginEdge n v held) s fun t =>
        t.reg (ANG_POS n) = 0 ∧ t.reg64 (ANG_MARK_TS n) = c.accAtTick 1 (c.tick + 1 - held.toNat) / 2 ^ 40 % 2 ^ 64
          ∧ (held = 1 → t.reg64 (ANG_MARK_TS n) = c.ftNs % 2 ^ 64)
          ∧ t.flag (ANG_ISTAT_LOCKED n) = (c.flag (ANG_ISTAT_LOCKED n) || decide (1 ≤ x.good))
          ∧ ab t [ANG_POS n, ANG_ISTAT n, ANG_MARK_TS n, ANG_MARK_TS n + 4, ANG_MARK_AV n, ANG_MARK_AV n + 4])
      ∧ (quad → rising → ¬ da → ¬ db → ¬ (p ≤ 2 ∨ m ≤ p + 2) → completes (.anginEdge n v held) s fun t =>
        t.reg (ANG_POS n) = 0 ∧ t.reg (ANG_MARK_ERR_CNT n) = Nat.min (c.reg (ANG_MARK_ERR_CNT n) + 1) 0xFFFFFFFF
          ∧ t.flag (ANG_ISTAT_LOCKED n) = false ∧ t.flag (ANG_ISTAT_MARK_ERR n) = true)
      ∧ (¬ en → (completes (.chatterWindow n) s fun t => t = c) ∧ completes (.los n) s fun t => t = c)
      ∧ (c.tick < x.winAt + win → completes (.chatterWindow n) s fun t => t = c)
      ∧ (en → x.winAt + win ≤ c.tick → (∀ d ∈ x.drop, d ≤ c.fld (ANG_CHAT_CHAT_MAX n)) → completes (.chatterWindow n) s fun t =>
        t.ain n = { x with drop := [0, 0, 0], winAt := x.winAt + win } ∧ t.regs = c.regs)
      ∧ (∀ d, en → x.winAt + win ≤ c.tick → d ∈ x.drop → c.fld (ANG_CHAT_CHAT_MAX n) < d → completes (.chatterWindow n) s fun t =>
        t.flag (ANG_ISTAT_CHATTER n) = true ∧ t.ain n = { x with drop := [0, 0, 0], winAt := x.winAt + win })
      ∧ (c.flag (ANG_ISTAT_FVALID n) = false → (c.losDue n = true ↔
        2000 * Nat.max (c.fld (ANG_FILT_LOS_TO n)) 1 ≤ 2 * (c.tick - Nat.max (x.lastCnt.getD 0) x.enAt)))
      ∧ (en → c.flag (ANG_ISTAT_LOS n) = false → c.losDue n = true → completes (.los n) s fun t =>
        t.flag (ANG_ISTAT_LOS n) = true ∧ t.flag (ANG_ISTAT_LOS_SEEN n) = true ∧ t.flag (ANG_ISTAT_LOCKED n) = false
          ∧ t.flag (ANG_ISTAT_FVALID n) = false ∧ t.reg (ANG_FREQ n) = 0 ∧ t.reg (ANG_POS n) = p)
      ∧ (c.flag (ANG_ISTAT_LOS n) = true ∨ c.losDue n = false → completes (.los n) s fun t => t = c)
      ∧ (count = c.fld (ANG_CPR_COUNT n) → c.cprWrite n w.toNat = c.plainWrite (ANG_CPR n) w.toNat)
      ∧ (en → count ≠ c.fld (ANG_CPR_COUNT n) → (c.cprWrite n w.toNat).reg (ANG_CPR n) = c.reg (ANG_CPR n)
        ∧ (c.cprWrite n w.toNat).flag (ANG_ISTAT_REFUSED n) = true)
      ∧ (inWin → completes (.vec b w) s fun t =>
        t.reg (ANG_VEC b) = writtenWord (regWord (ANG_VEC b)) (c.reg (ANG_VEC b)) w.toNat % 2 ^ 32 ∧ c.onlyRegs t [ANG_VEC b])
      ∧ (¬ inWin → completes (.vec b w) s fun t =>
        t.reg (ANG_VIOL_CNT b) = Nat.min (c.reg (ANG_VIOL_CNT b) + 1) 0xFFFFFFFF ∧ bit (t.reg ANG_ASUSP) b = true)

/-- R144, R145, R289 to R300: the gate read-back, the driver status inputs with their blanking, the contact inputs with their wetting and
their pairs, and the gate-driver supply. How the pin levels of a GATE_RB and the times of wetting periods and chatter windows are told
is the model's choice (log entry 97). R293 to R295, R391: the bypass sequence: its start, its repetition, its refusal; each stage acts
once, at its time, while the sequence and the timing clock run; the sequence ends when both outputs have been released, and a warm reset
held by it then starts. -/
def Obligations.TrellisAndBypass : Prop :=
  (∀ (levels : BitVec 4) (g n i : Fin 4) (p : Fin 2) (level : Bool) (held : BitVec 5) (w : Word) (v : Vector Byte 4) (s : State),
    let c := s.chip
    let runs := c.fire.clkStop = false
    let onlyTrl (t : Chip) (l : List Nat) : Prop := t = { c with regs := t.regs, trl := t.trl } ∧ c.regsBut t l
    let x := c.rb g
    let looks := c.flag TRL_TCTL_RB_EN = true ∧ runs ∧ c.rbTicks g 1 = true
    let ran := c.rbf ≤ x.run ∨ c.rbTicks g c.rbf = true
    let pins (t : Chip) : Prop := t.pinWord = levels.toNat ∧ onlyTrl t []
    let wrong := bit levels.toNat g ≠ bit (c.fld PWM_PSTAT_GATE) g
    let filt := Nat.min (Nat.max (c.fld TRL_DRVCFG_DFILT) 1) 16
    let on := level == bit (c.fld TRL_DRVCFG_DPOL) n
    let was := Assoc.get (fun _ => false) c.trl.drv n
    let passes := filt ≤ held.toNat ∧ runs ∧ was ≠ on
    let ts := c.ctick + 1 - held.toNat
    let armed := bit (c.fld TRL_DRVCFG_DRVEN) n = true
    let opened := Assoc.get (fun _ => false) c.fire.blankOpen n = true ∧ c.blankOver n = true ∧ runs
    let told := Assoc.get (fun _ => false) c.trl.tripped n
    let tripped (t : Chip) : Prop := bit (t.fld TRL_TSTAT_DRV_TRIP) n = true
      ∧ t.reg TRL_DRV_TRIP_CNT = Nat.min (c.reg TRL_DRV_TRIP_CNT + 1) 0xFFFFFFFF
    let st (q : Nat) := pairState (c.fld (zoneFld (2 * q))) (c.fld (zoneFld (2 * q + 1)))
    let badRst := (bit w.toNat 1 = true ∧ st 0 ≠ 1 ∧ st 0 ≠ 2) ∨ (bit w.toNat 2 = true ∧ st 1 ≠ 1 ∧ st 1 ≠ 2)
    (looks → wrong → ran → x.told = false → x.bar = none → completes (.gateRb levels g) s fun t =>
        t.flag TRL_TSTAT_GATE_RB = true ∧ t.fld TRL_RBSTAT_GATE = g.val ∧ (t.rb g).told = true
          ∧ t.fld TRL_RBSTAT_TS = (if c.rbf ≤ x.run then x.first else c.ctick + 1 - c.rbf) % 65536)
      ∧ (looks → ¬ wrong → completes (.gateRb levels g) s fun t => t.rb g = {} ∧ t.pinWord = levels.toNat
          ∧ t.reg TRL_RB_GLITCH = (if x.told || x.bar.isSome then c.reg TRL_RB_GLITCH else Nat.min (c.reg TRL_RB_GLITCH + 1) 0xFFFFFFFF)
          ∧ onlyTrl t [TRL_RB_GLITCH])
      ∧ (¬ looks ∨ (wrong ∧ (x.told = true ∨ ¬ ran)) → completes (.gateRb levels g) s fun t => pins t)
      ∧ (¬ passes → completes (.drvstEdge n level held) s fun t => t = c)
      ∧ (passes → on = false → completes (.drvstEdge n level held) s fun t =>
        t.reg (TRL_DRVTS n + 4) = ts % 2 ^ 32 ∧ Assoc.get (fun _ => false) t.trl.drv n = false ∧ onlyTrl { t with gls := c.gls } [TRL_DRVTS n + 4])
      ∧ (passes → on = true → c.blanked n ts = true → c.blankOver n = false → completes (.drvstEdge n level held) s fun t =>
        t.reg (TRL_DRVTS n) = ts % 2 ^ 32 ∧ t.reg (PWM_BLANKED_CNT n) = Nat.min (c.reg (PWM_BLANKED_CNT n) + 1) 0xFFFFFFFF
          ∧ onlyTrl { t with gls := c.gls } [TRL_DRVTS n, PWM_BLANKED_CNT n])
      ∧ (passes → on = true → c.blanked n ts = true → c.blankOver n = true → armed → completes (.drvstEdge n level held) s fun t =>
        t.reg (PWM_BLANKED_CNT n) = Nat.min (c.reg (PWM_BLANKED_CNT n) + 1) 0xFFFFFFFF ∧ tripped t)
      ∧ (passes → on = true → c.blanked n ts = false → armed → completes (.drvstEdge n level held) s fun t =>
        t.reg (TRL_DRVTS n) = ts % 2 ^ 32 ∧ tripped t)
      ∧ (completes (.dpolWrite w) s fun t =>
        t.reg TRL_DRVCFG = writtenWord (regWord TRL_DRVCFG) (c.reg TRL_DRVCFG) w.toNat % 2 ^ 32
          ∧ Assoc.get (fun _ => false) t.trl.drv n = (was && bit (c.fld TRL_DRVCFG_DPOL) n == bit w.toNat (12 + n))
          ∧ onlyTrl t [TRL_DRVCFG])
      ∧ (opened → was = true → told = false → armed → completes (.blankWindowEnd n) s fun t =>
        Assoc.get (fun _ => false) t.fire.blankOpen n = false ∧ tripped t)
      ∧ (opened → was = false ∨ told = true ∨ ¬ armed → completes (.blankWindowEnd n) s fun t =>
        Assoc.get (fun _ => false) t.fire.blankOpen n = false ∧ t.regs = c.regs)
      ∧ (¬ opened → completes (.blankWindowEnd n) s fun t => t = c)
      ∧ (c.wetSample = false → completes (.contactSample v) s fun t => t = c)
      ∧ (c.flag TRL_TCTL_CIN_EN = false → c.wetSample = false ∧ c.wet = false)
      ∧ (c.flag TRL_TCTL_CIN_EN = true → (c.wet = true ↔ (c.ctick - c.trl.cinAt) / 400 % c.fld TRL_WETCFG_WPER < c.fld TRL_WETCFG_WON))
      ∧ (c.wetSample = true → c.fld TRL_CINCFG_CFILT = 1 → completes (.contactSample v) s fun t =>
        t.fld (zoneFld i) =
            (if (v.get i).toNat < c.fld TRL_CTHR_TH_LO then 0 else if (v.get i).toNat ≤ c.fld TRL_CTHR_TH_HI then 1 else 2)
          ∧ (c.pairOn p = true → c.pairLocked p = false → ¬ (c.fld (pairFld p) = 3 ∧ c.disDue p = true) →
            t.fld (pairFld p) = pairState (t.fld (zoneFld (2 * p))) (t.fld (zoneFld (2 * p + 1))))
          ∧ (c.pairOn p = true → c.pairLocked p = true → t.fld (pairFld p) = 5))
      ∧ (c.flag TRL_TCTL_CIN_EN = false ∨ c.ctick < c.trl.chatAt + c.cinWin → completes .cinChatterWindow s fun t => t = c)
      ∧ (c.flag TRL_TCTL_CIN_EN = true → c.trl.chatAt + c.cinWin ≤ c.ctick →
        (∀ j : Fin 4, Assoc.get (fun _ => 0) c.trl.rej j ≤ c.fld TRL_CINCFG_CHAT_MAX) → completes .cinChatterWindow s fun t =>
          t.trl = { c.trl with rej := [], chatAt := c.trl.chatAt + c.cinWin } ∧ t.regs = c.regs)
      ∧ (c.flag TRL_TCTL_CIN_EN = true → c.trl.chatAt + c.cinWin ≤ c.ctick →
        c.fld TRL_CINCFG_CHAT_MAX < Assoc.get (fun _ => 0) c.trl.rej i → runs → completes .cinChatterWindow s fun t =>
          t.trl.rej = [] ∧ bit (t.fld TRL_TSTAT_CHATTER) i = true)
      ∧ (c.pairOn p = true → c.fld (pairFld p) = 3 → c.disDue p = true → runs → completes (.disc p) s fun t =>
        t.fld (pairFld p) = 5 ∧ t.pairLocked p = true ∧ bit (t.fld TRL_TSTAT_DISC) p = true)
      ∧ (¬ (c.pairOn p = true ∧ c.fld (pairFld p) = 3 ∧ c.disDue p = true) → completes (.disc p) s fun t => t = c)
      ∧ (badRst → runs → completes (.discRst w) s fun t =>
        t.flag TRL_TSTAT_REFUSED = true ∧ t.fld (pairFld p) = c.fld (pairFld p))
      ∧ (¬ badRst → completes (.discRst w) s fun t =>
        t.fld (pairFld p) = (if bit w.toNat (1 + p) = true ∧ c.pairLocked p = true then (if c.pairOn p = true then st p else 0)
            else c.fld (pairFld p))
          ∧ t.pairLocked p = (c.pairLocked p && !bit w.toNat (1 + p)) ∧ onlyTrl t [TRL_CINSTAT])
      ∧ (let risen : Trl := { c.trl with low := false, dipAt := none, dipUv := false, riseAt := c.time }
         let on := c.flag TRL_TCTL_VAUX_EN = true
         (on → c.trl.dipAt = none →
            (completes .vauxDip s fun t => t = { c with trl := { c.trl with low := true, dipAt := some c.time, dipUv := false } })
            ∧ (c.trl.low = false → c.trl.riseAt + 4000 ≤ c.time → completes .vauxOk s fun t =>
              t.flag TRL_TSTAT_VAUX_OK = true ∧ c.onlyRegs t [TRL_TSTAT])
            ∧ (c.trl.low = true ∨ c.time < c.trl.riseAt + 4000 → completes .vauxOk s fun t => t = c)
            ∧ (completes .vauxRise s fun t => t = { c with trl := risen }) ∧ completes .vauxUv s fun t => t = c)
          ∧ (∀ d, c.trl.dipAt = some d → on →
            (c.trl.dipUv = true ∨ c.time < d + 4000 → completes .vauxRise s fun t => t.trl = risen
              ∧ t.reg TRL_VAUX_GLITCH = (if c.trl.dipUv then c.reg TRL_VAUX_GLITCH else Nat.min (c.reg TRL_VAUX_GLITCH + 1) 0xFFFFFFFF)
              ∧ onlyTrl t [TRL_VAUX_GLITCH])
            ∧ (c.trl.dipUv = false → d + 4000 ≤ c.time → runs → completes .vauxUv s fun t => t.trl.dipUv = true
              ∧ t.flag TRL_TSTAT_VAUX_OK = false ∧ t.flag TRL_TSTAT_VAUX_UV = true)
            ∧ (c.time < d + 4000 → completes .vauxUv s fun t => t = c)
            ∧ (completes .vauxDip s fun t => t = { c with trl := { c.trl with low := true } }) ∧ completes .vauxOk s fun t => t = c)
          ∧ (¬ on → (completes .vauxDip s fun t => t = { c with trl := { c.trl with low := true } })
            ∧ (completes .vauxRise s fun t => t = { c with trl := risen })
            ∧ (completes .vauxUv s fun t => t = c) ∧ completes .vauxOk s fun t => t = c)))
    ∧ (∀ (s : State),
    let c := s.chip
    let onlyTrl (t : Chip) (l : List Nat) : Prop := t = { c with regs := t.regs, trl := t.trl } ∧ c.regsBut t l
    let ready := c.fld LDG_LSTAT_STATE = 1 ∨ c.fld LDG_LSTAT_STATE = 2
    let live := c.flag TRL_TSTAT_BYP_RUN = true ∧ c.fire.clkStop = false
    let free := c.sys.heldWarm = false
    let ms (n : Nat) : Nat := 400000 * n
    let dly := c.fld TRL_BYPCFG_BYPC_DLY
    let hold := ms (Nat.max (c.fld TRL_BYPCFG_BYPF_HOLD) 1)
    let travel := ms (Nat.max (c.fld TRL_BYPCFG_TRAVEL) 1)
    let still (i : Instr) : Prop := completes i s fun t => t = c
    (ready → c.fire.clkStop = false → c.sys.stopCell = false → c.flag TRL_TSTAT_BYP_RUN = false → completes .bypGo s fun t =>
        t.flag TRL_TSTAT_BYP_RUN = true ∧ t.trl = { c.trl with bypStart := c.ctick, bypfSt := 0, bypcSt := 0, confAt := none }
          ∧ onlyTrl t [TRL_TSTAT])
      ∧ (ready → c.flag TRL_TSTAT_BYP_RUN = true → completes .bypGo s fun t =>
        t.reg TRL_BYP_REPEAT = Nat.min (c.reg TRL_BYP_REPEAT + 1) 0xFFFFFFFF ∧ c.onlyRegs t [TRL_BYP_REPEAT])
      ∧ (¬ ready → c.fire.clkStop = false → completes .bypGo s fun t =>
        t.flag TRL_TSTAT_REFUSED = true ∧ t.regWords TRL_DRVCFG 6 = c.regWords TRL_DRVCFG 6)
      ∧ (live → c.trl.bypfSt = 0 → dly ≠ 0 →
        (c.bypReadsL = true → completes .bypfAssert s fun t => t.flag TRL_TSTAT_BYPF = true ∧ t.flag TRL_TSTAT_BYPASSED = true
            ∧ t.flag TRL_TSTAT_BYPF_FORCED = c.flag TRL_TSTAT_BYPF_FORCED
            ∧ t.trl = { c.trl with bypfSt := 1, bypfAt := c.ctick } ∧ onlyTrl t [TRL_TSTAT])
          ∧ (c.trl.bypStart + 400 ≤ c.ctick →
            completes .bypfForced s fun t => t.flag TRL_TSTAT_BYPF = true ∧ t.flag TRL_TSTAT_BYPF_FORCED = true
              ∧ t.trl = { c.trl with bypfSt := 1, bypfAt := c.ctick } ∧ onlyTrl t [TRL_TSTAT]))
      ∧ (live → c.trl.bypfSt = 0 → dly = 0 → c.trl.bypcSt = 0 → c.bypReadsL = true → completes .bypfAssert s fun t =>
        t.flag TRL_TSTAT_BYPF = true ∧ t.flag TRL_TSTAT_BYPC = true ∧ t.trl.bypfSt = 1 ∧ t.trl.bypcSt = 1 ∧ t.trl.bypcAt = c.ctick)
      ∧ (c.bypReadsL = false → still .bypfAssert) ∧ (c.ctick < c.trl.bypStart + 400 → still .bypfForced)
      ∧ (live → c.trl.bypcSt = 0 → dly ≠ 0 → c.trl.bypStart + ms dly ≤ c.ctick → completes .bypcAssert s fun t =>
        t.flag TRL_TSTAT_BYPC = true ∧ t.trl = { c.trl with
          bypcSt := 1, bypcAt := c.ctick, confAt := if c.trl.confAt = none ∧ c.closed = true then some c.ctick else c.trl.confAt }
          ∧ onlyTrl t [TRL_TSTAT])
      ∧ (dly = 0 ∨ c.ctick < c.trl.bypStart + ms dly → still .bypcAssert)
      ∧ (live → free → c.trl.bypfSt = 1 → c.trl.bypfAt + hold ≤ c.ctick → completes .bypfRelease s fun t =>
        t.flag TRL_TSTAT_BYPF = false ∧ t.flag TRL_TSTAT_BYP_RUN = decide (c.trl.bypcSt ≠ 2) ∧ t.trl = { c.trl with bypfSt := 2 }
          ∧ onlyTrl t [TRL_TSTAT])
      ∧ (∀ d, c.trl.confAt = some d → live → free → c.trl.bypcSt = 1 → d + ms 10 ≤ c.ctick → completes .bypcRelease s fun t =>
        t.flag TRL_TSTAT_BYPC = false ∧ t.flag TRL_TSTAT_BYP_DONE = true ∧ t.flag TRL_TSTAT_BYP_RUN = decide (c.trl.bypfSt ≠ 2)
          ∧ t.trl = { c.trl with bypcSt := 2 } ∧ onlyTrl t [TRL_TSTAT])
      ∧ (live → free → c.trl.bypcSt = 1 → c.trl.confAt = none → c.trl.bypcAt + travel ≤ c.ctick → completes .bypNoclose s fun t =>
        t.flag TRL_TSTAT_BYPC = false ∧ t.flag TRL_TSTAT_BYP_NOCLOSE = true ∧ t.flag TRL_TSTAT_BYP_DONE = c.flag TRL_TSTAT_BYP_DONE)
      ∧ (live → c.sys.heldWarm = true → c.trl.bypfSt = 1 → c.trl.bypcSt = 2 → c.trl.bypfAt + hold ≤ c.ctick →
        completes .bypfRelease s fun t => t.sys.cellRst = some (false, false) ∧ t.sys.heldWarm = false ∧ t.fire = {}
          ∧ t.trl.bypfSt = 2 ∧ t.trl.confAt = none ∧ t.flag TRL_TSTAT_BYPASSED = false)
      ∧ (free → (c.ctick < c.trl.bypfAt + hold → still .bypfRelease) ∧ (c.ctick < c.trl.bypcAt + travel → still .bypNoclose)
        ∧ ∀ d, c.trl.confAt = some d → c.ctick < d + ms 10 → still .bypcRelease)
      ∧ (free → ¬ live → still .bypfAssert ∧ still .bypfForced ∧ still .bypcAssert ∧ still .bypfRelease ∧ still .bypcRelease
        ∧ still .bypNoclose)
      ∧ (free → c.trl.bypfSt = 2 → still .bypfAssert ∧ still .bypfForced ∧ still .bypfRelease)
      ∧ (free → c.trl.bypcSt = 2 → still .bypcAssert ∧ still .bypcRelease ∧ still .bypNoclose))

-- Belvedere and Bandstand

/-- R104, R105, R107, R109, R130: reports, events and samples of the cell lanes, forecast records, RESEED, and the enable of Belvedere. R76,
R95: the start of a slot that the base has reached is acted on: every Kiosk's SLOT line becomes pending; the first time, the slot is
taken, and with Bandstand enabled and no commit relayed the miss is counted. A start reached before a load or step moved the base comes
first. -/
def Obligations.BelvedereAndSlots : Prop :=
  (∀ (n : Fin 192) (w : DWord) (v ra rb : Word) (p : Plane) (s : State),
    let c := s.chip
    let meas := c.flag (LN_LCTL_MEAS (laneBase n)) = true
    let seen (t : Chip) : Chip := { t with gls := c.gls } -- the recorder set aside
    let counted (i : Instr) (a : Nat) : Prop := completes i s fun t => t.reg a = Nat.min (c.reg a + 1) 0xFFFFFFFF ∧ c.onlyRegs (seen t) [a]
    let chk := LN_CHK_ERR (laneBase n)
    let good := blockOk w = true ∧ c.laneFresh n = false
    let unk := LN_UNK_CNT (laneBase n)
    let k := c.slotOfTag (bits w.toNat 55 44)
    let r : Rep := { slot := k, vcap := bits w.toNat 43 28, tj := bits w.toNat 27 20, state := bits w.toNat 19 17, supp := bit w.toNat 16,
                     fb := bit w.toNat 15 }
    let inputs := (List.range 4).filter fun m => c.flag (BLV_MIN_CTL_EN m) && c.fld (BLV_MIN_CTL_LANE m) == n.val
    let j := c.slotOfTag (ra.toNat % 4096)
    let late := c.blv.frozen.contains j = true ∨ j ≤ c.slotNow + 1
    let onlyBlv (t : Chip) (l : List Nat) : Prop := t = { c with regs := t.regs, blv := t.blv } ∧ c.regsBut t l
    (blockOk w = false → c.laneFresh n = false → counted (.report n w) chk ∧ counted (.event n w) chk ∧ counted (.meas n w) chk)
      ∧ (good → meas → counted (.report n w) unk ∧ counted (.event n w) unk)
      ∧ (good → ¬ meas → counted (.meas n w) unk ∧ completes (.event n w) s fun t => seen t = c)
      ∧ (good → ¬ meas → c.flag BLV_BCTL_EN = false → completes (.report n w) s fun t => seen t = c)
      ∧ (good → ¬ meas → c.flag BLV_BCTL_EN = true → (c.obs n).seen.contains k = true → counted (.report n w) BLV_REP_DUP)
      ∧ (good → ¬ meas → c.flag BLV_BCTL_EN = true → (c.obs n).seen.contains k = false →
        completes (.report n w) s fun t =>
          t.obs n = { c.obs n with queue := (c.obs n).queue ++ [r], seen := (k :: (c.obs n).seen).take 64 } ∧ onlyBlv (seen t) [])
      ∧ (good → meas → inputs = [] → completes (.meas n w) s fun t => seen t = c)
      ∧ (∀ m, good → meas → inputs = [m] → completes (.meas n w) s fun t =>
        Assoc.get (fun _ => none) t.blv.mseq m = some (bits w.toNat 31 24) ∧ t.gth.seq = (c.gth.seq + 1) % 2 ^ 24
          ∧ t.reg BLV_MEAS_SEQ = (match Assoc.get (fun _ => none) c.blv.mseq m with
            | some q => if bits w.toNat 31 24 = (q + 1) % 256 then c.reg BLV_MEAS_SEQ else Nat.min (c.reg BLV_MEAS_SEQ + 1) 0xFFFFFFFF
            | none => c.reg BLV_MEAS_SEQ))
      ∧ (bit v.toNat 0 = false → completes (.reseed v) s fun t => t = c)
      ∧ (bit v.toNat 0 = true → completes (.reseed v) s fun t =>
        t.flag BLV_BSTAT_RESEED_PEND = !c.armLanes.isEmpty ∧ onlyBlv t [BLV_BSTAT]
          ∧ (c.armLanes ≠ [] → t.blv.reseed = some (c.fld BLV_RSEED_RS_TAG, c.armLanes)))
      ∧ (completes (.blvEn v) s fun t =>
        t.reg BLV_BCTL = writtenWord (regWord BLV_BCTL) (c.reg BLV_BCTL) v.toNat % 2 ^ 32 ∧ onlyBlv t [BLV_BCTL]
          ∧ (c.flag BLV_BCTL_EN = false → bit v.toNat 0 = true → n.val ∈ c.obsLanes → (t.obs n).seed = true)
          ∧ (c.flag BLV_BCTL_EN = true → bit v.toNat 0 = false → t.blv.runs = [] ∧ t.blv.merges = [])
          ∧ (c.flag BLV_BCTL_EN = bit v.toNat 0 → t.blv = c.blv))
      ∧ (planeNum p ≠ c.fld BND_NCTL_RXPLANE → completes (.fcstFrame p ra rb) s fun t => t = c)
      ∧ (planeNum p = c.fld BND_NCTL_RXPLANE → late → completes (.fcstFrame p ra rb) s fun t =>
        t.reg BND_FCST_LATE = Nat.min (c.reg BND_FCST_LATE + 1) 0xFFFFFFFF ∧ t.flag BND_NSTAT_FCST_LATE = true ∧ t.blv = c.blv)
      ∧ (planeNum p = c.fld BND_NCTL_RXPLANE → ¬ late → completes (.fcstFrame p ra rb) s fun t =>
        Assoc.get (fun _ => none) t.blv.fc j = some
          ⟨bits ra.toNat 23 12, bit ra.toNat 24, bit ra.toNat 25, bits rb.toNat 31 24, toSigned 24 (bits rb.toNat 23 0)⟩
          ∧ t.reg (BLV_FCTAB (j % 8) + 4) = bits rb.toNat 31 24 ∧ t.reg (BLV_FCTAB (j % 8) + 8) = bits rb.toNat 23 0
          ∧ onlyBlv (seen t) [BLV_FCTAB (j % 8), BLV_FCTAB (j % 8) + 4, BLV_FCTAB (j % 8) + 8]))
    ∧ (∀ (k : Fin 16) (s : State),
    let c := s.chip
    let n := c.slotNow
    (c.blv.due = none → n < c.blv.next → completes .slotStart s fun t => t = c)
      ∧ (c.blv.due = none → c.blv.next ≤ n → completes .slotStart s fun t =>
        t.blv.next = n + 1 ∧ bit (t.sr k 6) 4 = true ∧ (t.core k).g = (c.core k).g
          ∧ (n < c.blv.acted → t.blv = { c.blv with next := n + 1 } ∧ t.regs = c.regs)
          ∧ (c.blv.acted ≤ n → t.blv.acted = n + 1 ∧ t.blv.cur = n
            ∧ (c.flag BND_NCTL_EN = true → c.cmt n = none →
              t.reg BND_CMT_MISS_CNT = Nat.min (c.reg BND_CMT_MISS_CNT + 1) 0xFFFFFFFF ∧ t.flag BND_NSTAT_CMT_MISS = true)
            ∧ (c.freezes = true → t.blv.frozen.contains (n + 1) = true)
            ∧ (∀ r, Assoc.get (fun _ => none) c.blv.fc (n + 1) = some r → c.freezes = true → t.fcFrozen (n + 1) = r)))
      ∧ (∀ m, c.blv.due = some m → completes .slotStart s fun t => t.blv.due = none ∧ t.blv.next = c.blv.next
        ∧ bit (t.sr k 6) 4 = true ∧ (c.blv.acted ≤ m → t.blv.cur = m)))

/-- R116 to R119: lists join a merge, which closes when the last one has come or at its deadline; a closed merge is published once; ranks
end the running plan with its orders handed, the scatter deadline ends it without, and gives up a re-plan. Which hubs a deadline answers
is the model's choice (log entry 95). R121, R122, R126: a commit of the receive plane is relayed on every lane of the arm that is in L0
and not silenced, an identical one is dropped and a differing one counted; the test of a commit is made once, 50 ns after its relay and
not before its record is frozen; an ABORTX aborts orders handed and starts a re-plan. -/
def Obligations.PlanAndCommit : Prop :=
  (∀ (f : GatherFrame) (g : RanksFrame) (tag : BitVec 12) (s : State),
    let c := s.chip
    let k := c.slotOfTag tag.toNat
    let kf := c.slotOfTag f.tag.toNat
    let kg := c.slotOfTag g.tag.toNat
    let l (x : List (BitVec 16 × BitVec 8)) : List (Nat × Nat) := x.map fun e => (e.1.toNat, e.2.toNat)
    let merge := c.flag BLV_BCTL_MERGE = true
    let limit := if c.flag BLV_GROUP_SMALL then 900 else 1500
    (¬ merge → completes (.gather f) s fun t => t = c)
      ∧ (merge → c.theMerge kf = none → 2 ≤ c.nhub → completes (.gather f) s fun t =>
        t.theMerge kf = some { slot := kf, at' := c.tick, replan := false, lists := [(f.src.toNat, f.keyId.toNat, l f.keysC, l f.keysD)] }
          ∧ t.reg GTH_GATHER_CRC = (if f.eofOk then c.reg GTH_GATHER_CRC else Nat.min (c.reg GTH_GATHER_CRC + 1) 0xFFFFFFFF)
          ∧ t = { c with regs := t.regs, blv := t.blv } ∧ c.regsBut t [GTH_GATHER_CRC])
      ∧ (∀ m, c.theMerge kf = some m → merge → m.closed = true → m.lists.any (fun x => x.1 == f.src.toNat) = false →
        completes (.gather f) s fun t =>
          t.reg BLV_GATHER_LATE = Nat.min (c.reg BLV_GATHER_LATE + 1) 0xFFFFFFFF
            ∧ t.theMerge kf = some { m with
              answered := if m.answered.contains f.src.toNat then m.answered else f.src.toNat :: m.answered })
      ∧ (∀ m, c.theMerge k = some m → m.closed = true → m.done = false → completes (.mergeComplete tag) s fun t =>
        t.reg BLV_RCOUNT = (m.slot % 4096 * 2 ^ 16 + Nat.min (m.order false).length 0xFFF)
          ∧ t.reg (BLV_DIGEST c.blv.dig) = m.slot % 4096 + b2n m.replan * 2 ^ 16
          ∧ t.reg (BLV_DIGEST c.blv.dig + 4) = mergeDigest (m.order false)
          ∧ t.reg (BLV_DIGEST c.blv.dig + 8) = mergeDigest (m.order true) ∧ t.blv.dig = (c.blv.dig + 1) % 16
          ∧ t.theMerge k = some { m with done := true })
      ∧ (∀ m, c.theMerge k = some m → m.closed = false ∨ m.done = true → completes (.mergeComplete tag) s fun t => t = c)
      ∧ (c.theMerge k = none → (completes (.mergeComplete tag) s fun t => t = c) ∧ completes (.gatherDeadline tag) s fun t => t = c)
      ∧ (∀ m, c.theMerge k = some m → m.closed = false → merge → c.planStart m + 750 ≤ c.tick → completes (.gatherDeadline tag) s fun t =>
        t.theMerge k = some { m with closed := true, late := true, answered := c.blv.sources.filter fun x =>
          x != c.nodeId && !(m.lists.any fun y => y.1 == x) } ∧ t.flag BLV_BSTAT_GATHER_MISS = true
          ∧ t.reg BLV_GATHER_MISS_CNT = Nat.min (c.reg BLV_GATHER_MISS_CNT + 1) 0xFFFFFFFF)
      ∧ (∀ m, c.theMerge k = some m → m.closed = true ∨ ¬ merge ∨ c.tick < c.planStart m + 750 → completes (.gatherDeadline tag) s fun t => t = c)
      ∧ (c.theRun kg = none ∨ g.eofOk = false → completes (.ranks g) s fun t => t = c)
      ∧ (∀ r, c.theRun kg = some r → g.eofOk = true → completes (.ranks g) s fun t =>
        t.theRun kg = none
          ∧ (r.replan = true → c.pastDeadline kg = true →
            t.reg BND_REPLAN_LATE_CNT = Nat.min (c.reg BND_REPLAN_LATE_CNT + 1) 0xFFFFFFFF)
          ∧ (∀ inp, Assoc.get (fun _ => none) c.blv.inputs kg = some inp → ¬ (r.replan = true ∧ c.pastDeadline kg = true) →
            (Assoc.get (fun _ => none) t.blv.ranks kg).map (fun rs => rs.map (·.1)) = some inp.lanes))
      ∧ (c.theRun k = none → completes (.scatterDeadline tag) s fun t => t = c)
      ∧ (∀ r, c.theRun k = some r → c.tick < r.at' + limit → completes (.scatterDeadline tag) s fun t => t = c)
      ∧ (∀ r, c.theRun k = some r → r.at' + limit ≤ c.tick → completes (.scatterDeadline tag) s fun t =>
        t.theRun k = none ∧ t.flag BLV_BSTAT_SCATTER_MISS = true
          ∧ t.reg BLV_SCATTER_MISS_CNT = Nat.min (c.reg BLV_SCATTER_MISS_CNT + 1) 0xFFFFFFFF
          ∧ t.reg BND_REPLAN_LATE_CNT = (if r.replan then Nat.min (c.reg BND_REPLAN_LATE_CNT + 1) 0xFFFFFFFF else c.reg BND_REPLAN_LATE_CNT)))
    ∧ (∀ (p : Plane) (w : DWord) (tag : BitVec 12) (s : State),
    let c := s.chip
    let heard := planeNum p = c.fld BND_NCTL_RXPLANE ∧ c.flag BND_NCTL_EN = true
    let n := c.slotOfTag (bits w.toNat 55 44)
    let x := bits w.toNat 55 16
    let k := c.slotOfTag tag.toNat
    let sent := Assoc.get (fun _ => []) c.blv.sent n
    let off (f : Nat) (m : Cmt) : Bool := bit m.first 1 != (c.fcFrozen f).dir || bit m.first 0 != (c.fcFrozen f).neg
      || decide ((c.fcFrozen f).tol < (if bits m.first 27 16 ≤ (c.fcFrozen f).n then (c.fcFrozen f).n - bits m.first 27 16
        else bits m.first 27 16 - (c.fcFrozen f).n))
    (¬ heard → (completes (.commitFrame p w) s fun t => t = c) ∧ completes (.abortx p w) s fun t => t = c)
      ∧ (heard → c.cmt n = none → completes (.commitFrame p w) s fun t =>
        t.reg BND_CMT_RELAYED = Nat.min (c.reg BND_CMT_RELAYED + 1) 0xFFFFFFFF ∧ t.cmt n = some { first := x, seen := [x], at' := c.tick }
          ∧ ∀ l : Fin 192, l.val ∈ c.armLanes → c.laneState l = 5 → c.silenced l = false →
            (t.lane l).q = (c.lane l).q ++ [(1, mkBlock 0x44 (x * 2 ^ 4))])
      ∧ (∀ m, c.cmt n = some m → heard → m.seen.contains x = true → completes (.commitFrame p w) s fun t =>
        t.reg BND_CMT_DUP = Nat.min (c.reg BND_CMT_DUP + 1) 0xFFFFFFFF ∧ c.onlyRegs t [BND_CMT_DUP])
      ∧ (∀ m, c.cmt n = some m → heard → m.seen.contains x = false → completes (.commitFrame p w) s fun t =>
        t.reg BND_CMT_CONFLICT_CNT = Nat.min (c.reg BND_CMT_CONFLICT_CNT + 1) 0xFFFFFFFF ∧ t.flag BND_NSTAT_CMT_CONFLICT = true
          ∧ t.reg BND_CMT_RELAYED = Nat.min (c.reg BND_CMT_RELAYED + 1) 0xFFFFFFFF ∧ t.cmt n = some { m with seen := x :: m.seen })
      ∧ (c.cmt k = none → completes (.commitTest tag) s fun t => t = c)
      ∧ (∀ m, c.cmt k = some m → m.tested = true ∨ c.blv.missed.contains k = true ∨ c.flag BND_NCTL_EN = false ∨ c.tick < m.at' + 50 →
        completes (.commitTest tag) s fun t => t = c)
      ∧ (∀ m, c.cmt k = some m → m.tested = false → c.blv.missed.contains k = false → c.flag BND_NCTL_EN = true → m.at' + 50 ≤ c.tick →
        c.blv.frozen.contains k = true → off k m = false → completes (.commitTest tag) s fun t =>
          t.cmt k = some { m with tested := true, waits := false } ∧ t.regs = c.regs)
      ∧ (∀ m, c.cmt k = some m → m.tested = false → c.blv.missed.contains k = false → c.flag BND_NCTL_EN = true → m.at' + 50 ≤ c.tick →
        c.blv.frozen.contains k = true → off k m = true → completes (.commitTest tag) s fun t =>
          t.cmt k = some { m with tested := true, waits := false } ∧ t.reg BND_TEST_FAIL = Nat.min (c.reg BND_TEST_FAIL + 1) 0xFFFFFFFF
            ∧ t.flag BND_NSTAT_TEST_FAIL = true ∧ t.fld BND_LASTFAIL_TAG = k % 4096 ∧ t.fld BND_LASTFAIL_N = bits m.first 27 16)
      ∧ (∀ m, c.cmt k = some m → m.tested = false → c.blv.missed.contains k = false → c.flag BND_NCTL_EN = true → m.at' + 50 ≤ c.tick →
        c.blv.frozen.contains k = false → completes (.commitTest tag) s fun t => t.cmt k = some { m with waits := true } ∧ t.regs = c.regs)
      ∧ (heard → bits w.toNat 43 42 = 0 → (c.pastDeadline n = true ∨ sent = [] ∧ (Assoc.get (fun _ => none) c.blv.inputs n = none
          ∨ c.flag BLV_BCTL_EN = false)) → completes (.abortx p w) s fun t => t = { c with gls := t.gls })
      ∧ (∀ y, sent = [y] → y.2.2.2 = false → heard → bits w.toNat 43 42 = 0 → c.pastDeadline n = false →
        (Assoc.get (fun _ => none) c.blv.inputs n = none ∨ c.flag BLV_BCTL_EN = false) → c.laneState y.1 = 5 → c.silenced y.1 = false →
        completes (.abortx p w) s fun t => (t.lane y.1).q = (c.lane y.1).q ++ [(2, mkBlock 0x48 (n % 4096 * 2 ^ 32))]
          ∧ t.reg BND_ABORT_SENT = Nat.min (c.reg BND_ABORT_SENT + 1) 0xFFFFFFFF)
      ∧ (∀ inp, Assoc.get (fun _ => none) c.blv.inputs n = some inp → heard → bits w.toNat 43 42 = 0 → c.flag BLV_BCTL_EN = true →
        c.pastDeadline n = false → c.flag BLV_BCTL_MERGE = false → completes (.abortx p w) s fun t =>
          (t.theRun n).map (fun r => (r.replan, r.gen)) = some (true, (Assoc.get (fun _ => 0) c.blv.gen n + 1) % 4)))

-- Shoist lanes

/-- R214 to R217, R225: bring-up of a lane: its enable, lock, CAP exchange, the rate agreed, adaptation, and L0; every timeout returns to
the start or falls back. A block whose check fails is counted and nothing else, and the first block after lock is not even looked at.
The receiver locks once 64 blocks have come since it began to hunt. -/
def Obligations.LaneBringUp : Prop :=
  ∀ (l : LaneId) (w : Word) (k : DWord) (vm hm : Byte) (s : State),
    let c := s.chip
    let n := laneNum l
    let b := laneBase n
    let st := c.laneState n
    let ln := c.lane n
    let runs := n < 204 ∨ c.fire.clkStop = false
    let old := c.reg (LN_LCTL b)
    let new := writtenWord (regWord (LN_LCTL b)) old w.toNat
    let fab2 := 192 ≤ n ∧ n < 204 ∧ bit w.toNat 3 = true
    let good := blockOk k = true ∧ c.laneFresh n = false
    let bad := blockOk k = false ∧ c.laneFresh n = false
    let r := bits k.toNat 55 54
    let lock := c.flag (LN_LSTAT_LOCK b) = true
    let short := c.fewerBlocks n 64 ln.huntAt = true
    let locks (t : Chip) : Prop := t.flag (LN_LSTAT_LOCK b) = true ∧ (t.lane n).fresh = some c.time ∧ (t.lane n).badAt = []
    let hunts (t : Chip) : Prop := t.flag (LN_LSTAT_LOCK b) = false ∧ (t.lane n).huntAt = c.time ∧ (t.lane n).badAt = []
      ∧ (t.lane n).fresh = none ∧ (t.lane n).rx = none
    let asks (t : Chip) (w : DWord) : Prop := (t.lane n).q = ln.q ++ [(6, w)] ∧ (t.lane n).newAt = c.laneClock n
    let chk := LN_CHK_ERR b
    let onlyLane (t : Chip) (a : List Nat) : Prop :=
      t = { c with regs := t.regs, lanes := t.lanes } ∧ c.regsBut t a ∧ ∀ j : Nat, j ≠ n → t.lane j = c.lane j
    let restarts (i : Instr) : Prop := c.laneStopped n = false → completes i s fun t => t.laneState n = 1 ∧ hunts t
      ∧ t.fld (LN_LSTAT_RATE b) = 0 ∧ (t.lane n).q = [] ∧ (t.lane n).msgs = [] ∧ (t.lane n).limit = 3 ∧ (t.lane n).req = none
    let still (i : Instr) : Prop := completes i s fun t => t = c
    let counted (i : Instr) : Prop := completes i s fun t => t.reg chk = Nat.min (c.reg chk + 1) 0xFFFFFFFF ∧ c.onlyRegs t [chk]
    let lost (i : Instr) : Prop := completes i s fun t => hunts t
      ∧ t.reg (LN_LOCK_LOSS b) = Nat.min (c.reg (LN_LOCK_LOSS b) + 1) 0xFFFFFFFF ∧ t.laneState n = st
      ∧ (st = 5 ∨ st = 6 → t.flag (LN_LSTAT_LINK_DOWN b) = true)
    let agrees (i : Instr) : Prop :=
      (r ≠ c.fld (LN_LSTAT_RATE b) → completes i s fun t => (t.lane n).rate = r ∧ (t.lane n).accepted = true ∧ t.laneState n = 3)
        ∧ (r = c.fld (LN_LSTAT_RATE b) → completes i s fun t => t.laneState n = 4 ∧ (t.lane n).adapted = false)
    (bit old 0 = true → bits new 3 1 ≠ bits old 3 1 → ¬ fab2 → runs → completes (.en l w) s fun t =>
        t.reg (LN_LCTL b) = old ∧ t.flag (LN_LSTAT_REFUSED b) = true ∧ t.laneState n = st)
      ∧ (fab2 → bit old 0 = false → bit old 3 = false → completes (.en l w) s fun t => t.fld (LN_LCTL_MAXRATE b) = 1)
      ∧ (¬ fab2 → bit old 0 = false → bit new 0 = true → st ≠ 8 → runs → restarts (.en l w) ∧ completes (.en l w) s fun t =>
        t.reg (LN_LCTL b) = new % 2 ^ 32 ∧ (ln.upOnce = false → t.flag (LN_LSTAT_LINK_DOWN b) = true))
      ∧ (¬ fab2 → bit old 0 = true → bits new 3 1 = bits old 3 1 → bit new 0 = false → st ≠ 8 → completes (.en l w) s fun t =>
        t.reg (LN_LCTL b) = new % 2 ^ 32 ∧ t.laneState n = 0 ∧ hunts t ∧ t.fld (LN_LSTAT_RATE b) = 0
          ∧ (t.lane n).q = [])
      ∧ (¬ fab2 → bit old 0 = bit new 0 → bit old 0 = false ∨ bits new 3 1 = bits old 3 1 → completes (.en l w) s fun t =>
        t.reg (LN_LCTL b) = new % 2 ^ 32 ∧ c.onlyRegs t [LN_LCTL b])
      ∧ (lock ∨ st = 0 ∨ st = 7 ∨ st = 8 ∨ short → still (.lockAcquired l))
      ∧ (¬ lock → ¬ short → st = 1 → ln.l2Exit = false → ln.relock = false → completes (.lockAcquired l) s fun t => locks t ∧ t.laneState n = 2 ∧ (t.lane n).capCnt = 0 ∧ (t.lane n).capRx = false)
      ∧ (¬ lock → ¬ short → st = 1 → ln.l2Exit = false → ln.relock = true → completes (.lockAcquired l) s fun t => locks t ∧ t.laneState n = 4 ∧ (t.lane n).adapted = false ∧ onlyLane t [LN_LSTAT b])
      ∧ (¬ lock → ¬ short → st = 1 → ln.l2Exit = true → completes (.lockAcquired l) s fun t => locks t ∧
        t.laneState n = 5 ∧ t.flag (LN_LSTAT_LINK_DOWN b) = false ∧ (t.lane n).upOnce = true
          ∧ (ln.upOnce = false → (t.lane n).upAt = c.time))
      ∧ (¬ lock → ¬ short → st ≠ 0 → st ≠ 1 → st ≠ 7 → st ≠ 8 → completes (.lockAcquired l) s fun t =>
        locks t ∧ t.laneState n = st ∧ onlyLane t [LN_LSTAT b])
      ∧ (lock → runs → c.sys.ready = false → lost (.lockLoss l) ∧ lost (.signalLoss l))
      ∧ (¬ lock → c.sys.ready = false → (completes (.lockLoss l) s fun t => t.regs = c.regs ∧ t.lanes = c.lanes)
        ∧ completes (.signalLoss l) s fun t => t.regs = c.regs ∧ t.lanes = c.lanes)
      ∧ (¬ lock → st = 5 ∨ st = 6 ∨ ln.l2Exit = true → restarts (.linkDownTimeout l))
      ∧ (lock ∨ ¬ (st = 5 ∨ st = 6 ∨ ln.l2Exit = true) → still (.linkDownTimeout l))
      ∧ (bad → counted (.cap l k) ∧ counted (.propose l k) ∧ counted (.accept l k) ∧ counted (.fallback l k) ∧ counted (.up l k))
      ∧ (good → r ≠ c.peerRole n → completes (.cap l k) s fun t => t.flag (LN_LSTAT_ROLE_MIS b) = true
        ∧ t.fld (LN_LSTAT_PEER_ROLE b) = r ∧ t.fld (LN_LSTAT_PEER_MAX b) = bits k.toNat 53 52
        ∧ t.fld (LN_FOMR_PEER_FOM b) = bits k.toNat 51 44 ∧ c.onlyRegs t [LN_LSTAT b, LN_FOMR b])
      ∧ (good → r = c.peerRole n → st = 2 → completes (.cap l k) s fun t => (t.lane n).capRx = true
        ∧ (t.lane n).peerNonce = bits k.toNat 24 12 ∧ t.fld (LN_LSTAT_PEER_MAX b) = bits k.toNat 53 52
        ∧ onlyLane t [LN_LSTAT b, LN_FOMR b])
      ∧ (good → r = c.peerRole n → st = 4 → ln.adapted = false → completes (.cap l k) s fun t => (t.lane n).capRx = true
        ∧ (t.lane n).peerFok = bit k.toNat 43 ∧ t.laneState n = 4 ∧ onlyLane t [LN_LSTAT b, LN_FOMR b])
      ∧ (st = 2 → restarts (.capxTimeout l)) ∧ (st ≠ 2 → still (.capxTimeout l))
      ∧ (good → st = 3 → ln.initiator = false → agrees (.propose l k) ∧ completes (.propose l k) s fun t =>
        asks t (mkBlock 9 (r * 2 ^ 42 + 2 ^ 40)))
      ∧ (good → st ≠ 3 ∨ ln.initiator = true → still (.propose l k))
      ∧ (ln.req = none ∨ st ≠ 3 → still (.proposeRepeat l))
      ∧ (∀ op rr, ln.req = some (op, rr) → st = 3 → 16 ≤ ln.props → restarts (.proposeRepeat l))
      ∧ (∀ op rr, ln.req = some (op, rr) → st = 3 → ln.props < 16 → completes (.proposeRepeat l) s fun t =>
        asks t (mkBlock 9 (rr * 2 ^ 42 + op * 2 ^ 40)) ∧ (t.lane n).props = ln.props + 1 ∧ (t.lane n).req = ln.req ∧ onlyLane t [])
      ∧ (∀ op rr, ln.req = some (op, rr) → good → st = 3 → op ≠ 3 → r = rr → agrees (.accept l k))
      ∧ (∀ op rr, ln.req = some (op, rr) → good → st ≠ 3 ∨ op = 3 ∨ r ≠ rr → still (.accept l k))
      ∧ (good → ln.req = none → still (.accept l k))
      ∧ (st = 3 → ln.accepted = true → completes (.rateSwitch l) s fun t => t.laneState n = 1 ∧ t.fld (LN_LSTAT_RATE b) = ln.rate % 4
        ∧ hunts t ∧ (t.lane n).relock = true ∧ (t.lane n).accepted = false ∧ (ln.rx = none → onlyLane t [LN_LSTAT b]
          ∧ t.lane n = { ln with accepted := false, relock := true, huntAt := c.time, badAt := [], fresh := none }))
      ∧ (st ≠ 3 ∨ ln.accepted = false → still (.rateSwitch l))
      ∧ (st = 1 → ln.relock = true → c.fld (LN_LSTAT_RATE b) = 0 → restarts (.huntTimeout l))
      ∧ (st = 1 → ln.relock = true → c.fld (LN_LSTAT_RATE b) ≠ 0 → ln.initiator = true → completes (.huntTimeout l) s fun t =>
        t.laneState n = 3 ∧ t.reg (LN_FALLBACK_CNT b) = Nat.min (c.reg (LN_FALLBACK_CNT b) + 1) 0xFFFFFFFF
          ∧ (t.lane n).limit = c.fld (LN_LSTAT_RATE b) - 1 ∧ (t.lane n).req = some (2, c.fld (LN_LSTAT_RATE b) - 1)
          ∧ onlyLane t [LN_LSTAT b, LN_FALLBACK_CNT b])
      ∧ (st ≠ 1 ∨ ln.relock = false → still (.huntTimeout l))
      ∧ (st ≠ 4 ∨ ln.adapted = true → still (.adaptEnd l vm hm))
      ∧ (st = 4 → ln.adapted = false → ln.capRx = false → completes (.adaptEnd l vm hm) s fun t =>
        t.fld (LN_FOMR_VM b) = vm.toNat ∧ t.fld (LN_FOMR_HM b) = hm.toNat ∧ t.fld (LN_FOMR_FOM b) = Nat.min vm.toNat hm.toNat
          ∧ (t.lane n).adapted = true ∧ (t.lane n).q.length = ln.q.length + 1 ∧ t.laneState n = 4 ∧ onlyLane t [LN_FOMR b])
      ∧ (st = 4 → ln.adapted = false → ln.capRx = true → completes (.adaptEnd l vm hm) s fun t => t.laneState n = 3
        ∧ (t.lane n).adapted = true ∧ onlyLane t [LN_FOMR b, LN_LSTAT b, LN_FALLBACK_CNT b])
      ∧ (st = 4 → ln.capRx = false → restarts (.adaptTimeout l)) ∧ (st ≠ 4 ∨ ln.capRx = true → still (.adaptTimeout l))
      ∧ (good → st = 3 ∨ st = 4 → ln.initiator = false → completes (.fallback l k) s fun t => t.laneState n = 3
        ∧ (t.lane n).limit = r ∧ (t.lane n).rate = r ∧ (t.lane n).accepted = true ∧ asks t (mkBlock 9 (r * 2 ^ 42 + 2 ^ 40))
        ∧ onlyLane t [LN_LSTAT b, LN_FALLBACK_CNT b])
      ∧ (good → ¬ (st = 3 ∨ st = 4) ∨ ln.initiator = true → still (.fallback l k))
      ∧ (good → st ≠ 3 → still (.up l k))
      ∧ (good → st = 3 → ln.initiator = false ∨ ln.req = some (3, r) → completes (.up l k) s fun t => t.laneState n = 5
        ∧ t.flag (LN_LSTAT_LINK_DOWN b) = false ∧ (t.lane n).upOnce = true)

/-- R206 to R210, R214, R218 to R222: what a lane in service sends in a slot, the sync blocks, its error counts, the power states, test and
injection. -/
def Obligations.LaneService : Prop :=
  ∀ (l : LaneId) (m : Fin 192) (w : Word) (k : DWord) (vm hm : Byte) (x : Bool) (line : List Bool) (s : State),
    let c := s.chip
    let n := laneNum l
    let b := laneBase n
    let st := c.laneState n
    let ln := c.lane n
    let runs := n < 204 ∨ c.fire.clkStop = false
    let up := st = 5 ∨ st = 6
    let good := blockOk k = true ∧ c.laneFresh n = false
    let bad := blockOk k = false ∧ c.laneFresh n = false
    let typ := blockType k
    let av := ln.available (c.laneClock n)
    let syncs (w : DWord) : Prop := n < 192 ∧ (blockType w = 0x20 ∨ blockType w = 0x21 ∨ blockType w / 4 = 9)
    let guarded := c.laneGuarded n = true
    let hunts (t : Chip) : Prop := t.flag (LN_LSTAT_LOCK b) = false ∧ (t.lane n).huntAt = c.time ∧ (t.lane n).badAt = []
      ∧ (t.lane n).fresh = none ∧ (t.lane n).rx = none
    let still (i : Instr) : Prop := completes i s fun t => t = c
    let first (i : Instr) : Prop := completes i s fun t => t.lane n = { ln with fresh := none } ∧ t = { c with lanes := t.lanes }
      ∧ ∀ j : Nat, j ≠ n → t.lane j = c.lane j
    let wakes (i : Instr) : Prop := completes i s fun t => t.laneState n = 1 ∧ hunts t
      ∧ (ln.rx = none → t.lane n = { ln with l2Exit := true, relock := false, huntAt := c.time, badAt := [], fresh := none }
        ∧ c.regsBut t [LN_LSTAT b])
    let counted (i : Instr) (a : Nat) : Prop := completes i s fun t => t.reg a = Nat.min (c.reg a + 1) 0xFFFFFFFF ∧ c.onlyRegs t [a]
    let sends (op : Nat) (t : Chip) : Prop := t.laneState n = 5 ∧ (t.lane n).q = ln.q ++ [(6, mkBlock 10 (op * 2 ^ 42))]
      ∧ (t.lane n).newAt = c.laneClock n
    let restarts (i : Instr) : Prop := c.laneStopped n = false → completes i s fun t => t.laneState n = 1 ∧ t.flag (LN_LSTAT_LOCK b) = false
      ∧ t.fld (LN_LSTAT_RATE b) = 0 ∧ (t.lane n).q = []
    let old := c.reg (LN_TCTL b)
    let new := writtenWord (regWord (LN_TCTL b)) old w.toNat
    let badTest := 5 ≤ bits new 3 1 ∨ (bit new 0 = true ∧ bit old 0 = false ∧ guarded)
    (st = 0 ∨ st = 7 ∨ st = 8 → still (.txSlot l))
      ∧ (st = 5 → pickBlock [] av.1 = none → ln.msgs = [] → ln.wantsBalance = false → c.fld (LN_INJ_MODE b) = 0 → completes (.txSlot l) s fun t =>
        t.sent = .block n (mkBlock 1 0) :: c.sent ∧ t.regs = c.regs ∧ (t.lane n).q = ln.q)
      ∧ (∀ y, pickBlock [] av.1 = some y → st = 5 → ln.wantsBalance = false ∨ y.1.1 < 3 → c.fld (LN_INJ_MODE b) = 0 →
        blockType y.1.2 ∉ [8, 10, 0x10, 0x11, 0x12, 0x13] → completes (.txSlot l) s fun t => (t.lane n).q = y.2 ++ av.2 ∧ t.regs = c.regs
          ∧ (¬ syncs y.1.2 → t.sent = .block n y.1.2 :: c.sent)
          ∧ (syncs y.1.2 → t.sent = .block n (c.syncBlock (blockType y.1.2) ((c.setLane n { ln with q := y.2 ++ av.2 }).epochBase n)) :: c.sent))
      ∧ (∀ y, pickBlock [] av.1 = some y → st = 5 → ln.wantsBalance = true → 3 ≤ y.1.1 → c.fld (LN_INJ_MODE b) = 0 →
        completes (.txSlot l) s fun t => t.sent = .block n ln.balance :: c.sent ∧ (t.lane n).q = ln.q
          ∧ t.reg (LN_BAL_CNT b) = Nat.min (c.reg (LN_BAL_CNT b) + 1) 0xFFFFFFFF ∧ c.regsBut t [LN_BAL_CNT b])
      ∧ (c.laneFresh n = true → first (.balanceReceive l k) ∧ first (.unknownBlock l k) ∧ first (.strayDataBlock l none)
        ∧ first (.strayDataBlock l (some k)) ∧ first (.cap l k) ∧ first (.propose l k) ∧ first (.accept l k) ∧ first (.fallback l k)
        ∧ first (.up l k) ∧ first (.l2Req l k) ∧ first (.l2Ack l k) ∧ first (.l2Nak l k))
      ∧ (good → still (.balanceReceive l k))
      ∧ (good → typ ≠ endType n → (completes (.unknownBlock l k) s fun t => t.reg (unknownCnt n typ) = Nat.min (c.reg (unknownCnt n typ) + 1) 0xFFFFFFFF
          ∧ c.onlyRegs { t with gls := c.gls } [unknownCnt n typ]) ∧ counted (.strayDataBlock l (some k)) (unknownCnt n typ))
      ∧ (good → typ = endType n → c.isMeasLane n = true → counted (.unknownBlock l k) (LN_UNK_CNT b))
      ∧ (good → typ = endType n → c.isMeasLane n = false → ln.rx = none → counted (.unknownBlock l k) (LN_MSG_ERR b)
        ∧ counted (.strayDataBlock l (some k)) (LN_MSG_ERR b))
      ∧ (∀ old, ln.rx = some old → good → typ = endType n → c.isMeasLane n = false → completes (.strayDataBlock l (some k)) s fun t =>
        (t.lane n).rx = none ∧ t.reg (LN_MSG_ERR b) = Nat.min (c.reg (LN_MSG_ERR b) + b2n (!old)) 0xFFFFFFFF)
      ∧ (bad → counted (.balanceReceive l k) (LN_CHK_ERR b) ∧ counted (.unknownBlock l k) (LN_CHK_ERR b)
        ∧ counted (.strayDataBlock l (some k)) (LN_CHK_ERR b)
        ∧ counted (.l2Req l k) (LN_CHK_ERR b) ∧ counted (.l2Ack l k) (LN_CHK_ERR b) ∧ counted (.l2Nak l k) (LN_CHK_ERR b))
      ∧ (c.laneFresh n = false → (ln.rx = none → counted (.strayDataBlock l none) (LN_MSG_ERR b))
        ∧ (ln.rx ≠ none → still (.strayDataBlock l none)))
      ∧ (completes .syncSend s fun t => t.regs = c.regs
        ∧ (if c.laneState m = 5 ∧ c.flag (LN_LCTL_MEAS (laneBase m)) = false ∧ c.silenced m = false then
            (t.lane m).q.length = (c.lane m).q.length + 3
              ∧ ((t.lane m).q.drop (c.lane m).q.length).map (fun x => (x.1, blockType x.2))
                = [(4, 0x20), (4, 0x21), (4, 0x24 + c.fld SDL_SCTL_ARM_BASE)]
          else t.lane m = c.lane m))
      ∧ (¬ up → still (.fomUpdate l vm hm))
      ∧ (up → runs → completes (.fomUpdate l vm hm) s fun t => t.fld (LN_FOMR_VM b) = vm.toNat ∧ t.fld (LN_FOMR_HM b) = hm.toNat
        ∧ t.fld (LN_FOMR_FOM b) = Nat.min vm.toNat hm.toNat
        ∧ (st = 5 → Nat.min vm.toNat hm.toNat < c.fld (LN_LCTL_FOM_MIN b) → ln.fomLow < 15 → (t.lane n).fomLow = ln.fomLow + 1)
        ∧ (st = 5 → Nat.min vm.toNat hm.toNat < c.fld (LN_LCTL_FOM_MIN b) → 15 ≤ ln.fomLow → t.flag (LN_LSTAT_FOM_LOW b) = true))
      ∧ (runs → completes (.berWindow l) s fun t => (t.lane n).berBase = c.reg (LN_HDR_ERR b) + c.reg (LN_CHK_ERR b)
        ∧ (c.fld (LN_LCTL_BER_MAX b) ≠ 255 → c.fld (LN_LCTL_BER_MAX b) < c.reg (LN_HDR_ERR b) + c.reg (LN_CHK_ERR b) - ln.berBase →
          t.flag (LN_LSTAT_BER_HIGH b) = true)
        ∧ (c.fld (LN_LCTL_BER_MAX b) = 255 → t.regs = c.regs))
      ∧ (st = 5 → ln.q = [] → ln.msgs = [] → completes (.enterL1 l) s fun t => t.laneState n = 6 ∧ c.onlyRegs t [LN_LSTAT b])
      ∧ (st ≠ 5 ∨ ln.q ≠ [] ∨ ln.msgs ≠ [] → still (.enterL1 l))
      ∧ (guarded → runs → (completes (.enterL2 l) s fun t => t.flag (LN_LSTAT_REFUSED b) = true ∧ t.laneState n = st)
        ∧ (good → up → completes (.l2Req l k) s fun t => t.flag (LN_LSTAT_REFUSED b) = true ∧ t.laneState n = 5))
      ∧ (¬ guarded → up → (completes (.enterL2 l) s fun t => sends 1 t ∧ (t.lane n).l2Req = true ∧ c.regsBut t [LN_LSTAT b])
        ∧ (good → completes (.l2Req l k) s fun t => sends 2 t ∧ c.regsBut t [LN_LSTAT b]))
      ∧ (¬ up → (¬ guarded → still (.enterL2 l)) ∧ (good → still (.l2Req l k)))
      ∧ (good → ln.l2Req = true → completes (.l2Ack l k) s fun t => t.laneState n = 7 ∧ hunts t ∧ (t.lane n).q = []
        ∧ ∀ x : CellLane, n = cellLaneNum x → t.txdis x = true)
      ∧ (good → ln.l2Req = false → still (.l2Ack l k))
      ∧ (good → completes (.l2Nak l k) s fun t => t.lane n = { ln with l2Req := false } ∧ t.regs = c.regs)
      ∧ (st = 7 → wakes (.wake l) ∧ wakes (.signalDetect l))
      ∧ (st ≠ 7 → still (.wake l) ∧ still (.signalDetect l))
      ∧ (ln.l2Exit = true → restarts (.l2ExitTimeout l)) ∧ (ln.l2Exit = false → still (.l2ExitTimeout l))
      ∧ (st = 0 ∨ st = 8 → still (.retrain l)) ∧ (st ≠ 0 → st ≠ 8 → restarts (.retrain l))
      ∧ (badTest → runs → completes (.test l w) s fun t => t.reg (LN_TCTL b) = old ∧ t.flag (LN_LSTAT_REFUSED b) = true)
      ∧ (¬ badTest → completes (.test l w) s fun t => t.reg (LN_TCTL b) = new % 2 ^ 32
        ∧ (c.laneStopped n = false → bit new 0 = true → bit old 0 = false → t.laneState n = 8 ∧ hunts t ∧ (t.lane n).q = [] ∧ (t.lane n).patFrac = 0)
        ∧ (bit new 6 = false ∨ bit new 0 = false ∨ bits new 3 1 ≠ bits old 3 1 → t.flag (LN_LSTAT_CHK_LOCK b) = false
          ∧ (t.lane n).chk = {})
        ∧ (c.laneStopped n = false → bit new 0 = false → bit old 0 = true → t.laneState n = if c.flag (LN_LCTL_EN b) then 1 else 0))
      ∧ (c.flag (LN_TCTL_TEST b) = true → c.flag (LN_TCTL_CHK_EN b) = true →
        (∀ p, ln.chk.pat = some p → c.flag (LN_LSTAT_CHK_LOCK b) = true → completes (.checkerLock l [x]) s fun t =>
          let e := patNext (c.fld (LN_TCTL_PAT b)) (c.reg64 (LN_UPAT b)) p
          let wrong := e.1 ≠ xor x (c.flag (LN_LCTL_RXINV b))
          t.reg64 (LN_TBITS b) = Nat.min (c.reg64 (LN_TBITS b) % 2 ^ 48 + 1) (2 ^ 48 - 1)
            ∧ t.reg (LN_TERR b) = (if wrong then Nat.min (c.reg (LN_TERR b) + 1) 0xFFFFFFFF else c.reg (LN_TERR b))
            ∧ (t.flag (LN_LSTAT_CHK_LOCK b) = true →
              (t.lane n).chk = { ln.chk with pat := some e.2, wrong := (ln.chk.wrong * 2 + (if wrong then 1 else 0)) % 2 ^ 64 })
            ∧ (t.flag (LN_LSTAT_CHK_LOCK b) = false →
              16 ≤ (List.range 64).countP (bit ((ln.chk.wrong * 2 + (if wrong then 1 else 0)) % 2 ^ 64)) ∧ (t.lane n).chk = {})
            ∧ c.regsBut t [LN_LSTAT b, LN_TERR b, LN_TBITS b, LN_TBITS b + 4])
        ∧ (ln.chk.pat = none → completes (.checkerLock l [x]) s fun t => c.regsBut t [LN_LSTAT b]
          ∧ (t.flag (LN_LSTAT_CHK_LOCK b) = true → 63 ≤ ln.chk.n ∧ (t.lane n).chk.pat ≠ none)
          ∧ (t.flag (LN_LSTAT_CHK_LOCK b) = false → (t.lane n).chk.n = Nat.min (ln.chk.n + 1) 128)))
      ∧ (c.flag (LN_TCTL_TEST b) = false ∨ c.flag (LN_TCTL_CHK_EN b) = false ∨ line = [] → still (.checkerLock l line))
      ∧ (c.fld (LN_INJ_MODE b) ∈ [1, 3, 5] → completes (.injOnce l) s fun t => t.lane n = { ln with injOnce := true } ∧ t.regs = c.regs)
      ∧ (c.fld (LN_INJ_MODE b) ∉ [1, 3, 5] → still (.injOnce l))
      ∧ (c.flag (LN_LSTAT_LOCK b) = true → c.sys.ready = false → ln.rx = none →
        let seen := ln.badAt.filter (c.fewerBlocks n 64)
        (seen.length < 15 → completes (.invalidHeader l) s fun t =>
          t.reg (LN_HDR_ERR b) = Nat.min (c.reg (LN_HDR_ERR b) + 1) 0xFFFFFFFF ∧ c.regsBut t [LN_HDR_ERR b]
            ∧ t.lane n = { ln with badAt := c.time :: seen, fresh := none })
        ∧ (15 ≤ seen.length → runs → completes (.invalidHeader l) s fun t =>
          t.reg (LN_HDR_ERR b) = Nat.min (c.reg (LN_HDR_ERR b) + 1) 0xFFFFFFFF ∧ hunts t ∧ t.laneState n = st
            ∧ t.reg (LN_LOCK_LOSS b) = Nat.min (c.reg (LN_LOCK_LOSS b) + 1) 0xFFFFFFFF))
      ∧ (c.flag (LN_LSTAT_LOCK b) = false → c.sys.ready = false → completes (.invalidHeader l) s fun t =>
        t.lane n = { ln with huntAt := c.time } ∧ t.regs = c.regs)

-- Management messages

/-- R211 to R213, R225, R226: a received message with a wrong length, block count or CRC-32 is discarded and counted, one whose MSG_END has
not come stays in progress, and one on a lane that carries none is unknown blocks; at a hub lane one fills MRX and a pool buffer; at the
cell REG_WR and REG_RD are carried out word by word and answered, a MAILBOX fills the SRAM buffer; MSG_SEND and MBX_TX send. -/
def Obligations.ManagementMessages : Prop :=
  ∀ (k : Fin 192) (l : CellLane) (x : LaneId) (m : Message) (w : Word) (s : State),
    let c := s.chip
    let len := m.len.toNat
    let p := m.data.take len
    let sized := 0 < len ∧ len ≤ 2048 ∧ (m.data.length + 7) / 8 = (len + 7) / 8
    let good := sized ∧ crc32 p = m.crc.toNat
    let counted (i : Instr) (a : Nat) : Prop := completes i s fun t => t.reg a = Nat.min (c.reg a + 1) 0xFFFFFFFF ∧ c.onlyRegs t [a]
    let b := laneBase k
    let whole (j : Nat) : Prop := m.ended = true ∧ c.laneFresh j = false ∧ (c.lane j).rx = none
    let hub := whole k ∧ c.isMeasLane k = false
    let blocks := (m.data.length + 7) / 8
    let openEnded (i : Instr) (j : Nat) : Prop := m.ended = false → c.laneFresh j = false → (c.lane j).rx = none → c.isMeasLane j = false →
      completes i s fun t => (t.lane j).rx = some (decide (len = 0 ∨ 2048 < len)) ∧ c.regsBut t [LN_MSG_ERR (laneBase j)]
        ∧ t.reg (LN_MSG_ERR (laneBase j))
          = if len = 0 ∨ 2048 < len then Nat.min (c.reg (LN_MSG_ERR (laneBase j)) + 1) 0xFFFFFFFF else c.reg (LN_MSG_ERR (laneBase j))
    let beheaded (i : Instr) (j : Nat) : Prop := c.laneFresh j = true → c.isMeasLane j = false → completes i s fun t =>
      t.lane j = { c.lane j with fresh := none } ∧ c.regsBut t [LN_MSG_ERR (laneBase j)]
        ∧ t.reg (LN_MSG_ERR (laneBase j)) = Nat.min (c.reg (LN_MSG_ERR (laneBase j)) + (blocks + if m.ended then 1 else 0)) 0xFFFFFFFF
    let foreign (i : Instr) (j : Nat) : Prop := c.laneFresh j = false → completes i s fun t =>
      t.reg (LN_UNK_CNT (laneBase j)) = Nat.min (c.reg (LN_UNK_CNT (laneBase j)) + (1 + if m.ended then 1 else 0)) 0xFFFFFFFF
        ∧ t.reg (LN_MSG_ERR (laneBase j)) = Nat.min (c.reg (LN_MSG_ERR (laneBase j)) + blocks) 0xFFFFFFFF
        ∧ c.regsBut t [LN_UNK_CNT (laneBase j), LN_MSG_ERR (laneBase j)]
    let n := cellLaneNum l
    let bc := laneBase n
    let heard := l = .la ∨ c.dual = true
    let ready (j : Nat) : Prop := c.laneState j = 5 ∧ c.silenced j = false
    let fills (i : Instr) (kind : Nat) : Prop :=
      (c.isMeasLane k = true → foreign i k) ∧ openEnded i k ∧ beheaded i k
        ∧ (hub → ¬ sized → counted i (LN_MSG_ERR b)) ∧ (hub → sized → ¬ good → counted i (LN_CRC_ERR b))
        ∧ (hub → good → c.flag (LN_LSTAT_MRX_VALID b) = true → counted i (LN_MSG_ERR b))
        ∧ ∀ y, (c.allocBuf k false 1).1 = some y → hub → good → c.flag (LN_LSTAT_MRX_VALID b) = false → completes i s fun t =>
          t.flag (LN_LSTAT_MRX_VALID b) = true ∧ t.reg (LN_MRX b) = bufAddr y % 2 ^ 32
            ∧ t.reg (LN_MRX b + 4) = (p.length + kind * 2 ^ 12 + m.seq.toNat * 2 ^ 16) % 2 ^ 32 ∧ t.lanes = c.lanes
    let answers (t : Chip) (done : Nat) (error : Bool) (ws : List Nat) : Prop :=
      (t.lane n).msgs = (c.lane n).msgs ++ [mkMsg 2 m.seq.toNat (bytesLE 4 (done + b2n error * 2 ^ 31) ++ ws.flatMap (bytesLE 4))]
    let bad (i : Instr) : Prop := (¬ heard → completes i s fun t => t = c) ∧ (heard → openEnded i n ∧ beheaded i n) ∧ (heard → whole n → ¬ sized → counted i (LN_MSG_ERR bc))
      ∧ (heard → whole n → sized → ¬ good → counted i (LN_CRC_ERR bc))
    let awake := c.flag CGL_BOOTST_RESCUE = false
    let sram (a : Nat) : Prop := 0x20000000 ≤ a ∧ a < 0x20008000 ∧ a % 4 = 0
    let bx := laneBase (laneNum x)
    let addr := c.reg (LN_MTX bx)
    let info := c.reg (LN_MTX bx + 4)
    let mtx := laneNum x < 192 ∧ c.flag (LN_LSTAT_MTX_BUSY bx) = false ∧ addr % 8 = 0 ∧ 0x40000000 ≤ addr ∧ addr + bits info 11 0 ≤ poolEnd
    let runs := laneNum x < 204 ∨ c.fire.clkStop = false
    fills (.regRsp k m) 2 ∧ fills (.mailbox (.cl k) m) 4 ∧ fills (.log k m) 5
      ∧ bad (.regWr l m) ∧ bad (.regRd l m) ∧ bad (.mailbox (.cell l) m)
      ∧ (∀ f : Fin 12, foreign (.mailbox (.fab f) m) (192 + f))
      ∧ (heard → whole n → good → c.flag CLN_CCTL_MBX_EN = false ∨ c.flag CLN_MBX_RXL_FULL = true → counted (.mailbox (.cell l) m) (LN_MSG_ERR bc))
      ∧ (heard → whole n → good → c.flag CLN_CCTL_MBX_EN = true → c.flag CLN_MBX_RXL_FULL = false → completes (.mailbox (.cell l) m) s fun t =>
        t.reg CLN_MBX_RXL = p.length + m.seq.toNat * 2 ^ 12 + (if l = .lb then 2 ^ 20 else 0) + 2 ^ 31
          ∧ (0x20000000 ≤ c.reg CLN_MBX_RXA → c.reg CLN_MBX_RXA + p.length ≤ 0x20008000 →
            memBytes t.cellMem (c.reg CLN_MBX_RXA) p.length = p))
      ∧ (∀ a v, wordsLE (p.length / 4) p = [a, v] → heard → whole n → good → awake → ready n → c.laneReach true a = false →
        completes (.regWr l m) s fun t => answers t 0 true [] ∧ t.cellMem = c.cellMem)
      ∧ (∀ a v, wordsLE (p.length / 4) p = [a, v] → heard → whole n → good → awake → ready n → sram a → completes (.regWr l m) s fun t =>
        answers t 1 false [] ∧ t.cellWord a = v % 2 ^ 32)
      ∧ (heard → whole n → good → ¬ awake → completes (.regWr l m) s fun t => t = c)
      ∧ (∀ a, wordsLE (p.length / 4) p = [a] → heard → whole n → good → ready n → c.laneReach false a = false → completes (.regRd l m) s fun t =>
        answers t 0 true [] ∧ t.cellMem = c.cellMem)
      ∧ (∀ a, wordsLE (p.length / 4) p = [a] → heard → whole n → good → awake → ready n → sram a → (c.eccWord true a).1 = 0 →
        completes (.regRd l m) s fun t => answers t 1 false [c.cellWord a % 2 ^ 32] ∧ t.cellMem = c.cellMem)
      ∧ (¬ mtx → runs → completes (.msgSend x) s fun t => t.flag (LN_LSTAT_REFUSED bx) = true)
      ∧ (mtx → ready (laneNum x) → (c.poolRead addr (bits info 11 0)).1 = false → completes (.msgSend x) s fun t =>
        (t.lane (laneNum x)).msgs = (c.lane (laneNum x)).msgs
            ++ [mkMsg (bits info 15 12) (bits info 23 16) (memBytes c.hubMem addr (bits info 11 0))]
          ∧ t.flag (LN_LSTAT_MTX_BUSY bx) = true)
      ∧ (192 ≤ laneNum x → runs → completes (.mrxDone x) s fun t => t.flag (LN_LSTAT_REFUSED bx) = true)
      ∧ (laneNum x < 192 → c.flag (LN_LSTAT_MRX_VALID bx) = true → completes (.mrxDone x) s fun t =>
        t.flag (LN_LSTAT_MRX_VALID bx) = false ∧ t.lanes = c.lanes)
      ∧ (laneNum x < 192 → c.flag (LN_LSTAT_MRX_VALID bx) = false → completes (.mrxDone x) s fun t => t = c)
      ∧ (bit w.toNat 31 = false → completes (.mbxTxGo w) s fun t =>
        t.reg (CLN_MBX_TX + 4) = writtenWord (regWord (CLN_MBX_TX + 4)) (c.reg (CLN_MBX_TX + 4)) w.toNat % 2 ^ 32
          ∧ c.onlyRegs t [CLN_MBX_TX + 4])
      ∧ (bit w.toNat 31 = true → bit w.toNat 20 = true → bit w.toNat 21 = false ∨ c.dual = false → ready 204 → 0x20000000 ≤ c.reg CLN_MBX_TX →
        c.reg CLN_MBX_TX + bits w.toNat 11 0 ≤ 0x20008000 → completes (.mbxTxGo w) s fun t =>
          (t.lane 204).msgs = (c.lane 204).msgs ++ [mkMsg 4 (bits w.toNat 19 12) (memBytes c.cellMem (c.reg CLN_MBX_TX) (bits w.toNat 11 0))]
            ∧ t.lane 205 = c.lane 205 ∧ t.flag CLN_MBX_TX_GO = true)

-- Gatehouse and Orangery

/-- R223, R229 to R233, R235, R243, R244, R246: a received frame is checked and counted; a unicast frame leaves by its entry's port with TTL
less one and a new HCHK, in a buffer charged to its port, or by the alternate port, or is counted; a suspended one waits for its
continuation; a message fills its Kiosk queue under the delivery rules, and a MEAS frame gives its sample to Belvedere and Ha-ha (R109,
R110, R344); a port in L0 starts its next frame, which takes its form as its SOF leaves. -/
def Obligations.FrameForwarding : Prop :=
  ∀ (port : Fin 12) (p : Plane) (f : Frame) (rx : Reception) (s : State),
    let c := s.chip
    let pl := port.val / 6
    let n := 192 + port.val
    let k := fKind f.hdr
    let l := frameBytes f.hdr f.ext f.payload
    let len := rx.len.toNat
    let calm := c.laneFresh n = false ∧ (c.lane n).rx = none ∧ (c.port port).part = none ∧ rx.resume = none
    let header := f.hdr.length = 8 ∧ frameLen f.hdr = len ∧ fPlen f.hdr ≤ 2048 ∧ 64 ≤ len ∧ len ≤ 2112
    let framed := calm ∧ header ∧ rx.tail = .whole ∧ 8 * rx.blocks.toNat = len ∧ f.ext.length = (if fTx f.hdr = true then 32 else 0)
      ∧ f.payload.length = fPlen f.hdr
    let misshapen := calm ∧ rx.tail = .whole ∧ (f.hdr.length ≠ 8 ∨ frameLen f.hdr ≠ len ∨ 2048 < fPlen f.hdr ∨ len < 64 ∨ 2112 < len
      ∨ 8 * rx.blocks.toNat ≠ len ∨ f.ext.length ≠ (if fTx f.hdr = true then 32 else 0) ∨ f.payload.length ≠ fPlen f.hdr)
    let whole := crc32 l = f.crc.toNat
    let hok := crc16 (hdrBytes f.hdr) = bits (hw f.hdr 7) 15 0
    let one (a : Nat) (t : Chip) : Prop := t.reg a = Nat.min (c.reg a + 1) 0xFFFFFFFF ∧ c.onlyRegs t [a]
    let en := c.flag GTH_GCTL_EN = true
    let own := c.flag GTH_GSTAT_ID_VALID = true ∧ fDst f.hdr = c.fld GTH_GSTAT_NODE_ID
    let passes := en ∧ hok ∧ fTtl f.hdr ≠ 0 ∧ fMc f.hdr = false ∧ k ≠ 8 ∧ k ≠ 9 ∧ ¬ own
    let uni := framed ∧ whole ∧ passes
    let e := c.reg (GTH_RT pl (fDst f.hdr))
    let pri := 6 * pl + bits e 2 0
    let alt := 6 * pl + bits e 6 4
    let direct := bit e 3 = true ∧ bits e 2 0 < 6 ∧ c.portUp pri = true
    let other := bit e 3 = true ∧ ¬ direct ∧ c.flag GTH_GCTL_ALT_EN = true ∧ bit e 7 = true ∧ bits e 6 4 < 6 ∧ c.portUp alt = true
    let lv := fLevel f.hdr
    let new (b : Nat) (eof : Option Nat) : QFrame :=
      { buf := b, level := lv, hdr := withHchk (setHw f.hdr 0 (hw f.hdr 0 - 2 ^ 12)), ext := f.ext, payload := f.payload, eof := eof,
        from_ := some (port.val, c.time) }
    let leaves (t : Chip) (b q : Nat) (eof : Option Nat) : Prop :=
      (t.port q).q = (c.port q).q ++ [new b eof] ∧ t.buf b = some ⟨n, (c.source n (decide (lv < 2))) == some true, 1⟩
        ∧ memBytes t.hubMem (bufAddr b) l.length = l ∧ t.reg GTH_FWD_CNT = Nat.min (c.reg GTH_FWD_CNT + 1) 0xFFFFFFFF
    let free (q : Nat) : Prop := c.silenced (192 + q) = false ∧ (c.port q).cur = none
    let src := fSrc f.hdr
    let d : Dlv := Assoc.get (fun _ => {}) c.gth.dlv src
    let seq := fSeq f.hdr
    let x := c.port port
    let ln := c.lane n
    let ready := c.portUp port = true ∧ x.cur = none ∧ ln.msgs = []
    let nowhere (i : Instr) : Prop := c.frameQueues f.hdr = [] → completes i s fun t => t = c
    let w0 := natLE (f.payload.take 4)
    let w1 := natLE ((f.payload.drop 4).take 4)
    let slot := c.slotOfTag (bits w1 11 0)
    let source := c.measSource (natLE ((f.payload.drop 8).take 4) % 1024) (bits w1 23 16)
    let bad := bit w1 12 || bit w1 13
    let v := toSigned 24 (bits w0 31 8)
    let old : Samp := Assoc.get (fun _ => {}) c.blv.ms slot
    nowhere (.msg p f)
      ∧ (c.frameQueues f.hdr = [] → planeNum p ≠ c.fld BND_NCTL_RXPLANE → source = none → completes (.measFrame p f) s fun t => t = c)
      ∧ (∀ i, source = some i → planeNum p = c.fld BND_NCTL_RXPLANE → (c.blv.formed.any fun j => decide (slot ≤ j)) = false →
        completes (.measFrame p f) s fun t =>
          let z : Samp := Assoc.get (fun _ => {}) t.blv.ms slot
          z.rx = old.rx + 1
            ∧ (if 255 ≤ old.rx ∨ bad = true then z.n = old.n ∧ z.sum = old.sum
              else z.n = mapSide i (· + 1) old.n ∧ z.sum = mapSide i (· + v) old.sum)
            ∧ t.reg BLV_MEAS_OVF = Nat.min (c.reg BLV_MEAS_OVF + if 255 ≤ old.rx then 1 else 0) 0xFFFFFFFF
            ∧ t.reg BLV_MEAS_BAD = Nat.min (c.reg BLV_MEAS_BAD + if old.rx < 255 ∧ bad = true then 1 else 0) 0xFFFFFFFF)
      ∧ (∀ i, source = some i → planeNum p = c.fld BND_NCTL_RXPLANE → (c.blv.formed.any fun j => decide (slot ≤ j)) = true →
        completes (.measFrame p f) s fun t => t.reg BLV_MEAS_LATE = Nat.min (c.reg BLV_MEAS_LATE + 1) 0xFFFFFFFF ∧ t.blv = c.blv)
      ∧ (∀ i, source = some i → completes (.measFrame p f) s fun t =>
        (c.hh.taken.contains (src, seq) = true → t.hh = c.hh)
          ∧ (c.hh.taken.contains (src, seq) = false → t.hh.taken = ((src, seq) :: c.hh.taken).take 256
            ∧ (bit w1 13 = false → getSide i t.hh.smp = some v)))
      ∧ (∀ j q, c.frameQueues f.hdr = [(j, q)] → d.check (planeNum p) seq = 1 → completes (.msg p f) s fun t => one GTH_DUP_DROP t)
      ∧ (∀ j q, c.frameQueues f.hdr = [(j, q)] → d.check (planeNum p) seq = 2 → completes (.msg p f) s fun t => one GTH_ORDER_DROP t)
      ∧ (∀ j q, c.frameQueues f.hdr = [(j, q)] → d.check (planeNum p) seq = 0 → c.queueTakes j q f.payload.length = false →
        completes (.msg p f) s fun t => t.sr j 0x27 = Nat.min (c.sr j 0x27 + 1) 0xFFFFFFFF ∧ t.rxq j q = c.rxq j q ∧ t.gth = c.gth)
      ∧ (∀ j q, c.frameQueues f.hdr = [(j, q)] → d.check (planeNum p) seq = 0 → c.queueTakes j q f.payload.length = true →
        c.source (queueAcct j q) (decide (lv < 2)) = none → completes (.msg p f) s fun t =>
          t.sr j 0x27 = Nat.min (c.sr j 0x27 + 1) 0xFFFFFFFF ∧ t.rxq j q = c.rxq j q ∧ t.gth.dlv = c.gth.dlv
            ∧ t.reg (ORG_DROP (queueAcct j q)) = Nat.min (c.reg (ORG_DROP (queueAcct j q)) + 1) 0xFFFFFFFF)
      ∧ (∀ j q, c.frameQueues f.hdr = [(j, q)] → d.check (planeNum p) seq = 0 → c.queueTakes j q f.payload.length = true →
        ∀ b y, c.allocBuf (queueAcct j q) (decide (lv < 2)) 1 = (some b, y) → completes (.msg p f) s fun t =>
          t.rxq j q = c.rxq j q ++ [⟨f.payload, b⟩] ∧ memBytes t.hubMem (bufAddr b) l.length = l
            ∧ (∀ r, (c.source (queueAcct j q) (decide (lv < 2))) = some r → t.buf b = some ⟨queueAcct j q, r, 1⟩)
            ∧ Assoc.get (fun _ => {}) t.gth.dlv src = d.put (planeNum p) seq)
      ∧ (c.laneFresh n = true → completes (.frame port f rx) s fun t => t.lane n = { ln with fresh := none }
        ∧ t.reg (LN_MSG_ERR (laneBase n))
          = Nat.min (c.reg (LN_MSG_ERR (laneBase n)) + (rx.blocks.toNat + if rx.tail = .coming then 0 else 1)) 0xFFFFFFFF)
      ∧ (misshapen → completes (.frame port f rx) s fun t => one (LN_MSG_ERR (laneBase n)) t)
      ∧ (framed → ¬ en → whole → completes (.frame port f rx) s fun t => t = c)
      ∧ (framed → ¬ en → ¬ whole → completes (.frame port f rx) s fun t => one (LN_CRC_ERR (laneBase n)) t)
      ∧ (framed → en → whole → ¬ hok → completes (.frame port f rx) s fun t => one GTH_HDR_DROP t)
      ∧ (framed → en → whole → hok → fTtl f.hdr = 0 → completes (.frame port f rx) s fun t => one GTH_TTL_DROP t)
      ∧ (uni → ¬ direct → ¬ other → completes (.frame port f rx) s fun t =>
        t.reg GTH_NOROUTE_CNT = Nat.min (c.reg GTH_NOROUTE_CNT + 1) 0xFFFFFFFF ∧ t.gth.bufs = c.gth.bufs)
      ∧ (∀ b y, c.allocBuf n (decide (lv < 2)) 1 = (some b, y) → uni → direct → free pri →
        completes (.frame port f rx) s fun t => leaves t b pri none)
      ∧ (∀ b y, c.allocBuf n (decide (lv < 2)) 1 = (some b, y) → uni → other → free alt →
        completes (.frame port f rx) s fun t => leaves t b alt none ∧ t.reg GTH_ALT_USE = Nat.min (c.reg GTH_ALT_USE + 1) 0xFFFFFFFF)
      ∧ (∀ b y, c.allocBuf n (decide (lv < 2)) 1 = (some b, y) → framed → ¬ whole → passes → direct → free pri →
        completes (.frame port f rx) s fun t => t.reg (LN_CRC_ERR (laneBase n)) = Nat.min (c.reg (LN_CRC_ERR (laneBase n)) + 1) 0xFFFFFFFF
          ∧ (c.cutThrough port pri = true → leaves t b pri (some f.crc.toNat)
            ∧ t.reg GTH_CRC_FWD = Nat.min (c.reg GTH_CRC_FWD + 1) 0xFFFFFFFF)
          ∧ (c.cutThrough port pri = false → (t.port pri).q = (c.port pri).q ∧ t.buf b = none))
      ∧ (c.source n (decide (lv < 2)) = none → uni → direct → completes (.frame port f rx) s fun t =>
        t.reg (ORG_DROP n) = Nat.min (c.reg (ORG_DROP n) + 1) 0xFFFFFFFF ∧ t.gth.ports = c.gth.ports
          ∧ (lv < 2 → t.flag ORG_OSTAT_CTL_EXH = true ∧ t.reg ORG_CTL_DROP = Nat.min (c.reg ORG_CTL_DROP + 1) 0xFFFFFFFF))
      ∧ (∀ b y, c.allocBuf n (decide (lv < 2)) 1 = (some b, y) → calm → header → rx.tail = .suspended → 4 ≤ rx.blocks.toNat →
        8 * rx.blocks.toNat ≤ len → crc32 (l.take (8 * rx.blocks.toNat)) = f.crc.toNat → passes → direct →
        completes (.frame port f rx) s fun t => t.reg GTH_FWD_CNT = Nat.min (c.reg GTH_FWD_CNT + 1) 0xFFFFFFFF
          ∧ (t.port port).part = some ⟨seq % 256, rx.blocks.toNat, b, if c.cutThrough port pri = true then [pri] else [],
            if c.cutThrough port pri = true then [] else [pri], false⟩)
      ∧ (∀ y, (c.port port).part = some y → c.laneFresh n = false → ln.rx = none → rx.resume = none → header → rx.tail = .coming →
        rx.blocks.toNat = 0 → 0 < lv → completes (.frame port f rx) s fun t => (t.port port).part = none ∧ (t.lane n).rx = some false
          ∧ t.reg GTH_PREEMPT_RX = Nat.min (c.reg GTH_PREEMPT_RX + 1) 0xFFFFFFFF)
      ∧ (ln.rx = some true → completes (.earlyEof port) s fun t => (t.lane n) = { ln with rx := none } ∧ t.regs = c.regs)
      ∧ (ln.rx ≠ some true → completes (.earlyEof port) s fun t => (t.lane n).rx = none ∧ (t.port port).rxBuf = none
        ∧ t.reg GTH_PREEMPT_RX = Nat.min (c.reg GTH_PREEMPT_RX + 1) 0xFFFFFFFF
        ∧ (x.rxBuf ≠ none → (t.port port).q.all (fun g => !g.opened port) = true))
      ∧ (¬ ready → completes (.frameTxStart port) s fun t => t = c)
      ∧ (ready → x.q = [] → completes (.frameTxStart port) s fun t => t = c)
      ∧ (∀ g, x.q = [g] → ready → x.lets g = false → completes (.frameTxStart port) s fun t => t = c)
      ∧ (∀ g, x.q = [g] → ready → x.lets g = true → c.silenced n = false → completes (.frameTxStart port) s fun t =>
        let resume := 0 < g.level ∧ x.await ≠ none
        (t.port port).q = [] ∧ (t.port port).cur = some g ∧ (t.lane n).q = ln.q ++ [(6, mkBlock 0x12 (frameLen g.hdr * 2 ^ 32
          + fSeq g.hdr % 256 * 2 ^ 20 + (if resume then 2 ^ 19 else 0) + g.off * 2 ^ 10))] ∧ t.regs = c.regs)
      ∧ (∀ g, x.cur = some g → ∀ m, ln.msgs = [m] → ∀ y, pickBlock [] (ln.available (c.laneClock n)).1 = some y → blockType y.1.2 = 0x12 →
        c.portUp port = true → ln.wantsBalance = false → c.fld (LN_INJ_MODE (laneBase n)) = 0 → g.off = 0 → g.req = none →
        fTx g.hdr = false → 8192 ≤ g.buf → g.upto = none → g.eof = none → completes (.txSlot (.fab port)) s fun t =>
          t.sent = .frame port g.hdr g.ext g.payload :: .block n y.1.2 :: c.sent
            ∧ (t.lane n).msgs = [{ m with begun := true, words := g.words, all := g.words, fin := mkEof (crc32 (wordsBytes g.words)) false }])

/-- R247, R244, R245: ALLOC takes a buffer for the account of the requester, or answers VALID = 0; FREE releases a buffer only for its
account; a write of ACCT, whose lower word waits held, or of OCTL that would make the minimums and the reserve exceed the pool is
refused. -/
def Obligations.PoolAccounts : Prop :=
  ∀ (r : Requester) (a : Fin 288) (w v : Word) (s : State),
    let c := s.chip
    let held := c.holdOf r = some (acctAddr a, [(0, w.toNat)])
    let own := acctOf r
    let hub := hubRequester r = true
    let calm := c.takeDue = false
    let b := bits w.toNat 12 0
    let m := bits w.toNat 12 0
    let beyond := 8192 < c.sumMin a m + c.fld ORG_OCTL_RSV_CTL
    let beyond' := 8192 < c.sumMin 288 0 + m
    (¬ hub → (completes (.alloc r) s fun t => t = c) ∧ completes (.free r w) s fun t => t = c)
      ∧ (hub → c.source own false = none ∨ c.regionOf r = true → completes (.alloc r) s fun t => t.rdata = 0 ∧ t = { c with rdata := 0 })
      ∧ (∀ n y, c.allocBuf own false 1 = (some n, y) → hub → c.regionOf r = false → completes (.alloc r) s fun t =>
        t.rdata.toNat = 2 ^ 31 + n ∧ t.buf n = some ⟨own, false, 1⟩ ∧ c.buf n = none ∧ t.acctUsed own = (c.acctUsed own + 1) % 2 ^ 13
          ∧ (∀ j, j ≠ n → t.buf j = c.buf j) ∧ t.hubMem = c.hubMem)
      ∧ (∀ x, c.buf b = some x → hub → x.acct = own → x.refs ≤ 1 → completes (.free r w) s fun t =>
        t.buf b = none ∧ t.acctUsed own = (c.acctUsed own - 1) % 2 ^ 13 ∧ ∀ j, j ≠ b → t.buf j = c.buf j)
      ∧ (∀ x, c.buf b = some x → hub → x.acct ≠ own → completes (.free r w) s fun t =>
        t.flag ORG_OSTAT_FREE_REF = true ∧ t.gth.bufs = c.gth.bufs)
      ∧ (c.buf b = none → hub → completes (.free r w) s fun t => t.flag ORG_OSTAT_FREE_REF = true ∧ t.gth.bufs = c.gth.bufs)
      ∧ (hub → calm → held → beyond → completes (.acctWrite r (BitVec.ofNat 32 (acctAddr a + 4)) v) s fun t =>
        t.flag ORG_OSTAT_REFUSED = true ∧ t.reg (acctAddr a) = c.reg (acctAddr a) ∧ t.gth.bufs = c.gth.bufs)
      ∧ (hub → calm → held → ¬ beyond → completes (.acctWrite r (BitVec.ofNat 32 (acctAddr a + 4)) v) s fun t =>
        t.acctMin a = m ∧ t.acctMax a = bits w.toNat 28 16 ∧ t.acctUsed a = c.acctUsed a ∧ t.gth.bufs = c.gth.bufs
          ∧ c.regsBut t [acctAddr a, ORG_OFREE])
      ∧ (hub → calm → beyond' → completes (.acctWrite r (BitVec.ofNat 32 ORG_OCTL) w) s fun t =>
        t.flag ORG_OSTAT_REFUSED = true ∧ t.reg ORG_OCTL = c.reg ORG_OCTL)
      ∧ (hub → calm → ¬ beyond' → completes (.acctWrite r (BitVec.ofNat 32 ORG_OCTL) w) s fun t =>
        t.fld ORG_OCTL_RSV_CTL = m ∧ t.gth.bufs = c.gth.bufs ∧ c.regsBut t [ORG_OCTL, ORG_OFREE])

/-- R236 to R242, R251: HELLO, neighbours, the choice of the station lead, node IDs, and the loading and swapping of the routing tables. The
headers of HELLO and ASSIGN and the contents of ASSIGN and SWAPCMD are the model's choice (log entry 96). -/
def Obligations.Discovery : Prop :=
  ∀ (port o : Fin 12) (h : Hello) (serial at' : DWord) (id : BitVec 10) (path' : List Nat) (dst : Fin 1024) (w : Word) (s : State),
    let c := s.chip
    let en := c.flag GTH_GCTL_EN = true
    let chosen := c.reg64 GTH_LEAD_SERIAL ≠ 0
    let same (i : Instr) : Prop := completes i s fun t => t = c
    let pl := port.val / 6
    let takesOut := c.portUp o = true ∧ c.silenced (192 + o) = false ∧ (c.port o).cur = none
    let idle := (List.range 12).all (fun i => (c.port i).cur.isNone && !c.silenced (192 + i)) = true
    let puts (t : Chip) (f : QFrame) : Prop := (t.port o).q = (c.port o).q ++ [f]
    let ctl (hdr : List Word) (payload : List Byte) (from' : Option (Nat × Nat)) : QFrame :=
      { buf := 8192, level := 1, hdr := hdr, ext := [], payload := payload, from_ := from' }
    let nbr := h.nbr.map BitVec.toNat
    let path := h.path ++ [port.val % 6]
    let ser := h.serial.toNat
    let isLead := c.flag GTH_GSTAT_IS_LEAD = true
    let calm := c.gth.epoch = h.epoch.toNat ∧ (c.gth.heard.all fun x => !(x.plane == pl && x.serial == ser)) = true
    let v := bit (c.fld GTH_PORTS_NBR_V) port = true ∧ c.threeIntervals (Assoc.get (fun _ => 0) c.gth.nbrAt port) = true
    let past := c.reg64 GTH_SWAP_AT ≤ c.ftNs % 2 ^ 64
    let passed := at'.toNat ≤ c.ftNs % 2 ^ 64
    let mine := c.flag GTH_GSTAT_ID_VALID = true
    let swapped (t : Chip) : Prop := t.reg (GTH_RT 0 dst) = c.reg (GTH_RT_SH 0 dst) ∧ t.reg (GTH_RT_SH 0 dst) = c.reg (GTH_RT 0 dst)
      ∧ t.flag GTH_GSTAT_BANK = !c.flag GTH_GSTAT_BANK
    let settled := c.gth.setAt + Nat.max (c.fld GTH_DISCCFG_SETTLE) 1 * 2000000 ≤ c.time
    let leads := c.withFlag 4
    let forced := c.withFlag 1
    let elig := c.withFlag 0
    let free := en ∧ ¬ chosen ∧ settled
    let takes (n : Nat) : Prop := n ≠ hubSerial → completes .leadChoice s fun t =>
      t.reg64 GTH_LEAD_SERIAL = n % 2 ^ 64 ∧ t.flag GTH_GSTAT_IS_LEAD = c.flag GTH_GSTAT_IS_LEAD
    let heardLead := c.gth.heard.filter fun x => x.serial == c.reg64 GTH_LEAD_SERIAL
    let lost := chosen ∧ ¬ isLead ∧ heardLead ≠ [] ∧ heardLead.all (fun x => c.threeIntervals x.at') = true
    let q := c.prefs
    (¬ en → same .helloSend ∧ same (.hello port h) ∧ same .leadChoice)
      ∧ (en → completes .helloSend s fun t => t.gth.seq = (c.gth.seq + 1) % 2 ^ 24 ∧ (idle → t.regs = c.regs)
        ∧ (takesOut → puts t (ctl (helloHdr (o / 6) (c.fld GTH_GCTL_TTL_INIT) (c.fld GTH_GSTAT_NODE_ID) c.gth.seq) (helloBytes hubSerial
          c.helloFlags (c.fld GTH_GSTAT_NODE_ID) q.2.1 c.gth.epoch [] (c.nbrs (o / 6)) c.member) none))
        ∧ (c.portUp o = false → (t.port o).q = (c.port o).q))
      ∧ (ser = hubSerial → same (.hello port h))
      ∧ (en → ser ≠ hubSerial → calm → completes (.hello port h) s fun t =>
        t.gth.heard = c.gth.heard
            ++ [⟨pl, ser, h.flags.toNat, h.nodeId.toNat, h.prefId.toNat, h.epoch.toNat, path, nbr, h.member.toNat, c.time⟩]
          ∧ ((c.heardNow.all fun x => x.serial != ser) = true → t.gth.setAt = c.time)
          ∧ (h.hops = 0 → t.reg64 (GTH_NBR port) = ser ∧ bit (t.fld GTH_PORTS_NBR_V) port = true
            ∧ Assoc.get (fun _ => 0) t.gth.nbrAt port = c.time)
          ∧ (h.hops ≠ 0 → ¬ isLead → idle → t.regs = c.regs)
          ∧ (¬ isLead → h.hops = 15 ∨ c.gth.fwd.contains (pl, ser, h.seq.toNat) = true ∨ o = port ∨ o.val / 6 ≠ pl →
            (t.port o).q = (c.port o).q)
          ∧ (¬ isLead → h.hops ≠ 15 → c.gth.fwd.contains (pl, ser, h.seq.toNat) = false → t.gth.fwd.contains (pl, ser, h.seq.toNat) = true
            ∧ (takesOut → o ≠ port → o.val / 6 = pl → puts t (ctl (fwdHdr (helloHdr pl (15 - h.hops.toNat) h.nodeId.toNat h.seq.toNat))
              (helloBytes ser h.flags.toNat h.nodeId.toNat h.prefId.toNat h.epoch.toNat path nbr h.member.toNat) (some (port.val, c.time))))))
      ∧ (en → ser ≠ hubSerial → c.gth.epoch < h.epoch.toNat → completes (.hello port h) s fun t =>
        t.gth.epoch = h.epoch.toNat ∧ t.flag GTH_GSTAT_ID_VALID = false ∧ t.reg64 GTH_LEAD_SERIAL = 0)
      ∧ (¬ v → same (.nbrTimeout port))
      ∧ (v → ¬ isLead → completes (.nbrTimeout port) s fun t =>
        t.reg64 (GTH_NBR port) = 0 ∧ bit (t.fld GTH_PORTS_NBR_V) port = false ∧ (en → t.gth.seq = (c.gth.seq + 1) % 2 ^ 24))
      ∧ (chosen ∨ ¬ settled → same .leadChoice)
      ∧ (free → leads = [] → forced = [] → elig = [] → completes .leadChoice s fun t =>
        t.flag GTH_GSTAT_NOLEAD = true ∧ t.reg64 GTH_LEAD_SERIAL = 0 ∧ t.flag GTH_GSTAT_IS_LEAD = c.flag GTH_GSTAT_IS_LEAD)
      ∧ (∀ n, lowest leads = some n → free → takes n)
      ∧ (∀ n, lowest forced = some n → free → leads = [] → takes n)
      ∧ (∀ n, lowest elig = some n → free → leads = [] → forced = [] → takes n ∧ (n = hubSerial → completes .leadChoice s fun t =>
          t.flag GTH_GSTAT_IS_LEAD = true ∧ t.flag GTH_GSTAT_ID_VALID = true))
      ∧ (¬ lost → same .leadLost)
      ∧ (lost → completes .leadLost s fun t => t.flag GTH_GSTAT_LEAD_LOST = true ∧ t.reg64 GTH_LEAD_SERIAL = c.reg64 GTH_LEAD_SERIAL
        ∧ t.fld GTH_GSTAT_NODE_ID = c.fld GTH_GSTAT_NODE_ID
        ∧ t.gth.heard = c.gth.heard.filter fun x => x.serial != c.reg64 GTH_LEAD_SERIAL)
      ∧ (completes .rediscover s fun t => t.gth.epoch = (c.gth.epoch + 1) % 2 ^ 16 ∧ t.flag GTH_GSTAT_IS_LEAD = false
        ∧ t.flag GTH_GSTAT_ID_VALID = false ∧ t.reg64 GTH_LEAD_SERIAL = 0 ∧ c.regsBut t [GTH_GSTAT, GTH_LEAD_SERIAL, GTH_LEAD_SERIAL + 4])
      ∧ (serial.toNat ≠ hubSerial → idle → completes (.assign port serial id path') s fun t => t.regs = c.regs ∧ t.gth.heard = c.gth.heard
        ∧ (path' = [] → t.gth = c.gth))
      ∧ (∀ y, path'.getLast? = some y → serial.toNat ≠ hubSerial → y < 6 → o.val = 6 * pl + y → takesOut →
        completes (.assign port serial id path') s fun t => ((t.port o).q.drop (c.port o).q.length).map (fun f => (f.level, f.payload))
          = [(1, assignBytes serial.toNat id.toNat path'.dropLast)])
      ∧ (serial.toNat = hubSerial → completes (.assign port serial id path') s fun t => t.flag GTH_GSTAT_ID_VALID = true
        ∧ t.fld GTH_GSTAT_NODE_ID = id.toNat ∧ (¬ (mine ∧ c.fld GTH_GSTAT_NODE_ID = id.toNat) → q.1 = 1 → q.2.1 ≠ id.toNat →
          t.flag GTH_GSTAT_ID_CONFLICT = true))
      ∧ (completes (.rtload (BitVec.ofNat 16 (0x3000 + 4 * dst)) [w] false) s fun t =>
        t.reg (GTH_RT_SH 0 dst) = w.toNat ∧ c.onlyRegs t [GTH_RT_SH 0 dst])
      ∧ (mine → c.gth.firstLoad = true → completes (.rtload (BitVec.ofNat 16 (0x3000 + 4 * dst)) [w] true) s fun t =>
        t.reg (GTH_RT 0 dst) = w.toNat ∧ t.reg (GTH_RT_SH 0 dst) = c.reg (GTH_RT 0 dst) ∧ t.flag GTH_GSTAT_ROUTED = true)
      ∧ (¬ (mine ∧ c.gth.firstLoad = true) → completes (.rtload (BitVec.ofNat 16 (0x3000 + 4 * dst)) [w] true) s fun t =>
        t.reg (GTH_RT_SH 0 dst) = w.toNat ∧ c.onlyRegs t [GTH_RT_SH 0 dst])
      ∧ (passed → completes (.swapcmd at') s fun t => swapped t ∧ t.reg64 GTH_SWAP_AT = at'.toNat ∧ t.flag GTH_GSTAT_SWAP_LATE = true)
      ∧ (¬ passed → completes (.swapcmd at') s fun t => t.reg64 GTH_SWAP_AT = at'.toNat ∧ t.gth.swapArmed = true
        ∧ c.regsBut t [GTH_SWAP_AT, GTH_SWAP_AT + 4])
      ∧ (past → completes .swap s fun t => swapped t ∧ t.flag GTH_GSTAT_SWAP_LATE = true)
      ∧ (¬ past → completes .swap s fun t => t.gth = { c.gth with swapArmed := true } ∧ t.regs = c.regs)
      ∧ (c.gth.swapArmed = true → past → completes .tableSwap s fun t => swapped t ∧ t.gth.swapArmed = false)
      ∧ (¬ (c.gth.swapArmed = true ∧ past) → same .tableSwap)
      ∧ (¬ isLead → completes .reroute s fun t => t.flag GTH_GSTAT_REFUSED = true ∧ t.gth.ids = c.gth.ids)
      ∧ (isLead → c.gth.ids = [(hubSerial, id.toNat)] → c.heardNow = [] → c.ftNs + 1000000 < 2 ^ 64 → completes .reroute s fun t =>
        t.reg64 GTH_SWAP_AT = c.ftNs + 1000000 ∧ t.gth.swapArmed = true ∧ t.gth.ports = c.gth.ports
          ∧ (¬ (mine ∧ c.gth.firstLoad = true) → t.reg (GTH_RT_SH 0 id.toNat) = 2 ^ 12))
      ∧ (∀ x, c.heardNow = [x] → isLead → o.val = 6 * x.plane + x.path.getLastD 0 → takesOut → c.ftNs + 1000000 < 2 ^ 64 →
        c.gth.ids = [(hubSerial, 0), (x.serial, 1)] → x.serial ≠ hubSerial → completes .reroute s fun t =>
        (((t.port o).q.drop (c.port o).q.length).map fun f => (fKind f.hdr, fDst f.hdr))
            = [(0xA, 1), (0xA, 1), (0xA, 1), (0xA, 1), (0xA, 1), (0xA, 1), (0xB, 1)]
          ∧ ((t.port o).q.drop ((c.port o).q.length + 6)).map (·.payload) = [bytesLE 8 (c.ftNs + 1000000)])

-- Time distribution and Ethernet

/-- R253 to R257: PROBE and ECHO of a lane in L0, the delay halved and averaged over 2^DAVG values, jumps and dropped measurements, and the
write of PRBCTL. -/
def Obligations.LaneDelay : Prop :=
  ∀ (l : LaneId) (w : DWord) (turn : BitVec 33) (rtt : BitVec 40) (v : Word) (s : State),
    let c := s.chip
    let n := laneNum l
    let b := laneBase n
    let ln := c.lane n
    let st := c.laneState n
    let measures := ¬ (n < 192 ∧ c.flag (LN_LCTL_MEAS b) = true)
    let due := measures ∧ st = 5 ∧ c.flag (LN_PRBCTL_PROBE_EN b) = true ∧ ln.probe = none
    let good := blockOk w = true ∧ c.laneFresh n = false
    let bad := blockOk w = false ∧ c.laneFresh n = false
    let same (i : Instr) : Prop := completes i s fun t => t = c
    let onlyLane (t : Chip) (a : List Nat) : Prop :=
      t = { c with regs := t.regs, lanes := t.lanes } ∧ c.regsBut t a ∧ ∀ j : Nat, j ≠ n → t.lane j = c.lane j
    let dropped (i : Instr) : Prop := completes i s fun t =>
      t.reg (LN_DLY_DROP b) = Nat.min (c.reg (LN_DLY_DROP b) + 1) 0xFFFFFFFF ∧ onlyLane t [LN_DLY_DROP b]
    let t32 := bits w.toNat 44 12
    let pid := bits w.toNat 52 45
    let d := (rtt.toNat - t32 + 1) / 2
    let m := c.reg (LN_DLY_MEAN b)
    let jump := 16 * Nat.max (c.fld (LN_PRBCTL_DJUMP b)) 1
    let cal := c.flag (LN_PRBSTAT_CAL b) = true
    let apart := cal ∧ (m + jump < d ∨ d + jump < m)
    let h := (d :: ln.dlyHist).take (2 ^ Nat.min (c.fld (LN_PRBCTL_DAVG b)) 6)
    let restarts := (c.flag (LN_PRBCTL_PROBE_EN b) = true ∧ bit v.toNat 31 = false) ∨ c.fld (LN_PRBCTL_DAVG b) ≠ bits v.toNat 18 16
    (due → c.silenced n = false → completes (.probeSend l) s fun t => (t.lane n).probe = some ln.pid
        ∧ (t.lane n).q = ln.q ++ [(6, mkBlock 10 (ln.pid % 2 ^ 8 * 2 ^ 33))] ∧ (t.lane n).pid = (ln.pid + 1) % 256 ∧ onlyLane t [])
      ∧ (¬ due → same (.probeSend l))
      ∧ (bad → completes (.probe l w turn) s fun t =>
        t.reg (LN_CHK_ERR b) = Nat.min (c.reg (LN_CHK_ERR b) + 1) 0xFFFFFFFF ∧ c.onlyRegs t [LN_CHK_ERR b])
      ∧ (good → ¬ measures → same (.probe l w turn))
      ∧ (good → measures → st = 5 ∨ st = 6 → c.silenced n = false → ln.q.any (fun x => isEcho x.2) = false → completes (.probe l w turn) s
        fun t => (t.lane n).q = ln.q ++ [(6, mkBlock 10 (2 ^ 41 + pid * 2 ^ 33 + turn.toNat))] ∧ t.laneState n = 5 ∧ onlyLane t [LN_LSTAT b])
      ∧ (good → measures → st = 5 → ln.q.any (fun x => isEcho x.2) = true → completes (.probe l w turn) s fun t =>
        (t.lane n).q.length = ln.q.length ∧ (t.lane n).q.any (fun x => x.2 == mkBlock 10 (2 ^ 41 + pid * 2 ^ 33 + turn.toNat)) = true
          ∧ onlyLane t [])
      ∧ (bad → completes (.echo l w rtt) s fun t =>
        t.reg (LN_CHK_ERR b) = Nat.min (c.reg (LN_CHK_ERR b) + 1) 0xFFFFFFFF ∧ c.onlyRegs t [LN_CHK_ERR b])
      ∧ (ln.probe = none → good → same (.echo l w rtt))
      ∧ (∀ p, ln.probe = some p → good → pid ≠ p → dropped (.echo l w rtt))
      ∧ (∀ p, ln.probe = some p → good → pid = p → rtt.toNat < t32 → dropped (.echo l w rtt))
      ∧ (∀ p, ln.probe = some p → good → pid = p → t32 ≤ rtt.toNat → ¬ apart → completes (.echo l w rtt) s fun t =>
        (t.lane n).probe = none ∧ t.reg (LN_DLY_LAST b) = d % 2 ^ 32 ∧ (t.lane n).dlyHist = h
          ∧ t.reg (LN_DLY_MEAN b) = (2 * h.foldl (· + ·) 0 + h.length) / (2 * h.length) % 2 ^ 32
          ∧ t.fld (LN_PRBSTAT_NVALID b) = h.length
          ∧ t.flag (LN_PRBSTAT_CAL b) = (c.flag (LN_PRBSTAT_CAL b) || h.length == 2 ^ Nat.min (c.fld (LN_PRBCTL_DAVG b)) 6)
          ∧ onlyLane t [LN_DLY_LAST b, LN_DLY_MEAN b, LN_PRBSTAT b])
      ∧ (∀ p, ln.probe = some p → good → pid = p → t32 ≤ rtt.toNat → apart → completes (.echo l w rtt) s fun t =>
        (t.lane n).dlyHist = [d] ∧ (t.lane n).dlyKept = some m ∧ t.reg (LN_DLY_MEAN b) = d % 2 ^ 32 ∧ t.fld (LN_PRBSTAT_NVALID b) = 1
          ∧ t.reg (LN_DLY_RESTART b) = Nat.min (c.reg (LN_DLY_RESTART b) + 1) 0xFFFFFFFF
          ∧ t.flag (LN_PRBSTAT_CAL b) = (c.fld (LN_PRBCTL_DAVG b) == 0))
      ∧ (ln.probe = none → same (.probeTimeout l))
      ∧ (∀ p, ln.probe = some p → dropped (.probeTimeout l) ∧ completes (.probeTimeout l) s fun t => (t.lane n).probe = none)
      ∧ (restarts → completes (.prbctlWrite l v) s fun t => t.reg (LN_PRBCTL b) = writtenWord (regWord (LN_PRBCTL b)) (c.reg (LN_PRBCTL b)) v.toNat
        ∧ (t.lane n).dlyHist = [] ∧ t.fld (LN_PRBSTAT_NVALID b) = 0 ∧ t.flag (LN_PRBSTAT_CAL b) = false ∧ t.reg (LN_DLY_MEAN b) = 0
        ∧ t.reg (LN_DLY_RESTART b) = Nat.min (c.reg (LN_DLY_RESTART b) + 1) 0xFFFFFFFF)
      ∧ (¬ restarts → completes (.prbctlWrite l v) s fun t =>
        t.reg (LN_PRBCTL b) = writtenWord (regWord (LN_PRBCTL b)) (c.reg (LN_PRBCTL b)) v.toNat ∧ c.onlyRegs t [LN_PRBCTL b])

/-- R258 to R270: the time root sends TSYNC and TANN and answers nothing; a follower computes TERR, judges UNCAL, keeps TANN and ROOT_CHG;
loss of TSYNC and the UNCAL timeout; the path check; reads of the results. -/
def Obligations.TimeFrames : Prop :=
  ∀ (port : Fin 12) (p : Plane) (x : TimeExt) (a : TannPayload) (src : BitVec 10) (reqCorr turn w : Word) (rtt : BitVec 48) (r : Requester)
      (i : Fin 2) (s : State),
    let c := s.chip
    let pl := port.val / 6
    let root := c.flag SDL_TDCFG_ROOT = true
    let same (i : Instr) : Prop := completes i s fun t => t = c
    let last := c.tsLast pl
    let old := last.any (fun q => decide (toSigned 16 (wrapNat 16 ((x.tseq.toNat : Int) - q.1)) ≤ 0)) = true
    let foreign := c.td.root.any (fun q => x.root.toNat != q) = true
    let taken := ¬ root ∧ ¬ old ∧ ¬ foreign
    let res := SDL_TRES pl
    let uncal := x.uncal || !c.portCal port
    let e : Int := (x.origin.toNat * 2 ^ 24 + x.ofrac.toNat / 2 ^ 8 : Nat) + toSigned 64 x.corr.toNat * 2 ^ 8 + c.dlyUse (192 + port) * 2 ^ 20
      - ((c.dom 1).acc / 2 ^ 16 : Nat)
    let other := pl ≠ c.fld SDL_TDCFG_TS_PLANE
    let lone := c.gth.ports = [] ∧ c.gth.loopq = [] ∧ c.reg (GTH_MC 255) = 0
    let align := c.fld SDL_TDSTAT_ALIGN
    let go := bit w.toNat 31 = true
    let hub := hubRequester r = true
    let aw := [a.ft.toNat, a.ft.toNat / 2 ^ 32, a.stNs.toNat, a.stSec.toNat, a.stSec.toNat / 2 ^ 32 + a.stFrac.toNat * 2 ^ 16, a.serial.toNat,
      a.serial.toNat / 2 ^ 32, b2n a.stValid + 2 ^ 31].map (· % 2 ^ 32)
    (¬ root → same .tsyncSend ∧ same .tannSend)
      ∧ (root → lone → (completes .tsyncSend s fun t => t.td = { c.td with tseq := (c.td.tseq + 1) % 65536 }
          ∧ t.gth.seq = (c.gth.seq + 1) % 2 ^ 24 ∧ t.regs = c.regs)
        ∧ completes .tannSend s fun t => t.td = { c.td with tseq := (c.td.tseq + 1) % 65536 } ∧ t.gth.seq = (c.gth.seq + 1) % 2 ^ 24
          ∧ t.regs = c.regs)
      ∧ (root → completes (.tsync port x) s fun t => t.flag SDL_TDSTAT_ROOT_CONFLICT = true ∧ t.td = c.td)
      ∧ (¬ root → old → completes (.tsync port x) s fun t => t.reg SDL_TS_OLD = Nat.min (c.reg SDL_TS_OLD + 1) 0xFFFFFFFF ∧ t.td = c.td
        ∧ c.regsBut t [SDL_TS_OLD, SDL_TS_FOREIGN])
      ∧ (¬ root → foreign → completes (.tsync port x) s fun t => t.reg SDL_TS_FOREIGN = Nat.min (c.reg SDL_TS_FOREIGN + 1) 0xFFFFFFFF
        ∧ t.td = c.td ∧ c.regsBut t [SDL_TS_OLD, SDL_TS_FOREIGN])
      ∧ (taken → completes (.tsync port x) s fun t => t.reg64 res = wrapNat 64 (clampInt (-2 ^ 63) (2 ^ 63 - 1) (toSigned 88 (wrapNat 88 e)))
        ∧ t.reg (res + 8) = x.tseq.toNat + x.hops.toNat % 16 * 2 ^ 16 + port.val % 6 * 2 ^ 20 + b2n uncal * 2 ^ 24 + 2 ^ 31
        ∧ t.flag (tsLostFld pl) = false ∧ t.tsLast pl = some (x.tseq.toNat, port.val, x.hops.toNat)
        ∧ (other → t.td.clean = c.td.clean ∧ c.regsBut t [res, res + 4, res + 8, res + 12, SDL_TDSTAT])
        ∧ (¬ other → uncal = true → t.td.clean = 0 ∧ t.fld SDL_TDSTAT_ALIGN = 1)
        ∧ (¬ other → uncal = false → last.isNone = true → t.td.clean = c.td.clean + 1
          ∧ (Nat.max (c.fld SDL_TDCFG_UNC_CLR) 1 ≤ c.td.clean + 1 → t.fld SDL_TDSTAT_ALIGN = 0 ∧ t.flag (SDL_DSTAT_UNCAL 1) = false)))
      ∧ (root → same (.tsLost p))
      ∧ (¬ root → planeNum p ≠ c.fld SDL_TDCFG_TS_PLANE → completes (.tsLost p) s fun t =>
        t.flag (tsLostFld (planeNum p)) = true ∧ c.onlyRegs t [SDL_TDSTAT])
      ∧ (¬ root → planeNum p = c.fld SDL_TDCFG_TS_PLANE → completes (.tsLost p) s fun t =>
        t.flag (tsLostFld (planeNum p)) = true ∧ t.fld SDL_TDSTAT_ALIGN = 1 ∧ t.flag (SDL_DSTAT_UNCAL 1) = true)
      ∧ (align = 1 → completes .uncalLong s fun t => t.fld SDL_TDSTAT_ALIGN = 2 ∧ t.flag SDL_TDSTAT_UNCAL_LONG = true)
      ∧ (align ≠ 1 → same .uncalLong)
      ∧ (root → same (.tann p x a))
      ∧ (¬ root → c.td.root = none ∨ c.td.root = some a.serial.toNat → completes (.tann p x a) s fun t =>
        t.regWords SDL_TANNR 8 = aw ∧ t.td = { c.td with root := some a.serial.toNat }
          ∧ c.regsBut t [SDL_TANNR, SDL_TANNR + 4, SDL_TANNR + 8, SDL_TANNR + 12, SDL_TANNR + 16, SDL_TANNR + 20, SDL_TANNR + 24, SDL_TANNR + 28])
      ∧ (∀ q, c.td.root = some q → ¬ root → q ≠ a.serial.toNat → completes (.tann p x a) s fun t => t.regWords SDL_TANNR 8 = aw
        ∧ t.td.root = some a.serial.toNat ∧ t.flag SDL_TDSTAT_ROOT_CHG = true ∧ t.fld SDL_TDSTAT_ALIGN = 1)
      ∧ (¬ go → completes (.pathGo w) s fun t =>
        t.reg SDL_PATHCTL = writtenWord (regWord SDL_PATHCTL) (c.reg SDL_PATHCTL) w.toNat ∧ c.onlyRegs t [SDL_PATHCTL])
      ∧ (go → lone → c.sys.ready = false → completes (.pathGo w) s fun t => t.td.path = some (bits w.toNat 0 0) ∧ t.reg64 SDL_PATHR = 0
        ∧ t.fld SDL_PATHCTL_PATH_DST = bits w.toNat 25 16 ∧ t.gth.seq = (c.gth.seq + 1) % 2 ^ 24)
      ∧ (c.gth.ports = [] → completes (.pathreq port src x) s fun t => t.gth.seq = (c.gth.seq + 1) % 2 ^ 24 ∧ t.td = c.td)
      ∧ (c.td.path ≠ some pl → same (.pathrsp port x reqCorr turn rtt))
      ∧ (∀ q, c.td.path = some q → q = pl →
        let v : Int := ((rtt.toNat : Int) - turn.toNat) * 2 ^ 12 - toSigned 32 reqCorr.toNat - toSigned 64 x.corr.toNat
          - c.dlyUse (192 + port) * 2 ^ 12
        completes (.pathrsp port x reqCorr turn rtt) s fun t => t.td = { c.td with path := none }
          ∧ (t.reg SDL_PATHR = wrapNat 32 (v / 2 ^ 12) ∨ v % 2 ^ 12 ≠ 0 ∧ t.reg SDL_PATHR = wrapNat 32 (v / 2 ^ 12 + 1))
          ∧ t.flag SDL_PATHR_VALID = true ∧ t.flag SDL_PATHR_FAIL = false ∧ t.flag SDL_PATHR_UNCAL = x.uncal
          ∧ c.regsBut t [SDL_PATHR, SDL_PATHR + 4])
      ∧ (c.td.path = none → same .pathTimeout)
      ∧ (∀ q, c.td.path = some q → completes .pathTimeout s fun t => t.td.path = none ∧ t.flag SDL_PATHR_FAIL = true
        ∧ c.regsBut t [SDL_PATHR + 4])
      ∧ (¬ hub → same (.tresRead r (Fin.castSucc i)) ∧ same (.tresRead r 2))
      ∧ (hub → completes (.tresRead r (Fin.castSucc i)) s fun t => t.rdata.toNat = c.reg (SDL_TRES i) ∧ bit (t.reg (SDL_TRES i + 8)) 31 = false
        ∧ t.latchOf r = some ⟨SDL_TRES i, c.regWords (SDL_TRES i) 4⟩ ∧ c.regsBut t [SDL_TRES i + 8])
      ∧ (hub → completes (.tresRead r 2) s fun t => t.rdata.toNat = c.reg SDL_TANNR ∧ bit (t.reg (SDL_TANNR + 28)) 31 = false
        ∧ t.latchOf r = some ⟨SDL_TANNR, c.regWords SDL_TANNR 8⟩ ∧ c.regsBut t [SDL_TANNR + 28])

/-- R267, R268, R272, R376: frames received with their timestamps and the drops, frames sent with one-step changes and the timestamp FIFO,
the result queues, MDIO and the link. -/
def Obligations.EthernetPorts : Prop :=
  ∀ (n : Fin 2) (fr : List Byte) (ok up : Bool) (ago : BitVec 17) (w : Word) (phy : BitVec 16) (r : Requester) (s : State),
    let c := s.chip
    let e := c.ethOf n
    let en := c.flag (ETH_ECTL_EN n) = true
    let same (i : Instr) : Prop := completes i s fun t => t = c
    let fits := ok = true ∧ fr.length + 4 ≤ 1522
    let dropped (t : Chip) : Prop := t.reg (ETH_RX_DROP n) = Nat.min (c.reg (ETH_RX_DROP n) + 1) 0xFFFFFFFF ∧ t.ethOf n = e
    let ev := c.ptpEvent n fr
    let at' := stOf ((c.stAt ago.toNat : Int) - (c.fld (ETH_RX_LAT_LAT n) * 2 ^ 12 : Nat))
    let others (t : Chip) : Prop := ∀ m : Nat, m ≠ n → t.ethOf m = c.ethOf m
    let held := c.holdOf .host = none
    let words := [c.reg (ETH_ETXD n), c.reg (ETH_ETXD n + 4), c.reg (ETH_ETXD n + 8), w.toNat]
    let hub := hubRequester r = true
    let go := bit w.toNat 31 = true
    let op := bits w.toNat 29 28
    let reads := op = 2 ∨ op = 3 ∧ bit w.toNat 30 = true
    let was := c.flag (ETH_ESTAT_LINK n)
    (¬ en → same (.ethRx n fr ok ago))
      ∧ (en → ¬ fits → completes (.ethRx n fr ok ago) s fun t => dropped t)
      ∧ (en → fits → 64 ≤ e.rxq.length → completes (.ethRx n fr ok ago) s fun t => dropped t ∧ t.flag (ETH_ESTAT_RX_FULL n) = true)
      ∧ (en → fits → e.rxq.length < 64 → c.source 285 false = none → completes (.ethRx n fr ok ago) s fun t =>
        dropped t ∧ t.flag (ETH_ESTAT_RX_FULL n) = true ∧ t.reg (ORG_DROP 285) = Nat.min (c.reg (ORG_DROP 285) + 1) 0xFFFFFFFF)
      ∧ (∀ b y, c.allocBuf 285 false 1 = (some b, y) → en → fits → e.rxq.length < 64 → completes (.ethRx n fr ok ago) s fun t =>
        (t.ethOf n).rxq = e.rxq ++ [(b + fr.length * 2 ^ 16 + b2n ev.isSome * 2 ^ 30 + 2 ^ 31) ::
            (if ev.isSome then [at'.2.1, at'.1 % 2 ^ 32, at'.1 / 2 ^ 32 + at'.2.2 * 2 ^ 16] else [0, 0, 0])]
          ∧ memBytes t.hubMem (bufAddr b) fr.length = fr ∧ t.buf b = some ⟨285, false, 1⟩ ∧ others t)
      ∧ (held → completes (.etxdSubmit n w) s fun t => (t.ethOf n).tx = e.tx ++ [words] ∧ t.reg (ETH_ETXD n + 12) = w.toNat ∧ others t
        ∧ c.regsBut t [ETH_ETXD n + 12])
      ∧ (e.tx = [] ∨ ¬ en → same (.ethTxDone n ago))
      ∧ (∀ d q, e.tx = d :: q → en → c.hubEcc = [] →
        let b := bits (d.getD 0 0) 12 0
        let f := memBytes c.hubMem (bufAddr b) (bits (d.getD 0 0) 26 16)
        let v := c.ptpEvent n f
        let out := stOf ((c.stAt ago.toNat + c.fld (ETH_TX_LAT_LAT n) * 2 ^ 12 : Nat) : Int)
        let ts := v.isSome ∧ bit (d.getD 1 0) 0 = true
        let os := bits (d.getD 1 0) 2 1
        completes (.ethTxDone n ago) s fun t => (t.ethOf n).tx = q ∧ others t
          ∧ (os = 0 → t.sent = .eth n f :: c.sent)
          ∧ (os ≠ 0 → v = none → t.sent = .eth n f :: c.sent ∧ t.flag (ETH_ESTAT_OS_REF n) = true)
          ∧ (¬ ts → (t.ethOf n).tsq = e.tsq)
          ∧ (ts → e.tsq.length < 16 → (t.ethOf n).tsq.map (·.drop 1)
            = e.tsq.map (·.drop 1) ++ [[out.2.1, out.1 % 2 ^ 32, out.1 / 2 ^ 32 + out.2.2 * 2 ^ 16]])
          ∧ (ts → 16 ≤ e.tsq.length → (t.ethOf n).tsq = e.tsq ∧ t.flag (ETH_ESTAT_TS_OVF n) = true
            ∧ t.reg (ETH_TS_OVF n) = Nat.min (c.reg (ETH_TS_OVF n) + 1) 0xFFFFFFFF))
      ∧ (¬ hub → same (.erxqRead r n) ∧ same (.etxtsRead r n))
      ∧ (hub → (completes (.erxqRead r n) s fun t => t.latchOf r = some ⟨ETH_ERXQ n, e.rxq.headD [0, 0, 0, 0]⟩
          ∧ (t.ethOf n).rxq = e.rxq.drop 1 ∧ others t ∧ t.regs = c.regs)
        ∧ completes (.etxtsRead r n) s fun t => t.latchOf r = some ⟨ETH_ETXTS n, e.tsq.headD [0, 0, 0, 0]⟩
          ∧ (t.ethOf n).tsq = e.tsq.drop 1 ∧ others t ∧ t.regs = c.regs)
      ∧ (¬ go → completes (.mdioGo w phy) s fun t => t.sent = c.sent ∧ t.flag ETH_MDIO_GO = false ∧ c.regsBut t [ETH_MDIO])
      ∧ (go → completes (.mdioGo w phy) s fun t => t.sent = .mdio w :: c.sent ∧ t.flag ETH_MDIO_GO = false ∧ c.regsBut t [ETH_MDIO]
        ∧ t.fld ETH_MDIO_DATA = if reads then phy.toNat else bits w.toNat 15 0)
      ∧ (completes (.ethLink n up) s fun t => t.flag (ETH_ESTAT_LINK n) = up ∧ ((was = true → up = true) → c.onlyRegs t [ETH_ESTAT n]))

-- Ha-ha

/-- R324 to R335: the copies of a safety frame are judged by SCRC, CONN, WD, age and SEQ; a frame takes effect when its second copy agrees
in the window, a fault locks; a hub forms one frame for each cell and one for its group; the watchdog and the window; broken sets. -/
def Obligations.SafetyReceivers : Prop :=
  ∀ (e : SafetyEnd) (second : Bool) (p : SafetyPdu) (l : LaneId) (n : Word) (s : State),
    let c := s.chip
    let k := endNum e
    let x := c.conn k
    let cfg := c.endCfg e
    let rx := cfg.2.1
    let base := cfg.2.2.2
    let one := cfg.2.2.1
    let same (i : Instr) : Prop := completes i s fun t => t = c
    let seq := p.seq.toNat
    let cmd := p.cmd.toNat
    let now : Nat := (if e = .cell then c.cellFtNs else c.ftNs) / 2 ^ 10 % 2 ^ 32
    let age := toSigned 32 (wrapNat 32 ((now : Int) - p.ts.toNat))
    let good := pduOk p = true
    let listens : Bool := match e with
      | .cell => !c.fire.clkStop
      | .hubRx n => c.flag (HHA_RXCONN_EN n)
      | .hubLane n => c.sLanes.contains n.val && !c.flag HHA_PEER_ROLE
    let hears := listens = true
    let relay : Bool := match e with
      | .hubLane n => c.sLanes.contains n.val && c.flag HHA_PEER_ROLE
      | _ => false
    let sane := p.conn.toNat = cfg.1 ∧ ¬ (p.wd.toNat = 0 ∨ bits rx 31 20 < p.wd.toNat) ∧ ¬ (age < -2 ∨ (bits rx 15 8 : Int) < age)
    let word : Option Nat := match e with
      | .cell => none
      | .hubRx n => some (HHA_RXSTAT n)
      | .hubLane n => some (HHA_SLSTAT n)
    let atRx : Bool := match e with
      | .hubRx _ => true
      | _ => false
    let failed (t : Chip) (cause : Nat) : Prop := (∀ a, word = some a → t.reg a = markLocked cause (c.reg a) % 2 ^ 32)
      ∧ (atRx = true → t.fld HHA_HSTAT_STATE = lockState (c.fld HHA_HSTAT_STATE) cause)
      ∧ (e = .cell → t.fld CHH_HSTAT_STATE = lockState (c.fld CHH_HSTAT_STATE) cause ∧ t.flag CHH_HSTAT_SAFE = true
        ∧ t.fld CHH_HSTAT_CAUSE = (if c.fld CHH_HSTAT_CAUSE = 0 then cause else c.fld CHH_HSTAT_CAUSE))
    let counted (t : Chip) (a : Nat) : Prop := t.reg a = Nat.min (c.reg a + 1) 0xFFFFFFFF
    let fresh := x.wait.all (fun f => f.pdu.seq != p.seq) = true
    let calm := bit cmd 0 = false
    let inNext := 1 ≤ wrapNat 32 ((seq : Int) - x.last.getD 0) ∧ wrapNat 32 ((seq : Int) - x.last.getD 0) ≤ Nat.max (bits rx 19 16) 1
    let opens := x.last = none ∨ fresh ∧ x.opened.contains seq = false ∧ inNext
    let f0 := laneNum l
    let form := if f0 < 204 then HHA_FORM_CNT else CHH_FORM_CNT
    let c1 := c.draw.1
    let receives := c.endOn e = true
    let out (n : Word) : Prop := x.wait.any (fun f => f.pdu.seq == n && decide (bits rx 7 0 * 2000 ≤ (c.time - f.at') * 1040 / 1000)) = true
    let late : Prop := x.wd.any (fun d => decide (d.2 * 2000 ≤ (c.time - d.1) * 1040 / 1000)) = true
    (c.flag HHA_HCTL_TX_EN = false → same .safetyFrameSend)
      ∧ (c.flag HHA_HCTL_TX_EN = true → c.flag HHA_PEER_ROLE = true ∨ c.sLanes = [] → c.gth.ports = [] → c.reg (GTH_MC (c.fld HHA_TXID_SGRP)) = 0 →
        completes .safetyFrameSend s fun t => Assoc.get (fun _ => 0) t.hh.txSeq 192 = (Assoc.get (fun _ => 0) c.hh.txSeq 192 + 1) % 2 ^ 32
          ∧ t.gth.seq = (c.gth.seq + 1) % 2 ^ 24 ∧ t.lanes = c.lanes ∧ t.regs = c.regs)
      ∧ (∀ m, c.sLanes = [m] → c.flag HHA_HCTL_TX_EN = true → c.flag HHA_PEER_ROLE = false → c.flag (LN_LCTL_MEAS (laneBase m)) = false →
        c.flag HHA_PEER_PARTNER_V = false → c.laneState m = 5 → c.silenced m = false → completes .safetyFrameSend s fun t =>
          (t.lane m).q = (c.lane m).q ++ (pduBlocks 0x70 (mkPdu (c.fld GTH_GSTAT_NODE_ID * 2 ^ 14 + m * 2 ^ 6)
            ((Assoc.get (fun _ => 0) c.hh.txSeq m + 1) % 2 ^ 32) (c.ftNs / 2 ^ 10 % 2 ^ 32) (c.fld HHA_TXCFG_TXWD) (c.hubCmd true))).map ((5, ·)))
      ∧ (completes (.setBroken l) s fun t => counted t form ∧ c.onlyRegs t [form])
      ∧ (¬ hears → relay = false → same (.safetyCopy e second p))
      ∧ (hears → ¬ good → same (.safetyCopy e second p))
      ∧ (hears → good → p.conn.toNat ≠ cfg.1 → completes (.safetyCopy e second p) s fun t => failed t 9 ∧ counted t (base + 8))
      ∧ (hears → good → p.conn.toNat = cfg.1 → p.wd.toNat = 0 ∨ bits rx 31 20 < p.wd.toNat → completes (.safetyCopy e second p) s fun t =>
        failed t 0xA ∧ counted t (base + 8))
      ∧ (hears → good → p.conn.toNat = cfg.1 → ¬ (p.wd.toNat = 0 ∨ bits rx 31 20 < p.wd.toNat) → age < -2 ∨ (bits rx 15 8 : Int) < age →
        completes (.safetyCopy e second p) s fun t => failed t 8 ∧ counted t (base + 12))
      ∧ (hears → good → sane → opens → calm → one = false → x.wait.length < 4 → completes (.safetyCopy e second p) s fun t =>
        (t.conn k).wait = x.wait ++ [⟨p, second, c.time⟩] ∧ (t.conn k).last = some seq ∧ (t.conn k).wd = some (c.time, p.wd.toNat) ∧ t.regs = c.regs)
      ∧ (hears → good → sane → opens → calm → one = true → completes (.safetyCopy e second p) s fun t => (t.conn k).acc = some (p, c.time)
        ∧ (t.conn k).last = some seq)
      ∧ (hears → good → sane → opens → one = false → x.wait.length < 4 → bit cmd 0 = true → completes (.safetyCopy e second p) s fun t =>
        (t.conn k).dem = true ∧ (e = .cell ∨ atRx = true → failed t 2)
          ∧ ∀ a, word = some a → atRx = false → bit (t.reg a) 19 = true)
      ∧ (∀ m, x.last = some m → hears → good → sane → fresh → x.opened.contains seq = true → completes (.safetyCopy e second p) s fun t =>
        counted t (base + 16) ∧ c.onlyRegs t [base + 16])
      ∧ (∀ m, x.last = some m → hears → good → sane → fresh → x.opened.contains seq = false → ¬ inNext →
        completes (.safetyCopy e second p) s fun t => failed t 7 ∧ (t.conn k).last = none ∧ (t.conn k).wait = [])
      ∧ (∀ f, x.wait.find? (fun y => y.pdu.seq == p.seq) = some f → ∀ m, x.last = some m → hears → good → sane → f.second = second →
        completes (.safetyCopy e second p) s fun t => counted t (base + 16) ∧ c.onlyRegs t [base + 16])
      ∧ (∀ f, x.wait.find? (fun y => y.pdu.seq == p.seq) = some f → ∀ m, x.last = some m → hears → good → sane → f.second ≠ second →
        (c.time - f.at') * (960 + c1 % 81) / 1000 ≤ bits rx 7 0 * 2000 →
          (f.pdu = p → completes (.safetyCopy e second p) s fun t => (t.conn k).acc = some (p, c.time))
            ∧ (f.pdu ≠ p → completes (.safetyCopy e second p) s fun t => failed t 5 ∧ counted t base))
      ∧ (∀ f, x.wait.find? (fun y => y.pdu.seq == p.seq) = some f → ∀ m, x.last = some m → hears → good → sane → f.second ≠ second →
        bits rx 7 0 * 2000 < (c.time - f.at') * (960 + c1 % 81) / 1000 → completes (.safetyCopy e second p) s fun t => failed t 4 ∧ counted t base)
      ∧ (¬ (receives ∧ out n) → same (.copyWindowExpiry e n))
      ∧ (receives → out n → completes (.copyWindowExpiry e n) s fun t =>
        failed t 4 ∧ counted t base ∧ (t.conn k).wait = x.wait.filter fun f => f.pdu.seq != n)
      ∧ (¬ (receives ∧ late) → same (.safetyWatchdog e))
      ∧ (receives → late → completes (.safetyWatchdog e) s fun t => failed t 6 ∧ counted t (base + 4) ∧ (t.conn k).wd = none)

/-- R336 to R349: the reset request in edge and level mode; the causes of the safe state, each recorded when none is; DEBLOCK; the test of a
masked leg. RUN is reached only when nothing stands against it, as the model reads it where R336 leaves a condition's end untold. -/
def Obligations.SafeStateAndReset : Prop :=
  ∀ (p : Part) (r : Requester) (sec : Bool) (g : Fin 4) (i : Fin 2) (s : State),
    let c := s.chip
    let q := rqFld p
    let same (i : Instr) : Prop := completes i s fun t => t = c
    let rq := c.flag q = true
    let live := (c.rq p).live = true
    let level := c.rmode p = true
    let us := (c.time - (c.rq p).fell) * (960 + c.draw.1 % 81) / 1000 / 2000
    let due := 50000 * 2000 ≤ (c.time - (c.rq p).fell) * 1040 / 1000
    let st := match p with
      | .hub => c.fld HHA_HSTAT_STATE
      | .cell => c.fld CHH_HSTAT_STATE
    let stateOf (t : Chip) : Nat := match p with
      | .hub => t.fld HHA_HSTAT_STATE
      | .cell => t.fld CHH_HSTAT_STATE
    let ref := match p with
      | .hub => HHA_HSTAT_RESET_REF
      | .cell => CHH_HSTAT_RESET_REF
    let refs := match p with
      | .hub => HHA_RESET_REF_CNT
      | .cell => CHH_RESET_REF_CNT
    let refused (t : Chip) : Prop :=
      stateOf t = st ∧ (p = .hub ∨ c.fire.clkStop = false → t.flag ref = true) ∧ t.reg refs = Nat.min (c.reg refs + 1) 0xFFFFFFFF
    let ended (t : Chip) : Prop := t.flag q = true ∧ t.rq p = {}
    let hubClear := c.rxConns = [] ∧ c.hh.sin = false ∧ c.sliNow = false ∧ c.hhaCrcOk = true ∧ c.sLanes = []
    let cell0 := (c.conn 0).acc
    let cellBlocked := cell0 = none ∨ c.chhCrcOk = false
    let hubBlocked := c.hhaCrcOk = false ∨ c.sliNow = true
    let hubSafe (t : Chip) (cause : Nat) : Prop := t.fld HHA_HSTAT_STATE = lockState (c.fld HHA_HSTAT_STATE) cause
      ∧ t.fld HHA_HSTAT_CAUSE = if c.fld HHA_HSTAT_CAUSE = 0 then cause else c.fld HHA_HSTAT_CAUSE
    let cellSafe (t : Chip) (cause : Nat) : Prop := t.fld CHH_HSTAT_STATE = lockState (c.fld CHH_HSTAT_STATE) cause
      ∧ t.flag CHH_HSTAT_SAFE = true ∧ t.fld CHH_HSTAT_CAUSE = if c.fld CHH_HSTAT_CAUSE = 0 then cause else c.fld CHH_HSTAT_CAUSE
    let cmd := match cell0 with
      | some (x, _) => x.cmd.toNat
      | none => 0
    let calm := c.reg (CFL_ENTRY 7 7) = 0 ∧ c.cellEcc = []
    let frees := c.cellState = 1 ∧ c.fld CHH_HSTAT_STATE = 1 ∧ bit cmd 1 = true ∧ bit cmd 0 = false ∧ c.flag CFL_REACT_BLK = false
    let silent := c.flag HHA_HCTL_SLI_EN = true ∧ (if sec then c.hh.lost.2 else c.hh.lost.1) = false
      ∧ (if sec then c.hh.smpAt.2 else c.hh.smpAt.1) + 2000 * c.fld HHA_SLICFG_SLI_TO ≤ c.time
    let removed (neg : Bool) (at' : Nat) : Prop := c.sddMasked neg = true ∧ (c.sddGate neg).any (fun x => partner x == g.val) = true
      ∧ at' + c.fld PWM_DEADT_DEAD + 16 ≤ c.ctick
    let sddBad := c.blocked = false ∧ c.fire.clkStop = false ∧ c.pinLevel g.val = false
      ∧ (removed false c.hh.maskAt.1 ∨ removed true c.hh.maskAt.2)
    (¬ rq → same (.rqFall p))
      ∧ (rq → completes (.rqFall p) s fun t => t.flag q = false ∧ t.rq p = { live := true, fell := c.time } ∧ c.regsBut t [q.addr])
      ∧ (rq → same (.rqRise p))
      ∧ (¬ rq → ¬ live ∨ level ∨ us < 50000 → completes (.rqRise p) s fun t => ended t ∧ c.regsBut t [q.addr])
      ∧ (¬ rq → live → ¬ level → 2000000 < us → completes (.rqRise p) s fun t => ended t ∧ refused t)
      ∧ (¬ rq → live → ¬ level → 50000 ≤ us → us ≤ 2000000 → st = 1 ∨ st = 3 → completes (.rqRise p) s fun t => ended t ∧ stateOf t = st)
      ∧ (¬ rq → live → ¬ level → 50000 ≤ us → us ≤ 2000000 → st ≠ 1 → st ≠ 3 → p = .hub → hubClear → completes (.rqRise p) s fun t =>
        ended t ∧ t.fld HHA_HSTAT_STATE = 1 ∧ t.fld HHA_HSTAT_CAUSE = 0)
      ∧ (¬ rq → live → ¬ level → 50000 ≤ us → us ≤ 2000000 → st ≠ 1 → st ≠ 3 → p = .hub ∧ hubBlocked ∨ p = .cell ∧ cellBlocked →
        completes (.rqRise p) s fun t => ended t ∧ refused t)
      ∧ (∀ a, cell0 = some a → ¬ rq → live → ¬ level → 50000 ≤ us → us ≤ 2000000 → st ≠ 1 → st ≠ 3 → p = .cell → a.2 = c.time →
        bit a.1.cmd.toNat 0 = false → c.hh.slv = false → c.chhCrcOk = true → completes (.rqRise p) s fun t =>
          ended t ∧ t.fld CHH_HSTAT_STATE = 1 ∧ t.fld CHH_HSTAT_CAUSE = 0 ∧ t.flag CHH_HSTAT_SAFE = false)
      ∧ (¬ (level ∧ ¬ rq ∧ live ∧ due) → same (.rqLevelTimer p))
      ∧ (level → ¬ rq → live → due → st ≠ 1 → st ≠ 3 → p = .hub → hubClear → completes (.rqLevelTimer p) s fun t => t.fld HHA_HSTAT_STATE = 1)
      ∧ (level → ¬ rq → live → due → st ≠ 1 → st ≠ 3 → p = .hub ∧ hubBlocked ∨ p = .cell ∧ cellBlocked → completes (.rqLevelTimer p) s fun t => refused t)
      ∧ (completes (.sbkReq .hub) s fun t => hubSafe t 3) ∧ (completes (.sbkReq .cell) s fun t => cellSafe t 3)
      ∧ (c.flag CHH_HCTL_SLV_EN = false → same .slv)
      ∧ (c.flag CHH_HCTL_SLV_EN = true → completes .slv s fun t => cellSafe t 0xB ∧ t.hh.slv = true
        ∧ t.reg CHH_SLV_CNT = Nat.min (c.reg CHH_SLV_CNT + 1) 0xFFFFFFFF)
      ∧ same (.slvTest true) ∧ (completes (.slvTest false) s fun t => cellSafe t 0x13) ∧ (completes .rcOscStop s fun t => cellSafe t 0x13)
      ∧ (¬ silent → same (.sliTimeout sec))
      ∧ (silent → completes (.sliTimeout sec) s fun t => hubSafe t 0xF
        ∧ t.hh.lost = if sec then (c.hh.lost.1, true) else (true, c.hh.lost.2))
      ∧ (completes (.sstop i) s fun t => hubSafe t 0x10 ∧ t.hh.sin = true) ∧ (completes .sinDisc s fun t => hubSafe t 0x11 ∧ t.hh.sin = true)
      ∧ (¬ sddBad → same (.sddMaskCheck g))
      ∧ (sddBad → completes (.sddMaskCheck g) s fun t => cellSafe t 0xC)
      ∧ (frees → completes (.deblock r) s fun t => (c.flag PWM_PSTAT_HALTED = false → t.cellState = 2) ∧ t.fire.lastDl = c.ctick ∧ t.fire.stalled = false)
      ∧ (¬ frees → c.fire.clkStop = false → completes (.deblock r) s fun t => t.flag CHH_HSTAT_DEB_REF = true
        ∧ t.reg CHH_DEB_REF_CNT = Nat.min (c.reg CHH_DEB_REF_CNT + 1) 0xFFFFFFFF ∧ t.fire.lastDl = c.fire.lastDl ∧ (calm → t.cellState = c.cellState))

-- Glasshouse and LDD

/-- R353 to R372: CCTL arms a channel or writes its header; an event that a channel takes joins its input FIFO, or is lost; the front entry
is stored, and triggers; POST, HOLDOFF, RELEASE and FORCE; a GAP in the place of lost entries; XTRIG and TRIG_AT; the training of the
LPDDR4X devices and their temperature. -/
def Obligations.Recorder : Prop :=
  ∀ (p : Part) (n : Fin 16) (k : Fin 2) (v : Byte) (ft : DWord) (w hi : Word) (m xs : BitVec 16) (node : BitVec 10) (ch4 : BitVec 4)
      (r : Requester) (ok inr level : Bool) (size : Fin 5) (g4 : Fin 4)
      (held : BitVec 5) (e : RIn) (es : List RIn) (s : State),
    let c := s.chip
    let ch := if p = .hub then n.val else 16 + k.val
    let i : Fin 16 := if p = .hub then n else ⟨k.val, by omega⟩
    let x := c.recd ch
    let st := c.chState ch
    let en := c.chEn ch = true
    let same (i : Instr) : Prop := completes i s fun t => t = c
    let own (t : Chip) : Prop := ∀ j : Nat, j ≠ ch → t.recd j = c.recd j
    let front := en ∧ x.fifo = e :: es ∧ e.lost = none
    let lv := if c.chMode ch = 0 then none else c.entryTrig ch e.srcid e.pay e.ft (Assoc.get (fun _ => none) x.prev e.srcid)
    let lf := lv.getD (0, e.ft)
    let quiet := lv = none ∧ x.force = false ∧ x.stamps = []
    let a := c.entAddr ch x.n
    let stored (t : Chip) : Prop := (t.recd ch).n = x.n + 1 ∧ (t.recd ch).fifo = es ∧ t.recWord ch a = e.ft % 2 ^ 32
      ∧ t.recWord ch (a + 4) = (e.ft / 2 ^ 32 % 2 ^ 16 + e.etype * 2 ^ 16 + e.srcid * 2 ^ 24) % 2 ^ 32
      ∧ t.recWord ch (a + 8) = e.pay % 2 ^ 32 ∧ t.recWord ch (a + 12) = e.pay / 2 ^ 32 % 2 ^ 32
    let decided := c.trigNow ch
    let merged (src : Nat) (g : RTrig) (t : Chip) : Prop :=
      (t.recd ch).trig.any (fun z => z.idx == Nat.min g.idx x.n && z.src == g.src ||| src) = true
    let due := x.heldAt + 2000 * c.chFld ch 0x24 31 20 ≤ c.time
    let dropped (t : Chip) (k : Nat) : Prop := t.reg (chBase ch + 0x34) = Nat.min (c.reg (chBase ch + 0x34) + k) 0xFFFFFFFF
    let edge : RIn := { ft := c.cellFtNs, etype := 0x15, srcid := g4.val,
                        pay := b2n level + (c.ctick + 1 - held.toNat) % 2 ^ 32 * 2 ^ 32 }
    let missed (t : Chip) : Prop := t.reg (chBase ch + 0x30) = Nat.min (c.reg (chBase ch + 0x30) + 1) 0xFFFFFFFF
      ∧ (t.recd ch).missed = x.missed + 1
    let full := st = 2 ∧ c.chPost ch ≤ x.after
    let refused := if p = .hub then GLS_GSTAT_REFUSED else CGS_GSTAT_REFUSED
    let isRefused (i : Instr) : Prop := completes i s fun t => t.flag refused = true ∧ t.reg (chBase ch) = c.reg (chBase ch)
      ∧ (t.recd ch).n = x.n ∧ (t.recd ch).trig = x.trig
    let runs := p = .hub ∨ c.fire.clkStop = false
    let bad := 5 ≤ bits w.toNat 10 8 ∨ bits w.toNat 2 1 = 3
    let starts := bit w.toNat 0 = true
    let word := writtenWord (regWord (chBase ch)) (c.reg (chBase ch)) w.toNat % 2 ^ 32
    let hdr (t : Chip) : Prop := bit (t.chDone ch) (c.chSlot ch) = true ∧ (t.recd ch).rseq = (x.rseq + 1) % 65536 ∧ (t.recd ch).missed = 0
      ∧ t.recWord ch (c.slotAddr ch (c.chSlot ch)) = 0x474C5352
      ∧ t.reg (chBase ch + 0x3C) = Nat.min (c.reg (chBase ch + 0x3C) + 1) 0xFFFFFFFF
    let key := (node.toNat, xs.toNat)
    let ldd := c.flag LDD_LDCTL_EN = true
    let alone (d : Nat) (l : List Nat) : Prop := l.all (fun j => (c.chFld j 0 11 11 == 1) == (j == d)) = true
    let found (d : Nat) (z : RStamp) := c.findEntry d (fun q => decide (z.ft ≤ c.entFt d q)) ((c.recd d).n - c.oldest d) (c.oldest d)
    let stamped (i : Instr) (d : Nat) (z : RStamp) : Prop :=
      (c.chEn d = false ∨ c.chMode d ≠ 0 ∧ c.chState d ≠ 1 ∧ c.trigNow d = none → completes i s fun t =>
        t.reg (chBase d + 0x30) = Nat.min (c.reg (chBase d + 0x30) + 1) 0xFFFFFFFF ∧ (t.recd d).missed = (c.recd d).missed + 1)
        ∧ (c.chEn d = true → c.chMode d ≠ 0 → c.chState d = 1 → found d z = none → completes i s fun t =>
          (t.recd d).stamps = (c.recd d).stamps
            ++ [{ z with early := c.oldest d < (c.recd d).n && z.ft < c.entFt d (c.oldest d) }] ∧ t.chState d = 1)
        ∧ (∀ q, found d z = some q → c.chFld d 0 31 16 = 0 → c.chEn d = true → c.chMode d ≠ 0 → c.chState d = 1 → completes i s fun t => t.chState d = 2
          ∧ (t.recd d).trig.any (fun g => g.idx == q && g.src == 2 ^ z.bit && g.ft == c.entFt d q && g.org == z.org) = true)
        ∧ (c.chEn d = true → c.chMode d = 0 → completes i s fun t => t.recd d = c.recd d ∧ t.chState d = c.chState d)
    (p = .cell → same (.recorderEntry .cell 2))
      ∧ (¬ en ∨ x.fifo = [] ∨ x.fifo = e :: es ∧ e.lost ≠ none → same (.recorderEntry p i))
      ∧ (front → st = 1 → quiet → completes (.recorderEntry p i) s fun t => stored t ∧ t.chState ch = 1 ∧ own t)
      ∧ (front → st = 1 → c.chMode ch ≠ 0 → ¬ quiet → x.stamps = [] → c.chFld ch 0 12 12 = 0 → c.chFld ch 0 31 16 = 0 →
        completes (.recorderEntry p i) s fun t => stored t ∧ t.chState ch = 2 ∧ (t.recd ch).trig.any (fun g => g.idx == x.n
          && (decide (256 ≤ lf.1) || g.f == lf.1) && g.ft == lf.2) = true)
      ∧ (front → st = 2 → x.after < c.chPost ch → lv = none → completes (.recorderEntry p i) s fun t =>
        stored t ∧ t.chState ch = 2 ∧ own t)
      ∧ (front → st ≠ 1 → st ≠ 2 ∨ full → lv ≠ none → decided = none → completes (.recorderEntry p i) s fun t =>
        missed t ∧ (t.recd ch).n = x.n ∧ t.hubMem = c.hubMem ∧ t.lddMem = c.lddMem)
      ∧ (∀ g, decided = some g → front → lv ≠ none → completes (.recorderEntry p i) s fun t => merged 1 g t)
      ∧ (c.fire.clkStop = false → c.chEn (16 + k.val) = true → c.takes (16 + k.val) 0x15 g4.val edge.pay = true →
        Nat.min (Nat.max (c.fld TRL_DRVCFG_DFILT) 1) 16 ≤ held.toNat →
        Assoc.get (fun _ => false) c.trl.drv g4.val ≠ (level == bit (c.fld TRL_DRVCFG_DPOL) g4.val) →
        completes (.drvstEdge g4 level held) s fun t => t.recd (16 + k.val) = (c.recd (16 + k.val)).queue edge)
      ∧ (¬ (en ∧ full) → same (.postComplete p i))
      ∧ (en → full → completes (.postComplete p i) s fun t => hdr t ∧ t.chState ch = 3 ∧ (t.recd ch).heldAt = c.time)
      ∧ (¬ (en ∧ st = 3 ∧ due) → same (.holdoffExpiry p i))
      ∧ (en → st = 3 → due → c.chMode ch = 1 ∨ c.freeSlot ch = none → completes (.holdoffExpiry p i) s fun t =>
        t.chState ch = 4 ∧ t.gls = c.gls ∧ c.regsBut t [chBase ch + 4])
      ∧ (∀ q, c.freeSlot ch = some q → en → st = 3 → due → c.chMode ch ≠ 1 → completes (.holdoffExpiry p i) s fun t =>
        t.chState ch = 1 ∧ t.chSlot ch = q % 16 ∧ t.recd ch = { x with n := 0, gaps := [], force := false, stamps := [], trig := none } ∧ c.regsBut t [chBase ch + 4])
      ∧ (¬ en ∨ x.nextLost = none → same (.gap p i))
      ∧ (∀ l y, x.nextLost = some (l, y) → en → st = 1 ∨ st = 2 ∧ x.after < c.chPost ch → completes (.gap p i) s fun t =>
        dropped t l.n ∧ (t.recd ch).n = x.n + 1 ∧ (t.recd ch).gaps = x.gaps ++ [(x.n, l.n)] ∧ (t.recd ch).prev = []
          ∧ t.recWord ch a = l.first % 2 ^ 32 ∧ t.recWord ch (a + 8) = l.n % 2 ^ 32 ∧ t.recWord ch (a + 12) = l.last % 2 ^ 32
          ∧ bits (t.recWord ch (a + 4)) 31 16 = 0xFE ∧ t.reg (chBase ch + 0x38) = Nat.min (c.reg (chBase ch + 0x38) + 1) 0xFFFFFFFF)
      ∧ (∀ l y, x.nextLost = some (l, y) → en → st ≠ 1 → st ≠ 2 ∨ full → completes (.gap p i) s fun t => dropped t l.n ∧ c.regsBut t [chBase ch + 0x34]
        ∧ t.recd ch = { y with prev := [] })
      ∧ (en → c.chMode ch = 0 → same (.force p i))
      ∧ (en → c.chMode ch ≠ 0 → st = 1 → completes (.force p i) s fun t => (t.recd ch).force = true ∧ t.regs = c.regs)
      ∧ (¬ en ∨ c.chMode ch ≠ 0 ∧ st ≠ 1 ∧ decided = none → completes (.force p i) s fun t => missed t)
      ∧ (∀ g, decided = some g → en → c.chMode ch ≠ 0 → completes (.force p i) s fun t => merged 4 g t)
      ∧ (¬ (en ∧ st = 4 ∧ c.chMode ch = 2) → completes (.recorderRelease p i m) s fun t =>
        t.chDone ch = c.chDone ch - (c.chDone ch &&& m.toNat) ∧ c.onlyRegs t [chBase ch + 4])
      ∧ (en → st = 4 → c.chMode ch = 2 → (List.range (c.chSlots ch)).any (fun q => bit m.toNat q) = true →
        completes (.recorderRelease p i m) s fun t =>
          t.chDone ch = c.chDone ch - (c.chDone ch &&& m.toNat) ∧ t.chState ch = 1
            ∧ (bit m.toNat (t.chSlot ch) = true ∨ bit (c.chDone ch) (t.chSlot ch) = false))
      ∧ (en → starts → c.changes (chBase ch) w.toNat = false → same (.cctlWrite p i w))
      ∧ (runs → en → starts → c.changes (chBase ch) w.toNat = true → isRefused (.cctlWrite p i w))
      ∧ (runs → ¬ (en ∧ starts) → bad ∨ ¬ en ∧ starts ∧ c.enOk ch = false → isRefused (.cctlWrite p i w))
      ∧ (en → ¬ starts → ¬ bad → st ≠ 1 → st ≠ 2 → completes (.cctlWrite p i w) s fun t =>
        t.reg (chBase ch) = word ∧ t.chState ch = 0 ∧ (t.recd ch).fifo = [] ∧ (t.recd ch).lost = none ∧ (t.recd ch).n = x.n
          ∧ dropped t x.lostSum
          ∧ c.regsBut t [chBase ch, chBase ch + 4, chBase ch + 0x34])
      ∧ (en → ¬ starts → ¬ bad → st = 1 ∨ st = 2 → completes (.cctlWrite p i w) s fun t => hdr t ∧ t.chState ch = 0 ∧ t.chEn ch = false)
      ∧ (¬ en → ¬ starts → ¬ bad → completes (.cctlWrite p i w) s fun t => t.reg (chBase ch) = word ∧ c.onlyRegs t [chBase ch])
      ∧ (¬ en → starts → ¬ bad → c.enOk ch = true → completes (.cctlWrite p i w) s fun t => t.reg (chBase ch) = word ∧ t.chState ch = 1
        ∧ t.chSlot ch = 0 ∧ t.chDone ch = 0 ∧ t.recd ch = {} ∧ t.recWord ch (c.slotAddr ch 0 + 60) = 0)
      ∧ (c.gls.seen.contains key = true → same (.xtrig node ft ch4 xs))
      ∧ (c.gls.seen.contains key = false → (List.range 16).all (fun j => c.chFld j 0 11 11 != 1) = true → completes (.xtrig node ft ch4 xs) s
        fun t => t.gls = { c.gls with seen := (key :: c.gls.seen).take 8 } ∧ t.regs = c.regs)
      ∧ (c.gls.seen.contains key = false → alone n.val (List.range 16) → ¬ (node.toNat = c.fld GTH_GSTAT_NODE_ID ∧ ch4.toNat = n.val) →
        stamped (.xtrig node ft ch4 xs) n.val { ft := ft.toNat, bit := 1, org := (node.toNat, ch4.toNat, xs.toNat), quiet := true }
          ∧ completes (.xtrig node ft ch4 xs) s fun t => t.gls.seen = (key :: c.gls.seen).take 8)
      ∧ (c.gls.seen.contains key = false → alone n.val (List.range 16) → node.toNat = c.fld GTH_GSTAT_NODE_ID → ch4.toNat = n.val →
        completes (.xtrig node ft ch4 xs) s fun t => t.gls = { c.gls with seen := (key :: c.gls.seen).take 8 } ∧ t.regs = c.regs)
      ∧ (hubRequester r = true → same (.trigAt r hi))
      ∧ (p = .cell → hubRequester r = false → c.holdOf r = none → alone ch [16, 17] →
        stamped (.trigAt r hi) ch { ft := c.reg CGS_TRIG_AT + hi.toNat * 2 ^ 32, bit := 4, quiet := true })
      ∧ (hubRequester r = false → c.holdOf r = none → c.chFld 16 0 11 11 = 0 → c.chFld 17 0 11 11 = 0 → completes (.trigAt r hi) s fun t =>
        t.reg (CGS_TRIG_AT + 4) = hi.toNat ∧ c.onlyRegs t [CGS_TRIG_AT + 4])
      ∧ (bit w.toNat 0 = true → ¬ ldd → completes (.lddEn w) s fun t => t.flag LDD_LDCTL_EN = true ∧ t.flag LDD_LDSTAT_READY = false
        ∧ t.fld LDD_LDSTAT_SIZE = 0 ∧ c.onlyRegs t [LDD_LDCTL, LDD_LDSTAT])
      ∧ (¬ (bit w.toNat 0 = true ∧ ¬ ldd) → completes (.lddEn w) s fun t =>
        t.reg LDD_LDCTL = writtenWord (regWord LDD_LDCTL) (c.reg LDD_LDCTL) w.toNat % 2 ^ 32 ∧ c.onlyRegs t [LDD_LDCTL])
      ∧ (¬ ldd → same (.trainingDone ok size))
      ∧ (ldd → completes (.trainingDone true size) s fun t => t.flag LDD_LDSTAT_READY = true ∧ t.fld LDD_LDSTAT_SIZE = size
        ∧ t.fld LDD_LDSTAT_RATE = c.fld LDD_LDCTL_RATE_LIM ∧ c.onlyRegs t [LDD_LDSTAT])
      ∧ (ldd → completes (.trainingDone false size) s fun t => t.flag LDD_LDSTAT_READY = false ∧ t.flag LDD_LDSTAT_TRAIN_FAIL = true)
      ∧ (inr = true ∨ c.gls.hot = true → completes (.mr4Read v inr) s fun t => t.fld LDD_LDSTAT_MR4 = v.toNat
        ∧ t.gls = { c.gls with hot := !inr } ∧ c.regsBut t [LDD_LDSTAT])
      ∧ (inr = false → c.gls.hot = false → completes (.mr4Read v inr) s fun t => t.fld LDD_LDSTAT_MR4 = v.toNat ∧ t.gls.hot = true)

-- Boot, update, resets, supplies and test access

/-- R377 to R382: the host's boot commands, flash and fuses; CONFIRM and the boot watchdog; the IMAGE messages of an update, answered with
their result. Which flash bytes a command that no rule names answers is left open. -/
def Obligations.BootAndUpdate : Prop :=
  ∀ (l : CellLane) (m : Message) (p : Part) (r : Requester) (w : Word) (s : State),
    let c := s.chip
    let n := cellLaneNum l
    let b := laneBase n
    let same (i : Instr) : Prop := completes i s fun t => t = c
    let done := c.flag PCI_BOOTSTAT_DONE = true
    let fails := c.flag PCI_BOOTSTAT_FAIL = true
    let waits := c.sys.loading = none ∧ (c.bootMode = 1 ∨ c.bootMode = 2 ∧ fails)
    let pool := imgCheck c.poolImg (poolEnd - 0x40000000) 1 c.sys.otpHub
    let v := w.toNat
    let go := bit v 31 = true
    let hub := hubRequester r = true
    let op := bits v 7 0
    let cnt := Nat.min (bits v 21 12) 256
    let a := c.reg PCI_QADDR % (if bit v 9 then 2 ^ 32 else 2 ^ 24)
    let guarded (x k : Nat) : Prop := c.flag PCI_QCTL_UNLOCK = false ∧ c.hitsBooted x k = true
    let fuse := bits v 10 0
    let otpOf (t : Chip) : List Nat := if p = .hub then t.sys.otpHub else t.sys.otpCell
    let rec' := c.sys.record.1
    let sized := 0 < m.len.toNat ∧ m.len.toNat ≤ 2048 ∧ (m.data.length + 7) / 8 = (m.len.toNat + 7) / 8
    let pay := m.data.take m.len.toNat
    let whole := m.ended = true ∧ c.laneFresh n = false ∧ (c.lane n).rx = none
    let good := whole ∧ sized ∧ crc32 pay = m.crc.toNat ∧ c.hears l = true
    let ready := c.laneState n = 5 ∧ c.silenced n = false
    let imgOp := natLE (pay.take 1)
    let busy := c.imageBusy = true
    let off := natLE ((pay.drop 4).take 4)
    let d := pay.drop 8
    let inside := off % 8 = 0 ∧ 8 ≤ d.length ∧ d.length ≤ 2040 ∧ off + d.length ≤ 126976
    let code := c.checkBank (1 - c.sys.bank)
    let resting := c.cellState ≤ 2 ∧ c.flag TRL_TSTAT_BYP_RUN = false
    let answers (t : Chip) (x cd ck : Nat) (tr : Bool) : Prop := (t.lane n).msgs = (c.lane n).msgs ++
      [mkMsg 2 m.seq.toNat (bytesLE 4 (1 + b2n (x != 0) * 2 ^ 31) ++ bytesLE 4 (x + cd * 2 ^ 8 + ck * 2 ^ 16 + b2n tr * 2 ^ 17))]
    let cd := c.fld CGL_BOOTST_CODE
    let ck := c.fld CGL_BOOTST_CHECKED
    let takes (i : Instr) : Prop :=
      (¬ sized → whole → c.hears l = true → completes i s fun t =>
          t.reg (LN_MSG_ERR b) = Nat.min (c.reg (LN_MSG_ERR b) + 1) 0xFFFFFFFF ∧ c.onlyRegs t [LN_MSG_ERR b])
        ∧ (c.hears l = false → completes i s fun t => t = c)
        ∧ (good → busy ∨ imgOp = 0 ∨ 4 < imgOp → completes i s fun t =>
          t.reg (LN_MSG_ERR b) = Nat.min (c.reg (LN_MSG_ERR b) + 1) 0xFFFFFFFF ∧ c.onlyRegs t [LN_MSG_ERR b])
        ∧ (good → ¬ busy → ready → imgOp = 4 → completes i s fun t => answers t 0 cd ck rec'.trial ∧ t.regs = c.regs ∧ t.cellMem = c.cellMem)
        ∧ (good → ¬ busy → ready → imgOp = 1 → rec'.trial = true → completes i s fun t => answers t 1 cd ck true ∧ t.cellMem = c.cellMem)
        ∧ (good → ¬ busy → ready → imgOp = 1 → rec'.trial = false → ¬ inside → completes i s fun t =>
          answers t 2 cd ck false ∧ t.cellMem = c.cellMem)
        ∧ (good → ¬ busy → ready → imgOp = 1 → rec'.trial = false → inside → completes i s fun t => answers t 0 cd 0 false
          ∧ memBytes t.cellMem (0x1F000 + off) d.length = d ∧ t.flag CGL_BOOTST_CHECKED = false)
        ∧ (good → ¬ busy → ready → imgOp = 2 → completes i s fun t => t.fld CGL_BOOTST_CODE = code.2 ∧ t.cellMem = c.cellMem
          ∧ answers t (if code.1 = 0 then 0 else 6) code.2 (if code.1 = 0 then 1 else ck) rec'.trial)
        ∧ (good → ¬ busy → ready → imgOp = 3 → ck = 0 → completes i s fun t => answers t 4 cd ck rec'.trial ∧ t.sys.swapDue = c.sys.swapDue)
        ∧ (good → ¬ busy → ready → imgOp = 3 → ck = 1 → ¬ resting → completes i s fun t =>
          answers t 5 cd ck rec'.trial ∧ t.sys.record = c.sys.record)
        ∧ (good → ¬ busy → ready → imgOp = 3 → ck = 1 → resting → completes i s fun t => answers t 0 cd ck true ∧ t.sys.swapDue = true
          ∧ t.sys.record.1 = ⟨rec'.seq + 1, 1 - c.sys.bank, c.sys.bank, true, 0⟩)
    (done → completes .bootGo s fun t => t.sys.loading = c.sys.loading ∧ t.flag PCI_BOOTSTAT_DONE = true)
      ∧ (¬ done → ¬ waits → same .bootGo)
      ∧ (¬ done → waits → completes .bootGo s fun t => t.sys.loading = some (if pool.1 = 0 then some 2 else none)
        ∧ t.fld PCI_BOOTSTAT_CODE_P = pool.1 ∧ t.fld PCI_BOOTSTAT_SOFT = pool.2 ∧ c.onlyRegs { t with sys := c.sys } [PCI_BOOTSTAT])
      ∧ (c.sys.loading = none → same .bootDone)
      ∧ (∀ x, c.sys.loading = some x → x = none → completes .bootDone s fun t =>
        t.sys.loading = none ∧ t.flag PCI_BOOTSTAT_FAIL = true ∧ c.regsBut t [PCI_BOOTSTAT])
      ∧ (∀ x, c.sys.loading = some x → ∀ y, x = some y → (imgSections c.poolImg).all (fun z => z.1 != 1 && z.1 != 2) = true → y < 3 →
        completes .bootDone s fun t => t.sys.loading = none ∧ t.flag PCI_BOOTSTAT_DONE = true ∧ t.flag PCI_BOOTSTAT_FAIL = false
          ∧ t.fld PCI_BOOTSTAT_SRC = y ∧ t.reg PCI_IMG_VER = imgNum c.poolImg 8 4)
      ∧ (¬ (hub ∧ go) → same (.qcmdGo r w))
      ∧ (hub → go → op = 0x02 ∨ op = 0x12 → ¬ guarded a cnt → 0 < cnt → completes (.qcmdGo r w) s fun t =>
        t.flashByte a = c.flashByte a &&& qdataByte c 0 ∧ t.regs = c.regs)
      ∧ (hub → go → op = 0x02 ∨ op = 0x12 → guarded a cnt → completes (.qcmdGo r w) s fun t =>
        t.flash = c.flash ∧ t.flag PCI_QSTAT_REFUSED = true)
      ∧ (hub → go → op = 0x03 → bit v 22 = false → 0 < cnt → completes (.qcmdGo r w) s fun t =>
        qdataByte t 0 = c.flashByte a ∧ t.flash = c.flash)
      ∧ (hub → go → op = 0x20 → ¬ guarded (a / 0x1000 * 0x1000) 0x1000 → completes (.qcmdGo r w) s fun t =>
        t.flashByte a = 0xFF ∧ t.regs = c.regs)
      ∧ (¬ go → same (.otpcmdGo p w))
      ∧ (go → fuseOk fuse = true → completes (.otpcmdGo p w) s fun t => (otpOf t).contains fuse = true ∧ t.regs = c.regs
        ∧ ∀ j, (otpOf c).contains j = true → (otpOf t).contains j = true)
      ∧ (go → fuseOk fuse = false → completes (.otpcmdGo p w) s fun t => otpOf t = otpOf c)
      ∧ (rec'.trial = false → same .confirm)
      ∧ (rec'.trial = true → completes .confirm s fun t => t.sys.record.1 = ⟨rec'.seq + 1, rec'.active, rec'.prev, false, 0⟩
        ∧ t.sys.bootWd = none ∧ t.flag CGL_BOOTST_TRIAL = false)
      ∧ (c.sys.bootWd.any (fun x => decide (x ≤ c.time)) = false → same .bootWdExpiry)
      ∧ (c.sys.bootWd.any (fun x => decide (x ≤ c.time)) = true → c.sys.cellRst = none → c.flag TRL_TSTAT_BYP_RUN = false → completes .bootWdExpiry s fun t =>
        t.sys.cellRst = some (false, false) ∧ bit (t.reg CGL_RCAUSE) 3 = true)
      ∧ takes (.imageWrite l m) ∧ takes (.imageCheck l m) ∧ takes (.imageSwap l m) ∧ takes (.imageStatus l m)

/-- R387 to R396, R415: the causes of a reset and what absorbs or holds it; its release starts the boot; the watchdog; the cell's supply and
its record; the Lodge; the temperature; the PLL. -/
def Obligations.ResetsAndSupply : Prop :=
  ∀ (us : Nat) (p : Part) (w : Word) (fast : Bool) (r : Requester) (k : Fin 16) (tp : BitVec 12) (s : State),
    let c := s.chip
    let hubIdle := c.sys.hubRst = none
    let cellIdle := c.sys.cellRst = none
    let same (i : Instr) : Prop := completes i s fun t => t = c
    let hubHeld (i : Instr) (b : Nat) : Prop := ¬ hubIdle → completes i s fun t =>
      t.reg GLB_RCAUSE = c.reg GLB_RCAUSE ||| 2 ^ b ∧ c.onlyRegs t [GLB_RCAUSE]
    let hubCold (i : Instr) (b : Nat) : Prop := hubIdle → completes i s fun t =>
      t.sys.hubRst = some true ∧ t.reg GLB_RCAUSE = 2 ^ b ∧ t.gth = { setAt := c.time } ∧ t.cellMem = c.cellMem ∧ t.hubMem = c.hubMem
        ∧ ∀ a, a < 0x40000000 → a ≠ GLB_RCAUSE → t.reg a = (regWord a).reset
    let hubWarm (i : Instr) (b : Nat) : Prop := hubIdle → completes i s fun t =>
      t.sys.hubRst = some false ∧ t.reg GLB_RCAUSE = (c.reg GLB_RCAUSE ||| 2 ^ b) ∧ t.gth = { setAt := c.time } ∧ t.hubMem = c.hubMem
        ∧ t.reg GTH_GSTAT = (regWord GTH_GSTAT).reset
    let key := bits w.toNat 31 16 = 0xA55A
    let cold := key ∧ bit w.toNat 1 = true
    let warm := key ∧ bit w.toNat 1 = false ∧ bit w.toNat 0 = true
    let runs := c.fire.clkStop = false
    let cmds (i : Instr) : Prop :=
      (¬ key → p = .hub → completes i s fun t => t.flag GLB_RDYSTAT_REFUSED = true ∧ t.sys.hubRst = c.sys.hubRst)
        ∧ (¬ key → p = .cell → runs → completes i s fun t => t.flag CGL_CCFG_REFUSED = true ∧ t.sys.cellRst = c.sys.cellRst)
        ∧ (key → bit w.toNat 1 = false → bit w.toNat 0 = false → completes i s fun t => t = c)
        ∧ (p = .hub → hubIdle → warm → completes i s fun t => t.sys.hubRst = some false ∧ bit (t.reg GLB_RCAUSE) 4 = true)
        ∧ (p = .hub → hubIdle → cold → bit w.toNat 0 = false → completes i s fun t => t.sys.hubRst = some true ∧ t.reg GLB_RCAUSE = 4)
        ∧ (p = .cell → cellIdle → warm → c.flag TRL_TSTAT_BYP_RUN = false → completes i s fun t =>
          t.sys.cellRst = some (false, false) ∧ bit (t.reg CGL_RCAUSE) 2 = true ∧ t.fire = {})
        ∧ (p = .cell → cellIdle → warm → c.flag TRL_TSTAT_BYP_RUN = true → completes i s fun t =>
          t.sys.cellRst = none ∧ t.sys.heldWarm = true ∧ bit (t.reg CGL_RCAUSE) 2 = true ∧ c.regsBut t [CGL_RCAUSE])
        ∧ (p = .cell → cellIdle → cold → bit w.toNat 0 = false → completes i s fun t =>
          t.sys.cellRst = some (true, false) ∧ t.reg CGL_RCAUSE = 2)
    let vin := c.sys.vin = true
    let hot := 580 < toSigned 12 tp.toNat
    let booted := c.sys.record.1
    let ranOut := c.flag GLB_WDT_EN = true ∧ c.sys.wdtAt + 2000000 * Nat.max (c.fld GLB_WDT_PERIOD) 1 ≤ c.time
    hubHeld .porN 0 ∧ hubHeld .supervisorReset 1 ∧ (1 ≤ us → hubHeld (.rstN us) 3) ∧ (ranOut → hubHeld .watchdogExpiry 5)
      ∧ hubCold .porN 0 ∧ hubCold .supervisorReset 1 ∧ (1 ≤ us → hubWarm (.rstN us) 3)
      ∧ (ranOut → hubWarm .watchdogExpiry 5)
      ∧ (us = 0 → same (.rstN us)) ∧ (¬ ranOut → same .watchdogExpiry)
      ∧ cmds (.cold p w) ∧ cmds (.warm p w)
      ∧ (completes (.wdtWrite w) s fun t =>
        t.reg GLB_WDT = writtenWord (regWord GLB_WDT) (c.reg GLB_WDT) w.toNat % 2 ^ 32 ∧ c.regsBut t [GLB_WDT]
          ∧ t.sys = { c.sys with wdtAt := if bit w.toNat 31 then c.time else c.sys.wdtAt })
      ∧ (hubIdle → same (.resetRelease .hub))
      ∧ (¬ hubIdle → c.bootMode = 1 → completes (.resetRelease .hub) s fun t => t.sys.hubRst = none ∧ t.sys.loading = c.sys.loading)
      ∧ (¬ hubIdle → c.bootMode ≠ 1 → completes (.resetRelease .hub) s fun t => t.sys.hubRst = none ∧ t.sys.loading.isSome = true)
      ∧ (cellIdle → c.sys.swapDue = false → same (.resetRelease .cell)) ∧ (¬ cellIdle → ¬ vin → same (.resetRelease .cell))
      ∧ (¬ cellIdle → vin → booted.trial = false → (c.checkBank booted.active).1 ≠ 0 → (c.checkBank (1 - booted.active)).1 ≠ 0 →
        completes (.resetRelease .cell) s fun t => t.sys.cellRst = none ∧ t.flag CGL_BOOTST_RESCUE = true
          ∧ t.flag (LN_LCTL_EN (laneBase 204)) = true ∧ t.flag (LN_LCTL_EN (laneBase 205)) = true)
      ∧ (completes .vbor s fun t => t.sys.vin = false ∧ (cellIdle → t.sys.cellRst = some (true, true) ∧ t.reg CGL_RCAUSE = 1)
        ∧ t.reg LOD_PCC = Nat.min (c.reg LOD_PCC + 1) 0xFFFFFFFF)
      ∧ (completes .vwake s fun t => t = { c with sys := { c.sys with vin := true } })
      ∧ (fast = false → completes (.vwarn fast) s fun t => t.reg64 (LOD_KEEPR 0) = c.reg64 PWM_SWCNT % 2 ^ 48 + c.cellFtNs % 2 ^ 16 * 2 ^ 48
        ∧ t.reg (LOD_KEEPR 2) = c.cellFtNs % 2 ^ 48 / 2 ^ 16 ∧ bits (t.reg (LOD_KEEPR 3)) 2 0 = c.cellState
        ∧ bits (t.reg (LOD_KEEPR 3)) 31 24 = (c.reg LOD_PCC + 1) % 256
        ∧ c.onlyRegs t [LOD_KEEPR 0, LOD_KEEPR 1, LOD_KEEPR 2, LOD_KEEPR 3])
      ∧ (fast = true → completes (.vwarn fast) s fun t => t.sys.late = c.sys.late ∧ bits (t.reg (LOD_KEEPR 3)) 31 24 = (c.reg LOD_PCC + 1) % 256
        ∨ t.sys.late = true ∧ t.regs = c.regs)
      ∧ (completes .lodgeReset s fun t => t.reg LOD_PCC = 0 ∧ t.flag LOD_LSTAT_LODGE_NEW = true ∧ t.reg LOD_LCTL = 1)
      ∧ (¬ vin → same .vbakLow) ∧ (vin → runs → completes .vbakLow s fun t => t.flag LOD_LSTAT_VBAK_LOW = true)
      ∧ (completes (.keepRead r k) s fun t => t.rdata.toNat = c.reg (LOD_KEEP k) ∧ (runs → t.flag LOD_LSTAT_PAR_ERR = true))
      ∧ (completes (.tempHigh .hub tp) s fun t => t.fld GLB_TEMP_T = tp.toNat
        ∧ t.sys.hotHub = decide hot ∧ (¬ hot ∨ c.sys.hotHub = true → c.regsBut t [GLB_TEMP]))
      ∧ (completes (.tempHigh .cell tp) s fun t => t.fld CGL_TEMP_T = tp.toNat
        ∧ t.sys.hotCell = decide hot ∧ (¬ hot ∨ c.sys.hotCell = true → c.regsBut t [CGL_TEMP]))
      ∧ (completes .pllLock s fun t => t.flag SDL_SSTAT_TICK_LOCK = true ∧ c.onlyRegs t [SDL_SSTAT])

/-- R375, R383: the PCIe link falls and rises, messages of masked vectors wait in the PBA; the TAP instructions of both parts. -/
def Obligations.PcieAndTap : Prop :=
  ∀ (v : BitVec 11) (width : BitVec 4) (gen : BitVec 3) (p : Part) (x : DWord) (k : Fin 16) (n : Fin 204) (s : State),
    let c := s.chip
    let pb := PCI_PBA (v.toNat / 32)
    let waits := bit (c.reg pb) (v.toNat % 32) = true
    let up := c.flag PCI_PSTAT_LINK = true
    let ins (t : Chip) : Nat := if p = .hub then t.sys.tapHub else t.sys.tapCell
    let id := 1 + Config.jtagMaker.toNat * 2 + (if p = .hub then 0x192 else 4) * 2 ^ 12 + 2 ^ 28
    let halts (i : Instr) (num : Nat) : Prop := completes i s fun t => ins t = num
      ∧ (p = .hub → t.sys.stopHub = true ∧ t.flag (KS_KCTL_RUN (coreBase k)) = false ∧ t.laneState n = 0 ∧ t.cellMem = c.cellMem)
      ∧ (p = .cell → t.sys.stopCell = true ∧ t.flag (KS_KCTL_RUN (coreBase 16)) = false ∧ t.laneState 204 = 0 ∧ t.laneState 205 = 0 ∧ t.cellState = 0
        ∧ t.flag TRL_TSTAT_BYPF = false ∧ t.flag TRL_TSTAT_BYPC = false)
    (completes .pcieLinkDown s fun t => t.flag PCI_PSTAT_LINK = false ∧ t.flag PCI_PSTAT_DOWN_SEEN = true ∧ t.holdOf .host = none
        ∧ t.fld PCI_PSTAT_WIDTH = 0)
      ∧ (up → waits → completes (.msixUnmask v) s fun t => bit (t.reg (PCI_MSIX v.toNat + 12)) 0 = false ∧ bit (t.reg pb) (v.toNat % 32) = false
        ∧ t.sent = .msix v.toNat :: c.sent ∧ c.regsBut t [PCI_MSIX v.toNat + 12, pb])
      ∧ (¬ (up ∧ waits) → completes (.msixUnmask v) s fun t => bit (t.reg (PCI_MSIX v.toNat + 12)) 0 = false ∧ t.sent = c.sent
        ∧ c.onlyRegs t [PCI_MSIX v.toNat + 12])
      ∧ (completes (.pcieLinkUp width gen) s fun t => t.flag PCI_PSTAT_LINK = true ∧ t.fld PCI_PSTAT_WIDTH = width.toNat
        ∧ t.fld PCI_PSTAT_GEN = gen.toNat ∧ (waits → bit (c.reg (PCI_MSIX v.toNat + 12)) 0 = false →
          bit (t.reg pb) (v.toNat % 32) = false ∧ t.sent.contains (.msix v.toNat) = true))
      ∧ (completes (.jtagBypass p) s fun t => ins t = 0 ∧ t.sent = .jtag p 0 :: c.sent ∧ t.regs = c.regs)
      ∧ (completes (.idcode p) s fun t => ins t = 1 ∧ t.sent = .jtag p (BitVec.ofNat 64 id) :: c.sent ∧ t.regs = c.regs)
      ∧ (completes (.samplePreload p x) s fun t => ins t = 2 ∧ (if p = .hub then t.sys.bsrHub else t.sys.bsrCell) = x ∧ t.regs = c.regs)
      ∧ halts (.extest p) 3 ∧ halts (.clamp p) 4 ∧ halts (.highz p) 5

-- The machine as a whole

/-- A step takes the command at the front of the queue and runs it on the state with the queue's rest; on an empty queue the block lets time
go on by one nanosecond (the model's choice, log entry 3). -/
def Obligations.StepRunsFront : Prop :=
  (∀ (i : Instr) (q : List Instr) (s : State), step { s with pending := i :: q } = exec i { s with pending := q })
    ∧ (∀ s : State, s.pending = [] → ∃ t, step s = .next t ∧ t.pending = [] ∧ t.chip.time = s.chip.time + 2)

/-- Every command completes at every state, with the rest of the queue left as it is: none ends in a fault or a refusal. -/
def Obligations.EveryCommandCompletes : Prop :=
  ∀ (i : Instr) (s : State), completes i s fun _ => True

/-- Every step keeps the canonical form of the registers, of the memories of both parts, of the memory behind the recorder and of the flash:
equal contents stay equal data. -/
def Obligations.CanonKept : Prop :=
  ∀ (s t : State), s.chip.canon = true → step s = .next t → t.chip.canon = true

/-- The state after reset is in canonical form. -/
def Obligations.CanonReset : Prop :=
  State.reset.chip.canon = true

/-- R160 and Tables 7-3 to 7-8 and 8-1: the word of every instruction, with every operand, decodes to that instruction, and a word that
decodes to an instruction is that instruction's word, so that a word with an unused field set, an unassigned opcode or an unassigned fn
is no instruction. -/
def Obligations.InstructionWords : Prop :=
  (∀ (i : Instr) (c : CoreId) (w : Nat), ovEncode i = some (c, w) → w < 2 ^ 32 ∧ ovDecode c w = some i)
    ∧ (∀ (c : CoreId) (w : Nat) (i : Instr), w < 2 ^ 32 → ovDecode c w = some i → ovEncode i = some (c, w))
end

