-- ==== Sys2Proof/Laws/Assoc.lean ====
section
/-!
SUPPORT. What the sparse arrays guarantee: a read after a write to the same key gives the value, a write leaves every
other key alone, and every write keeps the canonical form.
-/
namespace Sys2Proof.Machine

variable {α : Type}

theorem Assoc.get_drop_same (d : Nat → α) (m : Assoc α) (k : Nat) : Assoc.get d (Assoc.drop m k) k = d k := by
  induction m with
  | nil => rfl
  | cons e m ih => obtain ⟨j, w⟩ := e; by_cases h : k = j <;> simp [Assoc.drop, Assoc.get, h] at ih ⊢ <;> assumption

theorem Assoc.get_drop_ne (d : Nat → α) (m : Assoc α) {k k' : Nat} (h : k' ≠ k) :
    Assoc.get d (Assoc.drop m k) k' = Assoc.get d m k' := by
  induction m with
  | nil => rfl
  | cons e m ih =>
    obtain ⟨j, w⟩ := e
    by_cases hj : k = j
    · subst hj; simp [Assoc.drop, Assoc.get, h, ih]
    · simp [Assoc.drop, Assoc.get, hj, ih]

theorem Assoc.get_put_ne (d : Nat → α) (m : Assoc α) {k k' : Nat} (v : α) (h : k' ≠ k) :
    Assoc.get d (Assoc.put m k v) k' = Assoc.get d m k' := by
  induction m with
  | nil => simp [Assoc.put, Assoc.get, h]
  | cons e m ih => obtain ⟨j, w⟩ := e; by_cases hj : k < j <;> simp [Assoc.put, Assoc.get, hj, h, ih]

theorem Assoc.get_put_drop (d : Nat → α) (m : Assoc α) (k : Nat) (v : α) :
    Assoc.get d (Assoc.put (Assoc.drop m k) k v) k = v := by
  induction m with
  | nil => simp [Assoc.drop, Assoc.put, Assoc.get]
  | cons e m ih =>
    obtain ⟨j, w⟩ := e
    by_cases hj : k = j
    · simpa [Assoc.drop, hj] using ih
    · by_cases hl : k < j
      · simp [Assoc.drop, hj, Assoc.put, hl, Assoc.get]
      · simpa [Assoc.drop, hj, Assoc.put, hl, Assoc.get] using ih

variable [DecidableEq α]

/-- A read after a write to the same key gives the value written. -/
@[simp] theorem Assoc.get_set_same (d : Nat → α) (m : Assoc α) (k : Nat) (v : α) :
    Assoc.get d (Assoc.set d m k v) k = v := by
  unfold Assoc.set
  split
  · next h => rw [Assoc.get_drop_same, h]
  · exact Assoc.get_put_drop d m k v

/-- A write leaves every other key alone. -/
theorem Assoc.get_set_ne (d : Nat → α) (m : Assoc α) {k k' : Nat} (v : α) (h : k' ≠ k) :
    Assoc.get d (Assoc.set d m k v) k' = Assoc.get d m k' := by
  unfold Assoc.set
  split
  · exact Assoc.get_drop_ne d m h
  · rw [Assoc.get_put_ne d _ v h, Assoc.get_drop_ne d m h]

theorem Assoc.wfFrom_mono (d : Nat → α) {lo lo' : Nat} (h : lo' ≤ lo) :
    ∀ m : Assoc α, Assoc.wfFrom d lo m = true → Assoc.wfFrom d lo' m = true
  | [], _ => rfl
  | (j, w) :: m, hw => by
    simp only [Assoc.wfFrom, Bool.and_eq_true, decide_eq_true_eq] at hw ⊢
    exact ⟨⟨Nat.le_trans h hw.1.1, hw.1.2⟩, hw.2⟩

theorem Assoc.wfFrom_drop (d : Nat → α) (k : Nat) :
    ∀ (lo : Nat) (m : Assoc α), Assoc.wfFrom d lo m = true → Assoc.wfFrom d lo (Assoc.drop m k) = true
  | _, [], _ => rfl
  | lo, (j, w) :: m, hw => by
    simp only [Assoc.wfFrom, Bool.and_eq_true, decide_eq_true_eq] at hw
    by_cases hj : k = j
    · simpa [Assoc.drop, hj] using
        Assoc.wfFrom_mono d (Nat.le_succ_of_le hw.1.1) _ (hj ▸ Assoc.wfFrom_drop d k (j + 1) m hw.2)
    · simp only [Assoc.drop, hj, if_false, Assoc.wfFrom, Bool.and_eq_true, decide_eq_true_eq]
      exact ⟨hw.1, Assoc.wfFrom_drop d k (j + 1) m hw.2⟩

theorem Assoc.wfFrom_put (d : Nat → α) {k : Nat} {v : α} (hv : v ≠ d k) :
    ∀ (lo : Nat) (m : Assoc α), lo ≤ k → Assoc.wfFrom d lo (Assoc.drop m k) = true →
      Assoc.wfFrom d lo (Assoc.put (Assoc.drop m k) k v) = true
  | _, [], hlo, _ => by simp [Assoc.drop, Assoc.put, Assoc.wfFrom, hlo, hv]
  | lo, (j, w) :: m, hlo, hw => by
    by_cases hj : k = j
    · subst hj
      have e : Assoc.drop ((k, w) :: m) k = Assoc.drop m k := by simp [Assoc.drop]
      rw [e] at hw ⊢
      exact Assoc.wfFrom_put d hv lo m hlo hw
    · simp only [Assoc.drop, hj, if_false, Assoc.wfFrom, Bool.and_eq_true, decide_eq_true_eq] at hw
      by_cases hl : k < j
      · simp only [Assoc.drop, hj, if_false, Assoc.put, hl, if_true, Assoc.wfFrom, Bool.and_eq_true,
          decide_eq_true_eq]
        exact ⟨⟨hlo, hv⟩, ⟨hl, hw.1.2⟩, hw.2⟩
      · simp only [Assoc.drop, hj, if_false, Assoc.put, hl, Assoc.wfFrom, Bool.and_eq_true, decide_eq_true_eq]
        exact ⟨hw.1, Assoc.wfFrom_put d hv (j + 1) m (by omega) hw.2⟩

/-- Every write keeps the canonical form. -/
theorem Assoc.wf_set (d : Nat → α) (m : Assoc α) (k : Nat) (v : α) (h : Assoc.wf d m = true) :
    Assoc.wf d (Assoc.set d m k v) = true := by
  unfold Assoc.set
  split
  · exact Assoc.wfFrom_drop d k 0 m h
  · next hv => exact Assoc.wfFrom_put d hv 0 m (Nat.zero_le _) (Assoc.wfFrom_drop d k 0 m h)

end Sys2Proof.Machine
end

