-- ==== Sys2Proof/Laws/Memory.lean ====
section
/-!
SUPPORT. Memories: what a byte and a number read after a write, that a write leaves every other byte alone, and that every operation
keeps the canonical form.
-/
namespace Sys2Proof.Machine

/-! ### Bytes -/

@[simp] theorem memByte_set_same (m : List Host.Cell) (a v : Nat) : memByte (memSetByte m a v) a = v % 256 := by
  simp [memByte, memSetByte]

theorem memByte_set_ne (m : List Host.Cell) (a v : Nat) {b : Nat} (h : b ≠ a) : memByte (memSetByte m a v) b = memByte m b := by
  simp [memByte, memSetByte, Assoc.get_set_ne _ _ _ h]

theorem memByte_lt (m : List Host.Cell) (a : Nat) : memByte m a < 256 := (Assoc.get memReset m a).isLt

/-- A byte outside the bytes written. -/
theorem memByte_setBytes_out (l : List Byte) : ∀ (m : List Host.Cell) (a b : Nat), b < a ∨ a + l.length ≤ b →
    memByte (memSetBytes m a l) b = memByte m b := by
  induction l with
  | nil => intros; rfl
  | cons x l ih =>
    intro m a b h
    rw [memSetBytes, ih _ _ _ (by simp only [List.length_cons] at h; omega), memByte_set_ne]
    simp only [List.length_cons] at h
    omega

/-- A byte among the bytes written. -/
theorem memByte_setBytes_in (l : List Byte) : ∀ (m : List Host.Cell) (a i : Nat) (h : i < l.length),
    memByte (memSetBytes m a l) (a + i) = l[i].toNat := by
  induction l with
  | nil => intro m a i h; simp at h
  | cons x l ih =>
    intro m a i h
    rw [memSetBytes]
    cases i with
    | zero =>
      rw [memByte_setBytes_out _ _ _ _ (by omega), Nat.add_zero, memByte_set_same]
      simp only [List.getElem_cons_zero]
      exact Nat.mod_eq_of_lt x.isLt
    | succ i =>
      have e : a + (i + 1) = a + 1 + i := by omega
      rw [e, ih]
      rfl

/-! ### Numbers -/

/-- A byte outside the number written. -/
theorem memByte_setNat_out (n : Nat) : ∀ (m : List Host.Cell) (a v b : Nat), b < a ∨ a + n ≤ b →
    memByte (memSetNat m a n v) b = memByte m b := by
  induction n with
  | zero => intros; rfl
  | succ n ih =>
    intro m a v b h
    rw [memSetNat, ih _ _ _ _ (by omega), memByte_set_ne _ _ _ (by omega)]

/-- A number depends on its bytes alone. -/
theorem memNat_congr (n : Nat) : ∀ (m m' : List Host.Cell) (a : Nat), (∀ i < n, memByte m (a + i) = memByte m' (a + i)) →
    memNat m a n = memNat m' a n := by
  induction n with
  | zero => intros; rfl
  | succ n ih =>
    intro m m' a h
    have h0 := h 0 (by omega)
    rw [Nat.add_zero] at h0
    rw [memNat, memNat, h0, ih m m' (a + 1)]
    intro i hi
    have := h (i + 1) (by omega)
    rwa [show a + (i + 1) = a + 1 + i by omega] at this

/-- A number reads back as it was written. -/
theorem memNat_setNat_same (n : Nat) : ∀ (m : List Host.Cell) (a v : Nat),
    memNat (memSetNat m a n v) a n = v % 256 ^ n := by
  induction n with
  | zero => intro m a v; simp [memNat, Nat.mod_one]
  | succ n ih =>
    intro m a v
    rw [memNat, memSetNat, ih, memByte_setNat_out _ _ _ _ _ (by omega), memByte_set_same, pow_succ, Nat.mod_mod,
      Nat.mul_comm (256 ^ n), Nat.mod_mul, Nat.mul_comm 256]

/-- A number that shares no byte with the one written. -/
theorem memNat_setNat_out (k n : Nat) (m : List Host.Cell) (a v b : Nat) (h : b + n ≤ a ∨ a + k ≤ b) :
    memNat (memSetNat m a k v) b n = memNat m b n :=
  memNat_congr n _ _ _ fun i hi => memByte_setNat_out _ _ _ _ _ (by omega)

/-- A number outside the bytes written. -/
theorem memNat_setBytes_out (n : Nat) (m : List Host.Cell) (a : Nat) (l : List Byte) (b : Nat) (h : b + n ≤ a ∨ a + l.length ≤ b) :
    memNat (memSetBytes m a l) b n = memNat m b n :=
  memNat_congr n _ _ _ fun i hi => memByte_setBytes_out _ _ _ _ (by omega)

/-! ### The canonical form -/

theorem Memory.wf_setByte (m : List Host.Cell) (a v : Nat) (h : Memory.wf m = true) : Memory.wf (memSetByte m a v) = true :=
  Assoc.wf_set _ _ _ _ h

theorem Memory.wf_setBytes (l : List Byte) : ∀ (m : List Host.Cell) (a : Nat), Memory.wf m = true →
    Memory.wf (memSetBytes m a l) = true := by
  induction l with
  | nil => intro m a h; exact h
  | cons x l ih => intro m a h; exact ih _ _ (Memory.wf_setByte _ _ _ h)

theorem Memory.wf_setNat (n : Nat) : ∀ (m : List Host.Cell) (a v : Nat), Memory.wf m = true → Memory.wf (memSetNat m a n v) = true := by
  induction n with
  | zero => intro m a v h; exact h
  | succ n ih => intro m a v h; exact ih _ _ _ (Memory.wf_setByte _ _ _ h)

variable {α : Type} [DecidableEq α]

/-- What is left of an array in canonical form is in canonical form. -/
theorem Assoc.wfFrom_filter (d : Nat → α) (p : Nat × α → Bool) : ∀ (m : Assoc α) (lo : Nat), Assoc.wfFrom d lo m = true →
    Assoc.wfFrom d lo (m.filter p) = true := by
  intro m
  induction m with
  | nil => intro lo h; exact h
  | cons e m ih =>
    intro lo h
    obtain ⟨j, w⟩ := e
    simp only [Assoc.wfFrom, Bool.and_eq_true, decide_eq_true_eq] at h
    by_cases hp : p (j, w) = true
    · rw [List.filter_cons_of_pos hp]
      simp only [Assoc.wfFrom, Bool.and_eq_true, decide_eq_true_eq]
      exact ⟨h.1, ih _ h.2⟩
    · rw [List.filter_cons_of_neg hp]
      exact Assoc.wfFrom_mono d (by omega) _ (ih _ h.2)

/-- The window of keys [lo, hi) of an array, moved to start at `lo'`, and an array in canonical form from its end on. -/
theorem Assoc.wfFrom_moved (d : Nat → α) (v : α) (hd : ∀ k, d k = v) (f : Nat → Nat) (lo hi end_ : Nat) (rest : Assoc α)
    (hf : ∀ j k, lo ≤ j → j < k → k < hi → f j < f k) (he : ∀ j, lo ≤ j → j < hi → f j < end_)
    (hr : Assoc.wfFrom d end_ rest = true) : ∀ (m : Assoc α) (b b' : Nat), Assoc.wfFrom d b m = true →
      (∀ j, b ≤ j → lo ≤ j → j < hi → b' ≤ f j) → b' ≤ end_ →
      Assoc.wfFrom d b' ((m.filter fun x => decide (lo ≤ x.1) && decide (x.1 < hi)).map (fun x => (f x.1, x.2)) ++ rest) = true := by
  intro m
  induction m with
  | nil => intro b b' _ _ hb; exact Assoc.wfFrom_mono d hb _ hr
  | cons e m ih =>
    intro b b' h hb hbe
    obtain ⟨j, w⟩ := e
    simp only [Assoc.wfFrom, Bool.and_eq_true, decide_eq_true_eq] at h
    by_cases hp : lo ≤ j ∧ j < hi
    · rw [List.filter_cons_of_pos (by simpa using hp)]
      simp only [List.map_cons, List.cons_append, Assoc.wfFrom, Bool.and_eq_true, decide_eq_true_eq]
      refine ⟨⟨hb j h.1.1 hp.1 hp.2, ?_⟩, ih _ _ h.2 ?_ (he j hp.1 hp.2)⟩
      · have := h.1.2; rwa [hd] at this ⊢
      · intro k hk _ hk2; exact hf j k hp.1 hk hk2
    · rw [List.filter_cons_of_neg (by simpa using hp)]
      exact ih _ _ h.2 (fun k hk => hb k (by omega)) hbe

end Sys2Proof.Machine
end

