-- ==== Sys2Proof/Laws/Canon.lean ====
section
/-!
SUPPORT. The shared operations keep the canonical form of the state. A part of `Chip.canon` that an operation does not write stays by
`canon_of_same`.
-/
namespace Sys2Proof.Machine

/-- The parts of the canonical form. -/
theorem canon_iff (c : Chip) : c.canon = true ↔ Assoc.wf regReset c.regs = true ∧ Memory.wf c.hubMem = true ∧ Memory.wf c.cellMem = true
    ∧ Memory.wf c.lddMem = true ∧ Assoc.wf flashReset c.flash = true := by
  simp [Chip.canon, Bool.and_eq_true, and_assoc]

/-- The canonical form depends on five fields alone. -/
theorem canon_of_same {c d : Chip} (h1 : d.regs = c.regs) (h2 : d.hubMem = c.hubMem) (h3 : d.cellMem = c.cellMem)
    (h4 : d.lddMem = c.lddMem) (h5 : d.flash = c.flash) (h : c.canon = true) : d.canon = true := by
  unfold Chip.canon at *
  rw [h1, h2, h3, h4, h5]
  exact h

/-! ### Registers -/

theorem canon_setReg (c : Chip) (a v : Nat) (h : c.canon = true) : (c.setReg a v).canon = true := by
  rw [canon_iff] at *
  exact ⟨Assoc.wf_set _ _ _ _ h.1, h.2⟩

theorem canon_setFld (c : Chip) (f : Fld) (x : Nat) (h : c.canon = true) : (c.setFld f x).canon = true := canon_setReg _ _ _ h
theorem canon_raiseFlag (c : Chip) (f : Fld) (h : c.canon = true) : (c.raiseFlag f).canon = true := canon_setReg _ _ _ h
theorem canon_clrFlag (c : Chip) (f : Fld) (h : c.canon = true) : (c.clrFlag f).canon = true := canon_setReg _ _ _ h
theorem canon_setReg64 (c : Chip) (a v : Nat) (h : c.canon = true) : (c.setReg64 a v).canon = true :=
  canon_setReg _ _ _ (canon_setReg _ _ _ h)
theorem canon_bumpBy (c : Chip) (a n : Nat) (h : c.canon = true) : (c.bumpBy a n).canon = true := canon_setReg _ _ _ h
theorem canon_bump (c : Chip) (a : Nat) (h : c.canon = true) : (c.bump a).canon = true := canon_setReg _ _ _ h
theorem canon_bumpFld (c : Chip) (f : Fld) (h : c.canon = true) : (c.bumpFld f).canon = true := canon_setReg _ _ _ h
theorem canon_plainWrite (c : Chip) (a v : Nat) (h : c.canon = true) : (c.plainWrite a v).canon = true := canon_setReg _ _ _ h

theorem canon_setWords (l : List Nat) : ∀ (c : Chip) (a : Nat), c.canon = true → (c.setWords a l).canon = true := by
  induction l with
  | nil => intro c a h; exact h
  | cons w l ih => intro c a h; exact ih _ _ (canon_setReg _ _ _ h)

/-! ### Combinators -/

theorem canon_when (c : Chip) (b : Bool) (f : Chip → Chip) (hf : b = true → c.canon = true → (f c).canon = true) (h : c.canon = true) :
    (c.when b f).canon = true := by
  unfold Chip.when
  split
  · next hb => exact hf hb h
  · exact h

theorem canon_forEach {α : Type} (f : α → Chip → Chip) (hf : ∀ x c, c.canon = true → (f x c).canon = true) :
    ∀ (l : List α) (c : Chip), c.canon = true → (c.forEach l f).canon = true := by
  intro l
  induction l with
  | nil => intro c h; exact h
  | cons x l ih => intro c h; exact ih _ (hf x c h)

/-! ### Memories -/

theorem canon_setHubWord (c : Chip) (a v : Nat) (h : c.canon = true) : (c.setHubWord a v).canon = true := by
  rw [canon_iff] at *
  exact ⟨h.1, Memory.wf_setNat _ _ _ _ h.2.1, h.2.2⟩

theorem canon_setCellWord (c : Chip) (a v : Nat) (h : c.canon = true) : (c.setCellWord a v).canon = true := by
  rw [canon_iff] at *
  exact ⟨h.1, h.2.1, Memory.wf_setNat _ _ _ _ h.2.2.1, h.2.2.2⟩

theorem canon_hubBytes (c : Chip) (a : Nat) (l : List Byte) (h : c.canon = true) :
    ({ c with hubMem := memSetBytes c.hubMem a l } : Chip).canon = true := by
  rw [canon_iff] at *
  exact ⟨h.1, Memory.wf_setBytes _ _ _ h.2.1, h.2.2⟩

theorem canon_cellBytes (c : Chip) (a : Nat) (l : List Byte) (h : c.canon = true) :
    ({ c with cellMem := memSetBytes c.cellMem a l } : Chip).canon = true := by
  rw [canon_iff] at *
  exact ⟨h.1, h.2.1, Memory.wf_setBytes _ _ _ h.2.2.1, h.2.2.2⟩

theorem canon_lddWord (c : Chip) (a n v : Nat) (h : c.canon = true) :
    ({ c with lddMem := memSetNat c.lddMem a n v } : Chip).canon = true := by
  rw [canon_iff] at *
  exact ⟨h.1, h.2.1, h.2.2.1, Memory.wf_setNat _ _ _ _ h.2.2.2.1, h.2.2.2.2⟩

theorem canon_setFlash (c : Chip) (a v : Nat) (h : c.canon = true) : (c.setFlash a v).canon = true := by
  rw [canon_iff] at *
  exact ⟨h.1, h.2.1, h.2.2.1, h.2.2.2.1, Assoc.wf_set _ _ _ _ h.2.2.2.2⟩

theorem canon_flashFilter (c : Chip) (p : Nat × Byte → Bool) (h : c.canon = true) :
    ({ c with flash := c.flash.filter p } : Chip).canon = true := by
  rw [canon_iff] at *
  exact ⟨h.1, h.2.1, h.2.2.1, h.2.2.2.1, Assoc.wfFrom_filter _ _ _ _ h.2.2.2.2⟩

/-! ### Resets and the banks -/

theorem wf_foldl_set {α β : Type} [DecidableEq α] (d : Nat → α) (k : β → Nat) (v : β → α) (l : List β) : ∀ m : Assoc α,
    Assoc.wf d m = true → Assoc.wf d (l.foldl (fun acc x => Assoc.set d acc (k x) (v x)) m) = true := by
  induction l with
  | nil => intro m h; exact h
  | cons x l ih => intro m h; exact ih _ (Assoc.wf_set _ _ _ _ h)

theorem wf_resetRegs (cell cold : Bool) (m : Assoc Word) (h : Assoc.wf regReset m = true) :
    Assoc.wf regReset (resetRegs cell cold m) = true :=
  wf_foldl_set regReset (fun x : Nat × Word => x.1) (fun x => resetWord cold x.1 x.2) _ _ (Assoc.wfFrom_filter _ _ _ _ h)

theorem canon_keepDiag (cold : Bool) (st cause : Fld) (old c : Chip) (h : c.canon = true) :
    (keepDiag cold st cause old c).canon = true := by
  unfold keepDiag
  split
  · exact canon_setFld _ _ _ (canon_setFld _ _ _ h)
  · exact h

theorem canon_hubReset (c : Chip) (cold : Bool) (cause : Nat) (h : c.canon = true) : (c.hubReset cold cause).canon = true := by
  have : ({ c.hubClear with regs := resetRegs false cold c.regs } : Chip).canon = true := by
    rw [canon_iff] at *
    exact ⟨wf_resetRegs _ _ _ h.1, h.2⟩
  exact canon_of_same (c := Chip.setReg (keepDiag cold HHA_HSTAT_STATE HHA_HSTAT_CAUSE c
    { c.hubClear with regs := resetRegs false cold c.regs }) 0x8 cause) rfl rfl rfl rfl rfl
    (canon_setReg _ _ _ (canon_keepDiag _ _ _ _ _ this))

theorem canon_cellReset (c : Chip) (cold on : Bool) (cause : Nat) (h : c.canon = true) : (c.cellReset cold on cause).canon = true := by
  have : ({ c.cellClear with regs := resetRegs true cold c.regs } : Chip).canon = true := by
    rw [canon_iff] at *
    exact ⟨wf_resetRegs _ _ _ h.1, h.2⟩
  exact canon_of_same (c := Chip.setReg (keepDiag cold CHH_HSTAT_STATE CHH_HSTAT_CAUSE c
    { c.cellClear with regs := resetRegs true cold c.regs }) 0x40000008 cause) rfl rfl rfl rfl rfl
    (canon_setReg _ _ _ (canon_keepDiag _ _ _ _ _ this))

/-- The windows of MRAM exchanged stay in canonical form. -/
theorem wf_swapKeys (m : List Host.Cell) (h : Memory.wf m = true) : Memory.wf (swapKeys m) = true := by
  have hr : Assoc.wfFrom memReset 0x3E000 (m.filter fun x => decide (0x3E000 ≤ x.1)) = true := by
    have key : ∀ (m : List Host.Cell) (b : Nat), Assoc.wfFrom memReset b m = true →
        Assoc.wfFrom memReset 0x3E000 (m.filter fun x => decide (0x3E000 ≤ x.1)) = true := by
      intro m
      induction m with
      | nil => intro b _; rfl
      | cons e m ih =>
        intro b hb
        obtain ⟨j, w⟩ := e
        simp only [Assoc.wfFrom, Bool.and_eq_true, decide_eq_true_eq] at hb
        by_cases hj : 0x3E000 ≤ j
        · rw [List.filter_cons_of_pos (by simpa using hj)]
          simp only [Assoc.wfFrom, Bool.and_eq_true, decide_eq_true_eq]
          exact ⟨⟨hj, hb.1.2⟩, Assoc.wfFrom_filter _ _ _ _ hb.2⟩
        · rw [List.filter_cons_of_neg (by simpa using hj)]
          exact ih _ hb.2
    exact key m 0 h
  have lo := Assoc.wfFrom_moved memReset 0 (fun _ => rfl) (· + 0x1F000) 0 0x1F000 0x3E000 _ (by intros; omega) (by intros; omega) hr m 0 0x1F000 h
    (by intros; omega) (by omega)
  have hi := Assoc.wfFrom_moved memReset 0 (fun _ => rfl) (· - 0x1F000) 0x1F000 0x3E000 0x1F000 _ (by intros; omega) (by intros; omega) lo m 0 0 h
    (by intros; omega) (by omega)
  unfold Memory.wf Assoc.wf swapKeys
  simpa [List.append_assoc] using hi

theorem canon_mapBank (c : Chip) (b : Nat) (h : c.canon = true) : (c.mapBank b).canon = true := by
  unfold Chip.mapBank
  split
  · exact h
  · rw [canon_iff] at *
    exact ⟨h.1, h.2.1, wf_swapKeys _ h.2.2.1, h.2.2.2⟩

end Sys2Proof.Machine
end

