-- ==== Sys2Proof/Laws/State.lean ====
section
/-!
SUPPORT. What each update of the state leaves alone: one lemma per field and update, so that no proof unfolds a record update; and what the
updates of registers, fields and records read back as.
-/
namespace Sys2Proof.Machine

@[simp] theorem setReg_time (c : Chip) (a v : Nat) : (c.setReg a v).time = c.time := rfl
@[simp] theorem setReg_ctick (c : Chip) (a v : Nat) : (c.setReg a v).ctick = c.ctick := rfl
@[simp] theorem setReg_free (c : Chip) (a v : Nat) : (c.setReg a v).free = c.free := rfl
@[simp] theorem setReg_hubMem (c : Chip) (a v : Nat) : (c.setReg a v).hubMem = c.hubMem := rfl
@[simp] theorem setReg_cellMem (c : Chip) (a v : Nat) : (c.setReg a v).cellMem = c.cellMem := rfl
@[simp] theorem setReg_rdata (c : Chip) (a v : Nat) : (c.setReg a v).rdata = c.rdata := rfl
@[simp] theorem setReg_latch (c : Chip) (a v : Nat) : (c.setReg a v).latch = c.latch := rfl
@[simp] theorem setReg_hold (c : Chip) (a v : Nat) : (c.setReg a v).hold = c.hold := rfl
@[simp] theorem setReg_doms (c : Chip) (a v : Nat) : (c.setReg a v).doms = c.doms := rfl
@[simp] theorem setReg_pulses (c : Chip) (a v : Nat) : (c.setReg a v).pulses = c.pulses := rfl
@[simp] theorem setReg_csd (c : Chip) (a v : Nat) : (c.setReg a v).csd = c.csd := rfl
@[simp] theorem setReg_fire (c : Chip) (a v : Nat) : (c.setReg a v).fire = c.fire := rfl
@[simp] theorem setReg_gates (c : Chip) (a v : Nat) : (c.setReg a v).gates = c.gates := rfl
@[simp] theorem setReg_lanes (c : Chip) (a v : Nat) : (c.setReg a v).lanes = c.lanes := rfl
@[simp] theorem setReg_cellLog (c : Chip) (a v : Nat) : (c.setReg a v).cellLog = c.cellLog := rfl
@[simp] theorem setReg_hubEcc (c : Chip) (a v : Nat) : (c.setReg a v).hubEcc = c.hubEcc := rfl
@[simp] theorem setReg_cellEcc (c : Chip) (a v : Nat) : (c.setReg a v).cellEcc = c.cellEcc := rfl
@[simp] theorem setReg_held (c : Chip) (a v : Nat) : (c.setReg a v).held = c.held := rfl
@[simp] theorem setReg_fnEndHub (c : Chip) (a v : Nat) : (c.setReg a v).fnEndHub = c.fnEndHub := rfl
@[simp] theorem setReg_fnEndCell (c : Chip) (a v : Nat) : (c.setReg a v).fnEndCell = c.fnEndCell := rfl
@[simp] theorem setReg_takeDue (c : Chip) (a v : Nat) : (c.setReg a v).takeDue = c.takeDue := rfl
@[simp] theorem setReg_sent (c : Chip) (a v : Nat) : (c.setReg a v).sent = c.sent := rfl
@[simp] theorem setReg_trl (c : Chip) (a v : Nat) : (c.setReg a v).trl = c.trl := rfl
@[simp] theorem setReg_adc (c : Chip) (a v : Nat) : (c.setReg a v).adc = c.adc := rfl
@[simp] theorem setReg_gth (c : Chip) (a v : Nat) : (c.setReg a v).gth = c.gth := rfl
@[simp] theorem setReg_td (c : Chip) (a v : Nat) : (c.setReg a v).td = c.td := rfl
@[simp] theorem setReg_cores (c : Chip) (a v : Nat) : (c.setReg a v).cores = c.cores := rfl
@[simp] theorem setReg_angin (c : Chip) (a v : Nat) : (c.setReg a v).angin = c.angin := rfl
@[simp] theorem setReg_blv (c : Chip) (a v : Nat) : (c.setReg a v).blv = c.blv := rfl
@[simp] theorem setReg_eth (c : Chip) (a v : Nat) : (c.setReg a v).eth = c.eth := rfl
@[simp] theorem setReg_hh (c : Chip) (a v : Nat) : (c.setReg a v).hh = c.hh := rfl
@[simp] theorem setReg_gls (c : Chip) (a v : Nat) : (c.setReg a v).gls = c.gls := rfl
@[simp] theorem setReg_sys (c : Chip) (a v : Nat) : (c.setReg a v).sys = c.sys := rfl
@[simp] theorem setReg_lddMem (c : Chip) (a v : Nat) : (c.setReg a v).lddMem = c.lddMem := rfl
@[simp] theorem setReg_flash (c : Chip) (a v : Nat) : (c.setReg a v).flash = c.flash := rfl

@[simp] theorem setFld_time (c : Chip) (f : Fld) (x : Nat) : (c.setFld f x).time = c.time := rfl
@[simp] theorem setFld_ctick (c : Chip) (f : Fld) (x : Nat) : (c.setFld f x).ctick = c.ctick := rfl
@[simp] theorem setFld_free (c : Chip) (f : Fld) (x : Nat) : (c.setFld f x).free = c.free := rfl
@[simp] theorem setFld_hubMem (c : Chip) (f : Fld) (x : Nat) : (c.setFld f x).hubMem = c.hubMem := rfl
@[simp] theorem setFld_cellMem (c : Chip) (f : Fld) (x : Nat) : (c.setFld f x).cellMem = c.cellMem := rfl
@[simp] theorem setFld_rdata (c : Chip) (f : Fld) (x : Nat) : (c.setFld f x).rdata = c.rdata := rfl
@[simp] theorem setFld_latch (c : Chip) (f : Fld) (x : Nat) : (c.setFld f x).latch = c.latch := rfl
@[simp] theorem setFld_hold (c : Chip) (f : Fld) (x : Nat) : (c.setFld f x).hold = c.hold := rfl
@[simp] theorem setFld_doms (c : Chip) (f : Fld) (x : Nat) : (c.setFld f x).doms = c.doms := rfl
@[simp] theorem setFld_pulses (c : Chip) (f : Fld) (x : Nat) : (c.setFld f x).pulses = c.pulses := rfl
@[simp] theorem setFld_csd (c : Chip) (f : Fld) (x : Nat) : (c.setFld f x).csd = c.csd := rfl
@[simp] theorem setFld_fire (c : Chip) (f : Fld) (x : Nat) : (c.setFld f x).fire = c.fire := rfl
@[simp] theorem setFld_gates (c : Chip) (f : Fld) (x : Nat) : (c.setFld f x).gates = c.gates := rfl
@[simp] theorem setFld_lanes (c : Chip) (f : Fld) (x : Nat) : (c.setFld f x).lanes = c.lanes := rfl
@[simp] theorem setFld_cellLog (c : Chip) (f : Fld) (x : Nat) : (c.setFld f x).cellLog = c.cellLog := rfl
@[simp] theorem setFld_hubEcc (c : Chip) (f : Fld) (x : Nat) : (c.setFld f x).hubEcc = c.hubEcc := rfl
@[simp] theorem setFld_cellEcc (c : Chip) (f : Fld) (x : Nat) : (c.setFld f x).cellEcc = c.cellEcc := rfl
@[simp] theorem setFld_held (c : Chip) (f : Fld) (x : Nat) : (c.setFld f x).held = c.held := rfl
@[simp] theorem setFld_fnEndHub (c : Chip) (f : Fld) (x : Nat) : (c.setFld f x).fnEndHub = c.fnEndHub := rfl
@[simp] theorem setFld_fnEndCell (c : Chip) (f : Fld) (x : Nat) : (c.setFld f x).fnEndCell = c.fnEndCell := rfl
@[simp] theorem setFld_takeDue (c : Chip) (f : Fld) (x : Nat) : (c.setFld f x).takeDue = c.takeDue := rfl
@[simp] theorem setFld_sent (c : Chip) (f : Fld) (x : Nat) : (c.setFld f x).sent = c.sent := rfl
@[simp] theorem setFld_trl (c : Chip) (f : Fld) (x : Nat) : (c.setFld f x).trl = c.trl := rfl
@[simp] theorem setFld_adc (c : Chip) (f : Fld) (x : Nat) : (c.setFld f x).adc = c.adc := rfl
@[simp] theorem setFld_gth (c : Chip) (f : Fld) (x : Nat) : (c.setFld f x).gth = c.gth := rfl
@[simp] theorem setFld_td (c : Chip) (f : Fld) (x : Nat) : (c.setFld f x).td = c.td := rfl
@[simp] theorem setFld_cores (c : Chip) (f : Fld) (x : Nat) : (c.setFld f x).cores = c.cores := rfl
@[simp] theorem setFld_angin (c : Chip) (f : Fld) (x : Nat) : (c.setFld f x).angin = c.angin := rfl
@[simp] theorem setFld_blv (c : Chip) (f : Fld) (x : Nat) : (c.setFld f x).blv = c.blv := rfl
@[simp] theorem setFld_eth (c : Chip) (f : Fld) (x : Nat) : (c.setFld f x).eth = c.eth := rfl
@[simp] theorem setFld_hh (c : Chip) (f : Fld) (x : Nat) : (c.setFld f x).hh = c.hh := rfl
@[simp] theorem setFld_gls (c : Chip) (f : Fld) (x : Nat) : (c.setFld f x).gls = c.gls := rfl
@[simp] theorem setFld_sys (c : Chip) (f : Fld) (x : Nat) : (c.setFld f x).sys = c.sys := rfl
@[simp] theorem setFld_lddMem (c : Chip) (f : Fld) (x : Nat) : (c.setFld f x).lddMem = c.lddMem := rfl
@[simp] theorem setFld_flash (c : Chip) (f : Fld) (x : Nat) : (c.setFld f x).flash = c.flash := rfl

@[simp] theorem raiseFlag_time (c : Chip) (f : Fld) : (c.raiseFlag f).time = c.time := rfl
@[simp] theorem raiseFlag_ctick (c : Chip) (f : Fld) : (c.raiseFlag f).ctick = c.ctick := rfl
@[simp] theorem raiseFlag_free (c : Chip) (f : Fld) : (c.raiseFlag f).free = c.free := rfl
@[simp] theorem raiseFlag_hubMem (c : Chip) (f : Fld) : (c.raiseFlag f).hubMem = c.hubMem := rfl
@[simp] theorem raiseFlag_cellMem (c : Chip) (f : Fld) : (c.raiseFlag f).cellMem = c.cellMem := rfl
@[simp] theorem raiseFlag_rdata (c : Chip) (f : Fld) : (c.raiseFlag f).rdata = c.rdata := rfl
@[simp] theorem raiseFlag_latch (c : Chip) (f : Fld) : (c.raiseFlag f).latch = c.latch := rfl
@[simp] theorem raiseFlag_hold (c : Chip) (f : Fld) : (c.raiseFlag f).hold = c.hold := rfl
@[simp] theorem raiseFlag_doms (c : Chip) (f : Fld) : (c.raiseFlag f).doms = c.doms := rfl
@[simp] theorem raiseFlag_pulses (c : Chip) (f : Fld) : (c.raiseFlag f).pulses = c.pulses := rfl
@[simp] theorem raiseFlag_csd (c : Chip) (f : Fld) : (c.raiseFlag f).csd = c.csd := rfl
@[simp] theorem raiseFlag_fire (c : Chip) (f : Fld) : (c.raiseFlag f).fire = c.fire := rfl
@[simp] theorem raiseFlag_gates (c : Chip) (f : Fld) : (c.raiseFlag f).gates = c.gates := rfl
@[simp] theorem raiseFlag_lanes (c : Chip) (f : Fld) : (c.raiseFlag f).lanes = c.lanes := rfl
@[simp] theorem raiseFlag_cellLog (c : Chip) (f : Fld) : (c.raiseFlag f).cellLog = c.cellLog := rfl
@[simp] theorem raiseFlag_hubEcc (c : Chip) (f : Fld) : (c.raiseFlag f).hubEcc = c.hubEcc := rfl
@[simp] theorem raiseFlag_cellEcc (c : Chip) (f : Fld) : (c.raiseFlag f).cellEcc = c.cellEcc := rfl
@[simp] theorem raiseFlag_held (c : Chip) (f : Fld) : (c.raiseFlag f).held = c.held := rfl
@[simp] theorem raiseFlag_fnEndHub (c : Chip) (f : Fld) : (c.raiseFlag f).fnEndHub = c.fnEndHub := rfl
@[simp] theorem raiseFlag_fnEndCell (c : Chip) (f : Fld) : (c.raiseFlag f).fnEndCell = c.fnEndCell := rfl
@[simp] theorem raiseFlag_takeDue (c : Chip) (f : Fld) : (c.raiseFlag f).takeDue = c.takeDue := rfl
@[simp] theorem raiseFlag_sent (c : Chip) (f : Fld) : (c.raiseFlag f).sent = c.sent := rfl
@[simp] theorem raiseFlag_trl (c : Chip) (f : Fld) : (c.raiseFlag f).trl = c.trl := rfl
@[simp] theorem raiseFlag_adc (c : Chip) (f : Fld) : (c.raiseFlag f).adc = c.adc := rfl
@[simp] theorem raiseFlag_gth (c : Chip) (f : Fld) : (c.raiseFlag f).gth = c.gth := rfl
@[simp] theorem raiseFlag_td (c : Chip) (f : Fld) : (c.raiseFlag f).td = c.td := rfl
@[simp] theorem raiseFlag_cores (c : Chip) (f : Fld) : (c.raiseFlag f).cores = c.cores := rfl
@[simp] theorem raiseFlag_angin (c : Chip) (f : Fld) : (c.raiseFlag f).angin = c.angin := rfl
@[simp] theorem raiseFlag_blv (c : Chip) (f : Fld) : (c.raiseFlag f).blv = c.blv := rfl
@[simp] theorem raiseFlag_eth (c : Chip) (f : Fld) : (c.raiseFlag f).eth = c.eth := rfl
@[simp] theorem raiseFlag_hh (c : Chip) (f : Fld) : (c.raiseFlag f).hh = c.hh := rfl
@[simp] theorem raiseFlag_gls (c : Chip) (f : Fld) : (c.raiseFlag f).gls = c.gls := rfl
@[simp] theorem raiseFlag_sys (c : Chip) (f : Fld) : (c.raiseFlag f).sys = c.sys := rfl
@[simp] theorem raiseFlag_lddMem (c : Chip) (f : Fld) : (c.raiseFlag f).lddMem = c.lddMem := rfl
@[simp] theorem raiseFlag_flash (c : Chip) (f : Fld) : (c.raiseFlag f).flash = c.flash := rfl

@[simp] theorem clrFlag_time (c : Chip) (f : Fld) : (c.clrFlag f).time = c.time := rfl
@[simp] theorem clrFlag_ctick (c : Chip) (f : Fld) : (c.clrFlag f).ctick = c.ctick := rfl
@[simp] theorem clrFlag_free (c : Chip) (f : Fld) : (c.clrFlag f).free = c.free := rfl
@[simp] theorem clrFlag_hubMem (c : Chip) (f : Fld) : (c.clrFlag f).hubMem = c.hubMem := rfl
@[simp] theorem clrFlag_cellMem (c : Chip) (f : Fld) : (c.clrFlag f).cellMem = c.cellMem := rfl
@[simp] theorem clrFlag_rdata (c : Chip) (f : Fld) : (c.clrFlag f).rdata = c.rdata := rfl
@[simp] theorem clrFlag_latch (c : Chip) (f : Fld) : (c.clrFlag f).latch = c.latch := rfl
@[simp] theorem clrFlag_hold (c : Chip) (f : Fld) : (c.clrFlag f).hold = c.hold := rfl
@[simp] theorem clrFlag_doms (c : Chip) (f : Fld) : (c.clrFlag f).doms = c.doms := rfl
@[simp] theorem clrFlag_pulses (c : Chip) (f : Fld) : (c.clrFlag f).pulses = c.pulses := rfl
@[simp] theorem clrFlag_csd (c : Chip) (f : Fld) : (c.clrFlag f).csd = c.csd := rfl
@[simp] theorem clrFlag_fire (c : Chip) (f : Fld) : (c.clrFlag f).fire = c.fire := rfl
@[simp] theorem clrFlag_gates (c : Chip) (f : Fld) : (c.clrFlag f).gates = c.gates := rfl
@[simp] theorem clrFlag_lanes (c : Chip) (f : Fld) : (c.clrFlag f).lanes = c.lanes := rfl
@[simp] theorem clrFlag_cellLog (c : Chip) (f : Fld) : (c.clrFlag f).cellLog = c.cellLog := rfl
@[simp] theorem clrFlag_hubEcc (c : Chip) (f : Fld) : (c.clrFlag f).hubEcc = c.hubEcc := rfl
@[simp] theorem clrFlag_cellEcc (c : Chip) (f : Fld) : (c.clrFlag f).cellEcc = c.cellEcc := rfl
@[simp] theorem clrFlag_held (c : Chip) (f : Fld) : (c.clrFlag f).held = c.held := rfl
@[simp] theorem clrFlag_fnEndHub (c : Chip) (f : Fld) : (c.clrFlag f).fnEndHub = c.fnEndHub := rfl
@[simp] theorem clrFlag_fnEndCell (c : Chip) (f : Fld) : (c.clrFlag f).fnEndCell = c.fnEndCell := rfl
@[simp] theorem clrFlag_takeDue (c : Chip) (f : Fld) : (c.clrFlag f).takeDue = c.takeDue := rfl
@[simp] theorem clrFlag_sent (c : Chip) (f : Fld) : (c.clrFlag f).sent = c.sent := rfl
@[simp] theorem clrFlag_trl (c : Chip) (f : Fld) : (c.clrFlag f).trl = c.trl := rfl
@[simp] theorem clrFlag_adc (c : Chip) (f : Fld) : (c.clrFlag f).adc = c.adc := rfl
@[simp] theorem clrFlag_gth (c : Chip) (f : Fld) : (c.clrFlag f).gth = c.gth := rfl
@[simp] theorem clrFlag_td (c : Chip) (f : Fld) : (c.clrFlag f).td = c.td := rfl
@[simp] theorem clrFlag_cores (c : Chip) (f : Fld) : (c.clrFlag f).cores = c.cores := rfl
@[simp] theorem clrFlag_angin (c : Chip) (f : Fld) : (c.clrFlag f).angin = c.angin := rfl
@[simp] theorem clrFlag_blv (c : Chip) (f : Fld) : (c.clrFlag f).blv = c.blv := rfl
@[simp] theorem clrFlag_eth (c : Chip) (f : Fld) : (c.clrFlag f).eth = c.eth := rfl
@[simp] theorem clrFlag_hh (c : Chip) (f : Fld) : (c.clrFlag f).hh = c.hh := rfl
@[simp] theorem clrFlag_gls (c : Chip) (f : Fld) : (c.clrFlag f).gls = c.gls := rfl
@[simp] theorem clrFlag_sys (c : Chip) (f : Fld) : (c.clrFlag f).sys = c.sys := rfl
@[simp] theorem clrFlag_lddMem (c : Chip) (f : Fld) : (c.clrFlag f).lddMem = c.lddMem := rfl
@[simp] theorem clrFlag_flash (c : Chip) (f : Fld) : (c.clrFlag f).flash = c.flash := rfl

@[simp] theorem setReg64_time (c : Chip) (a v : Nat) : (c.setReg64 a v).time = c.time := rfl
@[simp] theorem setReg64_ctick (c : Chip) (a v : Nat) : (c.setReg64 a v).ctick = c.ctick := rfl
@[simp] theorem setReg64_free (c : Chip) (a v : Nat) : (c.setReg64 a v).free = c.free := rfl
@[simp] theorem setReg64_hubMem (c : Chip) (a v : Nat) : (c.setReg64 a v).hubMem = c.hubMem := rfl
@[simp] theorem setReg64_cellMem (c : Chip) (a v : Nat) : (c.setReg64 a v).cellMem = c.cellMem := rfl
@[simp] theorem setReg64_rdata (c : Chip) (a v : Nat) : (c.setReg64 a v).rdata = c.rdata := rfl
@[simp] theorem setReg64_latch (c : Chip) (a v : Nat) : (c.setReg64 a v).latch = c.latch := rfl
@[simp] theorem setReg64_hold (c : Chip) (a v : Nat) : (c.setReg64 a v).hold = c.hold := rfl
@[simp] theorem setReg64_doms (c : Chip) (a v : Nat) : (c.setReg64 a v).doms = c.doms := rfl
@[simp] theorem setReg64_pulses (c : Chip) (a v : Nat) : (c.setReg64 a v).pulses = c.pulses := rfl
@[simp] theorem setReg64_csd (c : Chip) (a v : Nat) : (c.setReg64 a v).csd = c.csd := rfl
@[simp] theorem setReg64_fire (c : Chip) (a v : Nat) : (c.setReg64 a v).fire = c.fire := rfl
@[simp] theorem setReg64_gates (c : Chip) (a v : Nat) : (c.setReg64 a v).gates = c.gates := rfl
@[simp] theorem setReg64_lanes (c : Chip) (a v : Nat) : (c.setReg64 a v).lanes = c.lanes := rfl
@[simp] theorem setReg64_cellLog (c : Chip) (a v : Nat) : (c.setReg64 a v).cellLog = c.cellLog := rfl
@[simp] theorem setReg64_hubEcc (c : Chip) (a v : Nat) : (c.setReg64 a v).hubEcc = c.hubEcc := rfl
@[simp] theorem setReg64_cellEcc (c : Chip) (a v : Nat) : (c.setReg64 a v).cellEcc = c.cellEcc := rfl
@[simp] theorem setReg64_held (c : Chip) (a v : Nat) : (c.setReg64 a v).held = c.held := rfl
@[simp] theorem setReg64_fnEndHub (c : Chip) (a v : Nat) : (c.setReg64 a v).fnEndHub = c.fnEndHub := rfl
@[simp] theorem setReg64_fnEndCell (c : Chip) (a v : Nat) : (c.setReg64 a v).fnEndCell = c.fnEndCell := rfl
@[simp] theorem setReg64_takeDue (c : Chip) (a v : Nat) : (c.setReg64 a v).takeDue = c.takeDue := rfl
@[simp] theorem setReg64_sent (c : Chip) (a v : Nat) : (c.setReg64 a v).sent = c.sent := rfl
@[simp] theorem setReg64_trl (c : Chip) (a v : Nat) : (c.setReg64 a v).trl = c.trl := rfl
@[simp] theorem setReg64_adc (c : Chip) (a v : Nat) : (c.setReg64 a v).adc = c.adc := rfl
@[simp] theorem setReg64_gth (c : Chip) (a v : Nat) : (c.setReg64 a v).gth = c.gth := rfl
@[simp] theorem setReg64_td (c : Chip) (a v : Nat) : (c.setReg64 a v).td = c.td := rfl
@[simp] theorem setReg64_cores (c : Chip) (a v : Nat) : (c.setReg64 a v).cores = c.cores := rfl
@[simp] theorem setReg64_angin (c : Chip) (a v : Nat) : (c.setReg64 a v).angin = c.angin := rfl
@[simp] theorem setReg64_blv (c : Chip) (a v : Nat) : (c.setReg64 a v).blv = c.blv := rfl
@[simp] theorem setReg64_eth (c : Chip) (a v : Nat) : (c.setReg64 a v).eth = c.eth := rfl
@[simp] theorem setReg64_hh (c : Chip) (a v : Nat) : (c.setReg64 a v).hh = c.hh := rfl
@[simp] theorem setReg64_gls (c : Chip) (a v : Nat) : (c.setReg64 a v).gls = c.gls := rfl
@[simp] theorem setReg64_sys (c : Chip) (a v : Nat) : (c.setReg64 a v).sys = c.sys := rfl
@[simp] theorem setReg64_lddMem (c : Chip) (a v : Nat) : (c.setReg64 a v).lddMem = c.lddMem := rfl
@[simp] theorem setReg64_flash (c : Chip) (a v : Nat) : (c.setReg64 a v).flash = c.flash := rfl

@[simp] theorem bump_time (c : Chip) (a : Nat) : (c.bump a).time = c.time := rfl
@[simp] theorem bump_ctick (c : Chip) (a : Nat) : (c.bump a).ctick = c.ctick := rfl
@[simp] theorem bump_free (c : Chip) (a : Nat) : (c.bump a).free = c.free := rfl
@[simp] theorem bump_hubMem (c : Chip) (a : Nat) : (c.bump a).hubMem = c.hubMem := rfl
@[simp] theorem bump_cellMem (c : Chip) (a : Nat) : (c.bump a).cellMem = c.cellMem := rfl
@[simp] theorem bump_rdata (c : Chip) (a : Nat) : (c.bump a).rdata = c.rdata := rfl
@[simp] theorem bump_latch (c : Chip) (a : Nat) : (c.bump a).latch = c.latch := rfl
@[simp] theorem bump_hold (c : Chip) (a : Nat) : (c.bump a).hold = c.hold := rfl
@[simp] theorem bump_doms (c : Chip) (a : Nat) : (c.bump a).doms = c.doms := rfl
@[simp] theorem bump_pulses (c : Chip) (a : Nat) : (c.bump a).pulses = c.pulses := rfl
@[simp] theorem bump_csd (c : Chip) (a : Nat) : (c.bump a).csd = c.csd := rfl
@[simp] theorem bump_fire (c : Chip) (a : Nat) : (c.bump a).fire = c.fire := rfl
@[simp] theorem bump_gates (c : Chip) (a : Nat) : (c.bump a).gates = c.gates := rfl
@[simp] theorem bump_lanes (c : Chip) (a : Nat) : (c.bump a).lanes = c.lanes := rfl
@[simp] theorem bump_cellLog (c : Chip) (a : Nat) : (c.bump a).cellLog = c.cellLog := rfl
@[simp] theorem bump_hubEcc (c : Chip) (a : Nat) : (c.bump a).hubEcc = c.hubEcc := rfl
@[simp] theorem bump_cellEcc (c : Chip) (a : Nat) : (c.bump a).cellEcc = c.cellEcc := rfl
@[simp] theorem bump_held (c : Chip) (a : Nat) : (c.bump a).held = c.held := rfl
@[simp] theorem bump_fnEndHub (c : Chip) (a : Nat) : (c.bump a).fnEndHub = c.fnEndHub := rfl
@[simp] theorem bump_fnEndCell (c : Chip) (a : Nat) : (c.bump a).fnEndCell = c.fnEndCell := rfl
@[simp] theorem bump_takeDue (c : Chip) (a : Nat) : (c.bump a).takeDue = c.takeDue := rfl
@[simp] theorem bump_sent (c : Chip) (a : Nat) : (c.bump a).sent = c.sent := rfl
@[simp] theorem bump_trl (c : Chip) (a : Nat) : (c.bump a).trl = c.trl := rfl
@[simp] theorem bump_adc (c : Chip) (a : Nat) : (c.bump a).adc = c.adc := rfl
@[simp] theorem bump_gth (c : Chip) (a : Nat) : (c.bump a).gth = c.gth := rfl
@[simp] theorem bump_td (c : Chip) (a : Nat) : (c.bump a).td = c.td := rfl
@[simp] theorem bump_cores (c : Chip) (a : Nat) : (c.bump a).cores = c.cores := rfl
@[simp] theorem bump_angin (c : Chip) (a : Nat) : (c.bump a).angin = c.angin := rfl
@[simp] theorem bump_blv (c : Chip) (a : Nat) : (c.bump a).blv = c.blv := rfl
@[simp] theorem bump_eth (c : Chip) (a : Nat) : (c.bump a).eth = c.eth := rfl
@[simp] theorem bump_hh (c : Chip) (a : Nat) : (c.bump a).hh = c.hh := rfl
@[simp] theorem bump_gls (c : Chip) (a : Nat) : (c.bump a).gls = c.gls := rfl
@[simp] theorem bump_sys (c : Chip) (a : Nat) : (c.bump a).sys = c.sys := rfl
@[simp] theorem bump_lddMem (c : Chip) (a : Nat) : (c.bump a).lddMem = c.lddMem := rfl
@[simp] theorem bump_flash (c : Chip) (a : Nat) : (c.bump a).flash = c.flash := rfl

@[simp] theorem plainWrite_time (c : Chip) (a v : Nat) : (c.plainWrite a v).time = c.time := rfl
@[simp] theorem plainWrite_ctick (c : Chip) (a v : Nat) : (c.plainWrite a v).ctick = c.ctick := rfl
@[simp] theorem plainWrite_free (c : Chip) (a v : Nat) : (c.plainWrite a v).free = c.free := rfl
@[simp] theorem plainWrite_hubMem (c : Chip) (a v : Nat) : (c.plainWrite a v).hubMem = c.hubMem := rfl
@[simp] theorem plainWrite_cellMem (c : Chip) (a v : Nat) : (c.plainWrite a v).cellMem = c.cellMem := rfl
@[simp] theorem plainWrite_rdata (c : Chip) (a v : Nat) : (c.plainWrite a v).rdata = c.rdata := rfl
@[simp] theorem plainWrite_latch (c : Chip) (a v : Nat) : (c.plainWrite a v).latch = c.latch := rfl
@[simp] theorem plainWrite_hold (c : Chip) (a v : Nat) : (c.plainWrite a v).hold = c.hold := rfl
@[simp] theorem plainWrite_doms (c : Chip) (a v : Nat) : (c.plainWrite a v).doms = c.doms := rfl
@[simp] theorem plainWrite_pulses (c : Chip) (a v : Nat) : (c.plainWrite a v).pulses = c.pulses := rfl
@[simp] theorem plainWrite_csd (c : Chip) (a v : Nat) : (c.plainWrite a v).csd = c.csd := rfl
@[simp] theorem plainWrite_fire (c : Chip) (a v : Nat) : (c.plainWrite a v).fire = c.fire := rfl
@[simp] theorem plainWrite_gates (c : Chip) (a v : Nat) : (c.plainWrite a v).gates = c.gates := rfl
@[simp] theorem plainWrite_lanes (c : Chip) (a v : Nat) : (c.plainWrite a v).lanes = c.lanes := rfl
@[simp] theorem plainWrite_cellLog (c : Chip) (a v : Nat) : (c.plainWrite a v).cellLog = c.cellLog := rfl
@[simp] theorem plainWrite_hubEcc (c : Chip) (a v : Nat) : (c.plainWrite a v).hubEcc = c.hubEcc := rfl
@[simp] theorem plainWrite_cellEcc (c : Chip) (a v : Nat) : (c.plainWrite a v).cellEcc = c.cellEcc := rfl
@[simp] theorem plainWrite_held (c : Chip) (a v : Nat) : (c.plainWrite a v).held = c.held := rfl
@[simp] theorem plainWrite_fnEndHub (c : Chip) (a v : Nat) : (c.plainWrite a v).fnEndHub = c.fnEndHub := rfl
@[simp] theorem plainWrite_fnEndCell (c : Chip) (a v : Nat) : (c.plainWrite a v).fnEndCell = c.fnEndCell := rfl
@[simp] theorem plainWrite_takeDue (c : Chip) (a v : Nat) : (c.plainWrite a v).takeDue = c.takeDue := rfl
@[simp] theorem plainWrite_sent (c : Chip) (a v : Nat) : (c.plainWrite a v).sent = c.sent := rfl
@[simp] theorem plainWrite_trl (c : Chip) (a v : Nat) : (c.plainWrite a v).trl = c.trl := rfl
@[simp] theorem plainWrite_adc (c : Chip) (a v : Nat) : (c.plainWrite a v).adc = c.adc := rfl
@[simp] theorem plainWrite_gth (c : Chip) (a v : Nat) : (c.plainWrite a v).gth = c.gth := rfl
@[simp] theorem plainWrite_td (c : Chip) (a v : Nat) : (c.plainWrite a v).td = c.td := rfl
@[simp] theorem plainWrite_cores (c : Chip) (a v : Nat) : (c.plainWrite a v).cores = c.cores := rfl
@[simp] theorem plainWrite_angin (c : Chip) (a v : Nat) : (c.plainWrite a v).angin = c.angin := rfl
@[simp] theorem plainWrite_blv (c : Chip) (a v : Nat) : (c.plainWrite a v).blv = c.blv := rfl
@[simp] theorem plainWrite_eth (c : Chip) (a v : Nat) : (c.plainWrite a v).eth = c.eth := rfl
@[simp] theorem plainWrite_hh (c : Chip) (a v : Nat) : (c.plainWrite a v).hh = c.hh := rfl
@[simp] theorem plainWrite_gls (c : Chip) (a v : Nat) : (c.plainWrite a v).gls = c.gls := rfl
@[simp] theorem plainWrite_sys (c : Chip) (a v : Nat) : (c.plainWrite a v).sys = c.sys := rfl
@[simp] theorem plainWrite_lddMem (c : Chip) (a v : Nat) : (c.plainWrite a v).lddMem = c.lddMem := rfl
@[simp] theorem plainWrite_flash (c : Chip) (a v : Nat) : (c.plainWrite a v).flash = c.flash := rfl

@[simp] theorem setDom_time (c : Chip) (d : Nat) (x : Dom) : (c.setDom d x).time = c.time := rfl
@[simp] theorem setDom_ctick (c : Chip) (d : Nat) (x : Dom) : (c.setDom d x).ctick = c.ctick := rfl
@[simp] theorem setDom_free (c : Chip) (d : Nat) (x : Dom) : (c.setDom d x).free = c.free := rfl
@[simp] theorem setDom_regs (c : Chip) (d : Nat) (x : Dom) : (c.setDom d x).regs = c.regs := rfl
@[simp] theorem setDom_hubMem (c : Chip) (d : Nat) (x : Dom) : (c.setDom d x).hubMem = c.hubMem := rfl
@[simp] theorem setDom_cellMem (c : Chip) (d : Nat) (x : Dom) : (c.setDom d x).cellMem = c.cellMem := rfl
@[simp] theorem setDom_rdata (c : Chip) (d : Nat) (x : Dom) : (c.setDom d x).rdata = c.rdata := rfl
@[simp] theorem setDom_latch (c : Chip) (d : Nat) (x : Dom) : (c.setDom d x).latch = c.latch := rfl
@[simp] theorem setDom_hold (c : Chip) (d : Nat) (x : Dom) : (c.setDom d x).hold = c.hold := rfl
@[simp] theorem setDom_pulses (c : Chip) (d : Nat) (x : Dom) : (c.setDom d x).pulses = c.pulses := rfl
@[simp] theorem setDom_csd (c : Chip) (d : Nat) (x : Dom) : (c.setDom d x).csd = c.csd := rfl
@[simp] theorem setDom_fire (c : Chip) (d : Nat) (x : Dom) : (c.setDom d x).fire = c.fire := rfl
@[simp] theorem setDom_gates (c : Chip) (d : Nat) (x : Dom) : (c.setDom d x).gates = c.gates := rfl
@[simp] theorem setDom_lanes (c : Chip) (d : Nat) (x : Dom) : (c.setDom d x).lanes = c.lanes := rfl
@[simp] theorem setDom_cellLog (c : Chip) (d : Nat) (x : Dom) : (c.setDom d x).cellLog = c.cellLog := rfl
@[simp] theorem setDom_hubEcc (c : Chip) (d : Nat) (x : Dom) : (c.setDom d x).hubEcc = c.hubEcc := rfl
@[simp] theorem setDom_cellEcc (c : Chip) (d : Nat) (x : Dom) : (c.setDom d x).cellEcc = c.cellEcc := rfl
@[simp] theorem setDom_held (c : Chip) (d : Nat) (x : Dom) : (c.setDom d x).held = c.held := rfl
@[simp] theorem setDom_fnEndHub (c : Chip) (d : Nat) (x : Dom) : (c.setDom d x).fnEndHub = c.fnEndHub := rfl
@[simp] theorem setDom_fnEndCell (c : Chip) (d : Nat) (x : Dom) : (c.setDom d x).fnEndCell = c.fnEndCell := rfl
@[simp] theorem setDom_takeDue (c : Chip) (d : Nat) (x : Dom) : (c.setDom d x).takeDue = c.takeDue := rfl
@[simp] theorem setDom_sent (c : Chip) (d : Nat) (x : Dom) : (c.setDom d x).sent = c.sent := rfl
@[simp] theorem setDom_trl (c : Chip) (d : Nat) (x : Dom) : (c.setDom d x).trl = c.trl := rfl
@[simp] theorem setDom_adc (c : Chip) (d : Nat) (x : Dom) : (c.setDom d x).adc = c.adc := rfl
@[simp] theorem setDom_gth (c : Chip) (d : Nat) (x : Dom) : (c.setDom d x).gth = c.gth := rfl
@[simp] theorem setDom_td (c : Chip) (d : Nat) (x : Dom) : (c.setDom d x).td = c.td := rfl
@[simp] theorem setDom_cores (c : Chip) (d : Nat) (x : Dom) : (c.setDom d x).cores = c.cores := rfl
@[simp] theorem setDom_angin (c : Chip) (d : Nat) (x : Dom) : (c.setDom d x).angin = c.angin := rfl
@[simp] theorem setDom_blv (c : Chip) (d : Nat) (x : Dom) : (c.setDom d x).blv = c.blv := rfl
@[simp] theorem setDom_eth (c : Chip) (d : Nat) (x : Dom) : (c.setDom d x).eth = c.eth := rfl
@[simp] theorem setDom_hh (c : Chip) (d : Nat) (x : Dom) : (c.setDom d x).hh = c.hh := rfl
@[simp] theorem setDom_gls (c : Chip) (d : Nat) (x : Dom) : (c.setDom d x).gls = c.gls := rfl
@[simp] theorem setDom_sys (c : Chip) (d : Nat) (x : Dom) : (c.setDom d x).sys = c.sys := rfl
@[simp] theorem setDom_lddMem (c : Chip) (d : Nat) (x : Dom) : (c.setDom d x).lddMem = c.lddMem := rfl
@[simp] theorem setDom_flash (c : Chip) (d : Nat) (x : Dom) : (c.setDom d x).flash = c.flash := rfl

@[simp] theorem setPulse_time (c : Chip) (n : Nat) (x : Pulse) : (c.setPulse n x).time = c.time := rfl
@[simp] theorem setPulse_ctick (c : Chip) (n : Nat) (x : Pulse) : (c.setPulse n x).ctick = c.ctick := rfl
@[simp] theorem setPulse_free (c : Chip) (n : Nat) (x : Pulse) : (c.setPulse n x).free = c.free := rfl
@[simp] theorem setPulse_regs (c : Chip) (n : Nat) (x : Pulse) : (c.setPulse n x).regs = c.regs := rfl
@[simp] theorem setPulse_hubMem (c : Chip) (n : Nat) (x : Pulse) : (c.setPulse n x).hubMem = c.hubMem := rfl
@[simp] theorem setPulse_cellMem (c : Chip) (n : Nat) (x : Pulse) : (c.setPulse n x).cellMem = c.cellMem := rfl
@[simp] theorem setPulse_rdata (c : Chip) (n : Nat) (x : Pulse) : (c.setPulse n x).rdata = c.rdata := rfl
@[simp] theorem setPulse_latch (c : Chip) (n : Nat) (x : Pulse) : (c.setPulse n x).latch = c.latch := rfl
@[simp] theorem setPulse_hold (c : Chip) (n : Nat) (x : Pulse) : (c.setPulse n x).hold = c.hold := rfl
@[simp] theorem setPulse_doms (c : Chip) (n : Nat) (x : Pulse) : (c.setPulse n x).doms = c.doms := rfl
@[simp] theorem setPulse_csd (c : Chip) (n : Nat) (x : Pulse) : (c.setPulse n x).csd = c.csd := rfl
@[simp] theorem setPulse_fire (c : Chip) (n : Nat) (x : Pulse) : (c.setPulse n x).fire = c.fire := rfl
@[simp] theorem setPulse_gates (c : Chip) (n : Nat) (x : Pulse) : (c.setPulse n x).gates = c.gates := rfl
@[simp] theorem setPulse_lanes (c : Chip) (n : Nat) (x : Pulse) : (c.setPulse n x).lanes = c.lanes := rfl
@[simp] theorem setPulse_cellLog (c : Chip) (n : Nat) (x : Pulse) : (c.setPulse n x).cellLog = c.cellLog := rfl
@[simp] theorem setPulse_hubEcc (c : Chip) (n : Nat) (x : Pulse) : (c.setPulse n x).hubEcc = c.hubEcc := rfl
@[simp] theorem setPulse_cellEcc (c : Chip) (n : Nat) (x : Pulse) : (c.setPulse n x).cellEcc = c.cellEcc := rfl
@[simp] theorem setPulse_held (c : Chip) (n : Nat) (x : Pulse) : (c.setPulse n x).held = c.held := rfl
@[simp] theorem setPulse_fnEndHub (c : Chip) (n : Nat) (x : Pulse) : (c.setPulse n x).fnEndHub = c.fnEndHub := rfl
@[simp] theorem setPulse_fnEndCell (c : Chip) (n : Nat) (x : Pulse) : (c.setPulse n x).fnEndCell = c.fnEndCell := rfl
@[simp] theorem setPulse_takeDue (c : Chip) (n : Nat) (x : Pulse) : (c.setPulse n x).takeDue = c.takeDue := rfl
@[simp] theorem setPulse_sent (c : Chip) (n : Nat) (x : Pulse) : (c.setPulse n x).sent = c.sent := rfl
@[simp] theorem setPulse_trl (c : Chip) (n : Nat) (x : Pulse) : (c.setPulse n x).trl = c.trl := rfl
@[simp] theorem setPulse_adc (c : Chip) (n : Nat) (x : Pulse) : (c.setPulse n x).adc = c.adc := rfl
@[simp] theorem setPulse_gth (c : Chip) (n : Nat) (x : Pulse) : (c.setPulse n x).gth = c.gth := rfl
@[simp] theorem setPulse_td (c : Chip) (n : Nat) (x : Pulse) : (c.setPulse n x).td = c.td := rfl
@[simp] theorem setPulse_cores (c : Chip) (n : Nat) (x : Pulse) : (c.setPulse n x).cores = c.cores := rfl
@[simp] theorem setPulse_angin (c : Chip) (n : Nat) (x : Pulse) : (c.setPulse n x).angin = c.angin := rfl
@[simp] theorem setPulse_blv (c : Chip) (n : Nat) (x : Pulse) : (c.setPulse n x).blv = c.blv := rfl
@[simp] theorem setPulse_eth (c : Chip) (n : Nat) (x : Pulse) : (c.setPulse n x).eth = c.eth := rfl
@[simp] theorem setPulse_hh (c : Chip) (n : Nat) (x : Pulse) : (c.setPulse n x).hh = c.hh := rfl
@[simp] theorem setPulse_gls (c : Chip) (n : Nat) (x : Pulse) : (c.setPulse n x).gls = c.gls := rfl
@[simp] theorem setPulse_sys (c : Chip) (n : Nat) (x : Pulse) : (c.setPulse n x).sys = c.sys := rfl
@[simp] theorem setPulse_lddMem (c : Chip) (n : Nat) (x : Pulse) : (c.setPulse n x).lddMem = c.lddMem := rfl
@[simp] theorem setPulse_flash (c : Chip) (n : Nat) (x : Pulse) : (c.setPulse n x).flash = c.flash := rfl

@[simp] theorem setGateSt_time (c : Chip) (g : Nat) (x : Gate) : (c.setGateSt g x).time = c.time := rfl
@[simp] theorem setGateSt_ctick (c : Chip) (g : Nat) (x : Gate) : (c.setGateSt g x).ctick = c.ctick := rfl
@[simp] theorem setGateSt_free (c : Chip) (g : Nat) (x : Gate) : (c.setGateSt g x).free = c.free := rfl
@[simp] theorem setGateSt_regs (c : Chip) (g : Nat) (x : Gate) : (c.setGateSt g x).regs = c.regs := rfl
@[simp] theorem setGateSt_hubMem (c : Chip) (g : Nat) (x : Gate) : (c.setGateSt g x).hubMem = c.hubMem := rfl
@[simp] theorem setGateSt_cellMem (c : Chip) (g : Nat) (x : Gate) : (c.setGateSt g x).cellMem = c.cellMem := rfl
@[simp] theorem setGateSt_rdata (c : Chip) (g : Nat) (x : Gate) : (c.setGateSt g x).rdata = c.rdata := rfl
@[simp] theorem setGateSt_latch (c : Chip) (g : Nat) (x : Gate) : (c.setGateSt g x).latch = c.latch := rfl
@[simp] theorem setGateSt_hold (c : Chip) (g : Nat) (x : Gate) : (c.setGateSt g x).hold = c.hold := rfl
@[simp] theorem setGateSt_doms (c : Chip) (g : Nat) (x : Gate) : (c.setGateSt g x).doms = c.doms := rfl
@[simp] theorem setGateSt_pulses (c : Chip) (g : Nat) (x : Gate) : (c.setGateSt g x).pulses = c.pulses := rfl
@[simp] theorem setGateSt_csd (c : Chip) (g : Nat) (x : Gate) : (c.setGateSt g x).csd = c.csd := rfl
@[simp] theorem setGateSt_fire (c : Chip) (g : Nat) (x : Gate) : (c.setGateSt g x).fire = c.fire := rfl
@[simp] theorem setGateSt_lanes (c : Chip) (g : Nat) (x : Gate) : (c.setGateSt g x).lanes = c.lanes := rfl
@[simp] theorem setGateSt_cellLog (c : Chip) (g : Nat) (x : Gate) : (c.setGateSt g x).cellLog = c.cellLog := rfl
@[simp] theorem setGateSt_hubEcc (c : Chip) (g : Nat) (x : Gate) : (c.setGateSt g x).hubEcc = c.hubEcc := rfl
@[simp] theorem setGateSt_cellEcc (c : Chip) (g : Nat) (x : Gate) : (c.setGateSt g x).cellEcc = c.cellEcc := rfl
@[simp] theorem setGateSt_held (c : Chip) (g : Nat) (x : Gate) : (c.setGateSt g x).held = c.held := rfl
@[simp] theorem setGateSt_fnEndHub (c : Chip) (g : Nat) (x : Gate) : (c.setGateSt g x).fnEndHub = c.fnEndHub := rfl
@[simp] theorem setGateSt_fnEndCell (c : Chip) (g : Nat) (x : Gate) : (c.setGateSt g x).fnEndCell = c.fnEndCell := rfl
@[simp] theorem setGateSt_takeDue (c : Chip) (g : Nat) (x : Gate) : (c.setGateSt g x).takeDue = c.takeDue := rfl
@[simp] theorem setGateSt_sent (c : Chip) (g : Nat) (x : Gate) : (c.setGateSt g x).sent = c.sent := rfl
@[simp] theorem setGateSt_trl (c : Chip) (g : Nat) (x : Gate) : (c.setGateSt g x).trl = c.trl := rfl
@[simp] theorem setGateSt_adc (c : Chip) (g : Nat) (x : Gate) : (c.setGateSt g x).adc = c.adc := rfl
@[simp] theorem setGateSt_gth (c : Chip) (g : Nat) (x : Gate) : (c.setGateSt g x).gth = c.gth := rfl
@[simp] theorem setGateSt_td (c : Chip) (g : Nat) (x : Gate) : (c.setGateSt g x).td = c.td := rfl
@[simp] theorem setGateSt_cores (c : Chip) (g : Nat) (x : Gate) : (c.setGateSt g x).cores = c.cores := rfl
@[simp] theorem setGateSt_angin (c : Chip) (g : Nat) (x : Gate) : (c.setGateSt g x).angin = c.angin := rfl
@[simp] theorem setGateSt_blv (c : Chip) (g : Nat) (x : Gate) : (c.setGateSt g x).blv = c.blv := rfl
@[simp] theorem setGateSt_eth (c : Chip) (g : Nat) (x : Gate) : (c.setGateSt g x).eth = c.eth := rfl
@[simp] theorem setGateSt_hh (c : Chip) (g : Nat) (x : Gate) : (c.setGateSt g x).hh = c.hh := rfl
@[simp] theorem setGateSt_gls (c : Chip) (g : Nat) (x : Gate) : (c.setGateSt g x).gls = c.gls := rfl
@[simp] theorem setGateSt_sys (c : Chip) (g : Nat) (x : Gate) : (c.setGateSt g x).sys = c.sys := rfl
@[simp] theorem setGateSt_lddMem (c : Chip) (g : Nat) (x : Gate) : (c.setGateSt g x).lddMem = c.lddMem := rfl
@[simp] theorem setGateSt_flash (c : Chip) (g : Nat) (x : Gate) : (c.setGateSt g x).flash = c.flash := rfl

@[simp] theorem setLane_time (c : Chip) (l : Nat) (x : Lane) : (c.setLane l x).time = c.time := rfl
@[simp] theorem setLane_ctick (c : Chip) (l : Nat) (x : Lane) : (c.setLane l x).ctick = c.ctick := rfl
@[simp] theorem setLane_free (c : Chip) (l : Nat) (x : Lane) : (c.setLane l x).free = c.free := rfl
@[simp] theorem setLane_regs (c : Chip) (l : Nat) (x : Lane) : (c.setLane l x).regs = c.regs := rfl
@[simp] theorem setLane_hubMem (c : Chip) (l : Nat) (x : Lane) : (c.setLane l x).hubMem = c.hubMem := rfl
@[simp] theorem setLane_cellMem (c : Chip) (l : Nat) (x : Lane) : (c.setLane l x).cellMem = c.cellMem := rfl
@[simp] theorem setLane_rdata (c : Chip) (l : Nat) (x : Lane) : (c.setLane l x).rdata = c.rdata := rfl
@[simp] theorem setLane_latch (c : Chip) (l : Nat) (x : Lane) : (c.setLane l x).latch = c.latch := rfl
@[simp] theorem setLane_hold (c : Chip) (l : Nat) (x : Lane) : (c.setLane l x).hold = c.hold := rfl
@[simp] theorem setLane_doms (c : Chip) (l : Nat) (x : Lane) : (c.setLane l x).doms = c.doms := rfl
@[simp] theorem setLane_pulses (c : Chip) (l : Nat) (x : Lane) : (c.setLane l x).pulses = c.pulses := rfl
@[simp] theorem setLane_csd (c : Chip) (l : Nat) (x : Lane) : (c.setLane l x).csd = c.csd := rfl
@[simp] theorem setLane_fire (c : Chip) (l : Nat) (x : Lane) : (c.setLane l x).fire = c.fire := rfl
@[simp] theorem setLane_gates (c : Chip) (l : Nat) (x : Lane) : (c.setLane l x).gates = c.gates := rfl
@[simp] theorem setLane_cellLog (c : Chip) (l : Nat) (x : Lane) : (c.setLane l x).cellLog = c.cellLog := rfl
@[simp] theorem setLane_hubEcc (c : Chip) (l : Nat) (x : Lane) : (c.setLane l x).hubEcc = c.hubEcc := rfl
@[simp] theorem setLane_cellEcc (c : Chip) (l : Nat) (x : Lane) : (c.setLane l x).cellEcc = c.cellEcc := rfl
@[simp] theorem setLane_held (c : Chip) (l : Nat) (x : Lane) : (c.setLane l x).held = c.held := rfl
@[simp] theorem setLane_fnEndHub (c : Chip) (l : Nat) (x : Lane) : (c.setLane l x).fnEndHub = c.fnEndHub := rfl
@[simp] theorem setLane_fnEndCell (c : Chip) (l : Nat) (x : Lane) : (c.setLane l x).fnEndCell = c.fnEndCell := rfl
@[simp] theorem setLane_takeDue (c : Chip) (l : Nat) (x : Lane) : (c.setLane l x).takeDue = c.takeDue := rfl
@[simp] theorem setLane_sent (c : Chip) (l : Nat) (x : Lane) : (c.setLane l x).sent = c.sent := rfl
@[simp] theorem setLane_trl (c : Chip) (l : Nat) (x : Lane) : (c.setLane l x).trl = c.trl := rfl
@[simp] theorem setLane_adc (c : Chip) (l : Nat) (x : Lane) : (c.setLane l x).adc = c.adc := rfl
@[simp] theorem setLane_gth (c : Chip) (l : Nat) (x : Lane) : (c.setLane l x).gth = c.gth := rfl
@[simp] theorem setLane_td (c : Chip) (l : Nat) (x : Lane) : (c.setLane l x).td = c.td := rfl
@[simp] theorem setLane_cores (c : Chip) (l : Nat) (x : Lane) : (c.setLane l x).cores = c.cores := rfl
@[simp] theorem setLane_angin (c : Chip) (l : Nat) (x : Lane) : (c.setLane l x).angin = c.angin := rfl
@[simp] theorem setLane_blv (c : Chip) (l : Nat) (x : Lane) : (c.setLane l x).blv = c.blv := rfl
@[simp] theorem setLane_eth (c : Chip) (l : Nat) (x : Lane) : (c.setLane l x).eth = c.eth := rfl
@[simp] theorem setLane_hh (c : Chip) (l : Nat) (x : Lane) : (c.setLane l x).hh = c.hh := rfl
@[simp] theorem setLane_gls (c : Chip) (l : Nat) (x : Lane) : (c.setLane l x).gls = c.gls := rfl
@[simp] theorem setLane_sys (c : Chip) (l : Nat) (x : Lane) : (c.setLane l x).sys = c.sys := rfl
@[simp] theorem setLane_lddMem (c : Chip) (l : Nat) (x : Lane) : (c.setLane l x).lddMem = c.lddMem := rfl
@[simp] theorem setLane_flash (c : Chip) (l : Nat) (x : Lane) : (c.setLane l x).flash = c.flash := rfl

@[simp] theorem coreUp_time (c : Chip) (k : Nat) (f : Core → Core) : (c.coreUp k f).time = c.time := rfl
@[simp] theorem coreUp_ctick (c : Chip) (k : Nat) (f : Core → Core) : (c.coreUp k f).ctick = c.ctick := rfl
@[simp] theorem coreUp_free (c : Chip) (k : Nat) (f : Core → Core) : (c.coreUp k f).free = c.free := rfl
@[simp] theorem coreUp_regs (c : Chip) (k : Nat) (f : Core → Core) : (c.coreUp k f).regs = c.regs := rfl
@[simp] theorem coreUp_hubMem (c : Chip) (k : Nat) (f : Core → Core) : (c.coreUp k f).hubMem = c.hubMem := rfl
@[simp] theorem coreUp_cellMem (c : Chip) (k : Nat) (f : Core → Core) : (c.coreUp k f).cellMem = c.cellMem := rfl
@[simp] theorem coreUp_rdata (c : Chip) (k : Nat) (f : Core → Core) : (c.coreUp k f).rdata = c.rdata := rfl
@[simp] theorem coreUp_latch (c : Chip) (k : Nat) (f : Core → Core) : (c.coreUp k f).latch = c.latch := rfl
@[simp] theorem coreUp_hold (c : Chip) (k : Nat) (f : Core → Core) : (c.coreUp k f).hold = c.hold := rfl
@[simp] theorem coreUp_doms (c : Chip) (k : Nat) (f : Core → Core) : (c.coreUp k f).doms = c.doms := rfl
@[simp] theorem coreUp_pulses (c : Chip) (k : Nat) (f : Core → Core) : (c.coreUp k f).pulses = c.pulses := rfl
@[simp] theorem coreUp_csd (c : Chip) (k : Nat) (f : Core → Core) : (c.coreUp k f).csd = c.csd := rfl
@[simp] theorem coreUp_fire (c : Chip) (k : Nat) (f : Core → Core) : (c.coreUp k f).fire = c.fire := rfl
@[simp] theorem coreUp_gates (c : Chip) (k : Nat) (f : Core → Core) : (c.coreUp k f).gates = c.gates := rfl
@[simp] theorem coreUp_lanes (c : Chip) (k : Nat) (f : Core → Core) : (c.coreUp k f).lanes = c.lanes := rfl
@[simp] theorem coreUp_cellLog (c : Chip) (k : Nat) (f : Core → Core) : (c.coreUp k f).cellLog = c.cellLog := rfl
@[simp] theorem coreUp_hubEcc (c : Chip) (k : Nat) (f : Core → Core) : (c.coreUp k f).hubEcc = c.hubEcc := rfl
@[simp] theorem coreUp_cellEcc (c : Chip) (k : Nat) (f : Core → Core) : (c.coreUp k f).cellEcc = c.cellEcc := rfl
@[simp] theorem coreUp_held (c : Chip) (k : Nat) (f : Core → Core) : (c.coreUp k f).held = c.held := rfl
@[simp] theorem coreUp_fnEndHub (c : Chip) (k : Nat) (f : Core → Core) : (c.coreUp k f).fnEndHub = c.fnEndHub := rfl
@[simp] theorem coreUp_fnEndCell (c : Chip) (k : Nat) (f : Core → Core) : (c.coreUp k f).fnEndCell = c.fnEndCell := rfl
@[simp] theorem coreUp_takeDue (c : Chip) (k : Nat) (f : Core → Core) : (c.coreUp k f).takeDue = c.takeDue := rfl
@[simp] theorem coreUp_sent (c : Chip) (k : Nat) (f : Core → Core) : (c.coreUp k f).sent = c.sent := rfl
@[simp] theorem coreUp_trl (c : Chip) (k : Nat) (f : Core → Core) : (c.coreUp k f).trl = c.trl := rfl
@[simp] theorem coreUp_adc (c : Chip) (k : Nat) (f : Core → Core) : (c.coreUp k f).adc = c.adc := rfl
@[simp] theorem coreUp_gth (c : Chip) (k : Nat) (f : Core → Core) : (c.coreUp k f).gth = c.gth := rfl
@[simp] theorem coreUp_td (c : Chip) (k : Nat) (f : Core → Core) : (c.coreUp k f).td = c.td := rfl
@[simp] theorem coreUp_angin (c : Chip) (k : Nat) (f : Core → Core) : (c.coreUp k f).angin = c.angin := rfl
@[simp] theorem coreUp_blv (c : Chip) (k : Nat) (f : Core → Core) : (c.coreUp k f).blv = c.blv := rfl
@[simp] theorem coreUp_eth (c : Chip) (k : Nat) (f : Core → Core) : (c.coreUp k f).eth = c.eth := rfl
@[simp] theorem coreUp_hh (c : Chip) (k : Nat) (f : Core → Core) : (c.coreUp k f).hh = c.hh := rfl
@[simp] theorem coreUp_gls (c : Chip) (k : Nat) (f : Core → Core) : (c.coreUp k f).gls = c.gls := rfl
@[simp] theorem coreUp_sys (c : Chip) (k : Nat) (f : Core → Core) : (c.coreUp k f).sys = c.sys := rfl
@[simp] theorem coreUp_lddMem (c : Chip) (k : Nat) (f : Core → Core) : (c.coreUp k f).lddMem = c.lddMem := rfl
@[simp] theorem coreUp_flash (c : Chip) (k : Nat) (f : Core → Core) : (c.coreUp k f).flash = c.flash := rfl

@[simp] theorem setSr_time (c : Chip) (k n v : Nat) : (c.setSr k n v).time = c.time := rfl
@[simp] theorem setSr_ctick (c : Chip) (k n v : Nat) : (c.setSr k n v).ctick = c.ctick := rfl
@[simp] theorem setSr_free (c : Chip) (k n v : Nat) : (c.setSr k n v).free = c.free := rfl
@[simp] theorem setSr_regs (c : Chip) (k n v : Nat) : (c.setSr k n v).regs = c.regs := rfl
@[simp] theorem setSr_hubMem (c : Chip) (k n v : Nat) : (c.setSr k n v).hubMem = c.hubMem := rfl
@[simp] theorem setSr_cellMem (c : Chip) (k n v : Nat) : (c.setSr k n v).cellMem = c.cellMem := rfl
@[simp] theorem setSr_rdata (c : Chip) (k n v : Nat) : (c.setSr k n v).rdata = c.rdata := rfl
@[simp] theorem setSr_latch (c : Chip) (k n v : Nat) : (c.setSr k n v).latch = c.latch := rfl
@[simp] theorem setSr_hold (c : Chip) (k n v : Nat) : (c.setSr k n v).hold = c.hold := rfl
@[simp] theorem setSr_doms (c : Chip) (k n v : Nat) : (c.setSr k n v).doms = c.doms := rfl
@[simp] theorem setSr_pulses (c : Chip) (k n v : Nat) : (c.setSr k n v).pulses = c.pulses := rfl
@[simp] theorem setSr_csd (c : Chip) (k n v : Nat) : (c.setSr k n v).csd = c.csd := rfl
@[simp] theorem setSr_fire (c : Chip) (k n v : Nat) : (c.setSr k n v).fire = c.fire := rfl
@[simp] theorem setSr_gates (c : Chip) (k n v : Nat) : (c.setSr k n v).gates = c.gates := rfl
@[simp] theorem setSr_lanes (c : Chip) (k n v : Nat) : (c.setSr k n v).lanes = c.lanes := rfl
@[simp] theorem setSr_cellLog (c : Chip) (k n v : Nat) : (c.setSr k n v).cellLog = c.cellLog := rfl
@[simp] theorem setSr_hubEcc (c : Chip) (k n v : Nat) : (c.setSr k n v).hubEcc = c.hubEcc := rfl
@[simp] theorem setSr_cellEcc (c : Chip) (k n v : Nat) : (c.setSr k n v).cellEcc = c.cellEcc := rfl
@[simp] theorem setSr_held (c : Chip) (k n v : Nat) : (c.setSr k n v).held = c.held := rfl
@[simp] theorem setSr_fnEndHub (c : Chip) (k n v : Nat) : (c.setSr k n v).fnEndHub = c.fnEndHub := rfl
@[simp] theorem setSr_fnEndCell (c : Chip) (k n v : Nat) : (c.setSr k n v).fnEndCell = c.fnEndCell := rfl
@[simp] theorem setSr_takeDue (c : Chip) (k n v : Nat) : (c.setSr k n v).takeDue = c.takeDue := rfl
@[simp] theorem setSr_sent (c : Chip) (k n v : Nat) : (c.setSr k n v).sent = c.sent := rfl
@[simp] theorem setSr_trl (c : Chip) (k n v : Nat) : (c.setSr k n v).trl = c.trl := rfl
@[simp] theorem setSr_adc (c : Chip) (k n v : Nat) : (c.setSr k n v).adc = c.adc := rfl
@[simp] theorem setSr_gth (c : Chip) (k n v : Nat) : (c.setSr k n v).gth = c.gth := rfl
@[simp] theorem setSr_td (c : Chip) (k n v : Nat) : (c.setSr k n v).td = c.td := rfl
@[simp] theorem setSr_angin (c : Chip) (k n v : Nat) : (c.setSr k n v).angin = c.angin := rfl
@[simp] theorem setSr_blv (c : Chip) (k n v : Nat) : (c.setSr k n v).blv = c.blv := rfl
@[simp] theorem setSr_eth (c : Chip) (k n v : Nat) : (c.setSr k n v).eth = c.eth := rfl
@[simp] theorem setSr_hh (c : Chip) (k n v : Nat) : (c.setSr k n v).hh = c.hh := rfl
@[simp] theorem setSr_gls (c : Chip) (k n v : Nat) : (c.setSr k n v).gls = c.gls := rfl
@[simp] theorem setSr_sys (c : Chip) (k n v : Nat) : (c.setSr k n v).sys = c.sys := rfl
@[simp] theorem setSr_lddMem (c : Chip) (k n v : Nat) : (c.setSr k n v).lddMem = c.lddMem := rfl
@[simp] theorem setSr_flash (c : Chip) (k n v : Nat) : (c.setSr k n v).flash = c.flash := rfl

@[simp] theorem emit_time (c : Chip) (o : Sent) : (c.emit o).time = c.time := rfl
@[simp] theorem emit_ctick (c : Chip) (o : Sent) : (c.emit o).ctick = c.ctick := rfl
@[simp] theorem emit_free (c : Chip) (o : Sent) : (c.emit o).free = c.free := rfl
@[simp] theorem emit_regs (c : Chip) (o : Sent) : (c.emit o).regs = c.regs := rfl
@[simp] theorem emit_hubMem (c : Chip) (o : Sent) : (c.emit o).hubMem = c.hubMem := rfl
@[simp] theorem emit_cellMem (c : Chip) (o : Sent) : (c.emit o).cellMem = c.cellMem := rfl
@[simp] theorem emit_rdata (c : Chip) (o : Sent) : (c.emit o).rdata = c.rdata := rfl
@[simp] theorem emit_latch (c : Chip) (o : Sent) : (c.emit o).latch = c.latch := rfl
@[simp] theorem emit_hold (c : Chip) (o : Sent) : (c.emit o).hold = c.hold := rfl
@[simp] theorem emit_doms (c : Chip) (o : Sent) : (c.emit o).doms = c.doms := rfl
@[simp] theorem emit_pulses (c : Chip) (o : Sent) : (c.emit o).pulses = c.pulses := rfl
@[simp] theorem emit_csd (c : Chip) (o : Sent) : (c.emit o).csd = c.csd := rfl
@[simp] theorem emit_fire (c : Chip) (o : Sent) : (c.emit o).fire = c.fire := rfl
@[simp] theorem emit_gates (c : Chip) (o : Sent) : (c.emit o).gates = c.gates := rfl
@[simp] theorem emit_lanes (c : Chip) (o : Sent) : (c.emit o).lanes = c.lanes := rfl
@[simp] theorem emit_cellLog (c : Chip) (o : Sent) : (c.emit o).cellLog = c.cellLog := rfl
@[simp] theorem emit_hubEcc (c : Chip) (o : Sent) : (c.emit o).hubEcc = c.hubEcc := rfl
@[simp] theorem emit_cellEcc (c : Chip) (o : Sent) : (c.emit o).cellEcc = c.cellEcc := rfl
@[simp] theorem emit_held (c : Chip) (o : Sent) : (c.emit o).held = c.held := rfl
@[simp] theorem emit_fnEndHub (c : Chip) (o : Sent) : (c.emit o).fnEndHub = c.fnEndHub := rfl
@[simp] theorem emit_fnEndCell (c : Chip) (o : Sent) : (c.emit o).fnEndCell = c.fnEndCell := rfl
@[simp] theorem emit_takeDue (c : Chip) (o : Sent) : (c.emit o).takeDue = c.takeDue := rfl
@[simp] theorem emit_trl (c : Chip) (o : Sent) : (c.emit o).trl = c.trl := rfl
@[simp] theorem emit_adc (c : Chip) (o : Sent) : (c.emit o).adc = c.adc := rfl
@[simp] theorem emit_gth (c : Chip) (o : Sent) : (c.emit o).gth = c.gth := rfl
@[simp] theorem emit_td (c : Chip) (o : Sent) : (c.emit o).td = c.td := rfl
@[simp] theorem emit_cores (c : Chip) (o : Sent) : (c.emit o).cores = c.cores := rfl
@[simp] theorem emit_angin (c : Chip) (o : Sent) : (c.emit o).angin = c.angin := rfl
@[simp] theorem emit_blv (c : Chip) (o : Sent) : (c.emit o).blv = c.blv := rfl
@[simp] theorem emit_eth (c : Chip) (o : Sent) : (c.emit o).eth = c.eth := rfl
@[simp] theorem emit_hh (c : Chip) (o : Sent) : (c.emit o).hh = c.hh := rfl
@[simp] theorem emit_gls (c : Chip) (o : Sent) : (c.emit o).gls = c.gls := rfl
@[simp] theorem emit_sys (c : Chip) (o : Sent) : (c.emit o).sys = c.sys := rfl
@[simp] theorem emit_lddMem (c : Chip) (o : Sent) : (c.emit o).lddMem = c.lddMem := rfl
@[simp] theorem emit_flash (c : Chip) (o : Sent) : (c.emit o).flash = c.flash := rfl

@[simp] theorem setHubWord_time (c : Chip) (a v : Nat) : (c.setHubWord a v).time = c.time := rfl
@[simp] theorem setHubWord_ctick (c : Chip) (a v : Nat) : (c.setHubWord a v).ctick = c.ctick := rfl
@[simp] theorem setHubWord_free (c : Chip) (a v : Nat) : (c.setHubWord a v).free = c.free := rfl
@[simp] theorem setHubWord_regs (c : Chip) (a v : Nat) : (c.setHubWord a v).regs = c.regs := rfl
@[simp] theorem setHubWord_cellMem (c : Chip) (a v : Nat) : (c.setHubWord a v).cellMem = c.cellMem := rfl
@[simp] theorem setHubWord_rdata (c : Chip) (a v : Nat) : (c.setHubWord a v).rdata = c.rdata := rfl
@[simp] theorem setHubWord_latch (c : Chip) (a v : Nat) : (c.setHubWord a v).latch = c.latch := rfl
@[simp] theorem setHubWord_hold (c : Chip) (a v : Nat) : (c.setHubWord a v).hold = c.hold := rfl
@[simp] theorem setHubWord_doms (c : Chip) (a v : Nat) : (c.setHubWord a v).doms = c.doms := rfl
@[simp] theorem setHubWord_pulses (c : Chip) (a v : Nat) : (c.setHubWord a v).pulses = c.pulses := rfl
@[simp] theorem setHubWord_csd (c : Chip) (a v : Nat) : (c.setHubWord a v).csd = c.csd := rfl
@[simp] theorem setHubWord_fire (c : Chip) (a v : Nat) : (c.setHubWord a v).fire = c.fire := rfl
@[simp] theorem setHubWord_gates (c : Chip) (a v : Nat) : (c.setHubWord a v).gates = c.gates := rfl
@[simp] theorem setHubWord_lanes (c : Chip) (a v : Nat) : (c.setHubWord a v).lanes = c.lanes := rfl
@[simp] theorem setHubWord_cellLog (c : Chip) (a v : Nat) : (c.setHubWord a v).cellLog = c.cellLog := rfl
@[simp] theorem setHubWord_hubEcc (c : Chip) (a v : Nat) : (c.setHubWord a v).hubEcc = c.hubEcc := rfl
@[simp] theorem setHubWord_cellEcc (c : Chip) (a v : Nat) : (c.setHubWord a v).cellEcc = c.cellEcc := rfl
@[simp] theorem setHubWord_held (c : Chip) (a v : Nat) : (c.setHubWord a v).held = c.held := rfl
@[simp] theorem setHubWord_fnEndHub (c : Chip) (a v : Nat) : (c.setHubWord a v).fnEndHub = c.fnEndHub := rfl
@[simp] theorem setHubWord_fnEndCell (c : Chip) (a v : Nat) : (c.setHubWord a v).fnEndCell = c.fnEndCell := rfl
@[simp] theorem setHubWord_takeDue (c : Chip) (a v : Nat) : (c.setHubWord a v).takeDue = c.takeDue := rfl
@[simp] theorem setHubWord_sent (c : Chip) (a v : Nat) : (c.setHubWord a v).sent = c.sent := rfl
@[simp] theorem setHubWord_trl (c : Chip) (a v : Nat) : (c.setHubWord a v).trl = c.trl := rfl
@[simp] theorem setHubWord_adc (c : Chip) (a v : Nat) : (c.setHubWord a v).adc = c.adc := rfl
@[simp] theorem setHubWord_gth (c : Chip) (a v : Nat) : (c.setHubWord a v).gth = c.gth := rfl
@[simp] theorem setHubWord_td (c : Chip) (a v : Nat) : (c.setHubWord a v).td = c.td := rfl
@[simp] theorem setHubWord_cores (c : Chip) (a v : Nat) : (c.setHubWord a v).cores = c.cores := rfl
@[simp] theorem setHubWord_angin (c : Chip) (a v : Nat) : (c.setHubWord a v).angin = c.angin := rfl
@[simp] theorem setHubWord_blv (c : Chip) (a v : Nat) : (c.setHubWord a v).blv = c.blv := rfl
@[simp] theorem setHubWord_eth (c : Chip) (a v : Nat) : (c.setHubWord a v).eth = c.eth := rfl
@[simp] theorem setHubWord_hh (c : Chip) (a v : Nat) : (c.setHubWord a v).hh = c.hh := rfl
@[simp] theorem setHubWord_gls (c : Chip) (a v : Nat) : (c.setHubWord a v).gls = c.gls := rfl
@[simp] theorem setHubWord_sys (c : Chip) (a v : Nat) : (c.setHubWord a v).sys = c.sys := rfl
@[simp] theorem setHubWord_lddMem (c : Chip) (a v : Nat) : (c.setHubWord a v).lddMem = c.lddMem := rfl
@[simp] theorem setHubWord_flash (c : Chip) (a v : Nat) : (c.setHubWord a v).flash = c.flash := rfl

@[simp] theorem setCellWord_time (c : Chip) (a v : Nat) : (c.setCellWord a v).time = c.time := rfl
@[simp] theorem setCellWord_ctick (c : Chip) (a v : Nat) : (c.setCellWord a v).ctick = c.ctick := rfl
@[simp] theorem setCellWord_free (c : Chip) (a v : Nat) : (c.setCellWord a v).free = c.free := rfl
@[simp] theorem setCellWord_regs (c : Chip) (a v : Nat) : (c.setCellWord a v).regs = c.regs := rfl
@[simp] theorem setCellWord_hubMem (c : Chip) (a v : Nat) : (c.setCellWord a v).hubMem = c.hubMem := rfl
@[simp] theorem setCellWord_rdata (c : Chip) (a v : Nat) : (c.setCellWord a v).rdata = c.rdata := rfl
@[simp] theorem setCellWord_latch (c : Chip) (a v : Nat) : (c.setCellWord a v).latch = c.latch := rfl
@[simp] theorem setCellWord_hold (c : Chip) (a v : Nat) : (c.setCellWord a v).hold = c.hold := rfl
@[simp] theorem setCellWord_doms (c : Chip) (a v : Nat) : (c.setCellWord a v).doms = c.doms := rfl
@[simp] theorem setCellWord_pulses (c : Chip) (a v : Nat) : (c.setCellWord a v).pulses = c.pulses := rfl
@[simp] theorem setCellWord_csd (c : Chip) (a v : Nat) : (c.setCellWord a v).csd = c.csd := rfl
@[simp] theorem setCellWord_fire (c : Chip) (a v : Nat) : (c.setCellWord a v).fire = c.fire := rfl
@[simp] theorem setCellWord_gates (c : Chip) (a v : Nat) : (c.setCellWord a v).gates = c.gates := rfl
@[simp] theorem setCellWord_lanes (c : Chip) (a v : Nat) : (c.setCellWord a v).lanes = c.lanes := rfl
@[simp] theorem setCellWord_cellLog (c : Chip) (a v : Nat) : (c.setCellWord a v).cellLog = c.cellLog := rfl
@[simp] theorem setCellWord_hubEcc (c : Chip) (a v : Nat) : (c.setCellWord a v).hubEcc = c.hubEcc := rfl
@[simp] theorem setCellWord_cellEcc (c : Chip) (a v : Nat) : (c.setCellWord a v).cellEcc = c.cellEcc := rfl
@[simp] theorem setCellWord_held (c : Chip) (a v : Nat) : (c.setCellWord a v).held = c.held := rfl
@[simp] theorem setCellWord_fnEndHub (c : Chip) (a v : Nat) : (c.setCellWord a v).fnEndHub = c.fnEndHub := rfl
@[simp] theorem setCellWord_fnEndCell (c : Chip) (a v : Nat) : (c.setCellWord a v).fnEndCell = c.fnEndCell := rfl
@[simp] theorem setCellWord_takeDue (c : Chip) (a v : Nat) : (c.setCellWord a v).takeDue = c.takeDue := rfl
@[simp] theorem setCellWord_sent (c : Chip) (a v : Nat) : (c.setCellWord a v).sent = c.sent := rfl
@[simp] theorem setCellWord_trl (c : Chip) (a v : Nat) : (c.setCellWord a v).trl = c.trl := rfl
@[simp] theorem setCellWord_adc (c : Chip) (a v : Nat) : (c.setCellWord a v).adc = c.adc := rfl
@[simp] theorem setCellWord_gth (c : Chip) (a v : Nat) : (c.setCellWord a v).gth = c.gth := rfl
@[simp] theorem setCellWord_td (c : Chip) (a v : Nat) : (c.setCellWord a v).td = c.td := rfl
@[simp] theorem setCellWord_cores (c : Chip) (a v : Nat) : (c.setCellWord a v).cores = c.cores := rfl
@[simp] theorem setCellWord_angin (c : Chip) (a v : Nat) : (c.setCellWord a v).angin = c.angin := rfl
@[simp] theorem setCellWord_blv (c : Chip) (a v : Nat) : (c.setCellWord a v).blv = c.blv := rfl
@[simp] theorem setCellWord_eth (c : Chip) (a v : Nat) : (c.setCellWord a v).eth = c.eth := rfl
@[simp] theorem setCellWord_hh (c : Chip) (a v : Nat) : (c.setCellWord a v).hh = c.hh := rfl
@[simp] theorem setCellWord_gls (c : Chip) (a v : Nat) : (c.setCellWord a v).gls = c.gls := rfl
@[simp] theorem setCellWord_sys (c : Chip) (a v : Nat) : (c.setCellWord a v).sys = c.sys := rfl
@[simp] theorem setCellWord_lddMem (c : Chip) (a v : Nat) : (c.setCellWord a v).lddMem = c.lddMem := rfl
@[simp] theorem setCellWord_flash (c : Chip) (a v : Nat) : (c.setCellWord a v).flash = c.flash := rfl

@[simp] theorem on_chip (s : State) (f : Chip → Chip) : (s.on f).chip = f s.chip := rfl
@[simp] theorem on_pending (s : State) (f : Chip → Chip) : (s.on f).pending = s.pending := rfl
@[simp] theorem when_true (c : Chip) (f : Chip → Chip) : c.when true f = f c := rfl
@[simp] theorem when_false (c : Chip) (f : Chip → Chip) : c.when false f = c := rfl

/-- The register word just written. -/
@[simp] theorem reg_setReg_same (c : Chip) (a v : Nat) : (c.setReg a v).reg a = v % 2 ^ 32 := by
  simp [Chip.reg, Chip.setReg]

/-- A write leaves every other register word alone. -/
theorem reg_setReg_ne (c : Chip) {a b : Nat} (v : Nat) (h : b ≠ a) : (c.setReg a v).reg b = c.reg b := by
  simp [Chip.reg, Chip.setReg, Assoc.get_set_ne _ _ _ h]

/-- A field of another register word. -/
theorem fld_setReg_ne (c : Chip) {a : Nat} {f : Fld} (v : Nat) (h : f.addr ≠ a) : (c.setReg a v).fld f = c.fld f := by
  simp [Chip.fld, reg_setReg_ne c v h]

@[simp] theorem dom_setDom_same (c : Chip) (d : Nat) (x : Dom) : (c.setDom d x).dom d = x := by simp [Chip.dom, Chip.setDom]
theorem dom_setDom_ne (c : Chip) {d e : Nat} (x : Dom) (h : e ≠ d) : (c.setDom d x).dom e = c.dom e := by
  simp [Chip.dom, Chip.setDom, Assoc.get_set_ne _ _ _ h]
@[simp] theorem pulse_setPulse_same (c : Chip) (n : Nat) (x : Pulse) : (c.setPulse n x).pulse n = x := by
  simp [Chip.pulse, Chip.setPulse]
theorem pulse_setPulse_ne (c : Chip) {n m : Nat} (x : Pulse) (h : m ≠ n) : (c.setPulse n x).pulse m = c.pulse m := by
  simp [Chip.pulse, Chip.setPulse, Assoc.get_set_ne _ _ _ h]
@[simp] theorem gate_setGateSt_same (c : Chip) (g : Nat) (x : Gate) : (c.setGateSt g x).gate g = x := by
  simp [Chip.gate, Chip.setGateSt]
theorem gate_setGateSt_ne (c : Chip) {g h : Nat} (x : Gate) (n : h ≠ g) : (c.setGateSt g x).gate h = c.gate h := by
  simp [Chip.gate, Chip.setGateSt, Assoc.get_set_ne _ _ _ n]
@[simp] theorem lane_setLane_same (c : Chip) (l : Nat) (x : Lane) : (c.setLane l x).lane l = x := by
  simp [Chip.lane, Chip.setLane]
theorem lane_setLane_ne (c : Chip) {l m : Nat} (x : Lane) (h : m ≠ l) : (c.setLane l x).lane m = c.lane m := by
  simp [Chip.lane, Chip.setLane, Assoc.get_set_ne _ _ _ h]
@[simp] theorem core_coreUp_same (c : Chip) (k : Nat) (f : Core → Core) : (c.coreUp k f).core k = f (c.core k) := by
  simp [Chip.core, Chip.coreUp]
theorem core_coreUp_ne (c : Chip) {k j : Nat} (f : Core → Core) (h : j ≠ k) : (c.coreUp k f).core j = c.core j := by
  simp [Chip.core, Chip.coreUp, Assoc.get_set_ne _ _ _ h]

-- What reads nothing but registers is not moved by an update of other state.

@[simp] theorem reg_setDom (c : Chip) (d : Nat) (x : Dom) (a_ : Nat) : (c.setDom d x).reg a_ = c.reg a_ := rfl
@[simp] theorem fld_setDom (c : Chip) (d : Nat) (x : Dom) (f_ : Fld) : (c.setDom d x).fld f_ = c.fld f_ := rfl
@[simp] theorem flag_setDom (c : Chip) (d : Nat) (x : Dom) (f_ : Fld) : (c.setDom d x).flag f_ = c.flag f_ := rfl
@[simp] theorem reg_setPulse (c : Chip) (n : Nat) (x : Pulse) (a_ : Nat) : (c.setPulse n x).reg a_ = c.reg a_ := rfl
@[simp] theorem fld_setPulse (c : Chip) (n : Nat) (x : Pulse) (f_ : Fld) : (c.setPulse n x).fld f_ = c.fld f_ := rfl
@[simp] theorem flag_setPulse (c : Chip) (n : Nat) (x : Pulse) (f_ : Fld) : (c.setPulse n x).flag f_ = c.flag f_ := rfl
@[simp] theorem reg_setGateSt (c : Chip) (g : Nat) (x : Gate) (a_ : Nat) : (c.setGateSt g x).reg a_ = c.reg a_ := rfl
@[simp] theorem fld_setGateSt (c : Chip) (g : Nat) (x : Gate) (f_ : Fld) : (c.setGateSt g x).fld f_ = c.fld f_ := rfl
@[simp] theorem flag_setGateSt (c : Chip) (g : Nat) (x : Gate) (f_ : Fld) : (c.setGateSt g x).flag f_ = c.flag f_ := rfl
@[simp] theorem reg_setLane (c : Chip) (l : Nat) (x : Lane) (a_ : Nat) : (c.setLane l x).reg a_ = c.reg a_ := rfl
@[simp] theorem fld_setLane (c : Chip) (l : Nat) (x : Lane) (f_ : Fld) : (c.setLane l x).fld f_ = c.fld f_ := rfl
@[simp] theorem flag_setLane (c : Chip) (l : Nat) (x : Lane) (f_ : Fld) : (c.setLane l x).flag f_ = c.flag f_ := rfl
@[simp] theorem reg_coreUp (c : Chip) (k : Nat) (f : Core → Core) (a_ : Nat) : (c.coreUp k f).reg a_ = c.reg a_ := rfl
@[simp] theorem fld_coreUp (c : Chip) (k : Nat) (f : Core → Core) (f_ : Fld) : (c.coreUp k f).fld f_ = c.fld f_ := rfl
@[simp] theorem flag_coreUp (c : Chip) (k : Nat) (f : Core → Core) (f_ : Fld) : (c.coreUp k f).flag f_ = c.flag f_ := rfl
@[simp] theorem reg_setSr (c : Chip) (k n v : Nat) (a_ : Nat) : (c.setSr k n v).reg a_ = c.reg a_ := rfl
@[simp] theorem fld_setSr (c : Chip) (k n v : Nat) (f_ : Fld) : (c.setSr k n v).fld f_ = c.fld f_ := rfl
@[simp] theorem flag_setSr (c : Chip) (k n v : Nat) (f_ : Fld) : (c.setSr k n v).flag f_ = c.flag f_ := rfl
@[simp] theorem reg_emit (c : Chip) (o : Sent) (a_ : Nat) : (c.emit o).reg a_ = c.reg a_ := rfl
@[simp] theorem fld_emit (c : Chip) (o : Sent) (f_ : Fld) : (c.emit o).fld f_ = c.fld f_ := rfl
@[simp] theorem flag_emit (c : Chip) (o : Sent) (f_ : Fld) : (c.emit o).flag f_ = c.flag f_ := rfl
@[simp] theorem reg_setHubWord (c : Chip) (a v : Nat) (a_ : Nat) : (c.setHubWord a v).reg a_ = c.reg a_ := rfl
@[simp] theorem fld_setHubWord (c : Chip) (a v : Nat) (f_ : Fld) : (c.setHubWord a v).fld f_ = c.fld f_ := rfl
@[simp] theorem flag_setHubWord (c : Chip) (a v : Nat) (f_ : Fld) : (c.setHubWord a v).flag f_ = c.flag f_ := rfl
@[simp] theorem reg_setCellWord (c : Chip) (a v : Nat) (a_ : Nat) : (c.setCellWord a v).reg a_ = c.reg a_ := rfl
@[simp] theorem fld_setCellWord (c : Chip) (a v : Nat) (f_ : Fld) : (c.setCellWord a v).fld f_ = c.fld f_ := rfl
@[simp] theorem flag_setCellWord (c : Chip) (a v : Nat) (f_ : Fld) : (c.setCellWord a v).flag f_ = c.flag f_ := rfl
@[simp] theorem dom_setReg (c : Chip) (a v : Nat) (d_ : Nat) : (c.setReg a v).dom d_ = c.dom d_ := rfl
@[simp] theorem dom_setFld (c : Chip) (f : Fld) (x : Nat) (d_ : Nat) : (c.setFld f x).dom d_ = c.dom d_ := rfl
@[simp] theorem dom_raiseFlag (c : Chip) (f : Fld) (d_ : Nat) : (c.raiseFlag f).dom d_ = c.dom d_ := rfl
@[simp] theorem dom_clrFlag (c : Chip) (f : Fld) (d_ : Nat) : (c.clrFlag f).dom d_ = c.dom d_ := rfl
@[simp] theorem dom_setReg64 (c : Chip) (a v : Nat) (d_ : Nat) : (c.setReg64 a v).dom d_ = c.dom d_ := rfl
@[simp] theorem dom_bump (c : Chip) (a : Nat) (d_ : Nat) : (c.bump a).dom d_ = c.dom d_ := rfl
@[simp] theorem dom_plainWrite (c : Chip) (a v : Nat) (d_ : Nat) : (c.plainWrite a v).dom d_ = c.dom d_ := rfl
@[simp] theorem dom_setPulse (c : Chip) (n : Nat) (x : Pulse) (d_ : Nat) : (c.setPulse n x).dom d_ = c.dom d_ := rfl
@[simp] theorem dom_setGateSt (c : Chip) (g : Nat) (x : Gate) (d_ : Nat) : (c.setGateSt g x).dom d_ = c.dom d_ := rfl
@[simp] theorem dom_setLane (c : Chip) (l : Nat) (x : Lane) (d_ : Nat) : (c.setLane l x).dom d_ = c.dom d_ := rfl
@[simp] theorem dom_coreUp (c : Chip) (k : Nat) (f : Core → Core) (d_ : Nat) : (c.coreUp k f).dom d_ = c.dom d_ := rfl
@[simp] theorem dom_setSr (c : Chip) (k n v : Nat) (d_ : Nat) : (c.setSr k n v).dom d_ = c.dom d_ := rfl
@[simp] theorem dom_emit (c : Chip) (o : Sent) (d_ : Nat) : (c.emit o).dom d_ = c.dom d_ := rfl
@[simp] theorem dom_setHubWord (c : Chip) (a v : Nat) (d_ : Nat) : (c.setHubWord a v).dom d_ = c.dom d_ := rfl
@[simp] theorem dom_setCellWord (c : Chip) (a v : Nat) (d_ : Nat) : (c.setCellWord a v).dom d_ = c.dom d_ := rfl
@[simp] theorem pulse_setReg (c : Chip) (a v : Nat) (n_ : Nat) : (c.setReg a v).pulse n_ = c.pulse n_ := rfl
@[simp] theorem pulse_setFld (c : Chip) (f : Fld) (x : Nat) (n_ : Nat) : (c.setFld f x).pulse n_ = c.pulse n_ := rfl
@[simp] theorem pulse_raiseFlag (c : Chip) (f : Fld) (n_ : Nat) : (c.raiseFlag f).pulse n_ = c.pulse n_ := rfl
@[simp] theorem pulse_clrFlag (c : Chip) (f : Fld) (n_ : Nat) : (c.clrFlag f).pulse n_ = c.pulse n_ := rfl
@[simp] theorem pulse_setReg64 (c : Chip) (a v : Nat) (n_ : Nat) : (c.setReg64 a v).pulse n_ = c.pulse n_ := rfl
@[simp] theorem pulse_bump (c : Chip) (a : Nat) (n_ : Nat) : (c.bump a).pulse n_ = c.pulse n_ := rfl
@[simp] theorem pulse_plainWrite (c : Chip) (a v : Nat) (n_ : Nat) : (c.plainWrite a v).pulse n_ = c.pulse n_ := rfl
@[simp] theorem pulse_setDom (c : Chip) (d : Nat) (x : Dom) (n_ : Nat) : (c.setDom d x).pulse n_ = c.pulse n_ := rfl
@[simp] theorem pulse_setGateSt (c : Chip) (g : Nat) (x : Gate) (n_ : Nat) : (c.setGateSt g x).pulse n_ = c.pulse n_ := rfl
@[simp] theorem pulse_setLane (c : Chip) (l : Nat) (x : Lane) (n_ : Nat) : (c.setLane l x).pulse n_ = c.pulse n_ := rfl
@[simp] theorem pulse_coreUp (c : Chip) (k : Nat) (f : Core → Core) (n_ : Nat) : (c.coreUp k f).pulse n_ = c.pulse n_ := rfl
@[simp] theorem pulse_setSr (c : Chip) (k n v : Nat) (n_ : Nat) : (c.setSr k n v).pulse n_ = c.pulse n_ := rfl
@[simp] theorem pulse_emit (c : Chip) (o : Sent) (n_ : Nat) : (c.emit o).pulse n_ = c.pulse n_ := rfl
@[simp] theorem pulse_setHubWord (c : Chip) (a v : Nat) (n_ : Nat) : (c.setHubWord a v).pulse n_ = c.pulse n_ := rfl
@[simp] theorem pulse_setCellWord (c : Chip) (a v : Nat) (n_ : Nat) : (c.setCellWord a v).pulse n_ = c.pulse n_ := rfl
@[simp] theorem gate_setReg (c : Chip) (a v : Nat) (g_ : Nat) : (c.setReg a v).gate g_ = c.gate g_ := rfl
@[simp] theorem gate_setFld (c : Chip) (f : Fld) (x : Nat) (g_ : Nat) : (c.setFld f x).gate g_ = c.gate g_ := rfl
@[simp] theorem gate_raiseFlag (c : Chip) (f : Fld) (g_ : Nat) : (c.raiseFlag f).gate g_ = c.gate g_ := rfl
@[simp] theorem gate_clrFlag (c : Chip) (f : Fld) (g_ : Nat) : (c.clrFlag f).gate g_ = c.gate g_ := rfl
@[simp] theorem gate_setReg64 (c : Chip) (a v : Nat) (g_ : Nat) : (c.setReg64 a v).gate g_ = c.gate g_ := rfl
@[simp] theorem gate_bump (c : Chip) (a : Nat) (g_ : Nat) : (c.bump a).gate g_ = c.gate g_ := rfl
@[simp] theorem gate_plainWrite (c : Chip) (a v : Nat) (g_ : Nat) : (c.plainWrite a v).gate g_ = c.gate g_ := rfl
@[simp] theorem gate_setDom (c : Chip) (d : Nat) (x : Dom) (g_ : Nat) : (c.setDom d x).gate g_ = c.gate g_ := rfl
@[simp] theorem gate_setPulse (c : Chip) (n : Nat) (x : Pulse) (g_ : Nat) : (c.setPulse n x).gate g_ = c.gate g_ := rfl
@[simp] theorem gate_setLane (c : Chip) (l : Nat) (x : Lane) (g_ : Nat) : (c.setLane l x).gate g_ = c.gate g_ := rfl
@[simp] theorem gate_coreUp (c : Chip) (k : Nat) (f : Core → Core) (g_ : Nat) : (c.coreUp k f).gate g_ = c.gate g_ := rfl
@[simp] theorem gate_setSr (c : Chip) (k n v : Nat) (g_ : Nat) : (c.setSr k n v).gate g_ = c.gate g_ := rfl
@[simp] theorem gate_emit (c : Chip) (o : Sent) (g_ : Nat) : (c.emit o).gate g_ = c.gate g_ := rfl
@[simp] theorem gate_setHubWord (c : Chip) (a v : Nat) (g_ : Nat) : (c.setHubWord a v).gate g_ = c.gate g_ := rfl
@[simp] theorem gate_setCellWord (c : Chip) (a v : Nat) (g_ : Nat) : (c.setCellWord a v).gate g_ = c.gate g_ := rfl
@[simp] theorem lane_setReg (c : Chip) (a v : Nat) (l_ : Nat) : (c.setReg a v).lane l_ = c.lane l_ := rfl
@[simp] theorem lane_setFld (c : Chip) (f : Fld) (x : Nat) (l_ : Nat) : (c.setFld f x).lane l_ = c.lane l_ := rfl
@[simp] theorem lane_raiseFlag (c : Chip) (f : Fld) (l_ : Nat) : (c.raiseFlag f).lane l_ = c.lane l_ := rfl
@[simp] theorem lane_clrFlag (c : Chip) (f : Fld) (l_ : Nat) : (c.clrFlag f).lane l_ = c.lane l_ := rfl
@[simp] theorem lane_setReg64 (c : Chip) (a v : Nat) (l_ : Nat) : (c.setReg64 a v).lane l_ = c.lane l_ := rfl
@[simp] theorem lane_bump (c : Chip) (a : Nat) (l_ : Nat) : (c.bump a).lane l_ = c.lane l_ := rfl
@[simp] theorem lane_plainWrite (c : Chip) (a v : Nat) (l_ : Nat) : (c.plainWrite a v).lane l_ = c.lane l_ := rfl
@[simp] theorem lane_setDom (c : Chip) (d : Nat) (x : Dom) (l_ : Nat) : (c.setDom d x).lane l_ = c.lane l_ := rfl
@[simp] theorem lane_setPulse (c : Chip) (n : Nat) (x : Pulse) (l_ : Nat) : (c.setPulse n x).lane l_ = c.lane l_ := rfl
@[simp] theorem lane_setGateSt (c : Chip) (g : Nat) (x : Gate) (l_ : Nat) : (c.setGateSt g x).lane l_ = c.lane l_ := rfl
@[simp] theorem lane_coreUp (c : Chip) (k : Nat) (f : Core → Core) (l_ : Nat) : (c.coreUp k f).lane l_ = c.lane l_ := rfl
@[simp] theorem lane_setSr (c : Chip) (k n v : Nat) (l_ : Nat) : (c.setSr k n v).lane l_ = c.lane l_ := rfl
@[simp] theorem lane_emit (c : Chip) (o : Sent) (l_ : Nat) : (c.emit o).lane l_ = c.lane l_ := rfl
@[simp] theorem lane_setHubWord (c : Chip) (a v : Nat) (l_ : Nat) : (c.setHubWord a v).lane l_ = c.lane l_ := rfl
@[simp] theorem lane_setCellWord (c : Chip) (a v : Nat) (l_ : Nat) : (c.setCellWord a v).lane l_ = c.lane l_ := rfl
@[simp] theorem core_setReg (c : Chip) (a v : Nat) (k_ : Nat) : (c.setReg a v).core k_ = c.core k_ := rfl
@[simp] theorem core_setFld (c : Chip) (f : Fld) (x : Nat) (k_ : Nat) : (c.setFld f x).core k_ = c.core k_ := rfl
@[simp] theorem core_raiseFlag (c : Chip) (f : Fld) (k_ : Nat) : (c.raiseFlag f).core k_ = c.core k_ := rfl
@[simp] theorem core_clrFlag (c : Chip) (f : Fld) (k_ : Nat) : (c.clrFlag f).core k_ = c.core k_ := rfl
@[simp] theorem core_setReg64 (c : Chip) (a v : Nat) (k_ : Nat) : (c.setReg64 a v).core k_ = c.core k_ := rfl
@[simp] theorem core_bump (c : Chip) (a : Nat) (k_ : Nat) : (c.bump a).core k_ = c.core k_ := rfl
@[simp] theorem core_plainWrite (c : Chip) (a v : Nat) (k_ : Nat) : (c.plainWrite a v).core k_ = c.core k_ := rfl
@[simp] theorem core_setDom (c : Chip) (d : Nat) (x : Dom) (k_ : Nat) : (c.setDom d x).core k_ = c.core k_ := rfl
@[simp] theorem core_setPulse (c : Chip) (n : Nat) (x : Pulse) (k_ : Nat) : (c.setPulse n x).core k_ = c.core k_ := rfl
@[simp] theorem core_setGateSt (c : Chip) (g : Nat) (x : Gate) (k_ : Nat) : (c.setGateSt g x).core k_ = c.core k_ := rfl
@[simp] theorem core_setLane (c : Chip) (l : Nat) (x : Lane) (k_ : Nat) : (c.setLane l x).core k_ = c.core k_ := rfl
@[simp] theorem core_emit (c : Chip) (o : Sent) (k_ : Nat) : (c.emit o).core k_ = c.core k_ := rfl
@[simp] theorem core_setHubWord (c : Chip) (a v : Nat) (k_ : Nat) : (c.setHubWord a v).core k_ = c.core k_ := rfl
@[simp] theorem core_setCellWord (c : Chip) (a v : Nat) (k_ : Nat) : (c.setCellWord a v).core k_ = c.core k_ := rfl

end Sys2Proof.Machine
end

