-- ==== Sys2Proof/Laws/Fields.lean ====
section
/-!
SUPPORT. Fields of register words: what a written field reads back as, and that it leaves every other field and word alone.
-/
namespace Sys2Proof.Machine

theorem bits_insert_same (v lo n x : Nat) : bits (insertBits v (lo + n) lo x) (lo + n) lo = x % 2 ^ (n + 1) := by
  unfold bits insertBits
  have e : lo + n + 1 - lo = n + 1 := by omega
  rw [e]
  have p : 2 ^ (lo + n + 1) = 2 ^ lo * 2 ^ (n + 1) := by rw [← Nat.pow_add]; congr 1
  rw [p]
  have hl : v % 2 ^ lo < 2 ^ lo := Nat.mod_lt _ (Nat.two_pow_pos _)
  have hd : (v % 2 ^ lo + x % 2 ^ (n + 1) * 2 ^ lo + v / (2 ^ lo * 2 ^ (n + 1)) * (2 ^ lo * 2 ^ (n + 1))) / 2 ^ lo
      = x % 2 ^ (n + 1) + v / (2 ^ lo * 2 ^ (n + 1)) * 2 ^ (n + 1) := by
    have : v % 2 ^ lo + x % 2 ^ (n + 1) * 2 ^ lo + v / (2 ^ lo * 2 ^ (n + 1)) * (2 ^ lo * 2 ^ (n + 1))
        = v % 2 ^ lo + 2 ^ lo * (x % 2 ^ (n + 1) + v / (2 ^ lo * 2 ^ (n + 1)) * 2 ^ (n + 1)) := by ring
    rw [this, Nat.add_mul_div_left _ _ (Nat.two_pow_pos _), Nat.div_eq_of_lt hl, Nat.zero_add]
  rw [hd, Nat.add_mul_mod_self_right, Nat.mod_mod]

/-- Bit `j` of a word with bits [lo + n : lo] replaced by `x`. -/
theorem testBit_insert (v lo n x j : Nat) :
    (insertBits v (lo + n) lo x).testBit j =
      if lo ≤ j ∧ j ≤ lo + n then x.testBit (j - lo) else v.testBit j := by
  unfold insertBits
  have e : lo + n + 1 - lo = n + 1 := by omega
  rw [e]
  have h1 : v % 2 ^ lo + x % 2 ^ (n + 1) * 2 ^ lo < 2 ^ (lo + n + 1) := by
    have a : v % 2 ^ lo < 2 ^ lo := Nat.mod_lt _ (Nat.two_pow_pos _)
    have b : x % 2 ^ (n + 1) < 2 ^ (n + 1) := Nat.mod_lt _ (Nat.two_pow_pos _)
    have p : 2 ^ (lo + n + 1) = 2 ^ lo * 2 ^ (n + 1) := by rw [← Nat.pow_add]; congr 1
    have m := Nat.mul_le_mul_right (2 ^ lo) (Nat.succ_le_of_lt b)
    rw [p, Nat.mul_comm (2 ^ lo)]
    rw [Nat.succ_mul] at m
    omega
  have hl : v % 2 ^ lo < 2 ^ lo := Nat.mod_lt _ (Nat.two_pow_pos _)
  rw [show v % 2 ^ lo + x % 2 ^ (n + 1) * 2 ^ lo + v / 2 ^ (lo + n + 1) * 2 ^ (lo + n + 1)
      = 2 ^ (lo + n + 1) * (v / 2 ^ (lo + n + 1)) + (v % 2 ^ lo + x % 2 ^ (n + 1) * 2 ^ lo) by ring]
  rw [Nat.testBit_two_pow_mul_add _ h1]
  by_cases hj : j < lo + n + 1
  · rw [if_pos hj]
    rw [show v % 2 ^ lo + x % 2 ^ (n + 1) * 2 ^ lo = 2 ^ lo * (x % 2 ^ (n + 1)) + v % 2 ^ lo by ring]
    rw [Nat.testBit_two_pow_mul_add _ hl]
    by_cases hk : j < lo
    · rw [if_pos hk, if_neg (by omega), Nat.testBit_mod_two_pow]; simp [hk]
    · rw [if_neg hk, if_pos (by omega), Nat.testBit_mod_two_pow]; simp; omega
  · rw [if_neg hj, if_neg (by omega), Nat.testBit_div_two_pow]; congr 1; omega

theorem testBit_bits (v hi lo j : Nat) : (bits v hi lo).testBit j = (decide (j < hi + 1 - lo) && v.testBit (lo + j)) := by
  unfold bits; rw [Nat.testBit_mod_two_pow, Nat.testBit_div_two_pow]; congr 1; congr 1; omega

/-- A field outside the bits replaced. -/
theorem bits_insert_other (v lo n x h' l' : Nat) (d : h' < lo ∨ lo + n < l') :
    bits (insertBits v (lo + n) lo x) h' l' = bits v h' l' := by
  apply Nat.eq_of_testBit_eq
  intro j
  rw [testBit_bits, testBit_bits, testBit_insert]
  by_cases hj : j < h' + 1 - l'
  · simp only [hj, decide_true, Bool.true_and]; rw [if_neg (by omega)]
  · simp [hj]

theorem insertBits_lt (v lo n x : Nat) (hv : v < 2 ^ 32) (h : lo + n < 32) : insertBits v (lo + n) lo x < 2 ^ 32 := by
  apply Nat.lt_pow_two_of_testBit
  intro i hi
  rw [testBit_insert, if_neg (by omega)]
  exact Nat.testBit_lt_two_pow (Nat.lt_of_lt_of_le hv (Nat.pow_le_pow_right (by omega) hi))

theorem reg_lt (c : Chip) (a : Nat) : c.reg a < 2 ^ 32 := (Assoc.get regReset c.regs a).isLt

/-- A well placed field: its bits lie in a register word. -/
def Fld.ok (f : Fld) : Bool := decide (f.lo ≤ f.hi) && decide (f.hi < 32)

/-- The word of a field just written. -/
theorem reg_setFld_same (c : Chip) (f : Fld) (x : Nat) (h : f.ok = true) :
    (c.setFld f x).reg f.addr = insertBits (c.reg f.addr) f.hi f.lo x := by
  simp only [Fld.ok, Bool.and_eq_true, decide_eq_true_eq] at h
  obtain ⟨n, hn⟩ := Nat.exists_eq_add_of_le h.1
  unfold Chip.setFld
  rw [reg_setReg_same, hn, Nat.mod_eq_of_lt (insertBits_lt _ _ _ _ (reg_lt c _) (by omega))]

/-- A field just written. -/
theorem fld_setFld_same (c : Chip) (f : Fld) (x : Nat) (h : f.ok = true) :
    (c.setFld f x).fld f = x % 2 ^ (f.hi + 1 - f.lo) := by
  have h' := h
  simp only [Fld.ok, Bool.and_eq_true, decide_eq_true_eq] at h'
  unfold Chip.fld
  rw [reg_setFld_same c f x h]
  obtain ⟨n, hn⟩ := Nat.exists_eq_add_of_le h'.1
  rw [hn, bits_insert_same]; congr 2; omega

/-- A written field leaves every other word alone. -/
theorem reg_setFld_ne (c : Chip) (f : Fld) (x : Nat) {a : Nat} (h : a ≠ f.addr) : (c.setFld f x).reg a = c.reg a :=
  reg_setReg_ne c _ h

theorem fld_setFld_addr (c : Chip) (f e : Fld) (x : Nat) (h : e.addr ≠ f.addr) : (c.setFld f x).fld e = c.fld e := by
  unfold Chip.fld; rw [reg_setFld_ne c f x h]

/-- A written field leaves every other field of its word alone. -/
theorem fld_setFld_bits (c : Chip) (f e : Fld) (x : Nat) (h : f.ok = true) (ha : e.addr = f.addr) (d : e.hi < f.lo ∨ f.hi < e.lo) :
    (c.setFld f x).fld e = c.fld e := by
  have h' := h
  simp only [Fld.ok, Bool.and_eq_true, decide_eq_true_eq] at h'
  obtain ⟨n, hn⟩ := Nat.exists_eq_add_of_le h'.1
  unfold Chip.fld
  rw [ha, reg_setFld_same c f x h, hn, bits_insert_other]
  omega

theorem fld_setFld_other (c : Chip) (f e : Fld) (x : Nat) (h : f.ok = true)
    (d : e.addr ≠ f.addr ∨ e.hi < f.lo ∨ f.hi < e.lo) : (c.setFld f x).fld e = c.fld e := by
  by_cases ha : e.addr = f.addr
  · exact fld_setFld_bits c f e x h ha (d.resolve_left (by simpa using ha))
  · exact fld_setFld_addr c f e x ha

theorem flag_raise_same (c : Chip) (f : Fld) (h : f.ok = true) : (c.raiseFlag f).flag f = true := by
  have h' := h
  simp only [Fld.ok, Bool.and_eq_true, decide_eq_true_eq] at h'
  unfold Chip.raiseFlag Chip.flag
  rw [fld_setFld_same c f 1 h, Nat.mod_eq_of_lt]; rfl
  exact Nat.one_lt_two_pow (by omega)

theorem flag_clr_same (c : Chip) (f : Fld) (h : f.ok = true) : (c.clrFlag f).flag f = false := by
  unfold Chip.clrFlag Chip.flag
  rw [fld_setFld_same c f 0 h]; simp

theorem flag_setFld_other (c : Chip) (f e : Fld) (x : Nat) (h : f.ok = true)
    (d : e.addr ≠ f.addr ∨ e.hi < f.lo ∨ f.hi < e.lo) : (c.setFld f x).flag e = c.flag e := by
  unfold Chip.flag; rw [fld_setFld_other c f e x h d]

theorem reg64_setReg64_same (c : Chip) (a v : Nat) : (c.setReg64 a v).reg64 a = v % 2 ^ 64 := by
  unfold Chip.reg64 Chip.setReg64
  rw [reg_setReg_same, reg_setReg_ne _ _ (by omega), reg_setReg_same]; omega

theorem reg_setReg64_ne (c : Chip) (a v : Nat) {b : Nat} (h : b ≠ a) (h' : b ≠ a + 4) : (c.setReg64 a v).reg b = c.reg b := by
  unfold Chip.setReg64; rw [reg_setReg_ne _ _ h', reg_setReg_ne _ _ h]

end Sys2Proof.Machine
end

