-- ==== Sys2Proof/Laws/Cores.lean ====
section
/-!
SUPPORT. What the shared operations of a core can do: issue, a general register written, the next instruction.
-/
namespace Sys2Proof.Machine

theorem onlyCore_refl (c : Chip) (k : Nat) (l : List Nat) : c.onlyCore c k l := by
  simp [Chip.onlyCore, Chip.regsBut]

theorem onlyCore_trans {c d e : Chip} {k : Nat} {l : List Nat} (h : c.onlyCore d k l) (h' : d.onlyCore e k l) :
    c.onlyCore e k l := by
  obtain ⟨h1, h2, h3, h4, h5⟩ := h
  obtain ⟨g1, g2, g3, g4, g5⟩ := h'
  refine ⟨?_, fun a ha => (g2 a ha).trans (h2 a ha), fun j hj => (g3 j hj).trans (h3 j hj), ?_,
    fun n a b d' => (g5 n a b d').trans (h5 n a b d')⟩
  · rw [g1, h1]
  · rw [g4, h4]

theorem onlyCore_mono {c d : Chip} {k : Nat} {l m : List Nat} (s : ∀ n ∈ l, n ∈ m) (h : c.onlyCore d k l) : c.onlyCore d k m :=
  ⟨h.1, h.2.1, h.2.2.1, h.2.2.2.1, fun n hn => h.2.2.2.2 n fun x => hn (s n x)⟩

@[simp] theorem core_setPc (c : Chip) (k v j : Nat) : (c.setPc k v).core j = c.core j := rfl

theorem onlyCore_setPc (c : Chip) (k v : Nat) (l : List Nat) : c.onlyCore (c.setPc k v) k l := by
  refine ⟨rfl, ?_, fun _ _ => rfl, rfl, fun _ _ _ _ => rfl⟩
  intro a ha
  exact reg_setReg_ne c v (by simpa using ha)

theorem pc_setPc (c : Chip) (k v : Nat) : (c.setPc k v).pc k = v % 2 ^ 32 := reg_setReg_same c _ v

theorem onlyCore_setSr (c : Chip) (k n v : Nat) {l : List Nat} (h : n ∈ l ∨ n = 0x12 ∨ n = 0x15) : c.onlyCore (c.setSr k n v) k l := by
  refine ⟨rfl, fun _ _ => rfl, fun j hj => by simp [Chip.setSr, core_coreUp_ne _ _ hj], by simp [Chip.setSr], ?_⟩
  intro m hm h1 h2
  simp only [Chip.sr, Chip.setSr, core_coreUp_same]
  rw [Assoc.get_set_ne]
  rintro rfl
  rcases h with h | h | h
  · exact hm h
  · exact h1 h
  · exact h2 h

theorem onlyCore_setG (c : Chip) (k n : Nat) (v : Word) (l : List Nat) : c.onlyCore (c.setG k n v) k l := by
  unfold Chip.setG
  split
  · exact onlyCore_refl c k l
  · exact ⟨rfl, fun _ _ => rfl, fun j hj => core_coreUp_ne c _ hj, by simp, fun m _ _ _ => by simp [Chip.sr]⟩

/-- A general register just written. -/
theorem wroteG_setG (c : Chip) (k rd : Nat) (v : Word) : c.wroteG (c.setG k rd v) k rd v := by
  intro n
  unfold Chip.g Chip.setG
  by_cases hn : n = 0
  · simp [hn]
  · by_cases hr : rd = 0
    · subst hr; simp [hn]
    · simp only [hn, hr, if_false, core_coreUp_same]
      split
      · next h => subst h; simp
      · next h => rw [Assoc.get_set_ne _ _ _ h]

theorem g_of_core {c d : Chip} {k : Nat} (h : (d.core k).g = (c.core k).g) (n : Nat) : d.g k n = c.g k n := by simp [Chip.g, h]

/-- One level of the loops at an address: only its count moves. -/
theorem loopBack_spec (c : Chip) (k p lc le : Nat) (h : lc = 0x12 ∨ lc = 0x15) :
    c.onlyCore (c.loopBack k p lc le).2 k [] ∧ ((c.loopBack k p lc le).2.core k).g = (c.core k).g ∧ (c.loopBack k p lc le).2.regs = c.regs := by
  unfold Chip.loopBack
  split
  · exact ⟨onlyCore_setSr c k _ _ (Or.inr h), by simp [Chip.setSr], rfl⟩
  · exact ⟨onlyCore_refl c k [], rfl, rfl⟩

/-- Completing an instruction moves the program counter and the counts of the loops, and nothing else. -/
theorem seq_spec (c : Chip) (k : Nat) : c.onlyCore (c.seq k) k [] ∧ ((c.seq k).core k).g = (c.core k).g := by
  unfold Chip.seq
  have h1 := loopBack_spec c k (c.pc k) 0x15 0x14 (Or.inr rfl)
  have h0 := loopBack_spec (c.loopBack k (c.pc k) 0x15 0x14).2 k (c.pc k) 0x12 0x11 (Or.inl rfl)
  dsimp only
  split
  · exact ⟨onlyCore_trans h1.1 (onlyCore_setPc _ _ _ _), by simpa using h1.2.1⟩
  · split <;> exact ⟨onlyCore_trans (onlyCore_trans h1.1 h0.1) (onlyCore_setPc _ _ _ _), by simpa using h0.2.1.trans h1.2.1⟩

theorem eccWord_zero (c : Chip) (cell : Bool) (a : Nat) (h : (c.eccWord cell a).1 = 0) : (c.eccWord cell a).2 = c := by
  unfold Chip.eccWord at h ⊢
  dsimp only at h ⊢
  split at h <;> simp_all

/-- A core that can issue carries the instruction out, and then looks for a stop. -/
theorem issue_eq (c : Chip) (k : Nat) (f : Chip → Chip) (h : c.canIssue k = true) : c.issue k f = (f c).boundary k := by
  simp only [Chip.canIssue, Bool.and_eq_true, beq_iff_eq] at h
  unfold Chip.issue
  simp [h.1.1.1.1, h.1.2, h.2, eccWord_zero c _ _ h.2]

/-- No stop is due after an instruction that left the core's control as it was. -/
theorem boundary_eq (c : Chip) (k : Nat) (h1 : (c.core k).stepping = false) (h2 : (c.core k).holdReq = false) : c.boundary k = c := by
  unfold Chip.boundary
  simp [h1, h2]

theorem canIssue_core {c : Chip} {k : Nat} (h : c.canIssue k = true) : (c.core k).stepping = false ∧ (c.core k).holdReq = false := by
  simp only [Chip.canIssue, Bool.and_eq_true, Bool.not_eq_true'] at h
  exact ⟨h.1.1.1.2, h.1.1.2⟩

theorem boundary_only {c d : Chip} {k : Nat} {l : List Nat} (h : c.canIssue k = true) (o : c.onlyCore d k l) : d.boundary k = d := by
  obtain ⟨h1, h2⟩ := canIssue_core h
  apply boundary_eq <;> rw [o.2.2.2.1] <;> assumption

/-- What an instruction that writes one register and goes on does. -/
theorem issue_setG_seq (c : Chip) (k rd : Nat) (v : Chip → Word) (h : c.canIssue k = true) :
    c.onlyCore (c.issue k fun c => (c.setG k rd (v c)).seq k) k [] ∧
      c.wroteG (c.issue k fun c => (c.setG k rd (v c)).seq k) k rd (v c) := by
  rw [issue_eq c k _ h]
  have o := onlyCore_trans (onlyCore_setG c k rd (v c) []) (seq_spec (c.setG k rd (v c)) k).1
  rw [boundary_only h o]
  exact ⟨o, fun n => (g_of_core (seq_spec (c.setG k rd (v c)) k).2 n).trans (wroteG_setG c k rd (v c) n)⟩

/-- A Kiosk has every instruction. -/
theorem kioskOnly_eq (c : Chip) (k : Fin 16) (f : Chip → Chip) : c.kioskOnly k f = f c := by
  unfold Chip.kioskOnly isShed; have := k.isLt; simp; omega

theorem wrotePair_setPair (c : Chip) (k rd : Nat) (v : DWord) (h : rd % 2 = 0) : c.wrotePair (c.setPair k rd v) k rd v := by
  intro n
  unfold Chip.setPair
  by_cases h0 : rd = 0
  · simp [h0]
  · simp only [h0, if_false]
    rw [wroteG_setG _ k (rd+1) _ n, wroteG_setG _ k rd _ n]
    by_cases hn : n = 0
    · subst hn; simp [Ne.symm h0, Chip.g]
    · by_cases h1 : n = rd + 1
      · subst h1; simp
      · by_cases h2 : n = rd <;> simp [hn, h1, h2, h0]

theorem onlyCore_setPair (c : Chip) (k rd : Nat) (v : DWord) : c.onlyCore (c.setPair k rd v) k [] := by
  unfold Chip.setPair; split
  · exact onlyCore_refl c k []
  · exact onlyCore_trans (onlyCore_setG _ _ _ _ _) (onlyCore_setG _ _ _ _ _)

theorem sr_setSr_same (c : Chip) (k n v : Nat) : (c.setSr k n v).sr k n = v % 2^32 := by simp [Chip.sr, Chip.setSr]
theorem srFrame_seq (c : Chip) (k n : Nat) (h : n ≠ 0x12) (h' : n ≠ 0x15) : (c.seq k).sr k n = c.sr k n := (seq_spec c k).1.2.2.2.2 n (by simp) h h'
theorem g_setSr (c : Chip) (k n v j m : Nat) : (c.setSr k n v).g j m = c.g j m := by
  unfold Chip.g; split
  · rfl
  · by_cases h : j = k
    · subst h; simp [Chip.setSr]
    · simp [Chip.setSr, core_coreUp_ne _ _ h]
theorem sr_setG (c : Chip) (k n j m : Nat) (v : Word) : (c.setG k n v).sr j m = c.sr j m := by
  unfold Chip.setG; split
  · rfl
  · by_cases h : j = k
    · subst h; simp [Chip.sr]
    · simp [Chip.sr, core_coreUp_ne _ _ h]


end Sys2Proof.Machine
end

