-- ==== Sys2Proof/WellFormed.lean ====
section
/-!
DEFINITION. Which commands are well formed: what the interfaces of the chipset can bring about. The meanings are total and do not ask it.
-/
namespace Sys2Proof

/-- A message as a lane carries it: whole data blocks, at most 2,048 bytes (R211, R212). -/
def Message.wf (m : Message) : Bool := m.data.length == m.len.toNat || (m.data.length % 8 == 0 && m.data.length ≤ 2048)

/-- A frame: eight header words (Table 10-1), and a time extension of 32 bytes or none (Table 11-3). -/
def Frame.wf (f : Frame) : Bool := f.hdr.length == 8 && (f.ext.isEmpty || f.ext.length == 32)

/-- A HELLO: as many ports of arrival as hops, plane-local ports, one neighbour for each (Table 10-5). -/
def Hello.wf (h : Hello) : Bool :=
  h.path.length == h.hops.toNat && h.path.all (fun p => p < 6) && h.nbr.length == 6

/-- A GATHER frame lists the lanes of one hub, each once (Table 5-4). -/
def GatherFrame.wf (f : GatherFrame) : Bool :=
  f.keysC.length + f.keysD.length ≤ 192 && (f.keysC ++ f.keysD).all (fun x => x.2.toNat < 192)

/-- A RANKS frame ranks the lanes of one hub (Table 5-4). -/
def RanksFrame.wf (f : RanksFrame) : Bool := f.ranksC.length + f.ranksD.length ≤ 192

/-- The command is one that the chipset can meet. -/
def Instr.wf : Instr → Bool
  | .registerWrite _ addr _ => addr.toNat % 4 == 0
  | .regAccessBadSize _ addr size _ => !(size.val == 4 && addr.toNat % 4 == 0)
  | .wideReadLatch _ addr => addr.toNat % 4 == 0
  | .wideWriteHold _ addr _ => addr.toNat % 4 == 0
  | .wideWriteApply _ addr _ => addr.toNat % 4 == 0
  | .measFrame _ f => f.wf
  | .gather f => f.wf
  | .ranks f => f.wf
  | .imemHostWrite _ addr _ => addr.toNat % 4 == 0
  | .regWr _ m => m.wf
  | .regRd _ m => m.wf
  | .regRsp _ m => m.wf
  | .mailbox _ m => m.wf
  | .log _ m => m.wf
  | .frame _ f _ => f.wf
  | .msg _ f => f.wf
  | .hello _ h => h.wf
  | .assign _ _ _ path => path.length ≤ 15 && path.all (fun p => p < 6)
  | .rtload off ws _ => off.toNat % 4 == 0 && !ws.isEmpty
  | .acctWrite _ addr _ => addr.toNat % 4 == 0
  | .ethRx _ fr _ _ => 14 ≤ fr.length
  | .conversionEnd _ refin _ => 0 < refin
  | .imageWrite _ m => m.wf
  | .imageCheck _ m => m.wf
  | .imageSwap _ m => m.wf
  | .imageStatus _ m => m.wf
  | .load .. | .step .. | .armInc .. | .cancelInc .. | .slew .. | .cancelSlew .. | .incWrite .. | .incChangeDue ..
  | .slewEnd .. | .snap .. | .arm .. | .disarm .. | .pulseStart .. | .pulseEnd .. | .pllLockLoss | .replicaIncWrite ..
  | .stepFt .. | .stepAng .. | .loadFt .. | .loadAng .. | .syncEpoch .. | .syncFt .. | .syncAng .. | .syncLost
  | .anginEdge .. | .chatterWindow .. | .los .. | .ictlWrite .. | .vec .. | .order .. | .repair .. | .commit ..
  | .abort .. | .commitDeadline | .executionInstant | .stall | .gateOnEdge .. | .vernierEnd | .slotStart | .report ..
  | .event .. | .meas .. | .fcstFrame .. | .mergeComplete .. | .gatherDeadline .. | .scatterDeadline .. | .commitFrame ..
  | .commitTest .. | .abortx .. | .reseed .. | .blvEn .. | .deblock .. | .modeWrite .. | .periodBoundary | .pwmCompare ..
  | .sealPer .. | .sealCmp .. | .evctlWrite .. | .blankWindowEnd .. | .haltReq .. | .halt .. | .resume .. | .debugStep ..
  | .coreRst .. | .run .. | .kpcWrite .. | .clkStop | .clockReturn | .slotGridWrite .. | .lctlWrite .. | .activeWrite ..
  | .add .. | .sub .. | .and .. | .or .. | .xor .. | .nor .. | .slt .. | .sltu .. | .sll .. | .srl .. | .sra ..
  | .slli .. | .srli .. | .srai .. | .mul .. | .mulh .. | .mulhu .. | .div .. | .divu .. | .remS .. | .remu .. | .min ..
  | .max .. | .minu .. | .maxu .. | .adds .. | .subs .. | .clz .. | .abs .. | .addi .. | .andi .. | .ori .. | .xori ..
  | .slti .. | .sltiu .. | .lui .. | .fadd .. | .fsub .. | .fmul .. | .fdiv .. | .fsqrt .. | .fmin .. | .fmax ..
  | .fmac .. | .fmsb .. | .fcmpq .. | .fcmps .. | .ftoi .. | .ftou .. | .itof .. | .utof .. | .fneg .. | .fabs ..
  | .fclass .. | .padd .. | .psub .. | .pmul .. | .pmulw .. | .pmulwu .. | .psll .. | .psrl .. | .psra .. | .pslt ..
  | .psltu .. | .mfs .. | .mts .. | .lb .. | .lbu .. | .lh .. | .lhu .. | .lw .. | .ld .. | .sb .. | .sh .. | .sw ..
  | .sd .. | .swapw .. | .addw .. | .beq .. | .bne .. | .blt .. | .bge .. | .bltu .. | .bgeu .. | .jal .. | .jalr ..
  | .loop .. | .loopi .. | .nop .. | .fence .. | .wfi .. | .wfiWake .. | .ecall .. | .ebreak .. | .rete .. | .di ..
  | .ei .. | .interruptEntry .. | .doorbell .. | .timer .. | .tmw .. | .tmwWake .. | .angw .. | .angwWake .. | .send ..
  | .mcst .. | .transmitAccept .. | .recv .. | .recvWake .. | .fcst .. | .tord .. | .cmit .. | .abrt .. | .ckpt ..
  | .vrfy .. | .cmtk .. | .roll .. | .specWatchdog .. | .txSlot .. | .balanceReceive .. | .unknownBlock ..
  | .strayDataBlock .. | .syncSend | .lockAcquired .. | .lockLoss .. | .signalLoss .. | .linkDownTimeout .. | .en ..
  | .cap .. | .capxTimeout .. | .propose .. | .proposeRepeat .. | .accept .. | .rateSwitch .. | .huntTimeout ..
  | .adaptEnd .. | .fallback .. | .up .. | .fomUpdate .. | .berWindow .. | .enterL1 .. | .enterL2 .. | .l2Req ..
  | .l2Ack .. | .l2Nak .. | .wake .. | .signalDetect .. | .l2ExitTimeout .. | .retrain .. | .test .. | .checkerLock ..
  | .injOnce .. | .msgSend .. | .mrxDone .. | .mbxTxGo .. | .frameTxStart .. | .earlyEof .. | .helloSend | .nbrTimeout ..
  | .leadChoice | .leadLost | .rediscover | .swapcmd .. | .swap | .tableSwap | .reroute | .alloc ..
  | .free .. | .probeSend .. | .probe .. | .echo .. | .probeTimeout .. | .prbctlWrite .. | .tsyncSend | .tsync ..
  | .tsLost .. | .uncalLong | .tannSend | .tann .. | .pathGo .. | .pathreq .. | .pathrsp .. | .pathTimeout | .tresRead ..
  | .etxdSubmit .. | .ethTxDone .. | .erxqRead .. | .etxtsRead .. | .mdioGo .. | .actlWrite .. | .go | .tdlyExpiry
  | .tperExpiry | .injGo | .injectionStart | .fifoClr | .fifoRead .. | .refSettled | .refLost
  | .gateRb .. | .drvstEdge .. | .dpolWrite .. | .bypGo | .bypfAssert | .bypfForced | .bypcAssert | .bypfRelease
  | .bypcRelease | .bypNoclose | .contactSample .. | .cinChatterWindow | .disc .. | .discRst .. | .vauxDip | .vauxRise
  | .vauxUv | .vauxOk | .faultNPulseEnd .. | .faultnIn .. | .release .. | .take | .tkctlWrite .. | .tklistWrite ..
  | .cstateWrite .. | .entryWrite .. | .logcmdSend .. | .injWrite .. | .safetyFrameSend | .safetyCopy .. | .setBroken ..
  | .copyWindowExpiry .. | .safetyWatchdog .. | .rqFall .. | .rqRise .. | .rqLevelTimer .. | .sbkReq .. | .slv
  | .slvTest .. | .sliTimeout .. | .sddMaskCheck .. | .sstop .. | .sinDisc | .rcOscStop | .recorderEntry ..
  | .postComplete .. | .holdoffExpiry .. | .gap .. | .force .. | .recorderRelease .. | .xtrig .. | .trigAt ..
  | .cctlWrite .. | .lddEn .. | .trainingDone .. | .mr4Read .. | .bootGo | .bootDone | .qcmdGo .. | .otpcmdGo ..
  | .pcieLinkDown | .msixUnmask .. | .confirm | .bootWdExpiry | .jtagBypass .. | .idcode .. | .samplePreload ..
  | .extest .. | .clamp .. | .highz .. | .porN | .supervisorReset | .rstN .. | .cold .. | .warm .. | .wdtWrite ..
  | .watchdogExpiry | .resetRelease .. | .vbor | .vwake | .vwarn .. | .lodgeReset | .vbakLow | .keepRead ..
  | .tempHigh .. | .pllLock | .invalidHeader .. | .adaptTimeout .. | .pcieLinkUp .. | .ethLink ..
  | .illegalInstruction .. | .refReturn => true

end Sys2Proof
end

