-- ==== Sys2Proof/Tests/Slice0.lean ====
section
/-!
SUPPORT. The model's own tests: well-formedness refuses what it should; words, check codes and single steps against the spec's own examples;
and for every statement with hypotheses, for each of its clauses, a concrete state and operands that meet them.
-/
set_option maxRecDepth 20000
set_option Elab.async false
namespace Sys2Proof.Tests
open Sys2Proof Sys2Proof.Machine

/-- The state right after reset, with another chipset. -/
def onReset (c : Chip) : State := { State.reset with chip := c }

/-- What a command leaves of the chipset (the state itself where it stops). -/
def after (i : Instr) (s : State) : Chip := match exec i s with
  | .next t => t.chip
  | _ => s.chip

/-! ### Well-formed commands -/

theorem test_wf_message : Message.wf { len := 3, seq := 0, data := [1, 2, 3], crc := 0 } = true ∧
    Message.wf { len := 3, seq := 0, data := [1, 2], crc := 0 } = false := by decide +kernel
theorem test_wf_frame_header : Frame.wf { hdr := [0, 0, 0, 0, 0, 0, 0], ext := [], payload := [], crc := 0 } = false := by decide +kernel
theorem test_wf_frame_extension : Frame.wf { hdr := [0, 0, 0, 0, 0, 0, 0, 0], ext := [1], payload := [], crc := 0 } = false := by decide +kernel
def hello (path : List Nat) : Hello :=
  { serial := 0, flags := 0, nodeId := 0, prefId := 0, epoch := 0, hops := 1, path := path, nbr := [0, 0, 0, 0, 0, 0], member := 0, seq := 0 }
theorem test_wf_hello : (hello [7]).wf = false ∧ (hello []).wf = false ∧ (hello [5]).wf = true := by decide +kernel
theorem test_wf_register_address : Instr.wf (.registerWrite .host 0x400002 0) = false ∧ Instr.wf (.registerWrite .host 0x400004 0) = true := by
  decide +kernel
theorem test_wf_bad_size : Instr.wf (.regAccessBadSize .host 0x400004 4 true) = false ∧ Instr.wf (.regAccessBadSize .host 0x400004 8 true) = true := by
  decide +kernel
theorem test_wf_wide : Instr.wf (.wideReadLatch .host 1) = false ∧ Instr.wf (.wideWriteHold .host 2 0) = false ∧
    Instr.wf (.wideWriteApply .host 3 0) = false := by decide +kernel
theorem test_wf_conversion : Instr.wf (.conversionEnd 0 0 false) = false ∧ Instr.wf (.conversionEnd 0 2500000 false) = true := by decide +kernel
theorem test_wf_assign : Instr.wf (.assign 0 0 0 [6]) = false ∧ Instr.wf (.assign 0 0 0 [5, 0]) = true := by decide +kernel
theorem test_wf_rtload : Instr.wf (.rtload 0x3002 [0] false) = false ∧ Instr.wf (.rtload 0x3000 [] false) = false := by decide +kernel
theorem test_wf_eth : Instr.wf (.ethRx 0 [1, 2] true 0) = false := by decide +kernel
theorem test_wf_imem : Instr.wf (.imemHostWrite 0 2 0) = false := by decide +kernel
theorem test_wf_gather : GatherFrame.wf ⟨0, 0, 0, [(0, 192)], [], true⟩ = false := by decide +kernel
theorem test_wf_ranks : RanksFrame.wf ⟨0, List.replicate 193 0, [], true⟩ = false := by decide +kernel
theorem test_wf_reg_message : Instr.wf (.regWr .la { len := 3, seq := 0, data := [1, 2], crc := 0 }) = false := by decide +kernel

/-! ### Instruction words, from the worked examples of the spec (07 and 08) -/

theorem test_word_loop (c : CoreId) : ovDecode c 0xA0040003 = some (.loop c false 4 3) := rfl
theorem test_word_lw (c : CoreId) : ovDecode c 0x50C20000 = some (.lw c 6 2 0) := rfl
theorem test_word_addi (c : CoreId) : ovDecode c 0x08420004 = some (.addi c 2 2 4) := rfl
theorem test_word_add (c : CoreId) : ovDecode c 0x04A53000 = some (.add c 5 5 6) := rfl
theorem test_word_ckpt (c : CoreId) : ovDecode c 0xE6800010 = some (.ckpt c 20 16) := rfl
theorem test_word_cmit (c : CoreId) : ovDecode c 0xDC0A5800 = some (.cmit c 10 11) := rfl
theorem test_word_vrfy (c : CoreId) : ovDecode c 0xE9D53800 = some (.vrfy c 14 21 7 false) := rfl
theorem test_word_blank (c : CoreId) : ovDecode c 0 = none := rfl
theorem test_word_erased (c : CoreId) : ovDecode c 0xFFFFFFFF = none := rfl

/-! ### Check codes: the published check values of IEEE 802.3's CRC-32 and of the CRC-16 of R230, over the digits 1 to 9 -/

theorem test_crc32 : crc32 [0x31, 0x32, 0x33, 0x34, 0x35, 0x36, 0x37, 0x38, 0x39] = 0xCBF43926 := by decide +kernel
theorem test_crc16 : crc16 [0x31, 0x32, 0x33, 0x34, 0x35, 0x36, 0x37, 0x38, 0x39] = 0x29B1 := by decide +kernel

/-! ### Registers -/

/-- The worked example of R7, on STEP of a domain. -/
theorem test_wide_apply :
    (after (.wideWriteApply .host (BitVec.ofNat 32 (SDL_STEP 0 + 4)) 1) (onReset { State.reset.chip with hold := [(0, some (SDL_STEP 0, [(0, 0x90000000)]))] })).reg64 (SDL_STEP 0)
      = 0x190000000 := by decide +kernel
/-- The words in the opposite order: the high word is applied with the present low word. -/
theorem test_wide_high_first : (after (.wideWriteApply .host (BitVec.ofNat 32 (SDL_STEP 0 + 4)) 1) State.reset).reg64 (SDL_STEP 0) = 0x100000000 := by decide +kernel
/-- The increment of the 50 Hz example of R40. -/
theorem test_increment : (after (.wideWriteApply .host 0x10033C 0xD6BF)
    (onReset { State.reset.chip with hold := [(0, some (0x100338, [(0, 0x94D5E57A)]))] })).reg64 0x100338 = 236118324143482 := by decide +kernel

/-! ### Instructions on chosen values -/

/-- A Kiosk that runs, with g1 and g2. -/
def kiosk (a b : Word) : State := onReset { State.reset.chip with regs := [(0x2000004, 1)], cores := [(0, { g := [(1, a), (2, b)] })] }

theorem test_adds_saturates : (after (.adds (.kiosk 0) 3 1 2) (kiosk 0x7FFFFFFF 1)).g 0 3 = 0x7FFFFFFF := by decide +kernel
theorem test_div_by_zero : (after (.div (.kiosk 0) 3 1 2) (kiosk 0xFFFFFFFF 0)).g 0 3 = 0x80000000 := by decide +kernel
theorem test_div_overflow : (after (.div (.kiosk 0) 3 1 2) (kiosk 0x80000000 0xFFFFFFFF)).g 0 3 = 0x7FFFFFFF := by decide +kernel
theorem test_rem_sign : (after (.remS (.kiosk 0) 3 1 2) (kiosk 0xFFFFFFF9 2)).g 0 3 = 0xFFFFFFFF := by decide +kernel
theorem test_abs_least : (after (.abs (.kiosk 0) 3 1) (kiosk 0x80000000 0)).g 0 3 = 0x7FFFFFFF := by decide +kernel
theorem test_destination_is_source : (after (.sub (.kiosk 0) 1 1 2) (kiosk 7 9)).g 0 1 = 0xFFFFFFFE := by decide +kernel
theorem test_g0_stays_zero : (after (.add (.kiosk 0) 0 1 2) (kiosk 7 9)).g 0 0 = 0 := by decide +kernel
theorem test_fadd : (after (.fadd (.kiosk 0) 3 1 2) (kiosk 0x3F800000 0x40000000)).g 0 3 = 0x40400000 := by decide +kernel
theorem test_fdiv_default_nan : (after (.fdiv (.kiosk 0) 3 1 2) (kiosk 0 0)).g 0 3 = 0x7FE00000 := by decide +kernel

/-! ### A state and operands for every clause of every statement -/

/-- A time by the RC clock, whose rate is within 4 % (R321), is above what its slowest rate gives. -/
theorem rc_above (e w n : Nat) (h : n < e * 960 / 1000) : n < e * (960 + w % 81) / 1000 :=
  Nat.lt_of_lt_of_le h (Nat.div_le_div_right (Nat.mul_le_mul_left _ (Nat.le_add_right _ _)))
theorem rc_below (e w n : Nat) (h : e * 1040 / 1000 ≤ n) : e * (960 + w % 81) / 1000 ≤ n :=
  Nat.le_trans (Nat.div_le_div_right (Nat.mul_le_mul_left _ (by omega))) h
theorem us_above (e w n : Nat) (h : n < e * 960 / 1000 / 2000) : n < e * (960 + w % 81) / 1000 / 2000 :=
  Nat.lt_of_lt_of_le h (Nat.div_le_div_right (Nat.div_le_div_right (Nat.mul_le_mul_left _ (Nat.le_add_right _ _))))
theorem us_from (e w n : Nat) (h : n ≤ e * 960 / 1000 / 2000) : n ≤ e * (960 + w % 81) / 1000 / 2000 :=
  Nat.le_trans h (Nat.div_le_div_right (Nat.div_le_div_right (Nat.mul_le_mul_left _ (Nat.le_add_right _ _))))
theorem us_below (e w n : Nat) (h : e * 1040 / 1000 / 2000 ≤ n) : e * (960 + w % 81) / 1000 / 2000 ≤ n :=
  Nat.le_trans (Nat.div_le_div_right (Nat.div_le_div_right (Nat.mul_le_mul_left _ (by omega)))) h

theorem witness_IntegerSaturation_overflow :
    (let s := kiosk 0x80000000 0xFFFFFFFF
     s.chip.canIssue 0 = true ∧ s.chip.g 0 1 = 0x80000000 ∧ s.chip.g 0 2 = 0xFFFFFFFF) := by decide +kernel

theorem witness_WideAndWrongSize_latched :
    (let s := onReset { State.reset.chip with latch := [(0, some ⟨SDL_STEP 0, [5, 6]⟩)] }
     hubRequester .host = true ∧ s.chip.sys.ready = false ∧ s.chip.takeDue = false ∧ s.chip.latchOf .host = some ⟨SDL_STEP 0, [5, 6]⟩) := by decide +kernel

theorem witness_Discovery_itself :
    (let n := hubSerial
     let s := onReset { State.reset.chip with regs := [(0x500000, 1)], time := 3000000000, sys := { State.reset.chip.sys with leadPin := true } }
     let c := s.chip
     lowest (c.withFlag 0) = some n ∧ c.flag GTH_GCTL_EN = true ∧ ¬ c.reg64 GTH_LEAD_SERIAL ≠ 0
       ∧ c.gth.setAt + Nat.max (c.fld GTH_DISCCFG_SETTLE) 1 * 2000000 ≤ c.time ∧ c.withFlag 4 = [] ∧ c.withFlag 1 = []) := by
  exact ⟨rfl, by decide +kernel, by decide +kernel, by decide +kernel, by decide +kernel, by decide +kernel⟩

theorem witness_CanonKept :
    ∃ t, State.reset.chip.canon = true ∧ step State.reset = .next t := ⟨_, by decide +kernel, rfl⟩

theorem witness_InstructionWords :
    ovEncode (.cmit (.kiosk 3) 10 11) = some (.kiosk 3, 0xDC0A5800) ∧ ovDecode (.kiosk 3) 0xDC0A5800 = some (.cmit (.kiosk 3) 10 11) := by
  decide +kernel

theorem witness_IntegerImmediate :
    (
      let c : CoreId := CoreId.kiosk 0
      let s : State := onReset { State.reset.chip with regs := [(0x2000004, 1)] }
      s.chip.canIssue (coreNum c) = true) := by
  try dsimp only
  decide +kernel

theorem witness_IntegerRegister :
    (
      let c : CoreId := CoreId.kiosk 0
      let s : State := onReset { State.reset.chip with regs := [(0x2000004, 1)] }
      s.chip.canIssue (coreNum c) = true) := by
  try dsimp only
  decide +kernel

theorem witness_IntegerSaturation :
    (
      let c : CoreId := CoreId.shed
      let ra : Fin 32 := 0
      let rb : Fin 32 := 0
      let s : State := onReset { State.reset.chip with regs := [(0x40000104, 1)] }
      let k := coreNum c
      let a := s.chip.g k ra
      let b := s.chip.g k rb
      s.chip.canIssue (coreNum c) = true ∧ b = 0 ∧ 0 ≤ a.toInt) ∧
    (
      let c : CoreId := CoreId.kiosk 1
      let ra : Fin 32 := 17
      let rb : Fin 32 := 0
      let s : State := onReset { State.reset.chip with regs := [(0x2010004, 1)], cores := [(1, { g := [(17, 0x80000000)] })] }
      let k := coreNum c
      let a := s.chip.g k ra
      let b := s.chip.g k rb
      s.chip.canIssue (coreNum c) = true ∧ b = 0 ∧ a.toInt < 0) ∧
    (
      let c : CoreId := CoreId.kiosk 0
      let ra : Fin 32 := 0
      let rb : Fin 32 := 1
      let s : State := onReset { State.reset.chip with regs := [(0x2000004, 1)], cores := [(0, { g := [(1, 1)] })] }
      let k := coreNum c
      let a := s.chip.g k ra
      let b := s.chip.g k rb
      s.chip.canIssue (coreNum c) = true ∧ b ≠ 0 ∧ (¬ (a = 0x80000000 ∧ b = 0xFFFFFFFF))) ∧
    (
      let c : CoreId := CoreId.shed
      let rb : Fin 32 := 0
      let s : State := onReset { State.reset.chip with regs := [(0x40000104, 1)] }
      let k := coreNum c
      let b := s.chip.g k rb
      s.chip.canIssue (coreNum c) = true ∧ b = 0) ∧
    (
      let c : CoreId := CoreId.kiosk 0
      let rb : Fin 32 := 1
      let s : State := onReset { State.reset.chip with regs := [(0x2000004, 1)], cores := [(0, { g := [(1, 1)] })] }
      let k := coreNum c
      let b := s.chip.g k rb
      s.chip.canIssue (coreNum c) = true ∧ b ≠ 0) ∧
    (
      let c : CoreId := CoreId.kiosk 0
      let s : State := onReset { State.reset.chip with regs := [(0x2000004, 1)] }
      s.chip.canIssue (coreNum c) = true) := by
  refine ⟨?_, ?_, ?_, ?_, ?_, ?_⟩ <;> (try dsimp only) <;> decide +kernel

theorem witness_PairMode :
    (
      let k : Fin 16 := 0
      let rd : Fin 32 := 0
      let ra : Fin 32 := 0
      let rb : Fin 32 := 0
      let s : State := onReset { State.reset.chip with regs := [(0x2000004, 1)] }
      s.chip.canIssue k = true ∧ rd.val % 2 = 0 ∧ ra.val % 2 = 0 ∧ rb.val % 2 = 0) ∧
    (
      let k : Fin 16 := 0
      let rd : Fin 32 := 0
      let s : State := onReset { State.reset.chip with regs := [(0x2000004, 1)] }
      s.chip.canIssue k = true ∧ rd.val % 2 = 0) ∧
    (
      let k : Fin 16 := 0
      let rd : Fin 32 := 0
      let ra : Fin 32 := 0
      let s : State := onReset { State.reset.chip with regs := [(0x2000004, 1)] }
      s.chip.canIssue k = true ∧ rd.val % 2 = 0 ∧ ra.val % 2 = 0) ∧
    (
      let k : Fin 16 := 0
      let ra : Fin 32 := 0
      let rb : Fin 32 := 0
      let s : State := onReset { State.reset.chip with regs := [(0x2000004, 1)] }
      s.chip.canIssue k = true ∧ ra.val % 2 = 0 ∧ rb.val % 2 = 0) := by
  refine ⟨?_, ?_, ?_, ?_⟩ <;> (try dsimp only) <;> decide +kernel

theorem witness_FloatCompletes :
    (
      let k : Fin 16 := 0
      let s : State := onReset { State.reset.chip with regs := [(0x2000004, 1)] }
      s.chip.canIssue k = true) := by
  try dsimp only
  decide +kernel

theorem witness_FloatNaNAndRelation_NaNResults :
    (
      let a : Word := 0x7FFFFB53
      fIsNaN a = true) ∧
    (
      let a : Word := 0
      let b : Word := 0x7FFFFB53
      fIsNaN a = false ∧ fIsNaN b = true) ∧
    (
      let a : Word := 0
      let b : Word := 0
      let d : Word := 0x7FFFFB53
      fIsNaN a = false ∧ fIsNaN b = false ∧ fIsNaN d = true) := by
  refine ⟨?_, ?_, ?_⟩ <;> (try dsimp only) <;> decide +kernel

theorem witness_NextAddress :
    (
      let c : CoreId := CoreId.kiosk 0
      let s : State := onReset { State.reset.chip with regs := [(0x2000004, 1)] }
      s.chip.canIssue (coreNum c) = true) := by
  try dsimp only
  decide +kernel

theorem witness_BranchesAndJumps_Branches :
    (
      let c : CoreId := CoreId.shed
      let ra : Fin 32 := 22
      let rb : Fin 32 := 22
      let off : BitVec 16 := 0
      let s : State := onReset { State.reset.chip with regs := [(0x40000104, 1)] }
      let k := coreNum c
      let a := s.chip.g k ra
      let b := s.chip.g k rb
      let t := movedBy (s.chip.pc k) off.toInt
      s.chip.canIssue (coreNum c) = true ∧ fetchOk k t = true ∧ a = b) ∧
    (
      let c : CoreId := CoreId.kiosk 0
      let ra : Fin 32 := 6
      let rb : Fin 32 := 28
      let off : BitVec 16 := 0x4549
      let s : State := onReset { State.reset.chip with regs := [(0x2000004, 1)] }
      let k := coreNum c
      let a := s.chip.g k ra
      let b := s.chip.g k rb
      let t := movedBy (s.chip.pc k) off.toInt
      let out := fetchOk k t = false ∧ s.chip.calm k = true
      s.chip.canIssue (coreNum c) = true ∧ out ∧ a = b) ∧
    (
      let c : CoreId := CoreId.kiosk 0
      let ra : Fin 32 := 0
      let rb : Fin 32 := 1
      let s : State := onReset { State.reset.chip with regs := [(0x2000004, 1)], cores := [(0, { g := [(1, 1)] })] }
      let k := coreNum c
      let a := s.chip.g k ra
      let b := s.chip.g k rb
      s.chip.canIssue (coreNum c) = true ∧ a ≠ b) ∧
    (
      let c : CoreId := CoreId.kiosk 0
      let ra : Fin 32 := 0
      let rb : Fin 32 := 1
      let off : BitVec 16 := 0
      let s : State := onReset { State.reset.chip with regs := [(0x2000004, 1)], cores := [(0, { g := [(1, 1)] })] }
      let k := coreNum c
      let a := s.chip.g k ra
      let b := s.chip.g k rb
      let t := movedBy (s.chip.pc k) off.toInt
      s.chip.canIssue (coreNum c) = true ∧ fetchOk k t = true ∧ a ≠ b) ∧
    (
      let c : CoreId := CoreId.kiosk 0
      let ra : Fin 32 := 0
      let rb : Fin 32 := 1
      let off : BitVec 16 := 0x3FC0
      let s : State := onReset { State.reset.chip with regs := [(0x2000004, 1), (0x2000008, 256)], cores := [(0, { g := [(1, 1)] })] }
      let k := coreNum c
      let a := s.chip.g k ra
      let b := s.chip.g k rb
      let t := movedBy (s.chip.pc k) off.toInt
      let out := fetchOk k t = false ∧ s.chip.calm k = true
      s.chip.canIssue (coreNum c) = true ∧ out ∧ a ≠ b) ∧
    (
      let c : CoreId := CoreId.kiosk 0
      let ra : Fin 32 := 6
      let rb : Fin 32 := 28
      let s : State := onReset { State.reset.chip with regs := [(0x2000004, 1)] }
      let k := coreNum c
      let a := s.chip.g k ra
      let b := s.chip.g k rb
      s.chip.canIssue (coreNum c) = true ∧ a = b) ∧
    (
      let c : CoreId := CoreId.kiosk 0
      let ra : Fin 32 := 0
      let rb : Fin 32 := 1
      let off : BitVec 16 := 0
      let s : State := onReset { State.reset.chip with regs := [(0x2000004, 1)], cores := [(0, { g := [(1, 1)] })] }
      let k := coreNum c
      let a := s.chip.g k ra
      let b := s.chip.g k rb
      let t := movedBy (s.chip.pc k) off.toInt
      s.chip.canIssue (coreNum c) = true ∧ fetchOk k t = true ∧ a.toInt < b.toInt) ∧
    (
      let c : CoreId := CoreId.kiosk 0
      let ra : Fin 32 := 0
      let rb : Fin 32 := 1
      let off : BitVec 16 := 0x3FC0
      let s : State := onReset { State.reset.chip with regs := [(0x2000004, 1), (0x2000008, 256)], cores := [(0, { g := [(1, 1)] })] }
      let k := coreNum c
      let a := s.chip.g k ra
      let b := s.chip.g k rb
      let t := movedBy (s.chip.pc k) off.toInt
      let out := fetchOk k t = false ∧ s.chip.calm k = true
      s.chip.canIssue (coreNum c) = true ∧ out ∧ a.toInt < b.toInt) ∧
    (
      let c : CoreId := CoreId.kiosk 0
      let ra : Fin 32 := 0
      let rb : Fin 32 := 0
      let s : State := onReset { State.reset.chip with regs := [(0x2000004, 1)] }
      let k := coreNum c
      let a := s.chip.g k ra
      let b := s.chip.g k rb
      s.chip.canIssue (coreNum c) = true ∧ b.toInt ≤ a.toInt) ∧
    (
      let c : CoreId := CoreId.kiosk 0
      let ra : Fin 32 := 0
      let rb : Fin 32 := 0
      let off : BitVec 16 := 0
      let s : State := onReset { State.reset.chip with regs := [(0x2000004, 1)] }
      let k := coreNum c
      let a := s.chip.g k ra
      let b := s.chip.g k rb
      let t := movedBy (s.chip.pc k) off.toInt
      s.chip.canIssue (coreNum c) = true ∧ fetchOk k t = true ∧ b.toInt ≤ a.toInt) ∧
    (
      let c : CoreId := CoreId.kiosk 0
      let ra : Fin 32 := 1
      let rb : Fin 32 := 0
      let off : BitVec 16 := 0x4549
      let s : State := onReset { State.reset.chip with regs := [(0x2000004, 1)] }
      let k := coreNum c
      let a := s.chip.g k ra
      let b := s.chip.g k rb
      let t := movedBy (s.chip.pc k) off.toInt
      let out := fetchOk k t = false ∧ s.chip.calm k = true
      s.chip.canIssue (coreNum c) = true ∧ out ∧ b.toInt ≤ a.toInt) ∧
    (
      let c : CoreId := CoreId.kiosk 0
      let ra : Fin 32 := 0
      let rb : Fin 32 := 1
      let s : State := onReset { State.reset.chip with regs := [(0x2000004, 1)], cores := [(0, { g := [(1, 1)] })] }
      let k := coreNum c
      let a := s.chip.g k ra
      let b := s.chip.g k rb
      s.chip.canIssue (coreNum c) = true ∧ a.toInt < b.toInt) ∧
    (
      let c : CoreId := CoreId.kiosk 0
      let ra : Fin 32 := 0
      let rb : Fin 32 := 1
      let off : BitVec 16 := 0
      let s : State := onReset { State.reset.chip with regs := [(0x2000004, 1)], cores := [(0, { g := [(1, 1)] })] }
      let k := coreNum c
      let a := s.chip.g k ra
      let b := s.chip.g k rb
      let t := movedBy (s.chip.pc k) off.toInt
      s.chip.canIssue (coreNum c) = true ∧ fetchOk k t = true ∧ a.toNat < b.toNat) ∧
    (
      let c : CoreId := CoreId.kiosk 0
      let ra : Fin 32 := 0
      let rb : Fin 32 := 1
      let off : BitVec 16 := 0x3FC0
      let s : State := onReset { State.reset.chip with regs := [(0x2000004, 1), (0x2000008, 256)], cores := [(0, { g := [(1, 1)] })] }
      let k := coreNum c
      let a := s.chip.g k ra
      let b := s.chip.g k rb
      let t := movedBy (s.chip.pc k) off.toInt
      let out := fetchOk k t = false ∧ s.chip.calm k = true
      s.chip.canIssue (coreNum c) = true ∧ out ∧ a.toNat < b.toNat) ∧
    (
      let c : CoreId := CoreId.kiosk 0
      let ra : Fin 32 := 1
      let rb : Fin 32 := 0
      let s : State := onReset { State.reset.chip with regs := [(0x2000004, 1)] }
      let k := coreNum c
      let a := s.chip.g k ra
      let b := s.chip.g k rb
      s.chip.canIssue (coreNum c) = true ∧ b.toNat ≤ a.toNat) ∧
    (
      let c : CoreId := CoreId.kiosk 0
      let ra : Fin 32 := 6
      let rb : Fin 32 := 0
      let off : BitVec 16 := 0
      let s : State := onReset { State.reset.chip with regs := [(0x2000004, 1)] }
      let k := coreNum c
      let a := s.chip.g k ra
      let b := s.chip.g k rb
      let t := movedBy (s.chip.pc k) off.toInt
      s.chip.canIssue (coreNum c) = true ∧ fetchOk k t = true ∧ b.toNat ≤ a.toNat) ∧
    (
      let c : CoreId := CoreId.kiosk 0
      let ra : Fin 32 := 1
      let rb : Fin 32 := 0
      let off : BitVec 16 := 0x4549
      let s : State := onReset { State.reset.chip with regs := [(0x2000004, 1)] }
      let k := coreNum c
      let a := s.chip.g k ra
      let b := s.chip.g k rb
      let t := movedBy (s.chip.pc k) off.toInt
      let out := fetchOk k t = false ∧ s.chip.calm k = true
      s.chip.canIssue (coreNum c) = true ∧ out ∧ b.toNat ≤ a.toNat) ∧
    (
      let c : CoreId := CoreId.kiosk 0
      let ra : Fin 32 := 0
      let rb : Fin 32 := 1
      let s : State := onReset { State.reset.chip with regs := [(0x2000004, 1)], cores := [(0, { g := [(1, 1)] })] }
      let k := coreNum c
      let a := s.chip.g k ra
      let b := s.chip.g k rb
      s.chip.canIssue (coreNum c) = true ∧ a.toNat < b.toNat) := by
  refine ⟨?_, ?_, ?_, ?_, ?_, ?_, ?_, ?_, ?_, ?_, ?_, ?_, ?_, ?_, ?_, ?_, ?_, ?_⟩ <;> (try dsimp only) <;> decide +kernel

theorem witness_BranchesAndJumps_Jumps :
    (
      let c : CoreId := CoreId.kiosk 0
      let off : BitVec 21 := 0
      let s : State := onReset { State.reset.chip with regs := [(0x2000004, 1)] }
      let k := coreNum c
      let t := movedBy (s.chip.pc k) off.toInt
      s.chip.canIssue (coreNum c) = true ∧ fetchOk k t = true) ∧
    (
      let c : CoreId := CoreId.kiosk 0
      let ra : Fin 32 := 0
      let imm : BitVec 16 := 0
      let s : State := onReset { State.reset.chip with regs := [(0x2000004, 1)] }
      let k := coreNum c
      let u := (s.chip.g k ra + imm.signExtend 32).toNat / 4 * 4
      s.chip.canIssue (coreNum c) = true ∧ fetchOk k u = true) ∧
    (
      let c : CoreId := CoreId.kiosk 0
      let off : BitVec 21 := 0x4549
      let s : State := onReset { State.reset.chip with regs := [(0x2000004, 1)] }
      let k := coreNum c
      let t := movedBy (s.chip.pc k) off.toInt
      s.chip.canIssue (coreNum c) = true ∧ fetchOk k t = false ∧ s.chip.calm k = true) ∧
    (
      let c : CoreId := CoreId.kiosk 0
      let ra : Fin 32 := 2
      let imm : BitVec 16 := 0
      let s : State := onReset { State.reset.chip with regs := [(0x2000004, 1)], cores := [(0, { g := [(2, 0x10000)] })] }
      let k := coreNum c
      let u := (s.chip.g k ra + imm.signExtend 32).toNat / 4 * 4
      s.chip.canIssue (coreNum c) = true ∧ fetchOk k u = false ∧ s.chip.calm k = true) := by
  refine ⟨?_, ?_, ?_, ?_⟩ <;> (try dsimp only) <;> decide +kernel

theorem witness_Loops :
    (
      let c : CoreId := CoreId.kiosk 0
      let off : BitVec 16 := 1
      let s : State := onReset { State.reset.chip with regs := [(0x2000004, 1)] }
      s.chip.canIssue (coreNum c) = true ∧ off ≠ 0) ∧
    (
      let c : CoreId := CoreId.kiosk 1
      let off : BitVec 16 := 0
      let s : State := onReset { State.reset.chip with regs := [(0x2010004, 1)] }
      let k := coreNum c
      s.chip.canIssue (coreNum c) = true ∧ off = 0 ∧ s.chip.calm k = true) := by
  refine ⟨?_, ?_⟩ <;> (try dsimp only) <;> decide +kernel

theorem witness_ExceptionEntry :
    (
      let c : CoreId := CoreId.kiosk 0
      let s : State := onReset { State.reset.chip with regs := [(0x2000004, 1)] }
      s.chip.calm (coreNum c) = true) := by
  try dsimp only
  decide +kernel

theorem witness_DoubleFault :
    (
      let k : Fin 16 := 1
      let s : State := onReset { State.reset.chip with regs := [(0x2010004, 1)], cores := [(1, { sr := [(0, 0x5555554)] })] }
      s.chip.canIssue k = true ∧ (s.chip.core k).spec = none ∧ s.chip.exl k = true) := by
  try dsimp only
  decide +kernel

theorem witness_SystemInstructions :
    (
      let c : CoreId := CoreId.kiosk 0
      let s : State := onReset { State.reset.chip with regs := [(0x2000004, 1)], cores := [(0, { sr := [(0, 4)] })] }
      let k := coreNum c
      s.chip.canIssue (coreNum c) = true ∧ (s.chip.core (coreNum c)).spec = none ∧ s.chip.exl k = true) ∧
    (
      let c : CoreId := CoreId.kiosk 0
      let s : State := onReset { State.reset.chip with regs := [(0x2000004, 1)] }
      let k := coreNum c
      s.chip.canIssue (coreNum c) = true ∧ (s.chip.core (coreNum c)).spec = none ∧ s.chip.exl k = false) ∧
    (
      let c : CoreId := CoreId.kiosk 0
      let s : State := onReset { State.reset.chip with regs := [(0x2000004, 1)] }
      s.chip.canIssue (coreNum c) = true ∧ (s.chip.core (coreNum c)).spec = none) ∧
    (
      let c : CoreId := CoreId.kiosk 0
      let s : State := onReset { State.reset.chip with regs := [(0x2000004, 1)], cores := [(0, { sr := [(5, 2), (6, 2)] })] }
      let k := coreNum c
      s.chip.canIssue (coreNum c) = true ∧ (s.chip.core (coreNum c)).spec = none ∧ s.chip.lineDue k = true) ∧
    (
      let c : CoreId := CoreId.kiosk 1
      let s : State := onReset { State.reset.chip with regs := [(0x2010004, 1)] }
      let k := coreNum c
      s.chip.canIssue (coreNum c) = true ∧ (s.chip.core (coreNum c)).spec = none ∧ s.chip.lineDue k = false) ∧
    (
      let c : CoreId := CoreId.kiosk 1
      let s : State := onReset { State.reset.chip with regs := [(0x2010000, 16), (0x2010004, 1)] }
      let k := coreNum c
      s.chip.canIssue (coreNum c) = true ∧ (s.chip.core (coreNum c)).spec = none ∧ k < 16 ∧ s.chip.flag (KS_KCTL_DBGEN (coreBase k)) = true) := by
  refine ⟨?_, ?_, ?_, ?_, ?_, ?_⟩ <;> (try dsimp only) <;> decide +kernel

theorem witness_Interrupts :
    (
      let c : CoreId := CoreId.kiosk 0
      let line : Nat := 1
      let s : State := onReset { State.reset.chip with regs := [(0x2000004, 1)], cores := [(0, { sr := [(0, 1), (5, 2), (6, 2)] })] }
      let k := coreNum c
      s.chip.dueLine k = some line ∧ s.chip.running k = true ∧ s.chip.parked k = false ∧ (s.chip.core k).stepping = false ∧ (s.chip.core k).stalled = false ∧ s.chip.ie k = true ∧ s.chip.exl k = false ∧ (s.chip.core k).spec = none) ∧
    (
      let c : CoreId := CoreId.kiosk 0
      let line : Nat := 0
      let s : State := onReset { State.reset.chip with cores := [(0, { sr := [(5, 1), (6, 1)] })] }
      let k := coreNum c
      s.chip.dueLine k = some line) ∧
    (
      let c : CoreId := CoreId.kiosk 0
      let line : Nat := 1
      let s : State := onReset { State.reset.chip with cores := [(0, { sr := [(5, 2), (6, 2)] })] }
      let k := coreNum c
      let j := 0
      s.chip.dueLine k = some line ∧ j < line) ∧
    (
      let c : CoreId := CoreId.kiosk 0
      let line : Nat := 0
      let s : State := onReset { State.reset.chip with cores := [(0, { sr := [(5, 1), (6, 1)] })] }
      let k := coreNum c
      s.chip.dueLine k = some line ∧ ((s.chip.ie k = false ∨ s.chip.exl k = true ∨ (s.chip.core k).spec ≠ none))) ∧
    (
      let c : CoreId := CoreId.kiosk 0
      let line : Nat := 1
      let s : State := onReset { State.reset.chip with regs := [(0x2000004, 4)], cores := [(0, { sr := [(5, 2), (6, 2)] })] }
      let k := coreNum c
      s.chip.dueLine k = some line ∧ s.chip.parked k = true ∧ (s.chip.core k).stepping = false ∧ (s.chip.core k).holdReq = false) := by
  refine ⟨?_, ?_, ?_, ?_, ?_⟩ <;> (try dsimp only) <;> decide +kernel

theorem witness_LoadsAndAccess_Loads :
    (
      let c : CoreId := CoreId.kiosk 0
      let ra : Fin 32 := 2
      let imm : BitVec 16 := 0
      let s : State := onReset { State.reset.chip with regs := [(0x2000004, 1)], cores := [(0, { g := [(2, 0xFFFE0000)] })] }
      let k := coreNum c
      let a := (s.chip.g k ra + imm.signExtend 32).toNat
      let x := match place k a with | .mem x => x | _ => 0
      s.chip.loadsFrom k a 1 x = true) ∧
    (
      let c : CoreId := CoreId.kiosk 0
      let ra : Fin 32 := 2
      let imm : BitVec 16 := 0
      let s : State := onReset { State.reset.chip with regs := [(0x2000004, 1)], cores := [(0, { g := [(2, 0xFFFE0004)] })] }
      let k := coreNum c
      let a := (s.chip.g k ra + imm.signExtend 32).toNat
      let x := match place k a with | .mem x => x | _ => 0
      s.chip.loadsFrom k a 2 x = true) ∧
    (
      let c : CoreId := CoreId.kiosk 0
      let ra : Fin 32 := 2
      let imm : BitVec 16 := 0
      let s : State := onReset { State.reset.chip with regs := [(0x2000004, 1)], cores := [(0, { g := [(2, 0xFFFE0004)] })] }
      let k := coreNum c
      let a := (s.chip.g k ra + imm.signExtend 32).toNat
      let x := match place k a with | .mem x => x | _ => 0
      s.chip.loadsFrom k a 4 x = true) ∧
    (
      let c : CoreId := CoreId.kiosk 0
      let rd : Fin 32 := 0
      let ra : Fin 32 := 1
      let imm : BitVec 16 := 0
      let s : State := onReset { State.reset.chip with regs := [(0x2000004, 1)], cores := [(0, { g := [(1, 0x10020000)] })] }
      let k := coreNum c
      let a := (s.chip.g k ra + imm.signExtend 32).toNat
      let x := match place k a with | .mem x => x | _ => 0
      s.chip.loadsFrom k a 8 x = true ∧ k < 16 ∧ rd.val % 2 = 0) := by
  refine ⟨?_, ?_, ?_, ?_⟩ <;> (try dsimp only) <;> decide +kernel

theorem witness_LoadsAndAccess_AccessFaults :
    (
      let c : CoreId := CoreId.kiosk 0
      let ra : Fin 32 := 2
      let imm : BitVec 16 := 1
      let s : State := onReset { State.reset.chip with regs := [(0x2000004, 1)], cores := [(0, { g := [(2, 0xFFFE0000)] })] }
      let k := coreNum c
      let a := (s.chip.g k ra + imm.signExtend 32).toNat
      let x := match place k a with | .mem x => x | _ => 0
      s.chip.calm (coreNum c) = true ∧ place k a = .mem x ∧ a % 2 ≠ 0) ∧
    (
      let c : CoreId := CoreId.kiosk 0
      let ra : Fin 32 := 2
      let imm : BitVec 16 := 1
      let s : State := onReset { State.reset.chip with regs := [(0x2000004, 1)], cores := [(0, { g := [(2, 0xFFFE0000)] })] }
      let k := coreNum c
      let a := (s.chip.g k ra + imm.signExtend 32).toNat
      let x := match place k a with | .mem x => x | _ => 0
      s.chip.calm (coreNum c) = true ∧ place k a = .mem x ∧ a % 4 ≠ 0) ∧
    (
      let c : CoreId := CoreId.kiosk 0
      let ra : Fin 32 := 2
      let imm : BitVec 16 := 1
      let s : State := onReset { State.reset.chip with regs := [(0x2000004, 1)], cores := [(0, { g := [(2, 0xFFFE0000)] })] }
      let k := coreNum c
      let a := (s.chip.g k ra + imm.signExtend 32).toNat
      let x := match place k a with | .mem x => x | _ => 0
      s.chip.calm (coreNum c) = true ∧ place k a = .mem x ∧ (¬ (isShed k = true ∧ x < 0x40000)) ∧ a % 2 ≠ 0) ∧
    (
      let c : CoreId := CoreId.kiosk 0
      let ra : Fin 32 := 2
      let imm : BitVec 16 := 1
      let s : State := onReset { State.reset.chip with regs := [(0x2000004, 1)], cores := [(0, { g := [(2, 0xFFFE0000)] })] }
      let k := coreNum c
      let a := (s.chip.g k ra + imm.signExtend 32).toNat
      let x := match place k a with | .mem x => x | _ => 0
      s.chip.calm (coreNum c) = true ∧ place k a = .mem x ∧ (¬ (isShed k = true ∧ x < 0x40000)) ∧ a % 4 ≠ 0) ∧
    (
      let c : CoreId := CoreId.kiosk 1
      let ra : Fin 32 := 2
      let imm : BitVec 16 := 0
      let s : State := onReset { State.reset.chip with regs := [(0x2010004, 1)], cores := [(1, { g := [(2, 0x10000000)] })] }
      let k := coreNum c
      let a := (s.chip.g k ra + imm.signExtend 32).toNat
      s.chip.calm (coreNum c) = true ∧ place k a = .none) := by
  refine ⟨?_, ?_, ?_, ?_, ?_⟩ <;> (try dsimp only) <;> decide +kernel

theorem witness_Stores :
    (
      let c : CoreId := CoreId.kiosk 0
      let ra : Fin 32 := 2
      let imm : BitVec 16 := 0
      let s : State := onReset { State.reset.chip with regs := [(0x2000004, 1)], cores := [(0, { g := [(2, 0xFFFE0000)] })] }
      let k := coreNum c
      let a := (s.chip.g k ra + imm.signExtend 32).toNat
      let x := match place k a with | .mem x => x | _ => 0
      s.chip.storesTo k a 1 x = true) ∧
    (
      let c : CoreId := CoreId.kiosk 0
      let ra : Fin 32 := 2
      let imm : BitVec 16 := 0
      let s : State := onReset { State.reset.chip with regs := [(0x2000004, 1)], cores := [(0, { g := [(2, 0xFFFE0004)] })] }
      let k := coreNum c
      let a := (s.chip.g k ra + imm.signExtend 32).toNat
      let x := match place k a with | .mem x => x | _ => 0
      s.chip.storesTo k a 2 x = true) ∧
    (
      let c : CoreId := CoreId.kiosk 0
      let ra : Fin 32 := 2
      let imm : BitVec 16 := 0
      let s : State := onReset { State.reset.chip with regs := [(0x2000004, 1)], cores := [(0, { g := [(2, 0xFFFE0004)] })] }
      let k := coreNum c
      let a := (s.chip.g k ra + imm.signExtend 32).toNat
      let x := match place k a with | .mem x => x | _ => 0
      s.chip.storesTo k a 4 x = true) ∧
    (
      let c : CoreId := CoreId.kiosk 0
      let rs : Fin 32 := 0
      let ra : Fin 32 := 1
      let imm : BitVec 16 := 0
      let s : State := onReset { State.reset.chip with regs := [(0x2000004, 1)], cores := [(0, { g := [(1, 0x10020000)] })] }
      let k := coreNum c
      let a := (s.chip.g k ra + imm.signExtend 32).toNat
      let x := match place k a with | .mem x => x | _ => 0
      s.chip.storesTo k a 8 x = true ∧ k < 16 ∧ rs.val % 2 = 0) := by
  refine ⟨?_, ?_, ?_, ?_⟩ <;> (try dsimp only) <;> decide +kernel

theorem witness_Atomics :
    (
      let c : CoreId := CoreId.kiosk 1
      let ra : Fin 32 := 3
      let s : State := onReset { State.reset.chip with regs := [(0x2010004, 1)], cores := [(1, { g := [(3, 0xFFFE0000)] })] }
      let k := coreNum c
      let a := (s.chip.g k ra).toNat
      let x := match place k a with | .mem x => x | _ => 0
      s.chip.calm (coreNum c) = true ∧ a % 4 = 0 ∧ atomicAt k a = some x ∧ s.chip.cleanAt k x 4 = true ∧ s.chip.noInject = true) ∧
    (
      let c : CoreId := CoreId.kiosk 0
      let ra : Fin 32 := 2
      let s : State := onReset { State.reset.chip with regs := [(0x2000004, 1)], cores := [(0, { g := [(2, 1)] })] }
      let k := coreNum c
      let a := (s.chip.g k ra).toNat
      s.chip.calm (coreNum c) = true ∧ a % 4 ≠ 0) ∧
    (
      let c : CoreId := CoreId.kiosk 0
      let ra : Fin 32 := 0
      let s : State := onReset { State.reset.chip with regs := [(0x2000004, 1)] }
      let k := coreNum c
      let a := (s.chip.g k ra).toNat
      s.chip.calm (coreNum c) = true ∧ a % 4 = 0 ∧ atomicAt k a = none) := by
  refine ⟨?_, ?_, ?_⟩ <;> (try dsimp only) <;> decide +kernel

theorem witness_SpecialRegisters_WriteSpecial :
    (
      let c : CoreId := CoreId.kiosk 0
      let sr : BitVec 12 := 0
      let s : State := onReset { State.reset.chip with regs := [(0x2000004, 1)] }
      let n := sr.toNat
      s.chip.calm (coreNum c) = true ∧ n = 0) ∧
    (
      let c : CoreId := CoreId.shed
      let sr : BitVec 12 := 1
      let s : State := onReset { State.reset.chip with regs := [(0x40000104, 1)] }
      let n := sr.toNat
      s.chip.calm (coreNum c) = true ∧ n = 1) ∧
    (
      let c : CoreId := CoreId.kiosk 0
      let sr : BitVec 12 := 16
      let s : State := onReset { State.reset.chip with regs := [(0x2000004, 1)] }
      let n := sr.toNat
      s.chip.calm (coreNum c) = true ∧ n ∈ [2, 5, 7, 0x10, 0x11, 0x13, 0x14, 0x104]) ∧
    (
      let c : CoreId := CoreId.kiosk 1
      let sr : BitVec 12 := 6
      let s : State := onReset { State.reset.chip with regs := [(0x2010004, 1)] }
      let n := sr.toNat
      s.chip.calm (coreNum c) = true ∧ n = 6) ∧
    (
      let c : CoreId := CoreId.kiosk 0
      let sr : BitVec 12 := 35
      let s : State := onReset { State.reset.chip with regs := [(0x2000004, 1)] }
      let k := coreNum c
      let n := sr.toNat
      s.chip.calm (coreNum c) = true ∧ n = 0x23 ∧ k < 16) ∧
    (
      let c : CoreId := CoreId.kiosk 0
      let sr : BitVec 12 := 40
      let s : State := onReset { State.reset.chip with regs := [(0x2000004, 1)] }
      let k := coreNum c
      let n := sr.toNat
      s.chip.calm (coreNum c) = true ∧ n ∈ [0x28, 0x29, 0x2A, 0x2B] ∧ k < 16) ∧
    (
      let c : CoreId := CoreId.kiosk 0
      let sr : BitVec 12 := 8
      let s : State := onReset { State.reset.chip with regs := [(0x2000004, 1)] }
      let k := coreNum c
      let n := sr.toNat
      s.chip.calm (coreNum c) = true ∧ n = 8 ∧ k < 16) ∧
    (
      let c : CoreId := CoreId.kiosk 1
      let ra : Fin 32 := 0
      let sr : BitVec 12 := 258
      let s : State := onReset { State.reset.chip with regs := [(0x2010004, 1)] }
      let k := coreNum c
      let n := sr.toNat
      let v := (s.chip.g k ra).toNat
      s.chip.calm (coreNum c) = true ∧ n = 0x102 ∧ k < 16 ∧ v % 16 ≠ k) ∧
    (
      let c : CoreId := CoreId.kiosk 1
      let sr : BitVec 12 := 18
      let s : State := onReset { State.reset.chip with regs := [(0x2010004, 1), (0x2010008, 4)] }
      let k := coreNum c
      let n := sr.toNat
      s.chip.calm (coreNum c) = true ∧ n ∈ [0x12, 0x15] ∧ s.chip.sr k 0x11 ≠ s.chip.pc k ∧ s.chip.sr k 0x14 ≠ s.chip.pc k) ∧
    (
      let c : CoreId := CoreId.kiosk 0
      let sr : BitVec 12 := 44
      let s : State := onReset { State.reset.chip with regs := [(0x2000004, 1)] }
      let k := coreNum c
      let n := sr.toNat
      s.chip.calm (coreNum c) = true ∧ n ∈ [0x2C, 0x2D, 0x2E, 0x2F] ∧ k < 16) ∧
    (
      let c : CoreId := CoreId.shed
      let sr : BitVec 12 := 261
      let s : State := onReset { State.reset.chip with regs := [(0x40000104, 1)] }
      let n := sr.toNat
      s.chip.calm (coreNum c) = true ∧ n = 0x105) ∧
    (
      let c : CoreId := CoreId.kiosk 1
      let ra : Fin 32 := 0
      let sr : BitVec 12 := 259
      let s : State := onReset { State.reset.chip with regs := [(0xB00000, 256), (0x2010004, 1)] }
      let k := coreNum c
      let n := sr.toNat
      let v := (s.chip.g k ra).toNat
      s.chip.calm (coreNum c) = true ∧ n = 0x103 ∧ k < 16 ∧ bit (s.chip.reg (PCI_MSIX (v % 2048) + 12)) 0 = false ∧ s.chip.flag PCI_PSTAT_LINK = true) ∧
    (
      let c : CoreId := CoreId.kiosk 1
      let sr : BitVec 12 := 36
      let s : State := onReset { State.reset.chip with regs := [(0x2010004, 1)] }
      let n := sr.toNat
      s.chip.calm (coreNum c) = true ∧ n ∈ [3, 4, 0x18, 0x19, 0x1A, 0x20, 0x21, 0x22, 0x24, 0x25, 0x26, 0x27, 0x100, 0x101]) ∧
    (
      let c : CoreId := CoreId.kiosk 1
      let sr : BitVec 12 := 36
      let s : State := onReset { State.reset.chip with regs := [(0x2010004, 1)] }
      let n := sr.toNat
      s.chip.calm (coreNum c) = true ∧ n ∉ [0, 1, 2, 5, 6, 7, 8, 0x10, 0x11, 0x12, 0x13, 0x14, 0x15, 0x23, 0x28, 0x29, 0x2A, 0x2B, 0x2C, 0x2D, 0x2E, 0x2F, 0x102, 0x103, 0x104, 0x105]) := by
  refine ⟨?_, ?_, ?_, ?_, ?_, ?_, ?_, ?_, ?_, ?_, ?_, ?_, ?_, ?_⟩ <;> (try dsimp only) <;> decide +kernel

theorem witness_SpecialRegisters_ReadSpecial :
    (
      let c : CoreId := CoreId.kiosk 0
      let sr : BitVec 12 := 1
      let s : State := onReset { State.reset.chip with regs := [(0x2000004, 1)] }
      let n := sr.toNat
      s.chip.canIssue (coreNum c) = true ∧ n ∈ [1, 2, 3, 4, 5, 7, 0x10, 0x11, 0x12, 0x13, 0x14, 0x15, 0x104, 0x105]) ∧
    (
      let c : CoreId := CoreId.kiosk 0
      let sr : BitVec 12 := 0
      let s : State := onReset { State.reset.chip with regs := [(0x2000004, 1)] }
      let n := sr.toNat
      s.chip.canIssue (coreNum c) = true ∧ n = 0) ∧
    (
      let c : CoreId := CoreId.kiosk 1
      let sr : BitVec 12 := 6
      let s : State := onReset { State.reset.chip with regs := [(0x2010004, 1)] }
      let n := sr.toNat
      s.chip.canIssue (coreNum c) = true ∧ n = 6) ∧
    (
      let c : CoreId := CoreId.kiosk 0
      let sr : BitVec 12 := 39
      let s : State := onReset { State.reset.chip with regs := [(0x2000004, 1)] }
      let k := coreNum c
      let n := sr.toNat
      s.chip.canIssue (coreNum c) = true ∧ n ∈ [8, 0x20, 0x21, 0x23, 0x24, 0x25, 0x27, 0x28, 0x29, 0x2A, 0x2B, 0x2C, 0x2D, 0x2E, 0x2F] ∧ k < 16) ∧
    (
      let c : CoreId := CoreId.kiosk 1
      let sr : BitVec 12 := 24
      let s : State := onReset { State.reset.chip with regs := [(0x2010004, 1)] }
      let n := sr.toNat
      s.chip.canIssue (coreNum c) = true ∧ n = 0x18) ∧
    (
      let c : CoreId := CoreId.shed
      let sr : BitVec 12 := 26
      let s : State := onReset { State.reset.chip with regs := [(0x40000104, 1)] }
      let n := sr.toNat
      s.chip.canIssue (coreNum c) = true ∧ n = 0x1A) ∧
    (
      let c : CoreId := CoreId.kiosk 0
      let sr : BitVec 12 := 34
      let s : State := onReset { State.reset.chip with regs := [(0x2000004, 1)] }
      let k := coreNum c
      let n := sr.toNat
      s.chip.canIssue (coreNum c) = true ∧ n = 0x22 ∧ k < 16 ∧ (s.chip.core k).spec = none) ∧
    (
      let c : CoreId := CoreId.kiosk 1
      let sr : BitVec 12 := 38
      let s : State := onReset { State.reset.chip with regs := [(0x2010004, 1)] }
      let k := coreNum c
      let n := sr.toNat
      s.chip.canIssue (coreNum c) = true ∧ n = 0x26 ∧ k < 16) ∧
    (
      let c : CoreId := CoreId.kiosk 0
      let sr : BitVec 12 := 25
      let s : State := onReset { State.reset.chip with regs := [(0x2000004, 1)] }
      let n := sr.toNat
      s.chip.canIssue (coreNum c) = true ∧ n = 0x19) ∧
    (
      let c : CoreId := CoreId.kiosk 1
      let sr : BitVec 12 := 256
      let s : State := onReset { State.reset.chip with regs := [(0x2010004, 1)] }
      let k := coreNum c
      let n := sr.toNat
      s.chip.canIssue (coreNum c) = true ∧ n = 0x100 ∧ k < 16) ∧
    (
      let c : CoreId := CoreId.kiosk 1
      let sr : BitVec 12 := 257
      let s : State := onReset { State.reset.chip with regs := [(0x2010004, 1)] }
      let n := sr.toNat
      s.chip.canIssue (coreNum c) = true ∧ n = 0x101) ∧
    (
      let c : CoreId := CoreId.shed
      let sr : BitVec 12 := 258
      let s : State := onReset { State.reset.chip with regs := [(0x40000104, 1)] }
      let k := coreNum c
      let n := sr.toNat
      s.chip.canIssue (coreNum c) = true ∧ n ∈ [0x102, 0x103] ∧ s.chip.calm k = true) ∧
    (
      let c : CoreId := CoreId.shed
      let sr : BitVec 12 := 8
      let s : State := onReset { State.reset.chip with regs := [(0x40000104, 1)] }
      let k := coreNum c
      let n := sr.toNat
      s.chip.canIssue (coreNum c) = true ∧ n ∈ [8, 0x20, 0x23, 0x28, 0x2C] ∧ k = 16 ∧ s.chip.calm k = true) := by
  refine ⟨?_, ?_, ?_, ?_, ?_, ?_, ?_, ?_, ?_, ?_, ?_, ?_, ?_⟩ <;> (try dsimp only) <;> decide +kernel

theorem witness_Waits :
    (
      let c : CoreId := CoreId.kiosk 0
      let ra : Fin 32 := 0
      let rb : Fin 32 := 0
      let s : State := onReset { State.reset.chip with regs := [(0x2000004, 1)] }
      let k := coreNum c
      let a := (s.chip.g k ra).toNat
      let u := a + (s.chip.g k rb).toNat * 2 ^ 32
      let ft := s.chip.ftOf k
      s.chip.canIssue k = true ∧ u ≤ ft) ∧
    (
      let c : CoreId := CoreId.kiosk 0
      let ra : Fin 32 := 0
      let rb : Fin 32 := 1
      let s : State := onReset { State.reset.chip with regs := [(0x2000004, 1)], cores := [(0, { g := [(1, 1)] })] }
      let k := coreNum c
      let a := (s.chip.g k ra).toNat
      let u := a + (s.chip.g k rb).toNat * 2 ^ 32
      let ft := s.chip.ftOf k
      s.chip.canIssue k = true ∧ ft < u) ∧
    (
      let c : CoreId := CoreId.kiosk 0
      let ra : Fin 32 := 0
      let rb : Fin 32 := 0
      let base : Fin 4 := 0
      let s : State := onReset { State.reset.chip with regs := [(0x2000004, 1)] }
      let k := coreNum c
      let a := (s.chip.g k ra).toNat
      let u := a + (s.chip.g k rb).toNat * 2 ^ 32
      let th := s.chip.baseOf k base
      s.chip.canIssue k = true ∧ ((k < 16 ∨ base = 0)) ∧ u ≤ th) ∧
    (
      let c : CoreId := CoreId.kiosk 0
      let ra : Fin 32 := 0
      let rb : Fin 32 := 1
      let base : Fin 4 := 0
      let s : State := onReset { State.reset.chip with regs := [(0x2000004, 1)], cores := [(0, { g := [(1, 1)] })] }
      let k := coreNum c
      let a := (s.chip.g k ra).toNat
      let u := a + (s.chip.g k rb).toNat * 2 ^ 32
      let th := s.chip.baseOf k base
      s.chip.canIssue k = true ∧ ((k < 16 ∨ base = 0)) ∧ th < u) ∧
    (
      let c : CoreId := CoreId.shed
      let ra : Fin 32 := 0
      let rb : Fin 32 := 0
      let s : State := onReset { State.reset.chip with regs := [(0x40000104, 1)] }
      let k := coreNum c
      let a := (s.chip.g k ra).toNat
      s.chip.canIssue k = true ∧ rb = 0 ∧ a % 4096 = s.chip.slotAt k (s.chip.fld SDL_SCTL_ARM_BASE) % 4096) ∧
    (
      let base : Fin 4 := 2
      let s : State := onReset { State.reset.chip with regs := [(0x40000104, 1)] }
      s.chip.calm 16 = true ∧ base ≠ 0) ∧
    (
      let c : CoreId := CoreId.shed
      let rd : Fin 32 := 3
      let s : State := onReset { State.reset.chip with cores := [(16, { wait := (some (Wait.tmw 3 0)) })] }
      let k := coreNum c
      let ft := s.chip.ftOf k
      let t : Nat := 0
      (s.chip.core k).wait = some (.tmw rd t) ∧ (s.chip.core k).stepping = false ∧ (s.chip.core k).holdReq = false ∧ t ≤ ft) ∧
    (
      let c : CoreId := CoreId.kiosk 1
      let rd : Fin 32 := 3
      let s : State := onReset { State.reset.chip with cores := [(1, { wait := (some (Wait.tmw 3 1)) })] }
      let k := coreNum c
      let ft := s.chip.ftOf k
      let t : Nat := 1
      (s.chip.core k).wait = some (.tmw rd t) ∧ (s.chip.core k).stepping = false ∧ (s.chip.core k).holdReq = false ∧ ft < t) ∧
    (
      let c : CoreId := CoreId.shed
      let rd : Fin 32 := 3
      let base : Fin 4 := 1
      let s : State := onReset { State.reset.chip with cores := [(16, { wait := (some (Wait.angw 3 1 0 false)) })] }
      let k := coreNum c
      let th := s.chip.baseOf k base
      let t : Nat := 0
      (s.chip.core k).wait = some (.angw rd base t false) ∧ (s.chip.core k).stepping = false ∧ (s.chip.core k).holdReq = false ∧ t ≤ th) ∧
    (
      let c : CoreId := CoreId.kiosk 1
      let rd : Fin 32 := 3
      let base : Fin 4 := 1
      let s : State := onReset { State.reset.chip with cores := [(1, { wait := (some (Wait.angw 3 1 1 false)) })] }
      let k := coreNum c
      let th := s.chip.baseOf k base
      let t : Nat := 1
      (s.chip.core k).wait = some (.angw rd base t false) ∧ (s.chip.core k).stepping = false ∧ (s.chip.core k).holdReq = false ∧ th < t) := by
  refine ⟨?_, ?_, ?_, ?_, ?_, ?_, ?_, ?_, ?_, ?_⟩ <;> (try dsimp only) <;> decide +kernel

theorem witness_Speculation :
    (
      let k : Fin 16 := 0
      let s : State := onReset { State.reset.chip with regs := [(0x2000004, 1)] }
      s.chip.calm k = true) ∧
    (
      let k : Fin 16 := 1
      let s : State := onReset { State.reset.chip with regs := [(0x2010004, 1)], cores := [(1, { sr := [(0, 4)] })] }
      s.chip.canIssue k = true ∧ (s.chip.core k).spec = none ∧ s.chip.exl k = true) ∧
    (
      let k : Fin 16 := 0
      let s : State := onReset { State.reset.chip with regs := [(0x2000004, 1)], cores := [(0, { spec := (some { g := [], fsr := 0, rd := 0, start := 0 }) })] }
      let sp := { g := [], fsr := 0, rd := 0, start := 0 }
      (s.chip.core k).spec = some sp ∧ s.chip.canIssue k = true) ∧
    (
      let k : Fin 16 := 0
      let rd : Fin 32 := 2
      let ra : Fin 32 := 1
      let rb : Fin 32 := 0
      let s : State := onReset { State.reset.chip with regs := [(0x2000004, 1)], cores := [(0, { spec := (some { g := [], fsr := 0, rd := 0, start := 0 }) })] }
      let a := (s.chip.g k ra).toInt
      let b := (s.chip.g k rb).toInt
      let tol := (s.chip.g k rd).toInt
      let sp := { g := [], fsr := 0, rd := 0, start := 0 }
      (s.chip.core k).spec = some sp ∧ s.chip.canIssue k = true ∧ ((a - b).natAbs : Int) ≤ tol) ∧
    (
      let k : Fin 16 := 0
      let rd : Fin 32 := 0
      let ra : Fin 32 := 0
      let rb : Fin 32 := 1
      let s : State := onReset { State.reset.chip with regs := [(0x2000004, 1)], cores := [(0, { g := [(1, 1)], spec := (some { g := [], fsr := 0, rd := 0, start := 0 }) })] }
      let a := (s.chip.g k ra).toInt
      let b := (s.chip.g k rb).toInt
      let tol := (s.chip.g k rd).toInt
      let sp := { g := [], fsr := 0, rd := 0, start := 0 }
      (s.chip.core k).spec = some sp ∧ s.chip.canIssue k = true ∧ tol < ((a - b).natAbs : Int)) ∧
    (
      let k : Fin 16 := 0
      let s : State := onReset { State.reset.chip with regs := [(0x2000004, 1)], cores := [(0, { spec := (some { g := [], fsr := 0, rd := 0, start := 0 }) })] }
      let sp := { g := [], fsr := 0, rd := 0, start := 0 }
      (s.chip.core k).spec = some sp ∧ s.chip.canIssue k = true ∧ sp.porch = []) ∧
    (
      let k : Fin 16 := 0
      let s : State := onReset { State.reset.chip with time := 0x2265, regs := [(0xB1001C, 0x793F65), (0x2000000, 1), (0x2000004, 1), (0x2000008, 256), (0x2010000, 1), (0x2010004, 1), (0x2010008, 256), (0x40000100, 1), (0x40000104, 1), (0x40000108, 256)], hubMem := [(0x10020000, 200), (0x10020001, 237), (0x10020002, 18), (0x10020003, 55), (0x10020004, 92), (0x10020005, 129), (0x10020006, 166), (0x10020007, 203), (0x10020008, 240), (0x10020009, 21), (0x1002000A, 58), (0x1002000B, 95), (0x1002000C, 132), (0x1002000D, 169), (0x1002000E, 206), (0x1002000F, 243), (0x10020010, 24), (0x10020011, 61), (0x10020012, 98), (0x10020013, 135), (0x10020014, 172), (0x10020015, 209), (0x10020016, 246), (0x10020017, 27), (0x10020018, 64), (0x10020019, 101), (0x1002001A, 138), (0x1002001B, 175), (0x1002001C, 212), (0x1002001D, 249), (0x1002001E, 30), (0x1002001F, 67), (0x10020020, 104), (0x10020021, 141), (0x10020022, 178), (0x10020023, 215), (0x10020024, 252), (0x10020025, 33), (0x10020026, 70), (0x10020027, 107), (0x10020028, 144), (0x10020029, 181), (0x1002002A, 218), (0x1002002B, 255), (0x1002002C, 36), (0x1002002D, 73), (0x1002002E, 110), (0x1002002F, 147), (0x10020030, 184), (0x10020031, 221), (0x10020032, 2), (0x10020033, 39), (0x10020034, 76), (0x10020035, 113), (0x10020036, 150), (0x10020037, 187), (0x10020038, 224), (0x10020039, 5), (0x1002003A, 42), (0x1002003B, 79), (0x1002003C, 116), (0x1002003D, 153), (0x1002003E, 190), (0x1002003F, 227)], cellMem := [(256, 200), (257, 237), (258, 18), (259, 55), (260, 92), (261, 129), (262, 166), (263, 203), (264, 240), (265, 21), (266, 58), (267, 95), (268, 132), (269, 169), (270, 206), (271, 243), (272, 24), (273, 61), (274, 98), (275, 135), (276, 172), (277, 209), (278, 246), (279, 27), (280, 64), (281, 101), (282, 138), (283, 175), (284, 212), (285, 249), (286, 30), (287, 67), (288, 104), (289, 141), (290, 178), (291, 215), (292, 252), (293, 33), (294, 70), (295, 107), (296, 144), (297, 181), (298, 218), (299, 255), (300, 36), (301, 73), (302, 110), (303, 147), (304, 184), (305, 221), (306, 2), (307, 39), (308, 76), (309, 113), (310, 150), (311, 187), (312, 224), (313, 5), (314, 42), (315, 79), (316, 116), (317, 153), (318, 190), (319, 227), (0x20000000, 200), (0x20000001, 237), (0x20000002, 18), (0x20000003, 55), (0x20000004, 92), (0x20000005, 129), (0x20000006, 166), (0x20000007, 203), (0x20000008, 240), (0x20000009, 21), (0x2000000A, 58), (0x2000000B, 95), (0x2000000C, 132), (0x2000000D, 169), (0x2000000E, 206), (0x2000000F, 243), (0x20000010, 24), (0x20000011, 61), (0x20000012, 98), (0x20000013, 135), (0x20000014, 172), (0x20000015, 209), (0x20000016, 246), (0x20000017, 27), (0x20000018, 64), (0x20000019, 101), (0x2000001A, 138), (0x2000001B, 175), (0x2000001C, 212), (0x2000001D, 249), (0x2000001E, 30), (0x2000001F, 67), (0x20000020, 104), (0x20000021, 141), (0x20000022, 178), (0x20000023, 215), (0x20000024, 252), (0x20000025, 33), (0x20000026, 70), (0x20000027, 107), (0x20000028, 144), (0x20000029, 181), (0x2000002A, 218), (0x2000002B, 255), (0x2000002C, 36), (0x2000002D, 73), (0x2000002E, 110), (0x2000002F, 147), (0x20000030, 184), (0x20000031, 221), (0x20000032, 2), (0x20000033, 39), (0x20000034, 76), (0x20000035, 113), (0x20000036, 150), (0x20000037, 187), (0x20000038, 224), (0x20000039, 5), (0x2000003A, 42), (0x2000003B, 79), (0x2000003C, 116), (0x2000003D, 153), (0x2000003E, 190), (0x2000003F, 227)], cores := [(0, { g := [(1, 0x10020000), (2, 0x20000005), (3, 0x10060000), (4, 256), (5, 0x50000000), (6, 0x20000000), (7, 0x20000004), (8, 0xFFFE0000), (9, 0xFFFE0004), (10, 0x10020000), (11, 0x20000005), (12, 0x10060000), (13, 256), (14, 0x50000000), (15, 0x20000000), (16, 0x20000004), (17, 0xFFFE0000), (18, 0xFFFE0004), (19, 0x10020000), (20, 0x20000005), (21, 0xFF800000), (22, 1), (23, 5), (24, 0x40000000), (25, 0xBF800000), (26, 0x20000104), (27, 0x7F800000), (28, 4), (29, 2), (30, 31), (31, 0x400000)], spec := (some { g := [(1, 0x10020000), (2, 0x20000005), (3, 0x10060000), (4, 256), (5, 0x50000000), (6, 0x20000000), (7, 0x20000004), (8, 0xFFFE0000), (9, 0xFFFE0004), (10, 0x10020000), (11, 0x20000005), (12, 0x10060000), (13, 256), (14, 0x50000000), (15, 0x20000000), (16, 0x20000004), (17, 0xFFFE0000), (18, 0xFFFE0004), (19, 0x10020000), (20, 0x20000005), (21, 0xFF800000), (22, 1), (23, 5), (24, 0x40000000), (25, 0xBF800000), (26, 0x20000104), (27, 0x7F800000), (28, 4), (29, 2), (30, 31), (31, 0x400000)], fsr := 3, rd := 5, porch := [(Eff.abrt 3), (Eff.abrt 3), (Eff.abrt 3), (Eff.abrt 3), (Eff.abrt 3), (Eff.abrt 3), (Eff.abrt 3), (Eff.abrt 3), (Eff.abrt 3), (Eff.abrt 3), (Eff.abrt 3), (Eff.abrt 3), (Eff.abrt 3), (Eff.abrt 3), (Eff.abrt 3), (Eff.abrt 3), (Eff.abrt 3), (Eff.abrt 3), (Eff.abrt 3), (Eff.abrt 3), (Eff.abrt 3), (Eff.abrt 3), (Eff.abrt 3), (Eff.abrt 3), (Eff.abrt 3), (Eff.abrt 3), (Eff.abrt 3), (Eff.abrt 3), (Eff.abrt 3), (Eff.abrt 3), (Eff.abrt 3), (Eff.abrt 3)], loops := 1, start := 10 }) }), (1, { g := [(1, 0x10020000), (2, 0x20000005), (3, 0x10060000), (4, 256), (5, 0x50000000), (6, 0x20000000), (7, 0x20000004), (8, 0xFFFE0000), (9, 0xFFFE0004), (10, 0x10020000), (11, 0x20000005), (12, 0x10060000), (13, 256), (14, 0x50000000), (15, 0x20000000), (16, 0x20000004), (17, 0xFFFE0000), (18, 0xFFFE0004), (19, 0x10020000), (20, 0x20000005), (21, 256), (22, 0xFFFFFFFF), (23, 0x7F7FFFFF), (25, 0x40490FDB), (26, 0xFFFE0010), (27, 0x3F800000), (28, 0x20000000), (29, 0x7FFFFFFF), (30, 0xFF800000), (31, 1)], spec := (some { g := [(1, 0x10020000), (2, 0x20000005), (3, 0x10060000), (4, 256), (5, 0x50000000), (6, 0x20000000), (7, 0x20000004), (8, 0xFFFE0000), (9, 0xFFFE0004), (10, 0x10020000), (11, 0x20000005), (12, 0x10060000), (13, 256), (14, 0x50000000), (15, 0x20000000), (16, 0x20000004), (17, 0xFFFE0000), (18, 0xFFFE0004), (19, 0x10020000), (20, 0x20000005), (21, 256), (22, 0xFFFFFFFF), (23, 0x7F7FFFFF), (25, 0x40490FDB), (26, 0xFFFE0010), (27, 0x3F800000), (28, 0x20000000), (29, 0x7FFFFFFF), (30, 0xFF800000), (31, 1)], fsr := 3, rd := 5, porch := [(Eff.abrt 3), (Eff.abrt 3), (Eff.abrt 3), (Eff.abrt 3), (Eff.abrt 3), (Eff.abrt 3), (Eff.abrt 3), (Eff.abrt 3), (Eff.abrt 3), (Eff.abrt 3), (Eff.abrt 3), (Eff.abrt 3), (Eff.abrt 3), (Eff.abrt 3), (Eff.abrt 3), (Eff.abrt 3), (Eff.abrt 3), (Eff.abrt 3), (Eff.abrt 3), (Eff.abrt 3), (Eff.abrt 3), (Eff.abrt 3), (Eff.abrt 3), (Eff.abrt 3), (Eff.abrt 3), (Eff.abrt 3), (Eff.abrt 3), (Eff.abrt 3), (Eff.abrt 3), (Eff.abrt 3), (Eff.abrt 3), (Eff.abrt 3)], loops := 1, start := 10 }) }), (16, { g := [(1, 0x10020000), (2, 0x20000005), (3, 0x10060000), (4, 256), (5, 0x50000000), (6, 0x20000000), (7, 0x20000004), (8, 0xFFFE0000), (9, 0xFFFE0004), (10, 0x10020000), (11, 0x20000005), (12, 0x10060000), (13, 256), (14, 0x50000000), (15, 0x20000000), (16, 0x20000004), (17, 0xFFFE0000), (18, 0xFFFE0004), (19, 0x10020000), (20, 0x20000005), (21, 0x7F800000), (22, 4), (23, 2), (24, 31), (25, 0x400000), (26, 1), (27, 0x10000100), (28, 0x7FC00001), (29, 8), (30, 0x80000000), (31, 33)] })], sys := { hubRst := none, cellRst := none } }
      let sp := { g := [(1, 0x10020000), (2, 0x20000005), (3, 0x10060000), (4, 256), (5, 0x50000000), (6, 0x20000000), (7, 0x20000004), (8, 0xFFFE0000), (9, 0xFFFE0004), (10, 0x10020000), (11, 0x20000005), (12, 0x10060000), (13, 256), (14, 0x50000000), (15, 0x20000000), (16, 0x20000004), (17, 0xFFFE0000), (18, 0xFFFE0004), (19, 0x10020000), (20, 0x20000005), (21, 0xFF800000), (22, 1), (23, 5), (24, 0x40000000), (25, 0xBF800000), (26, 0x20000104), (27, 0x7F800000), (28, 4), (29, 2), (30, 31), (31, 0x400000)], fsr := 3, rd := 5, porch := [(Eff.abrt 3), (Eff.abrt 3), (Eff.abrt 3), (Eff.abrt 3), (Eff.abrt 3), (Eff.abrt 3), (Eff.abrt 3), (Eff.abrt 3), (Eff.abrt 3), (Eff.abrt 3), (Eff.abrt 3), (Eff.abrt 3), (Eff.abrt 3), (Eff.abrt 3), (Eff.abrt 3), (Eff.abrt 3), (Eff.abrt 3), (Eff.abrt 3), (Eff.abrt 3), (Eff.abrt 3), (Eff.abrt 3), (Eff.abrt 3), (Eff.abrt 3), (Eff.abrt 3), (Eff.abrt 3), (Eff.abrt 3), (Eff.abrt 3), (Eff.abrt 3), (Eff.abrt 3), (Eff.abrt 3), (Eff.abrt 3), (Eff.abrt 3)], loops := 1, start := 10 }
      (s.chip.core k).spec = some sp ∧ (s.chip.core k).stepping = false ∧ (s.chip.core k).holdReq = false ∧ sp.start + 4096 ≤ s.chip.tick) ∧
    (
      let k : Fin 16 := 0
      let s : State := onReset { State.reset.chip with cores := [(0, { spec := (some { g := [], fsr := 0, rd := 0, start := 0 }) })] }
      let sp := { g := [], fsr := 0, rd := 0, start := 0 }
      (s.chip.core k).spec = some sp ∧ (s.chip.core k).stepping = false ∧ (s.chip.core k).holdReq = false ∧ s.chip.tick < sp.start + 4096) := by
  refine ⟨?_, ?_, ?_, ?_, ?_, ?_, ?_, ?_⟩ <;> (try dsimp only) <;> decide +kernel

theorem witness_Speculation_HeldEffects :
    (
      let k : Fin 16 := 0
      let ra : Fin 32 := 2
      let imm : BitVec 16 := 0
      let s : State := onReset { State.reset.chip with regs := [(0x2000004, 1)], cores := [(0, { g := [(2, 0xFFFE0004)], spec := (some { g := [], fsr := 0, rd := 0, start := 0 }) })] }
      let sp := { g := [], fsr := 0, rd := 0, start := 0 }
      let a := (s.chip.g k ra + imm.signExtend 32).toNat
      let x := match place k a with | .mem x => x | _ => 0
      s.chip.canIssue k = true ∧ (s.chip.core k).spec = some sp ∧ sp.porch.length < 32 ∧ place k a = .mem x ∧ (¬ (dmemBase k + s.chip.sr k 0x23 ≤ x ∧ x < dmemBase k + 0x20000)) ∧ a % 4 = 0) ∧
    (
      let k : Fin 16 := 0
      let ra : Fin 32 := 2
      let imm : BitVec 16 := 0
      let s : State := onReset { State.reset.chip with regs := [(0x2000004, 1)], cores := [(0, { g := [(2, 0x10020000)], spec := (some { g := [], fsr := 0, rd := 0, porch := [(Eff.abrt 3), (Eff.abrt 3), (Eff.abrt 3), (Eff.abrt 3), (Eff.abrt 3), (Eff.abrt 3), (Eff.abrt 3), (Eff.abrt 3), (Eff.abrt 3), (Eff.abrt 3), (Eff.abrt 3), (Eff.abrt 3), (Eff.abrt 3), (Eff.abrt 3), (Eff.abrt 3), (Eff.abrt 3), (Eff.abrt 3), (Eff.abrt 3), (Eff.abrt 3), (Eff.abrt 3), (Eff.abrt 3), (Eff.abrt 3), (Eff.abrt 3), (Eff.abrt 3), (Eff.abrt 3), (Eff.abrt 3), (Eff.abrt 3), (Eff.abrt 3), (Eff.abrt 3), (Eff.abrt 3), (Eff.abrt 3), (Eff.abrt 3)], start := 0 }) })] }
      let sp := { g := [], fsr := 0, rd := 0, porch := [(Eff.abrt 3), (Eff.abrt 3), (Eff.abrt 3), (Eff.abrt 3), (Eff.abrt 3), (Eff.abrt 3), (Eff.abrt 3), (Eff.abrt 3), (Eff.abrt 3), (Eff.abrt 3), (Eff.abrt 3), (Eff.abrt 3), (Eff.abrt 3), (Eff.abrt 3), (Eff.abrt 3), (Eff.abrt 3), (Eff.abrt 3), (Eff.abrt 3), (Eff.abrt 3), (Eff.abrt 3), (Eff.abrt 3), (Eff.abrt 3), (Eff.abrt 3), (Eff.abrt 3), (Eff.abrt 3), (Eff.abrt 3), (Eff.abrt 3), (Eff.abrt 3), (Eff.abrt 3), (Eff.abrt 3), (Eff.abrt 3), (Eff.abrt 3)], start := 0 }
      let a := (s.chip.g k ra + imm.signExtend 32).toNat
      let x := match place k a with | .mem x => x | _ => 0
      s.chip.canIssue k = true ∧ (s.chip.core k).spec = some sp ∧ 32 ≤ sp.porch.length ∧ place k a = .mem x ∧ (¬ (dmemBase k + s.chip.sr k 0x23 ≤ x ∧ x < dmemBase k + 0x20000)) ∧ a % 4 = 0) ∧
    (
      let k : Fin 16 := 0
      let s : State := onReset { State.reset.chip with regs := [(0x400000, 3), (0x2000004, 1)], cores := [(0, { spec := (some { g := [], fsr := 0, rd := 0, start := 0 }) })] }
      let sp := { g := [], fsr := 0, rd := 0, start := 0 }
      s.chip.canIssue k = true ∧ (s.chip.core k).spec = some sp ∧ sp.porch.length < 32 ∧ s.chip.leads = true) ∧
    (
      let k : Fin 16 := 0
      let ra : Fin 32 := 0
      let s : State := onReset { State.reset.chip with regs := [(0x2000004, 1)], cores := [(0, { spec := (some { g := [], fsr := 0, rd := 0, start := 0 }) })] }
      let sp := { g := [], fsr := 0, rd := 0, start := 0 }
      let w := (s.chip.g k ra).toNat
      s.chip.canIssue k = true ∧ (s.chip.core k).spec = some sp ∧ sp.porch.length < 32 ∧ s.chip.tordBad (bits w 23 16) = false) ∧
    (
      let k : Fin 16 := 0
      let rd : Fin 32 := 7
      let ra : Fin 32 := 0
      let rb : Fin 32 := 2
      let s : State := onReset { State.reset.chip with regs := [(0x2000004, 1)], cores := [(0, { g := [(2, 0xFFFE0000), (7, 4)], spec := (some { g := [], fsr := 0, rd := 0, start := 0 }) })] }
      let sp := { g := [], fsr := 0, rd := 0, start := 0 }
      let v := (s.chip.g k rb).toNat
      let w := (s.chip.g k ra).toNat
      s.chip.canIssue k = true ∧ (s.chip.core k).spec = some sp ∧ sp.porch.length < 32 ∧ sendBad k false (s.chip.g k rd).toNat w v = false) ∧
    (
      let k : Fin 16 := 0
      let rd : Fin 32 := 7
      let ra : Fin 32 := 0
      let rb : Fin 32 := 2
      let s : State := onReset { State.reset.chip with regs := [(0x2000004, 1)], cores := [(0, { g := [(2, 0xFFFE0000), (7, 4)], spec := (some { g := [], fsr := 0, rd := 0, start := 0 }) })] }
      let sp := { g := [], fsr := 0, rd := 0, start := 0 }
      let v := (s.chip.g k rb).toNat
      let w := (s.chip.g k ra).toNat
      s.chip.canIssue k = true ∧ (s.chip.core k).spec = some sp ∧ sp.porch.length < 32 ∧ sendBad k true (s.chip.g k rd).toNat w v = false) ∧
    (
      let k : Fin 16 := 0
      let ra : Fin 32 := 3
      let imm : BitVec 16 := 0
      let s : State := onReset { State.reset.chip with regs := [(0x2000004, 1)], cores := [(0, { g := [(3, 0xFFFE0000)], spec := (some { g := [], fsr := 0, rd := 0, porch := [(Eff.store 4294836224 4 77)], start := 0 }) })] }
      let sp := { g := [], fsr := 0, rd := 0, porch := [(Eff.store 4294836224 4 77)], start := 0 }
      let a := (s.chip.g k ra + imm.signExtend 32).toNat
      let x := match place k a with | .mem x => x | _ => 0
      let y := 77
      s.chip.canIssue k = true ∧ (s.chip.core k).spec = some sp ∧ sp.porch = [.store a 4 y] ∧ y < 2 ^ 32 ∧ place k a = .mem x ∧ a % 4 = 0 ∧ s.chip.cleanAt k x 4 = true) := by
  refine ⟨?_, ?_, ?_, ?_, ?_, ?_, ?_⟩ <;> (try dsimp only) <;> decide +kernel

theorem witness_MessagesAndFiring :
    (
      let k : Fin 16 := 0
      let rd : Fin 32 := 0
      let ra : Fin 32 := 0
      let rb : Fin 32 := 0
      let s : State := onReset { State.reset.chip with regs := [(0x2000004, 1)] }
      let a := (s.chip.g k ra).toNat
      let b := (s.chip.g k rb).toNat
      let n := (s.chip.g k rd).toNat
      s.chip.calm k = true ∧ sendBad k false n a b = true) ∧
    (
      let k : Fin 16 := 0
      let rd : Fin 32 := 0
      let ra : Fin 32 := 0
      let rb : Fin 32 := 0
      let s : State := onReset { State.reset.chip with regs := [(0x2000004, 1)] }
      let a := (s.chip.g k ra).toNat
      let b := (s.chip.g k rb).toNat
      let n := (s.chip.g k rd).toNat
      s.chip.calm k = true ∧ sendBad k true n a b = true) ∧
    (
      let k : Fin 16 := 0
      let s : State := onReset { State.reset.chip with regs := [(0x2000004, 1)] }
      s.chip.calm k = true ∧ s.chip.leads = false) ∧
    (
      let k : Fin 16 := 0
      let ra : Fin 32 := 2
      let s : State := onReset { State.reset.chip with regs := [(0x2000004, 1)], cores := [(0, { g := [(2, 0xFFF96D), (3, 0xFFFE0004), (4, 0x10020000), (5, 0x20000005), (6, 0x10060000), (7, 256), (8, 0x50000000), (9, 0x20000000), (10, 0x20000004), (11, 0xFFFE0000), (12, 0xFFFE0004), (13, 0x10020000), (14, 0x20000005), (15, 0x10060000), (16, 256), (17, 0x50000000), (18, 0x20000000), (19, 0x20000004), (20, 0xFFFE0000), (21, 0x40000000), (22, 0xBF800000), (23, 0x20000104), (24, 0x7F800000), (25, 4), (26, 2), (27, 31), (28, 0x400000), (29, 1), (30, 0x10000100), (31, 0x7FC00001)] }), (1, { g := [(1, 0x20000004), (2, 0xFFFE0000), (3, 0xFFFE0004), (4, 0x10020000), (5, 0x20000005), (6, 0x10060000), (7, 256), (8, 0x50000000), (9, 0x20000000), (10, 0x20000004), (11, 0xFFFE0000), (12, 0xFFFE0004), (13, 0x10020000), (14, 0x20000005), (15, 0x10060000), (16, 256), (17, 0x50000000), (18, 0x20000000), (19, 0x20000004), (20, 0xFFFE0000), (22, 0x40490FDB), (23, 0xFFFE0010), (24, 0x3F800000), (25, 0x20000000), (26, 0x7FFFFFFF), (27, 0xFF800000), (28, 1), (29, 5), (30, 0x40000000), (31, 0xBF800000)] }), (16, { g := [(1, 0x20000004), (2, 0xFFFE0000), (3, 0xFFFE0004), (4, 0x10020000), (5, 0x20000005), (6, 0x10060000), (7, 256), (8, 0x50000000), (9, 0x20000000), (10, 0x20000004), (11, 0xFFFE0000), (12, 0xFFFE0004), (13, 0x10020000), (14, 0x20000005), (15, 0x10060000), (16, 256), (17, 0x50000000), (18, 0x20000000), (19, 0x20000004), (20, 0xFFFE0000), (21, 31), (22, 0x400000), (23, 1), (24, 0x10000100), (25, 0x7FC00001), (26, 8), (27, 0x80000000), (28, 33), (29, 0x10000102), (30, 0x400000), (31, 0x10020000)] })], sys := { hubRst := none, cellRst := none } }
      let a := (s.chip.g k ra).toNat
      s.chip.calm k = true ∧ s.chip.tordBad (bits a 23 16) = true) ∧
    (
      let k : Fin 16 := 0
      let q : Fin 32 := 4
      let s : State := onReset { State.reset.chip with regs := [(0x2000004, 1)] }
      s.chip.calm k = true ∧ 3 < q.val) ∧
    (
      let k : Fin 16 := 0
      let ra : Fin 32 := 0
      let q : Fin 32 := 0
      let s : State := onReset { State.reset.chip with regs := [(0x2000004, 1)] }
      let a := (s.chip.g k ra).toNat
      s.chip.calm k = true ∧ q.val ≤ 3 ∧ ((a % 4 ≠ 0 ∨ ownData k a 4 = none))) ∧
    (
      let k : Fin 16 := 0
      let ra : Fin 32 := 2
      let q : Fin 32 := 0
      let s : State := onReset { State.reset.chip with regs := [(0x2000004, 1)], cores := [(0, { g := [(2, 0xFFFE0000)] })] }
      let a := (s.chip.g k ra).toNat
      s.chip.calm k = true ∧ q.val ≤ 3 ∧ a % 4 = 0 ∧ (ownData k a 4).isSome = true ∧ s.chip.rxq k q = []) ∧
    (
      let k : Fin 16 := 0
      let rd : Fin 32 := 25
      let ra : Fin 32 := 0
      let rb : Fin 32 := 2
      let s : State := onReset { State.reset.chip with regs := [(0x2000004, 1)], cores := [(0, { g := [(2, 0xFFFE0000), (25, 4)] })] }
      let a := (s.chip.g k ra).toNat
      let b := (s.chip.g k rb).toNat
      let n := (s.chip.g k rd).toNat
      s.chip.calm k = true ∧ sendBad k false n a b = false) ∧
    (
      let k : Fin 16 := 0
      let rd : Fin 32 := 25
      let ra : Fin 32 := 0
      let rb : Fin 32 := 2
      let s : State := onReset { State.reset.chip with regs := [(0x2000004, 1)], cores := [(0, { g := [(2, 0xFFFE0000), (25, 4)] })] }
      let a := (s.chip.g k ra).toNat
      let b := (s.chip.g k rb).toNat
      let n := (s.chip.g k rd).toNat
      s.chip.calm k = true ∧ sendBad k true n a b = false) ∧
    (
      let k : Fin 16 := 0
      let s : State := onReset { State.reset.chip with regs := [(0x400000, 3), (0x2000004, 1)] }
      s.chip.calm k = true ∧ s.chip.leads = true) ∧
    (
      let k : Fin 16 := 0
      let ra : Fin 32 := 0
      let s : State := onReset { State.reset.chip with regs := [(0x1000004, 5), (0x2000004, 1)] }
      let a := (s.chip.g k ra).toNat
      s.chip.calm k = true ∧ s.chip.tordBad (bits a 23 16) = false ∧ s.chip.laneState (bits a 23 16) = 5 ∧ s.chip.silenced (bits a 23 16) = false) := by
  refine ⟨?_, ?_, ?_, ?_, ?_, ?_, ?_, ?_, ?_, ?_, ?_⟩ <;> (try dsimp only) <;> decide +kernel

theorem witness_MessagesAndFiring_MessageCompletion :
    (
      let k : Fin 16 := 0
      let s : State := onReset { State.reset.chip with cores := [(0, { wait := (some (Wait.send false 8 3 256)) })] }
      let y := (Wait.send false 8 3 256)
      (s.chip.core k).wait = some y ∧ (∃ mc len desc buf, y = .send mc len desc buf) ∧ s.chip.calmWait k = true) ∧
    (
      let k : Fin 16 := 0
      let ra : Fin 32 := 2
      let q : Fin 32 := 0
      let s : State := onReset { State.reset.chip with regs := [(0x2000004, 1)], cores := [(0, { g := [(2, 0xFFFE0000)], rxq := [(0, [{ bytes := [], buf := 0 }])] })] }
      let a := (s.chip.g k ra).toNat
      let m := { bytes := [], buf := 0 }
      let ms := []
      let x := 0x10020000
      s.chip.rxq k q = m :: ms ∧ q.val ≤ 3 ∧ s.chip.noInject = true ∧ s.chip.poolRead (bufAddr m.buf) (32 + m.bytes.length) = (false, s.chip) ∧ ownData k a m.bytes.length = some x ∧ s.chip.calm k = true ∧ a % 4 = 0 ∧ (ownData k a 4).isSome = true) ∧
    (
      let k : Fin 16 := 0
      let rd : Fin 32 := 3
      let q : Fin 32 := 1
      let s : State := onReset { State.reset.chip with cores := [(0, { wait := (some (Wait.recv 3 268566528 1)), rxq := [(1, [{ bytes := [], buf := 0 }])] })] }
      let m := { bytes := [], buf := 0 }
      let ms := []
      let y := (Wait.recv 3 268566528 1)
      let b := 0x10020000
      let x := 0x10020000
      s.chip.rxq k q = m :: ms ∧ q.val ≤ 3 ∧ s.chip.noInject = true ∧ s.chip.poolRead (bufAddr m.buf) (32 + m.bytes.length) = (false, s.chip) ∧ (s.chip.core k).wait = some y ∧ s.chip.calmWait k = true ∧ y = .recv rd b q ∧ ownData k b m.bytes.length = some x) := by
  refine ⟨?_, ?_, ?_⟩ <;> (try dsimp only) <;> first | decide +kernel | ((repeat' apply And.intro) <;> first | decide +kernel | rfl | exact ⟨_, _, _, _, rfl⟩ | (simp [hubSerial]; done) | (simp [hubSerial]; omega) | (simp; done) | exact rc_above _ _ _ (by decide +kernel) | exact rc_below _ _ _ (by decide +kernel) | exact us_above _ _ _ (by decide +kernel) | exact us_from _ _ _ (by decide +kernel) | exact us_below _ _ _ (by decide +kernel))

theorem witness_DebugAndCoreAccess_DebugControl :
    (
      let k : Fin 16 := 0
      let s : State := onReset { State.reset.chip with regs := [(0x2000004, 1)] }
      s.chip.running k = true) ∧
    (
      let s : State := onReset State.reset.chip
      s.chip.haltAccepted = false) ∧
    (
      let k : Fin 16 := 0
      let s : State := onReset { State.reset.chip with cores := [(0, { haltReq := true })] }
      (s.chip.core k).haltReq = true ∧ (s.chip.core k).brk = false ∧ (s.chip.core k).wait = none ∧ (s.chip.core k).spec = none) ∧
    (
      let k : Fin 16 := 1
      let s : State := onReset { State.reset.chip with cores := [(1, { wait := (some (Wait.tmw 3 0)) })] }
      (((s.chip.core k).wait ≠ none ∨ (s.chip.core k).spec ≠ none))) ∧
    (
      let k : Fin 16 := 0
      let s : State := onReset { State.reset.chip with regs := [(0x2000000, 1)] }
      let b := coreBase k
      s.chip.flag (KS_KSTAT_HALTED b) = true ∧ s.chip.flag (KS_KCTL_RUN b) = true ∧ s.chip.sys.stopHub = false) ∧
    (
      let k : Fin 16 := 0
      let w : Word := 1
      let s : State := onReset State.reset.chip
      let b := coreBase k
      bit w.toNat 0 = true ∧ s.chip.flag (KS_KCTL_RUN b) = false ∧ s.chip.sys.stopHub = false) ∧
    (
      let k : Fin 16 := 0
      let w : Word := 0
      let s : State := onReset { State.reset.chip with regs := [(0x2000000, 1), (0x2000004, 1)] }
      let b := coreBase k
      bit w.toNat 0 = false ∧ s.chip.flag (KS_KCTL_RUN b) = true ∧ s.chip.running k = true ∧ (s.chip.core k).wait = none) ∧
    (
      let k : Fin 16 := 0
      let s : State := onReset { State.reset.chip with regs := [(0x2000008, 256)], hubMem := [(0x10000100, 1)] }
      let b := coreBase k
      s.chip.flag (KS_KSTAT_HALTED b) = true ∧ s.chip.sys.stopHub = false ∧ s.chip.fetchWord k = 1 ∧ fetchOk k (s.chip.pc k) = true ∧ (s.chip.core k).wait = none ∧ (s.chip.core k).spec = none ∧ (s.chip.eccWord false (fetchAddr k (s.chip.pc k))).1 = 0) ∧
    (
      let k : Fin 16 := 0
      let s : State := onReset { State.reset.chip with regs := [(0x2000004, 0)] }
      let b := coreBase k
      (s.chip.flag (KS_KSTAT_HALTED b) = false ∨ s.chip.sys.stopHub = true)) := by
  refine ⟨?_, ?_, ?_, ?_, ?_, ?_, ?_, ?_, ?_⟩ <;> (try dsimp only) <;> decide +kernel

theorem witness_DebugAndCoreAccess_CoreAccess :
    (
      let k : Fin 16 := 0
      let s : State := onReset { State.reset.chip with regs := [(0x2000004, 1)] }
      s.chip.running k = true) ∧
    (
      let k : Fin 16 := 0
      let n : Fin 33 := 32
      let s : State := onReset State.reset.chip
      s.chip.running k = false ∧ n.val = 32) ∧
    (
      let k : Fin 16 := 0
      let n : Fin 33 := 0
      let s : State := onReset State.reset.chip
      s.chip.running k = false ∧ n.val < 32) ∧
    (
      let k : Fin 16 := 0
      let s : State := onReset { State.reset.chip with regs := [(0x2000004, 1)] }
      let b := coreBase k
      ((s.chip.flag (KS_KCTL_RUN b) = true ∨ s.chip.running k = true))) ∧
    (
      let k : Fin 16 := 0
      let a : BitVec 16 := 0
      let s : State := onReset State.reset.chip
      let b := coreBase k
      s.chip.flag (KS_KCTL_RUN b) = false ∧ s.chip.running k = false ∧ (s.chip.core k).stepping = false ∧ a.toNat % 4 = 0) ∧
    (
      let k : Fin 16 := 0
      let s : State := onReset { State.reset.chip with cores := [(0, { tArmed := true })] }
      (s.chip.core k).tArmed = true ∧ s.chip.sr k 0x104 + s.chip.sr k 0x105 * 2 ^ 32 ≤ s.chip.ftNs % 2 ^ 64) ∧
    (
      let k : Fin 16 := 1
      let s : State := onReset State.reset.chip
      (s.chip.core k).tArmed = false) := by
  refine ⟨?_, ?_, ?_, ?_, ?_, ?_, ?_⟩ <;> (try dsimp only) <;> decide +kernel

theorem witness_RegisterWrite_WrittenBits :
    (
      let m : RegWord := { rw := 10589269718584, w1c := 1, rws := 0, reset := 4 }
      m.rw &&& m.w1c = 0) := by
  try dsimp only
  decide +kernel

theorem witness_RegisterWrite_PlainWrite :
    (
      let r : Requester := Requester.kiosk 3
      let addr : Word := 0x400000
      let s : State := onReset State.reset.chip
      let c := s.chip
      let a := addr.toNat
      let m := regWord a
      let one := regAt a = some (a, 0, [m])
      s.chip.takeDue = false ∧ hubRequester r = true ∧ ((c.sys.ready = false ∨ c.armReady = true)) ∧ 0x400000 ≤ a ∧ a < 0x500000 ∧ a % 4 = 0 ∧ one) ∧
    (
      let r : Requester := Requester.kiosk 3
      let addr : Word := 0x410000
      let s : State := onReset State.reset.chip
      let c := s.chip
      let a := addr.toNat
      s.chip.takeDue = false ∧ hubRequester r = true ∧ ((c.sys.ready = false ∨ c.armReady = true)) ∧ 0x400000 ≤ a ∧ a < 0x500000 ∧ a % 4 = 0 ∧ regAt a = none) ∧
    (
      let r : Requester := Requester.shed
      let addr : Word := 0x4000A00C
      let s : State := onReset State.reset.chip
      let a := addr.toNat
      let m := regWord a
      let one := regAt a = some (a, 0, [m])
      s.chip.takeDue = false ∧ hubRequester r = false ∧ 0x4000A000 ≤ a ∧ a < 0x4000B000 ∧ a % 4 = 0 ∧ one) ∧
    (
      let r : Requester := Requester.shed
      let addr : Word := 0x4000A018
      let s : State := onReset State.reset.chip
      let a := addr.toNat
      s.chip.takeDue = false ∧ hubRequester r = false ∧ 0x4000A000 ≤ a ∧ a < 0x4000B000 ∧ a % 4 = 0 ∧ regAt a = none) ∧
    (
      let r : Requester := Requester.shed
      let addr : Word := 0
      let s : State := onReset State.reset.chip
      let a := addr.toNat
      s.chip.takeDue = false ∧ hubRequester r = false ∧ a < 0x40000000) ∧
    (
      let r : Requester := Requester.kiosk 3
      let addr : Word := 0x3FFFB55
      let s : State := onReset State.reset.chip
      let a := addr.toNat
      let k : Fin 16 := 3
      s.chip.takeDue = false ∧ r = .kiosk k ∧ 0x2100000 ≤ a) ∧
    (
      let r : Requester := Requester.host
      let addr : Word := 1
      let s : State := onReset State.reset.chip
      let a := addr.toNat
      s.chip.takeDue = false ∧ r = .host ∧ a % 4 ≠ 0) := by
  refine ⟨?_, ?_, ?_, ?_, ?_, ?_, ?_⟩ <;> (try dsimp only) <;> decide +kernel

theorem witness_WideAndWrongSize_WideRegister :
    (
      let r : Requester := Requester.kiosk 7
      let s : State := onReset State.reset.chip
      hubRequester r = true ∧ s.chip.sys.ready = false ∧ s.chip.takeDue = false) ∧
    (
      let r : Requester := Requester.host
      let d : Fin 6 := 3
      let v : Word := 77
      let s : State := onReset { State.reset.chip with hold := [(0, (some (0x100430, [(0, 77)])))] }
      let a := SDL_STEP d
      hubRequester r = true ∧ s.chip.sys.ready = false ∧ s.chip.takeDue = false ∧ s.chip.holdOf r = some (a, [(0, v.toNat)])) ∧
    (
      let r : Requester := Requester.host
      let d : Fin 6 := 3
      let s : State := onReset { State.reset.chip with latch := [(0, (some { reg := 0x100430, words := [3, 3] }))] }
      let a := SDL_STEP d
      let x := 3
      let y := 3
      hubRequester r = true ∧ s.chip.sys.ready = false ∧ s.chip.takeDue = false ∧ s.chip.latchOf r = some ⟨a, [x, y]⟩) := by
  refine ⟨?_, ?_, ?_⟩ <;> (try dsimp only) <;> decide +kernel

theorem witness_WideAndWrongSize_WrongSize :
    (
      let r : Requester := Requester.kiosk 7
      let addr : Word := 0
      let size : Fin 9 := 0
      (¬ (size.val = 4 ∧ addr.toNat % 4 = 0)) ∧ hubRequester r = true) ∧
    (
      let addr : Word := 0
      let size : Fin 9 := 0
      let s : State := onReset { State.reset.chip with regs := [(0x40000104, 1)] }
      (¬ (size.val = 4 ∧ addr.toNat % 4 = 0)) ∧ s.chip.calm 16 = true) := by
  refine ⟨?_, ?_⟩ <;> (try dsimp only) <;> decide +kernel

theorem witness_FaultClasses :
    (
      let s : State := onReset State.reset.chip
      let old := s.chip.reg (FLT_CSTATE 9 0)
      s.chip.flag FLT_FSTAT_FN_DRIVE = false ∧ s.chip.reg (FLT_ENTRY 9 0) = 0 ∧ entryClean s.chip 9 0 = true ∧ bit old 1 = false) ∧
    (
      let s : State := onReset { State.reset.chip with regs := [(0x9C8400, 0x148160C2)] }
      let old := s.chip.reg (FLT_CSTATE 9 0)
      s.chip.flag FLT_FSTAT_FN_DRIVE = false ∧ s.chip.reg (FLT_ENTRY 9 0) = 0 ∧ entryClean s.chip 9 0 = true ∧ bit old 1 = true) := by
  refine ⟨?_, ?_⟩ <;> (try dsimp only) <;> decide +kernel

theorem witness_FaultReactions :
    (
      let s : State := onReset { State.reset.chip with regs := [(0x9C8008, 0x80000000), (0x9C8100, 256), (0xB00000, 256)] }
      s.chip.flag FLT_FSTAT_FN_DRIVE = false ∧ s.chip.reg (FLT_ENTRY 9 0) = 0x0100 ∧ entryClean s.chip 9 0 = true ∧ s.chip.reg (FLT_CSTATE 9 0) = 0 ∧ s.chip.flag (FLT_IRQDST_HOST 9) = true ∧ s.chip.flag PCI_PSTAT_LINK = true ∧ bit (s.chip.reg (PCI_MSIX (s.chip.fld (FLT_IRQDST_VEC 9)) + 12)) 0 = false) ∧
    (
      let s : State := onReset { State.reset.chip with regs := [(0x9C8100, 512)] }
      s.chip.flag FLT_FSTAT_FN_DRIVE = false ∧ s.chip.reg (FLT_ENTRY 9 0) = 0x0200 ∧ entryClean s.chip 9 0 = true ∧ s.chip.reg (FLT_CSTATE 9 0) = 0) ∧
    (
      let s : State := onReset { State.reset.chip with regs := [(0x900004, 0x35C88894)] }
      s.chip.flag FLT_FSTAT_FN_DRIVE = true) ∧
    (
      let s : State := onReset { State.reset.chip with regs := [(0x40006004, 0xEA408F74)] }
      s.chip.flag CFL_FSTAT_FN_DRIVE = true) ∧
    (
      let s : State := onReset { State.reset.chip with regs := [(0x40006700, 0x400)] }
      s.chip.flag CFL_FSTAT_FN_DRIVE = false ∧ s.chip.fire.clkStop = false ∧ s.chip.reg (CFL_ENTRY 6 0) = 0x0400 ∧ (Assoc.get (fun _ => 0) s.chip.cellEcc (CFL_ENTRY 6 0) = 0) ∧ s.chip.reg (CFL_CSTATE 6) = 0) ∧
    (
      let s : State := onReset { State.reset.chip with fire := { clkStop := true } }
      s.chip.fire.clkStop = true ∧ s.chip.flag CFL_FSTAT_FN_DRIVE = false ∧ (s.chip.held.any (fun y => y.blk == 6 && y.src == 0) = false)) := by
  refine ⟨?_, ?_, ?_, ?_, ?_, ?_⟩ <;> (try dsimp only) <;> decide +kernel

theorem witness_FaultReactions_FaultAcknowledge :
    (
      let b : Fin 16 := 0
      b.val ≤ 12) := by
  try dsimp only
  decide +kernel

theorem witness_StandingOrders :
    (
      let b : Fin 16 := 0
      let w : Word := 4
      let s : State := onReset State.reset.chip
      let hubBad := entryHas w.toNat 0x1C = true ∨ b.val = 9 ∧ entryHas w.toNat 0x40 = true ∨ b.val ≠ 9 ∧ entryHas w.toNat 0x80 = true
      s.chip.noInject = true ∧ s.chip.sys.ready = false ∧ s.chip.takeDue = false ∧ hubBad) ∧
    (
      let b : Fin 16 := 0
      let w : Word := 0
      let s : State := onReset State.reset.chip
      let hubBad := entryHas w.toNat 0x1C = true ∨ b.val = 9 ∧ entryHas w.toNat 0x40 = true ∨ b.val ≠ 9 ∧ entryHas w.toNat 0x80 = true
      s.chip.noInject = true ∧ s.chip.sys.ready = false ∧ s.chip.takeDue = false ∧ (¬ hubBad)) ∧
    (
      let b : Fin 16 := 0
      let w : Word := 0x1E9BA5
      let s : State := onReset State.reset.chip
      let cellBad := b.val = 6 ∧ entryHas w.toNat 0x40 = true ∨ entryHas w.toNat 0x80 = true
      s.chip.noInject = true ∧ s.chip.sys.ready = false ∧ s.chip.takeDue = false ∧ b.val ≤ 12 ∧ cellBad) ∧
    (
      let b : Fin 16 := 0
      let w : Word := 0
      let s : State := onReset State.reset.chip
      let cellBad := b.val = 6 ∧ entryHas w.toNat 0x40 = true ∨ entryHas w.toNat 0x80 = true
      s.chip.noInject = true ∧ s.chip.sys.ready = false ∧ s.chip.takeDue = false ∧ b.val ≤ 12 ∧ (¬ cellBad)) ∧
    (
      let w : Word := 48
      let s : State := onReset State.reset.chip
      s.chip.noInject = true ∧ s.chip.sys.ready = false ∧ s.chip.takeDue = false ∧ injMemOk .hub (w.toNat % 256) = false) ∧
    (
      let w : Word := 0
      let s : State := onReset State.reset.chip
      s.chip.noInject = true ∧ s.chip.sys.ready = false ∧ s.chip.takeDue = false ∧ injMemOk .cell (w.toNat % 256) = true ∧ bits w.toNat 9 8 ≠ 3) ∧
    (
      let s : State := onReset State.reset.chip
      s.chip.noInject = true ∧ s.chip.sys.ready = false ∧ s.chip.takeDue = false) ∧
    (
      let r : Requester := Requester.kiosk 3
      let j : Fin 4 := 3
      let s : State := onReset { State.reset.chip with hold := [(4, (some (0x900060, [(0, 0x1000)])))] }
      let off : Nat := 0x1000
      s.chip.noInject = true ∧ s.chip.sys.ready = false ∧ s.chip.takeDue = false ∧ hubRequester r = true ∧ s.chip.holdOf r = some (FLT_TKLIST j, [(0, off)]) ∧ off < 0x1000000 ∧ off % 4 = 0) ∧
    (
      let r : Requester := Requester.host
      let j : Fin 4 := 0
      let s : State := onReset { State.reset.chip with hold := [(0, (some (0x900048, [(0, 0x1000000)])))] }
      let off : Nat := 0x1000000
      s.chip.noInject = true ∧ s.chip.sys.ready = false ∧ s.chip.takeDue = false ∧ hubRequester r = true ∧ s.chip.holdOf r = some (FLT_TKLIST j, [(0, off)]) ∧ ((0x1000000 ≤ off ∨ off % 4 ≠ 0))) := by
  refine ⟨?_, ?_, ?_, ?_, ?_, ?_, ?_, ?_, ?_⟩ <;> (try dsimp only) <;> decide +kernel

theorem witness_TakeoverAndRelease :
    (
      let v : Nat := 3
      let s : State := onReset { State.reset.chip with regs := [(0x900040, 1), (0x900048, 0x400000), (0x90004C, 3)], takeDue := true }
      let due := s.chip.takeDue
      let listed := s.chip.flag FLT_TKCTL_ARMED = true ∧ s.chip.fld FLT_TKCTL_CNT = 0 ∧ s.chip.reg (FLT_TKLIST 0) = BND_NCTL
        ∧ s.chip.reg (FLT_TKLIST 0 + 4) = v ∧ s.chip.sys.ready = false
      due = true ∧ listed) ∧
    (
      let v : Nat := 3
      let s : State := onReset { State.reset.chip with regs := [(0x900040, 1), (0x900048, 0x400000), (0x90004C, 3)] }
      let due := s.chip.takeDue
      let listed := s.chip.flag FLT_TKCTL_ARMED = true ∧ s.chip.fld FLT_TKCTL_CNT = 0 ∧ s.chip.reg (FLT_TKLIST 0) = BND_NCTL
        ∧ s.chip.reg (FLT_TKLIST 0 + 4) = v ∧ s.chip.sys.ready = false
      due = false ∧ listed) ∧
    (
      let s : State := onReset { State.reset.chip with regs := [(0x900040, 10)] }
      let due := s.chip.takeDue
      due = false ∧ s.chip.flag FLT_TKCTL_ARMED = false ∧ s.chip.flag FLT_TKCTL_DONE = true) ∧
    (
      let s : State := onReset State.reset.chip
      let due := s.chip.takeDue
      due = false ∧ s.chip.flag FLT_TKCTL_ARMED = false ∧ s.chip.flag FLT_TKCTL_DONE = false) ∧
    (
      let s : State := onReset State.reset.chip
      ((∀ b < 16, bit (s.chip.reg FLT_SILBY) b = true → s.chip.hubPendKF b = false))) ∧
    (
      let s : State := onReset { State.reset.chip with regs := [(0x900010, 0x1000), (0x9E0550, 2)] }
      let b : Nat := 12
      b < 16 ∧ bit (s.chip.reg FLT_SILBY) b = true ∧ s.chip.hubPendKF b = true) ∧
    (
      let s : State := onReset State.reset.chip
      (s.chip.flag FLT_FSTAT_FN_PULSE = false ∨ s.chip.time < s.chip.fnEndHub)) ∧
    (
      let s : State := onReset { State.reset.chip with regs := [(0x900004, 2)] }
      s.chip.flag FLT_FSTAT_FN_PULSE = true ∧ s.chip.fnEndHub ≤ s.chip.time) ∧
    (
      let s : State := onReset State.reset.chip
      (s.chip.flag CFL_FSTAT_FN_PULSE = false ∨ s.chip.time < s.chip.fnEndCell)) ∧
    (
      let s : State := onReset { State.reset.chip with regs := [(0x40006004, 2)] }
      s.chip.flag CFL_FSTAT_FN_PULSE = true ∧ s.chip.fnEndCell ≤ s.chip.time) ∧
    (
      let r : Requester := Requester.laneCtl (CellLane.la)
      let w : Word := 0x1000B
      let s : State := onReset { State.reset.chip with regs := [(0x40006260, 1), (0x40009004, 5)] }
      let b := w.toNat % 16
      let rd := s.chip.fld (CFL_LOGCTL_RD_IDX b)
      let n := (s.chip.fld (CFL_LOGCTL_WR_IDX b) + 256 - rd) % 256
      let l := s.chip.logLane r
      b ≤ 12 ∧ 0 < n ∧ bits w.toNat 23 16 = 1 ∧ s.chip.laneState l = 5 ∧ s.chip.silenced l = false) ∧
    (
      let w : Word := 0
      let s : State := onReset State.reset.chip
      let b := w.toNat % 16
      s.chip.fld (CFL_LOGCTL_RD_IDX b) = s.chip.fld (CFL_LOGCTL_WR_IDX b)) := by
  refine ⟨?_, ?_, ?_, ?_, ?_, ?_, ?_, ?_, ?_, ?_, ?_, ?_⟩ <;> (try dsimp only) <;> decide +kernel

theorem witness_TakeoverAndRelease_CellRelease :
    (
      let s : State := onReset State.reset.chip
      ((∀ b < 13, s.chip.pendKF b = false))) ∧
    (
      let s : State := onReset { State.reset.chip with regs := [(0x40006014, 1), (0x40006018, 8), (0x40006168, 2)] }
      let b : Nat := 3
      b < 13 ∧ s.chip.flag CFL_REACT_BLK = true ∧ bit (s.chip.reg CFL_BLK_BY) b = true ∧ s.chip.pendKF b = true) := by
  refine ⟨?_, ?_⟩ <;> (try dsimp only) <;> decide +kernel

theorem witness_DomainCommands :
    (
      let d : Fin 6 := 0
      let w : Word := 0
      let s : State := onReset State.reset.chip
      let c := s.chip
      soleBit w 6 0 ∧ (¬ (d.val = 0 ∧ 10 ^ 9 ≤ c.reg (SDL_SETV 0 + 4)))) ∧
    (
      let w : Word := 0
      soleBit w 6 1) ∧
    (
      let d : Fin 6 := 0
      let w : Word := 0
      let s : State := onReset { State.reset.chip with regs := [(0x100144, 128)] }
      let c := s.chip
      soleBit w 6 2 ∧ incOk d (c.reg64 (SDL_INC_NEXT d)) = true) ∧
    (
      let w : Word := 0
      soleBit w 6 3) ∧
    (
      let d : Fin 6 := 0
      let w : Word := 0
      let s : State := onReset { State.reset.chip with regs := [(0x100154, 128), (0x100158, 1)] }
      let c := s.chip
      soleBit w 6 4 ∧ c.reg (SDL_SLEW_TICKS d) ≠ 0 ∧ incOk d (c.reg64 (SDL_SLEW_INC d)) = true) ∧
    (
      let d : Fin 6 := 0
      let w : Word := 0
      let s : State := onReset { State.reset.chip with regs := [(0x100104, 1)] }
      let c := s.chip
      soleBit w 6 5 ∧ c.flag (SDL_DSTAT_SLEW_ACT d) = true) ∧
    (
      let d : Fin 6 := 0
      let w : Word := 0
      let s : State := onReset State.reset.chip
      let c := s.chip
      soleBit w 6 5 ∧ c.flag (SDL_DSTAT_SLEW_ACT d) = false) ∧
    (
      let d : Fin 6 := 1
      let w : Word := 4
      let s : State := onReset { State.reset.chip with regs := [(0x100244, 128)] }
      let c := s.chip
      soleBit w 6 2 ∧ bit w.toNat 2 = true ∧ incOk d (c.reg64 (SDL_INC_NEXT d)) = true) ∧
    (
      let d : Fin 6 := 0
      let s : State := onReset { State.reset.chip with regs := [(0x100124, 0x3B9ACA00)] }
      let c := s.chip
      d.val = 0 ∧ 10 ^ 9 ≤ c.reg (SDL_SETV 0 + 4)) ∧
    (
      let d : Fin 6 := 0
      let w : Word := 1
      let s : State := onReset { State.reset.chip with regs := [(0x100124, 0x3B9ACA00)] }
      let c := s.chip
      d.val = 0 ∧ 10 ^ 9 ≤ c.reg (SDL_SETV 0 + 4) ∧ bit w.toNat 0 = true) ∧
    (
      let d : Fin 6 := 0
      let s : State := onReset State.reset.chip
      let c := s.chip
      incOk d (c.reg64 (SDL_INC_NEXT d)) = false) ∧
    (
      let d : Fin 6 := 0
      let s : State := onReset State.reset.chip
      let c := s.chip
      (c.reg (SDL_SLEW_TICKS d) = 0 ∨ incOk d (c.reg64 (SDL_SLEW_INC d)) = false)) ∧
    (
      let d : Fin 6 := 0
      let v : DWord := 0
      incOk d v.toNat = false) := by
  refine ⟨?_, ?_, ?_, ?_, ?_, ?_, ?_, ?_, ?_, ?_, ?_, ?_, ?_⟩ <;> (try dsimp only) <;> decide +kernel

theorem witness_DomainCounting_DomainIncrement :
    (
      let d : Fin 6 := 2
      let v : DWord := 0
      incOk d v.toNat = true) ∧
    (
      let d : Fin 6 := 0
      let v : DWord := 0
      incOk d v.toNat = false) ∧
    (
      let d : Fin 6 := 0
      let s : State := onReset { State.reset.chip with regs := [(0x100104, 2)] }
      let c := s.chip
      c.flag (SDL_DSTAT_INC_ARMED d) = true ∧ (c.dom d).incAt ≤ c.ftNs) ∧
    (
      let d : Fin 6 := 0
      let s : State := onReset State.reset.chip
      let c := s.chip
      (¬ (c.flag (SDL_DSTAT_INC_ARMED d) = true ∧ (c.dom d).incAt ≤ c.ftNs))) ∧
    (
      let d : Fin 6 := 0
      let s : State := onReset { State.reset.chip with regs := [(0x100104, 1)] }
      let c := s.chip
      c.flag (SDL_DSTAT_SLEW_ACT d) = true ∧ c.reg (SDL_SLEW_LEFT d) = 0) ∧
    (
      let d : Fin 6 := 0
      let s : State := onReset State.reset.chip
      let c := s.chip
      (c.flag (SDL_DSTAT_SLEW_ACT d) = false ∨ c.reg (SDL_SLEW_LEFT d) ≠ 0)) := by
  refine ⟨?_, ?_, ?_, ?_, ?_, ?_⟩ <;> (try dsimp only) <;> decide +kernel

theorem witness_DomainCounting_DomainTick :
    (
      let c : Chip := State.reset.chip
      let d : Fin 6 := 0
      c.flag (SDL_DSTAT_INC_ARMED d) = false ∧ c.flag (SDL_DSTAT_STEP_PEND d) = false ∧ c.flag (SDL_DSTAT_LOAD_PEND d) = false ∧ c.flag (SDL_DCTL_RUN d) = false) ∧
    (
      let c : Chip := { State.reset.chip with regs := [(0x100500, 1)] }
      let d : Fin 6 := 4
      c.flag (SDL_DSTAT_INC_ARMED d) = false ∧ c.flag (SDL_DSTAT_STEP_PEND d) = false ∧ c.flag (SDL_DSTAT_LOAD_PEND d) = false ∧ c.flag (SDL_DCTL_RUN d) = true ∧ c.flag (SDL_DSTAT_SLEW_ACT d) = false) ∧
    (
      let c : Chip := { State.reset.chip with regs := [(0x100300, 1), (0x100304, 1)] }
      let d : Fin 6 := 2
      c.flag (SDL_DSTAT_INC_ARMED d) = false ∧ c.flag (SDL_DSTAT_STEP_PEND d) = false ∧ c.flag (SDL_DSTAT_LOAD_PEND d) = false ∧ c.flag (SDL_DCTL_RUN d) = true ∧ c.flag (SDL_DSTAT_SLEW_ACT d) = true) ∧
    (
      let c : Chip := State.reset.chip
      let d : Fin 6 := 0
      let e := 1
      c.flag (SDL_DSTAT_INC_ARMED d) = false ∧ c.flag (SDL_DSTAT_STEP_PEND d) = false ∧ c.flag (SDL_DSTAT_LOAD_PEND d) = false ∧ e ≠ d.val) := by
  refine ⟨?_, ?_, ?_, ?_⟩ <;> (try dsimp only) <;> decide +kernel

theorem witness_SnapAndPulses_SnapAndLock :
    (
      let w : Word := 0x10307C
      10 ≤ bits w.toNat 29 16 ∧ bits w.toNat 29 16 ≤ 10000) ∧
    (
      let w : Word := 0
      (bits w.toNat 29 16 < 10 ∨ 10000 < bits w.toNat 29 16)) := by
  refine ⟨?_, ?_⟩ <;> (try dsimp only) <;> decide +kernel

theorem witness_SnapAndPulses_PulseOutputs :
    (
      let n : Fin 4 := 0
      let s : State := onReset State.reset.chip
      let c := s.chip
      let m := c.fld (SDL_PCTL_MODE n)
      let d := c.fld (SDL_PCTL_DOM n)
      let bad := m = 0 ∨ m = 3 ∨ 5 < d ∨ c.fld (SDL_PWID_WIDTH n) = 0 ∨ 1000000 < c.fld (SDL_PWID_WIDTH n)
        ∨ (d = 0 ∧ 10 ^ 9 ≤ c.reg (SDL_PSTART n + 4)) ∨ (m = 2 ∧ d < 2 ∧ c.reg64 (SDL_PPER n) = 0)
      bad) ∧
    (
      let n : Fin 4 := 0
      let w : Word := 0
      let s : State := onReset { State.reset.chip with regs := [(0x100800, 1)] }
      let c := s.chip
      let m := c.fld (SDL_PCTL_MODE n)
      let d := c.fld (SDL_PCTL_DOM n)
      let bad := m = 0 ∨ m = 3 ∨ 5 < d ∨ c.fld (SDL_PWID_WIDTH n) = 0 ∨ 1000000 < c.fld (SDL_PWID_WIDTH n)
        ∨ (d = 0 ∧ 10 ^ 9 ≤ c.reg (SDL_PSTART n + 4)) ∨ (m = 2 ∧ d < 2 ∧ c.reg64 (SDL_PPER n) = 0)
      bit w.toNat 1 = false ∧ (¬ bad)) ∧
    (
      let n : Fin 4 := 0
      let w : Word := 0
      let s : State := onReset State.reset.chip
      let c := s.chip
      bit w.toNat 0 = false ∧ c.flag (SDL_PSTAT_LEVEL n) = false) ∧
    (
      let n : Fin 4 := 0
      let w : Word := 0
      let s : State := onReset { State.reset.chip with regs := [(0x100808, 2)] }
      let c := s.chip
      bit w.toNat 0 = false ∧ c.flag (SDL_PSTAT_LEVEL n) = true) ∧
    (
      let n : Fin 4 := 0
      let s : State := onReset { State.reset.chip with regs := [(0x100100, 1), (0x100808, 1)] }
      let c := s.chip
      let p := c.pulse n
      let v := (c.dom p.dom).acc
      let starts := c.flag (SDL_PSTAT_ARMED n) = true ∧ c.flag (SDL_DCTL_RUN p.dom) = true ∧ p.next ≤ v ∧ p.disarm = false
      starts ∧ p.mode ≠ 2) ∧
    (
      let n : Fin 4 := 0
      let s : State := onReset { State.reset.chip with regs := [(0x100200, 1), (0x100808, 1)], pulses := [(0, { mode := 2, dom := 1, per := 1 })] }
      let c := s.chip
      let p := c.pulse n
      let v := (c.dom p.dom).acc
      let starts := c.flag (SDL_PSTAT_ARMED n) = true ∧ c.flag (SDL_DCTL_RUN p.dom) = true ∧ p.next ≤ v ∧ p.disarm = false
      starts ∧ p.mode = 2 ∧ 0 < p.per ∧ v + p.per < domMod p.dom) ∧
    (
      let n : Fin 4 := 0
      let s : State := onReset State.reset.chip
      let c := s.chip
      let p := c.pulse n
      let v := (c.dom p.dom).acc
      let starts := c.flag (SDL_PSTAT_ARMED n) = true ∧ c.flag (SDL_DCTL_RUN p.dom) = true ∧ p.next ≤ v ∧ p.disarm = false
      (¬ starts)) ∧
    (
      let n : Fin 4 := 0
      let s : State := onReset { State.reset.chip with time := 2, regs := [(0x100808, 2)] }
      let c := s.chip
      let p := c.pulse n
      let level := c.flag (SDL_PSTAT_LEVEL n) = true ∧ p.began < c.tick
      level ∧ p.began + p.wid ≤ c.tick) ∧
    (
      let n : Fin 4 := 0
      let s : State := onReset { State.reset.chip with time := 2, regs := [(0x100200, 1), (0x100808, 3)], doms := [(1, { acc := 0x56BC75E2D630FFB90, incNext := 0x11000000000, incAt := 3, slewInc := 9 }), (2, { acc := 0x56BC75E2D63100000, incNext := 0x11000000000, incAt := 3, slewInc := 9 }), (3, { acc := 0x56BC75E2D63100000, incNext := 0x11000000000, incAt := 3, slewInc := 9 }), (4, { acc := 0x56BC75E2D63100000, incNext := 0x11000000000, incAt := 3, slewInc := 9 }), (5, { acc := 0x56BC75E2D63100000, incNext := 0x11000000000, incAt := 3, slewInc := 9 })], pulses := [(0, { mode := 2, dom := 1, wid := 5, per := 0x18DE76816D8000, next := 0x56BC75E2D63100000 }), (1, { mode := 2, dom := 1, wid := 5, per := 0x18DE76816D8000, next := 0x56BC75E2D63100000 }), (2, { mode := 2, dom := 1, wid := 5, per := 0x18DE76816D8000, next := 0x56BC75E2D63100000 }), (3, { mode := 2, dom := 1, wid := 5, per := 0x18DE76816D8000, next := 0x56BC75E2D63100000 })] }
      let c := s.chip
      let p := c.pulse n
      let level := c.flag (SDL_PSTAT_LEVEL n) = true ∧ p.began < c.tick
      let cuts := c.flag (SDL_PSTAT_ARMED n) = true ∧ c.flag (SDL_DCTL_RUN p.dom) = true ∧ p.next ≤ c.nextAcc p.dom
      level ∧ c.tick < p.began + p.wid ∧ cuts) ∧
    (
      let n : Fin 4 := 0
      let s : State := onReset State.reset.chip
      let c := s.chip
      let p := c.pulse n
      let level := c.flag (SDL_PSTAT_LEVEL n) = true ∧ p.began < c.tick
      let cuts := c.flag (SDL_PSTAT_ARMED n) = true ∧ c.flag (SDL_DCTL_RUN p.dom) = true ∧ p.next ≤ c.nextAcc p.dom
      (¬ (level ∧ (p.began + p.wid ≤ c.tick ∨ cuts)))) := by
  refine ⟨?_, ?_, ?_, ?_, ?_, ?_, ?_, ?_, ?_, ?_⟩ <;> (try dsimp only) <;> decide +kernel

theorem witness_ReplicaCommands :
    (
      let ang : Bool := false
      let v : DWord := 0x1A7F90067A0
      let ok := if ang then v.toNat ≤ 0x14000000000000 else 0x14000000000 ≤ v.toNat ∧ v.toNat ≤ 0x3C000000000
      ok) ∧
    (
      let ang : Bool := false
      let v : DWord := 0
      let s : State := onReset State.reset.chip
      let c := s.chip
      let ok := if ang then v.toNat ≤ 0x14000000000000 else 0x14000000000 ≤ v.toNat ∧ v.toNat ≤ 0x3C000000000
      (¬ ok) ∧ c.fire.clkStop = false) ∧
    (
      let w : Word := 0
      soleBit w 4 0) ∧
    (
      let w : Word := 0
      soleBit w 4 1) ∧
    (
      let w : Word := 0
      let s : State := onReset { State.reset.chip with csd := { la := { ft := (some { val := 0, tick := 0, at' := 0 }) } } }
      let c := s.chip
      let y := if c.activeB then c.csd.lb else c.csd.la
      soleBit w 4 2 ∧ y.ft ≠ none) ∧
    (
      let w : Word := 0
      let s : State := onReset { State.reset.chip with csd := { la := { ang := (some { val := 0, tick := 0, at' := 0 }) } } }
      let c := s.chip
      let y := if c.activeB then c.csd.lb else c.csd.la
      soleBit w 4 3 ∧ y.ang ≠ none) ∧
    (
      let s : State := onReset State.reset.chip
      let c := s.chip
      let y := if c.activeB then c.csd.lb else c.csd.la
      y.ft = none ∧ c.fire.clkStop = false) ∧
    (
      let s : State := onReset State.reset.chip
      let c := s.chip
      let y := if c.activeB then c.csd.lb else c.csd.la
      y.ang = none ∧ c.fire.clkStop = false) ∧
    (
      let w : Word := 0
      (bits w.toNat 17 0 < 20 ∨ 160000 < bits w.toNat 17 0)) ∧
    (
      let w : Word := 20
      20 ≤ bits w.toNat 17 0 ∧ bits w.toNat 17 0 ≤ 160000) := by
  refine ⟨?_, ?_, ?_, ?_, ?_, ?_, ?_, ?_, ?_, ?_⟩ <;> (try dsimp only) <;> decide +kernel

theorem witness_SyncBlocks :
    (
      let l : CellLane := CellLane.la
      let w : DWord := 0
      let s : State := onReset State.reset.chip
      let c := s.chip
      let ln := cellLaneNum l
      blockOk w = false ∧ c.laneFresh ln = false) ∧
    (
      let l : CellLane := CellLane.lb
      let w : DWord := 0xE8C6FE9DA307031
      let s : State := onReset State.reset.chip
      let c := s.chip
      let ln := cellLaneNum l
      let heard := l = .la ∨ c.dual = true
      let good := blockOk w = true ∧ c.laneFresh ln = false
      good ∧ (¬ heard)) ∧
    (
      let l : CellLane := CellLane.lb
      let w : DWord := 0x79A181A8F638AA6
      let s : State := onReset { State.reset.chip with regs := [(0x4000000C, 1)] }
      let c := s.chip
      let ln := cellLaneNum l
      let heard := l = .la ∨ c.dual = true
      let good := blockOk w = true ∧ c.laneFresh ln = false
      good ∧ heard) ∧
    (
      let l : CellLane := CellLane.la
      let w : DWord := 0x869737744DBBA6B6
      let s : State := onReset State.reset.chip
      let c := s.chip
      let ln := cellLaneNum l
      let y := if l = .lb then c.csd.lb else c.csd.la
      let heard := l = .la ∨ c.dual = true
      let good := blockOk w = true ∧ c.laneFresh ln = false
      good ∧ heard ∧ y.epoch = none ∧ c.fire.clkStop = false) ∧
    (
      let l : CellLane := CellLane.la
      let w : DWord := 0x9D2F6B6DEF3EFB2A
      let s : State := onReset { State.reset.chip with csd := { la := { epoch := (some (1, 2, 0)) } } }
      let c := s.chip
      let ln := cellLaneNum l
      let y := if l = .lb then c.csd.lb else c.csd.la
      let heard := l = .la ∨ c.dual = true
      let good := blockOk w = true ∧ c.laneFresh ln = false
      let hi : Nat := 1
      let g : Nat := 2
      let at' : Nat := 0
      good ∧ heard ∧ y.epoch = some (hi, g, at') ∧ at' ≤ c.time ∧ c.time ≤ at' + 2000) ∧
    (
      let s : State := onReset { State.reset.chip with csd := { la := { ft := (some { val := 0, tick := 0, at' := 0 }), ftLatch := (some (0, true)) } } }
      let c := s.chip
      let r := { val := 0, tick := 0, at' := 0 }
      let rep := 0
      let now := true
      c.csd.la.ft = some r ∧ c.csd.la.ftLatch = some (rep, now) ∧ now = true ∧ c.csd.lb.ftLatch = none ∧ c.csd.ftLoad = none) ∧
    (
      let s : State := onReset { State.reset.chip with time := 0x4F5A6A, ctick := 0xA28D3F6136A, regs := [(0x4000000C, 1)], csd := { ft := 0xE000000000000000, ang := 0x3800000000000000000, la := { epoch := (some (1, 2, 0)), ft := (some { val := 0x56BC75E2D63100000, tick := 5, at' := 0 }), ang := (some { val := 0x3635C9ADC5DEA00000, tick := 6, at' := 0 }), ftLatch := (some (0x56BC77E2D63100000, true)) }, lb := { ft := (some { val := 0x56BC75E2D63100000, tick := 5, at' := 0 }) } }, fire := { activeB := true }, lanes := [(205, { upOnce := true })] }
      let c := s.chip
      let act := if c.activeB then c.csd.lb else c.csd.la
      let overdue := (c.lane (if c.activeB then 205 else 204)).upOnce = true ∧ c.syncFrom + 2000 * c.fld CSD_SYNC_TO_TIMEOUT ≤ c.time
        ∧ act.lost = false
      overdue ∧ c.fire.clkStop = false) ∧
    (
      let s : State := onReset State.reset.chip
      let c := s.chip
      let act := if c.activeB then c.csd.lb else c.csd.la
      let overdue := (c.lane (if c.activeB then 205 else 204)).upOnce = true ∧ c.syncFrom + 2000 * c.fld CSD_SYNC_TO_TIMEOUT ≤ c.time
        ∧ act.lost = false
      (¬ overdue)) := by
  refine ⟨?_, ?_, ?_, ?_, ?_, ?_, ?_, ?_⟩ <;> (try dsimp only) <;> decide +kernel

theorem witness_CellMeasurement :
    (
      let refin : Nat := 1
      0 < refin) ∧
    (
      let refin : Nat := 1
      let s : State := onReset { State.reset.chip with regs := [(0x40004004, 2)] }
      let c := s.chip
      0 < refin ∧ c.flag ADC_ASTAT_REF_SETTLED = true ∧ c.flag ADC_ASTAT_INJ_PEND = false) ∧
    (
      let refin : Nat := 1
      let s : State := onReset { State.reset.chip with regs := [(0x40004004, 6)] }
      let c := s.chip
      0 < refin ∧ c.flag ADC_ASTAT_REF_SETTLED = true ∧ c.flag ADC_ASTAT_INJ_PEND = true) ∧
    (
      let refin : Nat := 1
      let s : State := onReset State.reset.chip
      let c := s.chip
      0 < refin ∧ c.flag ADC_ASTAT_REF_SETTLED = false ∧ c.fire.clkStop = false) ∧
    (
      let refin : Nat := 1
      let s : State := onReset { State.reset.chip with regs := [(0x40004004, 4)] }
      let c := s.chip
      0 < refin ∧ c.flag ADC_ASTAT_INJ_PEND = true) ∧
    (
      let refin : Nat := 1
      let s : State := onReset State.reset.chip
      let c := s.chip
      0 < refin ∧ c.flag ADC_ASTAT_INJ_PEND = false) ∧
    (
      let refin : Nat := 1
      let s : State := onReset State.reset.chip
      let c := s.chip
      let a := c.adc
      0 < refin ∧ a.fifo = []) ∧
    (
      let refin : Nat := 1
      let s : State := onReset { State.reset.chip with adc := { fifo := [0] } }
      let c := s.chip
      let a := c.adc
      let x := 0
      let q := []
      0 < refin ∧ a.fifo = x :: q) ∧
    (
      let refin : Nat := 1
      let s : State := onReset { State.reset.chip with time := 0x3D0900, regs := [(0x40004000, 64)] }
      let c := s.chip
      let a := c.adc
      let trig := c.fld ADC_ACTL_TRIG
      0 < refin ∧ c.fld ADC_ACTL_REFSEL = 0 ∧ c.flag ADC_ACTL_REFEN = true ∧ a.refOut = false ∧ a.refAt + 4000000 ≤ c.time ∧ trig ≠ 1) ∧
    (
      let refin : Nat := 1
      let s : State := onReset State.reset.chip
      let c := s.chip
      let a := c.adc
      0 < refin ∧ (c.fld ADC_ACTL_REFSEL ≠ 0 ∨ c.flag ADC_ACTL_REFEN = false ∨ a.refOut = true ∨ c.time < a.refAt + 4000000)) ∧
    (
      let refin : Nat := 1
      let s : State := onReset { State.reset.chip with regs := [(0x40004004, 2)] }
      let c := s.chip
      0 < refin ∧ c.fld ADC_ACTL_REFSEL = 0 ∧ c.flag ADC_ASTAT_REF_SETTLED = true ∧ c.fire.clkStop = false) ∧
    (
      let w : Word := 0
      let refin : Nat := 1
      let s : State := onReset { State.reset.chip with regs := [(0x40004000, 0x10351)] }
      let c := s.chip
      let en := c.flag ADC_ACTL_EN
      let guarded := bits (c.reg ADC_ACTL) 6 4 ≠ bits w.toNat 6 4 ∨ bits (c.reg ADC_ACTL) 2 1 ≠ bits w.toNat 2 1
      let badRef := bits w.toNat 5 4 = 3 ∨ (bit w.toNat 0 = true ∧ bits w.toNat 5 4 = 0 ∧ bit w.toNat 6 = false)
      0 < refin ∧ c.fire.clkStop = false ∧ ((en = true ∧ guarded) ∨ badRef)) ∧
    (
      let w : Word := 64
      let refin : Nat := 1
      let s : State := onReset State.reset.chip
      let c := s.chip
      let en := c.flag ADC_ACTL_EN
      let guarded := bits (c.reg ADC_ACTL) 6 4 ≠ bits w.toNat 6 4 ∨ bits (c.reg ADC_ACTL) 2 1 ≠ bits w.toNat 2 1
      let badRef := bits w.toNat 5 4 = 3 ∨ (bit w.toNat 0 = true ∧ bits w.toNat 5 4 = 0 ∧ bit w.toNat 6 = false)
      0 < refin ∧ (¬ (en = true ∧ guarded)) ∧ (¬ badRef) ∧ bits w.toNat 2 1 ≠ 1) ∧
    (
      let refin : Nat := 1
      let s : State := onReset { State.reset.chip with adc := { injRun := true } }
      let c := s.chip
      let a := c.adc
      0 < refin ∧ a.injRun = true ∧ c.flag ADC_INJCFG_INJ_FIFO = false ∧ a.ending = false) ∧
    (
      let refin : Nat := 1
      let s : State := onReset State.reset.chip
      let c := s.chip
      let a := c.adc
      0 < refin ∧ a.injRun = false ∧ c.flag ADC_ASTAT_BUSY = false) ∧
    (
      let refin : Nat := 2
      let s : State := onReset { State.reset.chip with regs := [(0x40004004, 1)], adc := { ending := true } }
      let c := s.chip
      let a := c.adc
      let trig := c.fld ADC_ACTL_TRIG
      0 < refin ∧ a.injRun = false ∧ c.flag ADC_ASTAT_BUSY = true ∧ a.ending = true ∧ trig ≠ 1) ∧
    (
      let r : Requester := Requester.host
      let v : Vector Int 16 := #v[2500000000, 2500000000, -2500000000, -2500000000, 2830000000, 67415, 2500000000, -1220699546, 261921, 2830000000, -635420067, -54539, -274248, 2500000000, 388960, 310738]
      let refin : Nat := 1
      let clamp : Bool := false
      let s : State := onReset { State.reset.chip with regs := [(0x40004004, 1)], adc := { nent := 1, entB := [(0, 256)] } }
      let c := s.chip
      let a := c.adc
      let vref : Nat := if c.fld ADC_ACTL_REFSEL = 0 then 2500000000 else if c.fld ADC_ACTL_REFSEL = 1 then refin else 1800000000
      let ea := if a.injRun then c.reg ADC_INJCFG else Assoc.get (fun _ => 0) a.entA a.ent
      let vi (i : Nat) : Int := v.toList.getD i 0
      let vin : Int := (if bit ea 4 then vi (bits ea 3 0) - vi (bits ea 3 0 + 1) else vi (bits ea 3 0)) * 2 ^ bits ea 6 5
      let raw : Int := (2 * (vin * 2 ^ 17) + vref) / (2 * vref : Nat)
      let beyond := clamp || decide (113 * (vref : Int) < 100 * (vin.natAbs : Int))
      let conds := convConds a.prevGain a.prevBeyond (bits ea 6 5) (bits ea 16 8) (codeSat raw != raw || beyond)
      let r := filtStep (Assoc.get (fun _ => {}) a.filts a.ent) (Assoc.get (fun _ => 0) a.entB a.ent) (codeSat raw) conds
        (c.flag ADC_ASTAT_REF_SETTLED)
      0 < refin ∧ a.injRun = false ∧ c.flag ADC_ASTAT_BUSY = true ∧ a.ending = false ∧ a.ent < a.nent ∧ r.2 = none) ∧
    (
      let r : Requester := Requester.host
      let v : Vector Int 16 := #v[2830000000, 2830000000, -681308055, -357540375, 622885067, -2500000000, 84500, -282886, 2500000000, 148024, 2830000000, 2830000000, 2830000000, -285086950, -2500000000, 2500000000]
      let refin : Nat := 0xB870F690
      let clamp : Bool := false
      let s : State := onReset { State.reset.chip with regs := [(0x40004000, 0x10350), (0x40004004, 1)], adc := { nent := 1 } }
      let c := s.chip
      let a := c.adc
      let vref : Nat := if c.fld ADC_ACTL_REFSEL = 0 then 2500000000 else if c.fld ADC_ACTL_REFSEL = 1 then refin else 1800000000
      let ea := if a.injRun then c.reg ADC_INJCFG else Assoc.get (fun _ => 0) a.entA a.ent
      let vi (i : Nat) : Int := v.toList.getD i 0
      let vin : Int := (if bit ea 4 then vi (bits ea 3 0) - vi (bits ea 3 0 + 1) else vi (bits ea 3 0)) * 2 ^ bits ea 6 5
      let raw : Int := (2 * (vin * 2 ^ 17) + vref) / (2 * vref : Nat)
      let beyond := clamp || decide (113 * (vref : Int) < 100 * (vin.natAbs : Int))
      let conds := convConds a.prevGain a.prevBeyond (bits ea 6 5) (bits ea 16 8) (codeSat raw != raw || beyond)
      let r := filtStep (Assoc.get (fun _ => {}) a.filts a.ent) (Assoc.get (fun _ => 0) a.entB a.ent) (codeSat raw) conds
        (c.flag ADC_ASTAT_REF_SETTLED)
      let y := 119872
      let inv := true
      let cs := 0
      0 < refin ∧ a.injRun = false ∧ c.flag ADC_ASTAT_BUSY = true ∧ a.ending = false ∧ a.ent < a.nent ∧ r.2 = some (y, inv, cs) ∧ codeSat y = y ∧ bit cs 1 = false ∧ bit (c.fld ADC_MASKS_FIFOMASK) a.ent = true ∧ a.fifo.length < 64) := by
  refine ⟨?_, ?_, ?_, ?_, ?_, ?_, ?_, ?_, ?_, ?_, ?_, ?_, ?_, ?_, ?_, ?_, ?_, ?_⟩ <;> (try dsimp only) <;> decide +kernel

theorem witness_PwmBlock :
    (
      let w : Word := 0
      let s : State := onReset State.reset.chip
      let c := s.chip
      let blocked := c.fld LDG_LSTAT_STATE = 0 ∨ c.fld LDG_LSTAT_STATE = 1
      (bit w.toNat 0 = c.flag PWM_PCTL_MODE ∨ blocked)) ∧
    (
      let w : Word := 1
      let s : State := onReset { State.reset.chip with regs := [(0x4000200C, 2)] }
      let c := s.chip
      let blocked := c.fld LDG_LSTAT_STATE = 0 ∨ c.fld LDG_LSTAT_STATE = 1
      bit w.toNat 0 ≠ c.flag PWM_PCTL_MODE ∧ (¬ blocked) ∧ c.fire.clkStop = false) ∧
    (
      let s : State := onReset { State.reset.chip with regs := [(0x40003004, 32)] }
      let c := s.chip
      let frozen := c.flag PWM_PSTAT_HALTED = true ∨ c.fire.clkStop = true
      frozen) ∧
    (
      let s : State := onReset { State.reset.chip with regs := [(0x40003004, 32)] }
      let c := s.chip
      let frozen := c.flag PWM_PSTAT_HALTED = true ∨ c.fire.clkStop = true
      frozen ∧ (c.fire.haltByp = false ∨ c.fire.clkStop = true)) ∧
    (
      let s : State := onReset State.reset.chip
      let c := s.chip
      c.fire.pcnt + 1 < c.reg PWM_PER) ∧
    (
      let s : State := onReset { State.reset.chip with regs := [(0x40003018, 0)] }
      let c := s.chip
      let frozen := c.flag PWM_PSTAT_HALTED = true ∨ c.fire.clkStop = true
      (¬ frozen) ∧ c.reg PWM_PER ≤ c.fire.pcnt + 1) ∧
    (
      let n : Fin 4 := 1
      let s : State := onReset { State.reset.chip with fire := { pcnt := 1 } }
      let c := s.chip
      (c.reg PWM_PER ≤ c.reg (PWM_CMP n) ∨ c.fire.pcnt ≠ c.reg (PWM_CMP n))) ∧
    (
      let n : Fin 4 := 1
      let s : State := onReset { State.reset.chip with regs := [(0x40003050, 8)] }
      let c := s.chip
      let frozen := c.flag PWM_PSTAT_HALTED = true ∨ c.fire.clkStop = true
      (¬ frozen) ∧ c.reg (PWM_CMP n) < c.reg PWM_PER ∧ c.fire.pcnt = c.reg (PWM_CMP n) ∧ bit (c.fld PWM_EVCTL_EN) (2 + n) = true ∧ c.fld PWM_EVCTL_PSC = 0) ∧
    (
      let w : Word := 0
      let s : State := onReset State.reset.chip
      let c := s.chip
      bit w.toNat 1 = false ∧ 2 ≤ c.fld PWM_PER_SH_T) ∧
    (
      let w : Word := 0
      let s : State := onReset { State.reset.chip with regs := [(0x40003030, 0)] }
      let c := s.chip
      bit w.toNat 1 = false ∧ c.fld PWM_PER_SH_T < 2 ∧ c.fire.clkStop = false) ∧
    (
      let w : Word := 0
      bit w.toNat 0 = false) ∧
    (
      let g : Fin 4 := 0
      let s : State := onReset { State.reset.chip with gates := [(0, { due := (some 0) })] }
      let c := s.chip
      let frozen := c.flag PWM_PSTAT_HALTED = true ∨ c.fire.clkStop = true
      let come (x : Option Nat) : Bool := x.any fun d => d ≤ c.ctick
      come (c.gate g).due = true ∧ (¬ frozen)) ∧
    (
      let g : Fin 4 := 0
      let s : State := onReset State.reset.chip
      let c := s.chip
      let come (x : Option Nat) : Bool := x.any fun d => d ≤ c.ctick
      come (c.gate g).due = false) ∧
    (
      let s : State := onReset { State.reset.chip with fire := { vernEnd := (some 0) } }
      let c := s.chip
      let frozen := c.flag PWM_PSTAT_HALTED = true ∨ c.fire.clkStop = true
      let come (x : Option Nat) : Bool := x.any fun d => d ≤ c.ctick
      come c.fire.vernEnd = true ∧ (¬ frozen)) ∧
    (
      let s : State := onReset State.reset.chip
      let c := s.chip
      let come (x : Option Nat) : Bool := x.any fun d => d ≤ c.ctick
      come c.fire.vernEnd = false) ∧
    (
      let s : State := onReset State.reset.chip
      let c := s.chip
      c.fire.clkStop = false) ∧
    (
      let s : State := onReset { State.reset.chip with fire := { clkStop := true } }
      let c := s.chip
      c.fire.clkStop = true) ∧
    (
      let s : State := onReset { State.reset.chip with fire := { clkStop := true } }
      let c := s.chip
      c.fire.clkStop = true ∧ c.held = []) ∧
    (
      let s : State := onReset { State.reset.chip with fire := { clkStop := true }, held := [{ blk := 3, src := 0, cls := 3, flag := ({ addr := 1073754116, hi := 6, lo := 6 }) }] }
      let c := s.chip
      c.fire.clkStop = true ∧ c.held = [srcClkStop]) := by
  refine ⟨?_, ?_, ?_, ?_, ?_, ?_, ?_, ?_, ?_, ?_, ?_, ?_, ?_, ?_, ?_, ?_, ?_, ?_, ?_⟩ <;> (try dsimp only) <;> decide +kernel

theorem witness_OrderLedger :
    (
      let l : CellLane := CellLane.la
      let w : DWord := 0
      let s : State := onReset State.reset.chip
      let c := s.chip
      blockOk w = false ∧ c.laneFresh (cellLaneNum l) = false) ∧
    (
      let l : CellLane := CellLane.la
      let w : DWord := 0x3C009B744DBBA4F9
      let s : State := onReset { State.reset.chip with regs := [(0x4000200C, 0x27B5B), (0x40003018, 100), (0x4000301C, 50), (0x40003030, 7), (0x40003050, 63)], fire := { num := 5, starts := [(4, (some 3)), (5, (some 30)), (6, (some 40))], pcnt := 50 } }
      let c := s.chip
      let tag := bits w.toNat 55 44
      let diff := (tag + 4096 - c.fld LDG_LSTAT_T) % 4096
      let heard := blockOk w = true ∧ c.laneFresh (cellLaneNum l) = false ∧ (l = .la ∨ c.dual = true) ∧ c.fire.clkStop = false
      let new := c.findEnt tag = none ∧ ∃ f : Fin 4, c.entValid f = false
      heard ∧ diff < 8 ∧ new) ∧
    (
      let l : CellLane := CellLane.la
      let w : DWord := 0xF5008778BDFB0386
      let e : Fin 4 := 0
      let s : State := onReset { State.reset.chip with regs := [(0x4000200C, 0x10000), (0x40002100, 0x10008)] }
      let c := s.chip
      let b := if l = .la then 0 else 1
      let tag := bits w.toNat 55 44
      let diff := (tag + 4096 - c.fld LDG_LSTAT_T) % 4096
      let heard := blockOk w = true ∧ c.laneFresh (cellLaneNum l) = false ∧ (l = .la ∨ c.dual = true) ∧ c.fire.clkStop = false
      heard ∧ diff < 8 ∧ c.findEnt tag = some e.val ∧ c.flag (ordBit e b) = false ∧ c.flag (abortBit e b) = false) ∧
    (
      let l : CellLane := CellLane.la
      let w : DWord := 0x390060F9BEB061E7
      let e : Fin 4 := 1
      let s : State := onReset { State.reset.chip with regs := [(0x40002140, 0x30006)] }
      let c := s.chip
      let b := if l = .la then 0 else 1
      let tag := bits w.toNat 55 44
      let diff := (tag + 4096 - c.fld LDG_LSTAT_T) % 4096
      let heard := blockOk w = true ∧ c.laneFresh (cellLaneNum l) = false ∧ (l = .la ∨ c.dual = true) ∧ c.fire.clkStop = false
      heard ∧ diff < 8 ∧ c.findEnt tag = some e.val ∧ c.flag (ordBit e b) = true) ∧
    (
      let l : CellLane := CellLane.la
      let w : DWord := 0x390060F9BEB061E7
      let e : Fin 4 := 1
      let s : State := onReset { State.reset.chip with regs := [(0x40002140, 0x30006)] }
      let c := s.chip
      let tag := bits w.toNat 55 44
      let diff := (tag + 4096 - c.fld LDG_LSTAT_T) % 4096
      let heard := blockOk w = true ∧ c.laneFresh (cellLaneNum l) = false ∧ (l = .la ∨ c.dual = true) ∧ c.fire.clkStop = false
      heard ∧ diff < 8 ∧ c.findEnt tag = some e.val) ∧
    (
      let l : CellLane := CellLane.la
      let w : DWord := 0x960051473505BF5C
      let e : Fin 4 := 0
      let s : State := onReset { State.reset.chip with regs := [(0x40002100, 0x230005)] }
      let c := s.chip
      let b := if l = .la then 0 else 1
      let tag := bits w.toNat 55 44
      let diff := (tag + 4096 - c.fld LDG_LSTAT_T) % 4096
      let heard := blockOk w = true ∧ c.laneFresh (cellLaneNum l) = false ∧ (l = .la ∨ c.dual = true) ∧ c.fire.clkStop = false
      heard ∧ diff < 8 ∧ c.findEnt tag = some e.val ∧ c.fld (cmtFld e b) = 1 ∧ c.cmtOf e b ≠ bits w.toNat 55 12) ∧
    (
      let l : CellLane := CellLane.la
      let w : DWord := 0x390060F9BEB061E7
      let e : Fin 4 := 1
      let s : State := onReset { State.reset.chip with regs := [(0x40002140, 0x30006)] }
      let c := s.chip
      let b := if l = .la then 0 else 1
      let tag := bits w.toNat 55 44
      let diff := (tag + 4096 - c.fld LDG_LSTAT_T) % 4096
      let heard := blockOk w = true ∧ c.laneFresh (cellLaneNum l) = false ∧ (l = .la ∨ c.dual = true) ∧ c.fire.clkStop = false
      heard ∧ diff < 8 ∧ bits w.toNat 43 42 = 0 ∧ c.findEnt tag = some e.val ∧ c.flag (abortBit e b) = false) ∧
    (
      let l : CellLane := CellLane.la
      let w : DWord := 0x600639006C4DB8F
      let s : State := onReset State.reset.chip
      let c := s.chip
      let tag := bits w.toNat 55 44
      let diff := (tag + 4096 - c.fld LDG_LSTAT_T) % 4096
      let heard := blockOk w = true ∧ c.laneFresh (cellLaneNum l) = false ∧ (l = .la ∨ c.dual = true) ∧ c.fire.clkStop = false
      heard ∧ diff < 8 ∧ bits w.toNat 43 42 = 0 ∧ c.findEnt tag = none) ∧
    (
      let l : CellLane := CellLane.la
      let w : DWord := 0xEA00A1F560658058
      let s : State := onReset { State.reset.chip with regs := [(0x4000200C, 0x1089EB26), (0x40002100, 0x230005), (0x40002104, 0xBC614E), (0x4000210C, 0xBC614E), (0x40002140, 0x30006), (0x40002144, 0xBC614E), (0x4000214C, 0xBC614E), (0x40002180, 0x90007), (0x40002184, 0xBC614E), (0x4000218C, 0xBC614E), (0x400021C0, 0x210009), (0x400021C4, 0xBC614E), (0x400021CC, 0xBC614E), (0x40003018, 100), (0x4000301C, 50), (0x40003030, 7), (0x40003050, 63)], fire := { plans := [{ slot := 4, act := (Act.go 3) }], num := 5, starts := [(4, (some 3)), (5, (some 30)), (6, (some 40))], repCnt := 1 } }
      let c := s.chip
      let tag := bits w.toNat 55 44
      let diff := (tag + 4096 - c.fld LDG_LSTAT_T) % 4096
      let heard := blockOk w = true ∧ c.laneFresh (cellLaneNum l) = false ∧ (l = .la ∨ c.dual = true) ∧ c.fire.clkStop = false
      heard ∧ 2048 ≤ diff) ∧
    (
      let l : CellLane := CellLane.la
      let w : DWord := 0xBA00B20D1A9A33A8
      let s : State := onReset State.reset.chip
      let c := s.chip
      let tag := bits w.toNat 55 44
      let diff := (tag + 4096 - c.fld LDG_LSTAT_T) % 4096
      let heard := blockOk w = true ∧ c.laneFresh (cellLaneNum l) = false ∧ (l = .la ∨ c.dual = true) ∧ c.fire.clkStop = false
      heard ∧ 8 ≤ diff ∧ diff < 2048) ∧
    (
      let s : State := onReset { State.reset.chip with fire := { clkStop := true } }
      let c := s.chip
      c.fire.clkStop = true) ∧
    (
      let s : State := onReset { State.reset.chip with fire := { num := 1 } }
      let c := s.chip
      let due := (c.startTick c.fire.num).any fun t => t + c.fld LDG_LCTL_STAGGER ≤ c.ctick + 24
      due = false) ∧
    (
      let s : State := onReset State.reset.chip
      let c := s.chip
      let due := (c.startTick c.fire.num).any fun t => t + c.fld LDG_LCTL_STAGGER ≤ c.ctick + 24
      c.fire.clkStop = false ∧ due = true) ∧
    (
      let e : Fin 4 := 0
      let s : State := onReset { State.reset.chip with regs := [(0x4000200C, 0x50002), (0x40002100, 0x230005)] }
      let c := s.chip
      let blocked := c.fld LDG_LSTAT_STATE = 0 ∨ c.fld LDG_LSTAT_STATE = 1
      let ticks (n : Nat) : Prop := ∀ m, c.slotTicks = some m → n < m
      let reacting := c.flag CFL_REACT_BLK = true ∨ c.flag CFL_REACT_BYP = true ∨ c.flag CFL_REACT_HLD = true
      let due := (c.startTick c.fire.num).any fun t => t + c.fld LDG_LCTL_STAGGER ≤ c.ctick + 24
      let free := ¬ blocked ∧ ¬ reacting ∧ c.flag PWM_PCTL_MODE = false
      c.fire.clkStop = false ∧ c.flag PWM_PSTAT_HALTED = false ∧ free ∧ due = true ∧ c.dual = false ∧ ticks (c.fld LDG_LCTL_STAGGER) ∧ c.findEnt (c.fld LDG_LSTAT_T) = some e.val ∧ c.fld (cmtFld e 0) = 1 ∧ c.flag (ordBit e 0) = true) ∧
    (
      let s : State := onReset { State.reset.chip with regs := [(0x4000200C, 0x4227BF2)] }
      let c := s.chip
      let blocked := c.fld LDG_LSTAT_STATE = 0 ∨ c.fld LDG_LSTAT_STATE = 1
      let ticks (n : Nat) : Prop := ∀ m, c.slotTicks = some m → n < m
      let reacting := c.flag CFL_REACT_BLK = true ∨ c.flag CFL_REACT_BYP = true ∨ c.flag CFL_REACT_HLD = true
      let due := (c.startTick c.fire.num).any fun t => t + c.fld LDG_LCTL_STAGGER ≤ c.ctick + 24
      let free := ¬ blocked ∧ ¬ reacting ∧ c.flag PWM_PCTL_MODE = false
      c.fire.clkStop = false ∧ c.flag PWM_PSTAT_HALTED = false ∧ free ∧ due = true ∧ ticks (c.fld LDG_LCTL_STAGGER) ∧ c.findEnt (c.fld LDG_LSTAT_T) = none) ∧
    (
      let s : State := onReset State.reset.chip
      let c := s.chip
      c.fire.plans = []) ∧
    (
      let s : State := onReset { State.reset.chip with fire := { plans := [{ slot := 0, act := (Act.hold) }] } }
      let c := s.chip
      let p := { slot := 0, act := (Act.hold) }
      let ps := []
      c.fire.plans = p :: ps ∧ c.instantDue p = false) ∧
    (
      let s : State := onReset { State.reset.chip with fire := { plans := [{ slot := 4, act := (Act.pulse 3 77) }], starts := [(4, (some 0))], repCnt := 1 } }
      let c := s.chip
      let p := { slot := 4, act := (Act.pulse 3 77) }
      let ps := []
      c.fire.plans = p :: ps ∧ c.instantDue p = true ∧ c.flag PWM_PSTAT_HALTED = false ∧ c.flag PWM_PCTL_MODE = false ∧ c.fire.repCnt ≠ 0) ∧
    (
      let s : State := onReset { State.reset.chip with ctick := 0x6BF2, regs := [(0x40001038, 0x14000000), (0x40002000, 0x300A), (0x40002004, 200), (0x4000200C, 0x50002), (0x40002100, 0x230005), (0x40002104, 0xBC614E), (0x4000210C, 0xBC614E), (0x40002140, 0x30006), (0x40002144, 0xBC614E), (0x4000214C, 0xBC614E), (0x40002180, 0x90007), (0x40002184, 0xBC614E), (0x4000218C, 0xBC614E), (0x400021C0, 0x210009), (0x400021C4, 0xBC614E), (0x400021CC, 0xBC614E), (0x40003018, 100), (0x4000301C, 50), (0x40003030, 7), (0x40003050, 63)], fire := { num := 5, starts := [(4, (some 3)), (5, (some 30)), (6, (some 40))], pcnt := 50, haltByp := true } }
      let c := s.chip
      let blocked := c.fld LDG_LSTAT_STATE = 0 ∨ c.fld LDG_LSTAT_STATE = 1
      let reacting := c.flag CFL_REACT_BLK = true ∨ c.flag CFL_REACT_BYP = true ∨ c.flag CFL_REACT_HLD = true
      let free := ¬ blocked ∧ ¬ reacting ∧ c.flag PWM_PCTL_MODE = false
      free ∧ c.fire.stalled = false ∧ c.fire.clkStop = false ∧ c.fire.lastDl + 25600 ≤ c.ctick) ∧
    (
      let s : State := onReset State.reset.chip
      let c := s.chip
      let blocked := c.fld LDG_LSTAT_STATE = 0 ∨ c.fld LDG_LSTAT_STATE = 1
      let reacting := c.flag CFL_REACT_BLK = true ∨ c.flag CFL_REACT_BYP = true ∨ c.flag CFL_REACT_HLD = true
      let free := ¬ blocked ∧ ¬ reacting ∧ c.flag PWM_PCTL_MODE = false
      (¬ free ∨ c.fire.stalled = true ∨ c.ctick < c.fire.lastDl + 25600)) ∧
    (
      let v : Word := 0
      let org : Bool := true
      let s : State := onReset State.reset.chip
      let c := s.chip
      let a := if org then LDG_SLOT_ORG else LDG_SLOTS
      let x := v.toNat &&& (regWord a).rw
      x = c.reg a) ∧
    (
      let v : Word := 1
      let org : Bool := false
      let s : State := onReset State.reset.chip
      let c := s.chip
      let blocked := c.fld LDG_LSTAT_STATE = 0 ∨ c.fld LDG_LSTAT_STATE = 1
      let a := if org then LDG_SLOT_ORG else LDG_SLOTS
      let x := v.toNat &&& (regWord a).rw
      x ≠ c.reg a ∧ blocked) ∧
    (
      let v : Word := 1
      let org : Bool := false
      let s : State := onReset { State.reset.chip with regs := [(0x4000200C, 0x50002)] }
      let c := s.chip
      let blocked := c.fld LDG_LSTAT_STATE = 0 ∨ c.fld LDG_LSTAT_STATE = 1
      let a := if org then LDG_SLOT_ORG else LDG_SLOTS
      let x := v.toNat &&& (regWord a).rw
      x ≠ c.reg a ∧ (¬ blocked) ∧ c.fire.clkStop = false) ∧
    (
      let v : Word := 0
      let s : State := onReset State.reset.chip
      let c := s.chip
      let blocked := c.fld LDG_LSTAT_STATE = 0 ∨ c.fld LDG_LSTAT_STATE = 1
      (bits v.toNat 9 0 = c.fld LDG_LCTL_STAGGER ∨ blocked)) ∧
    (
      let v : Word := 0
      let s : State := onReset { State.reset.chip with regs := [(0x40002000, 1), (0x4000200C, 0x50002)] }
      let c := s.chip
      let blocked := c.fld LDG_LSTAT_STATE = 0 ∨ c.fld LDG_LSTAT_STATE = 1
      bits v.toNat 9 0 ≠ c.fld LDG_LCTL_STAGGER ∧ (¬ blocked) ∧ c.fire.clkStop = false) := by
  refine ⟨?_, ?_, ?_, ?_, ?_, ?_, ?_, ?_, ?_, ?_, ?_, ?_, ?_, ?_, ?_, ?_, ?_, ?_, ?_, ?_, ?_, ?_, ?_, ?_, ?_⟩ <;> (try dsimp only) <;> decide +kernel

theorem witness_AngleInputs :
    (
      let n : Fin 4 := 0
      let w : Word := 10
      let s : State := onReset { State.reset.chip with regs := [(0x200100, 1)] }
      let c := s.chip
      let en := c.flag (ANG_ICTL_EN n) = true
      let guarded := bit w.toNat 1 ≠ c.flag (ANG_ICTL_MODE n) ∨ bits w.toNat 17 16 ≠ c.fld (ANG_ICTL_MARK n)
      en ∧ guarded) ∧
    (
      let n : Fin 4 := 0
      let w : Word := 0
      let s : State := onReset State.reset.chip
      let c := s.chip
      let en := c.flag (ANG_ICTL_EN n) = true
      let guarded := bit w.toNat 1 ≠ c.flag (ANG_ICTL_MODE n) ∨ bits w.toNat 17 16 ≠ c.fld (ANG_ICTL_MARK n)
      (¬ (en ∧ guarded))) ∧
    (
      let n : Fin 4 := 0
      let s : State := onReset State.reset.chip
      let c := s.chip
      let en := c.flag (ANG_ICTL_EN n) = true
      (¬ en)) ∧
    (
      let n : Fin 4 := 0
      let held : BitVec 10 := 0
      let s : State := onReset { State.reset.chip with regs := [(0x200100, 1)] }
      let c := s.chip
      let en := c.flag (ANG_ICTL_EN n) = true
      let kept := held.toNat < c.fld (ANG_FILT_FILT_N n)
      en ∧ kept) ∧
    (
      let n : Fin 4 := 0
      let v : Lines := { a := true, b := false, z := false }
      let held : BitVec 10 := 5
      let s : State := onReset { State.reset.chip with regs := [(0x200100, 1), (0x200108, 0)], angin := [(0, { lines := ({ a := false, b := true, z := false }) })] }
      let c := s.chip
      let x := c.ain n
      let en := c.flag (ANG_ICTL_EN n) = true
      let o := x.lines
      let da := o.a ≠ v.a
      let db := o.b ≠ v.b
      let rising := o.z = false ∧ v.z = true
      let kept := held.toNat < c.fld (ANG_FILT_FILT_N n)
      let quad := en ∧ ¬ kept ∧ c.flag (ANG_ICTL_MODE n) = false ∧ c.fld (ANG_ICTL_MARK n) = 0
      quad ∧ (¬ rising) ∧ da ∧ db) ∧
    (
      let n : Fin 4 := 0
      let v : Lines := { a := false, b := false, z := false }
      let held : BitVec 10 := 5
      let s : State := onReset { State.reset.chip with regs := [(0x200100, 1), (0x200108, 0)], angin := [(0, { lines := ({ a := false, b := true, z := false }) })] }
      let c := s.chip
      let x := c.ain n
      let en := c.flag (ANG_ICTL_EN n) = true
      let o := x.lines
      let da := o.a ≠ v.a
      let db := o.b ≠ v.b
      let rising := o.z = false ∧ v.z = true
      let kept := held.toNat < c.fld (ANG_FILT_FILT_N n)
      let quad := en ∧ ¬ kept ∧ c.flag (ANG_ICTL_MODE n) = false ∧ c.fld (ANG_ICTL_MARK n) = 0
      quad ∧ (¬ rising) ∧ ((da ∧ ¬ db ∨ ¬ da ∧ db))) ∧
    (
      let n : Fin 4 := 0
      let v : Lines := { a := false, b := true, z := true }
      let held : BitVec 10 := 5
      let s : State := onReset { State.reset.chip with regs := [(0x200100, 1), (0x200108, 0)], angin := [(0, { lines := ({ a := false, b := true, z := false }) })] }
      let c := s.chip
      let x := c.ain n
      let en := c.flag (ANG_ICTL_EN n) = true
      let o := x.lines
      let da := o.a ≠ v.a
      let db := o.b ≠ v.b
      let rising := o.z = false ∧ v.z = true
      let kept := held.toNat < c.fld (ANG_FILT_FILT_N n)
      let quad := en ∧ ¬ kept ∧ c.flag (ANG_ICTL_MODE n) = false ∧ c.fld (ANG_ICTL_MARK n) = 0
      let m := Nat.max (c.fld (ANG_CPR_COUNT n)) 1
      let p := c.reg (ANG_POS n)
      quad ∧ rising ∧ (¬ da) ∧ (¬ db) ∧ ((p ≤ 2 ∨ m ≤ p + 2))) ∧
    (
      let n : Fin 4 := 2
      let v : Lines := { a := true, b := false, z := true }
      let held : BitVec 10 := 5
      let s : State := onReset { State.reset.chip with regs := [(0x200300, 1), (0x200308, 0), (0x200310, 3)], angin := [(2, { lines := ({ a := true, b := false, z := false }) })] }
      let c := s.chip
      let x := c.ain n
      let en := c.flag (ANG_ICTL_EN n) = true
      let o := x.lines
      let da := o.a ≠ v.a
      let db := o.b ≠ v.b
      let rising := o.z = false ∧ v.z = true
      let kept := held.toNat < c.fld (ANG_FILT_FILT_N n)
      let quad := en ∧ ¬ kept ∧ c.flag (ANG_ICTL_MODE n) = false ∧ c.fld (ANG_ICTL_MARK n) = 0
      let m := Nat.max (c.fld (ANG_CPR_COUNT n)) 1
      let p := c.reg (ANG_POS n)
      quad ∧ rising ∧ (¬ da) ∧ (¬ db) ∧ (¬ (p ≤ 2 ∨ m ≤ p + 2))) ∧
    (
      let n : Fin 4 := 0
      let s : State := onReset State.reset.chip
      let c := s.chip
      let x := c.ain n
      let win := 1000 * Nat.max (c.fld (ANG_CHAT_CHAT_WIN n)) 1
      c.tick < x.winAt + win) ∧
    (
      let n : Fin 4 := 0
      let s : State := onReset { State.reset.chip with time := 0x7D0, regs := [(0x200100, 1), (0x20011C, 0)] }
      let c := s.chip
      let x := c.ain n
      let en := c.flag (ANG_ICTL_EN n) = true
      let win := 1000 * Nat.max (c.fld (ANG_CHAT_CHAT_WIN n)) 1
      en ∧ x.winAt + win ≤ c.tick ∧ ((∀ d ∈ x.drop, d ≤ c.fld (ANG_CHAT_CHAT_MAX n)))) ∧
    (
      let n : Fin 4 := 0
      let s : State := onReset { State.reset.chip with time := 0x8B0, regs := [(0x200054, 1), (0x200074, 0xB0001), (0x200100, 1), (0x200108, 5), (0x20010C, 8), (0x200110, 5), (0x20011C, 4), (0x200200, 1), (0x200208, 5), (0x20020C, 8), (0x200210, 5), (0x20021C, 4), (0x200300, 1), (0x200308, 5), (0x20030C, 8), (0x200310, 5), (0x20031C, 4), (0x200400, 1), (0x200408, 5), (0x20040C, 8), (0x200410, 5), (0x20041C, 4)], angin := [(0, { lines := ({ a := false, b := true, z := false }), drop := [3, 0, 7], last := (some 3), hist := [4, 5], good := 1 }), (1, { lines := ({ a := false, b := true, z := false }), drop := [3, 0, 7], last := (some 3), hist := [4, 5], good := 1 }), (2, { lines := ({ a := false, b := true, z := false }), drop := [3, 0, 7], last := (some 3), hist := [4, 5], good := 1 }), (3, { lines := ({ a := false, b := true, z := false }), drop := [3, 0, 7], last := (some 3), hist := [4, 5], good := 1 })] }
      let c := s.chip
      let x := c.ain n
      let en := c.flag (ANG_ICTL_EN n) = true
      let win := 1000 * Nat.max (c.fld (ANG_CHAT_CHAT_WIN n)) 1
      let d := 7
      en ∧ x.winAt + win ≤ c.tick ∧ d ∈ x.drop ∧ c.fld (ANG_CHAT_CHAT_MAX n) < d) ∧
    (
      let n : Fin 4 := 0
      let s : State := onReset State.reset.chip
      let c := s.chip
      c.flag (ANG_ISTAT_FVALID n) = false) ∧
    (
      let n : Fin 4 := 0
      let s : State := onReset { State.reset.chip with time := 0x9BC, regs := [(0x200100, 257), (0x200108, 5), (0x20010C, 8), (0x200110, 1), (0x20011C, 4), (0x200200, 257), (0x200208, 5), (0x20020C, 8), (0x200210, 1), (0x20021C, 4), (0x200300, 257), (0x200308, 5), (0x20030C, 8), (0x200310, 1), (0x20031C, 4), (0x200400, 257), (0x200408, 5), (0x20040C, 0x848D1110), (0x200410, 1), (0x20041C, 4)], angin := [(0, { lines := ({ a := false, b := true, z := false }), drop := [3, 0, 7], last := (some 3), hist := [4, 5], zeroNext := true }), (1, { lines := ({ a := false, b := true, z := false }), drop := [3, 0, 7], last := (some 3), hist := [4, 5], zeroNext := true }), (2, { lines := ({ a := false, b := true, z := false }), drop := [3, 0, 7], last := (some 3), hist := [4, 5], zeroNext := true }), (3, { lines := ({ a := false, b := true, z := false }), drop := [3, 0, 7], last := (some 3), hist := [4, 5], zeroNext := true })] }
      let c := s.chip
      let en := c.flag (ANG_ICTL_EN n) = true
      en ∧ c.flag (ANG_ISTAT_LOS n) = false ∧ c.losDue n = true) ∧
    (
      let n : Fin 4 := 0
      let s : State := onReset State.reset.chip
      let c := s.chip
      (c.flag (ANG_ISTAT_LOS n) = true ∨ c.losDue n = false)) ∧
    (
      let n : Fin 4 := 0
      let w : Word := 8
      let s : State := onReset { State.reset.chip with regs := [(0x20010C, 8)] }
      let c := s.chip
      let count := bits w.toNat 23 0
      count = c.fld (ANG_CPR_COUNT n)) ∧
    (
      let n : Fin 4 := 0
      let w : Word := 0
      let s : State := onReset { State.reset.chip with regs := [(0x200100, 1)] }
      let c := s.chip
      let en := c.flag (ANG_ICTL_EN n) = true
      let count := bits w.toNat 23 0
      en ∧ count ≠ c.fld (ANG_CPR_COUNT n)) ∧
    (
      let b : Fin 4 := 0
      let w : Word := 0x3CB8
      let s : State := onReset State.reset.chip
      let c := s.chip
      let mag := Nat.min ((toSigned 16 (bits w.toNat 15 0) * toSigned 16 (bits w.toNat 15 0)
        + toSigned 16 (bits w.toNat 31 16) * toSigned 16 (bits w.toNat 31 16)).toNat / 2 ^ 14) 0xFFFF
      let inWin := c.fld (ANG_VWIN_VLO b) ≤ mag ∧ mag ≤ c.fld (ANG_VWIN_VHI b)
      inWin) ∧
    (
      let b : Fin 4 := 0
      let w : Word := 0
      let s : State := onReset State.reset.chip
      let c := s.chip
      let mag := Nat.min ((toSigned 16 (bits w.toNat 15 0) * toSigned 16 (bits w.toNat 15 0)
        + toSigned 16 (bits w.toNat 31 16) * toSigned 16 (bits w.toNat 31 16)).toNat / 2 ^ 14) 0xFFFF
      let inWin := c.fld (ANG_VWIN_VLO b) ≤ mag ∧ mag ≤ c.fld (ANG_VWIN_VHI b)
      (¬ inWin)) := by
  refine ⟨?_, ?_, ?_, ?_, ?_, ?_, ?_, ?_, ?_, ?_, ?_, ?_, ?_, ?_, ?_, ?_, ?_, ?_⟩ <;> (try dsimp only) <;> decide +kernel

theorem witness_TrellisAndBypass_TrellisInputs :
    (
      let levels : BitVec 4 := 8
      let g : Fin 4 := 3
      let s : State := onReset { State.reset.chip with ctick := 3 }
      let c := s.chip
      let runs := c.fire.clkStop = false
      let x := c.rb g
      let looks := c.flag TRL_TCTL_RB_EN = true ∧ runs ∧ c.rbTicks g 1 = true
      let ran := c.rbf ≤ x.run ∨ c.rbTicks g c.rbf = true
      let wrong := bit levels.toNat g ≠ bit (c.fld PWM_PSTAT_GATE) g
      looks ∧ wrong ∧ ran ∧ x.told = false ∧ x.bar = none) ∧
    (
      let levels : BitVec 4 := 0
      let g : Fin 4 := 0
      let s : State := onReset State.reset.chip
      let c := s.chip
      let runs := c.fire.clkStop = false
      let looks := c.flag TRL_TCTL_RB_EN = true ∧ runs ∧ c.rbTicks g 1 = true
      let wrong := bit levels.toNat g ≠ bit (c.fld PWM_PSTAT_GATE) g
      looks ∧ (¬ wrong)) ∧
    (
      let levels : BitVec 4 := 0
      let g : Fin 4 := 0
      let s : State := onReset { State.reset.chip with regs := [(0x40005000, 0)] }
      let c := s.chip
      let runs := c.fire.clkStop = false
      let x := c.rb g
      let looks := c.flag TRL_TCTL_RB_EN = true ∧ runs ∧ c.rbTicks g 1 = true
      let ran := c.rbf ≤ x.run ∨ c.rbTicks g c.rbf = true
      let wrong := bit levels.toNat g ≠ bit (c.fld PWM_PSTAT_GATE) g
      (¬ looks ∨ (wrong ∧ (x.told = true ∨ ¬ ran)))) ∧
    (
      let n : Fin 4 := 0
      let level : Bool := false
      let held : BitVec 5 := 0
      let s : State := onReset State.reset.chip
      let c := s.chip
      let runs := c.fire.clkStop = false
      let filt := Nat.min (Nat.max (c.fld TRL_DRVCFG_DFILT) 1) 16
      let on := level == bit (c.fld TRL_DRVCFG_DPOL) n
      let was := Assoc.get (fun _ => false) c.trl.drv n
      let passes := filt ≤ held.toNat ∧ runs ∧ was ≠ on
      (¬ passes)) ∧
    (
      let n : Fin 4 := 0
      let level : Bool := false
      let held : BitVec 5 := 1
      let s : State := onReset { State.reset.chip with regs := [(0x40005014, 0x5F00)], trl := { drv := [(0, true)] } }
      let c := s.chip
      let runs := c.fire.clkStop = false
      let filt := Nat.min (Nat.max (c.fld TRL_DRVCFG_DFILT) 1) 16
      let on := level == bit (c.fld TRL_DRVCFG_DPOL) n
      let was := Assoc.get (fun _ => false) c.trl.drv n
      let passes := filt ≤ held.toNat ∧ runs ∧ was ≠ on
      passes ∧ on = false) ∧
    (
      let n : Fin 4 := 1
      let level : Bool := false
      let held : BitVec 5 := 1
      let s : State := onReset { State.reset.chip with ctick := 880, regs := [(0x40003064, 1), (0x40005014, 0)], fire := { blankAt := [(1, [880])] } }
      let c := s.chip
      let runs := c.fire.clkStop = false
      let filt := Nat.min (Nat.max (c.fld TRL_DRVCFG_DFILT) 1) 16
      let on := level == bit (c.fld TRL_DRVCFG_DPOL) n
      let was := Assoc.get (fun _ => false) c.trl.drv n
      let passes := filt ≤ held.toNat ∧ runs ∧ was ≠ on
      let ts := c.ctick + 1 - held.toNat
      passes ∧ on = true ∧ c.blanked n ts = true ∧ c.blankOver n = false) ∧
    (
      let n : Fin 4 := 0
      let level : Bool := true
      let held : BitVec 5 := 7
      let s : State := onReset { State.reset.chip with ctick := 986, regs := [(0x40003060, 1), (0x40005014, 0x5F00)], fire := { blankAt := [(0, [980])] } }
      let c := s.chip
      let runs := c.fire.clkStop = false
      let filt := Nat.min (Nat.max (c.fld TRL_DRVCFG_DFILT) 1) 16
      let on := level == bit (c.fld TRL_DRVCFG_DPOL) n
      let was := Assoc.get (fun _ => false) c.trl.drv n
      let passes := filt ≤ held.toNat ∧ runs ∧ was ≠ on
      let ts := c.ctick + 1 - held.toNat
      let armed := bit (c.fld TRL_DRVCFG_DRVEN) n = true
      passes ∧ on = true ∧ c.blanked n ts = true ∧ c.blankOver n = true ∧ armed) ∧
    (
      let n : Fin 4 := 0
      let level : Bool := true
      let held : BitVec 5 := 1
      let s : State := onReset { State.reset.chip with regs := [(0x40005014, 0x5F00)] }
      let c := s.chip
      let runs := c.fire.clkStop = false
      let filt := Nat.min (Nat.max (c.fld TRL_DRVCFG_DFILT) 1) 16
      let on := level == bit (c.fld TRL_DRVCFG_DPOL) n
      let was := Assoc.get (fun _ => false) c.trl.drv n
      let passes := filt ≤ held.toNat ∧ runs ∧ was ≠ on
      let ts := c.ctick + 1 - held.toNat
      let armed := bit (c.fld TRL_DRVCFG_DRVEN) n = true
      passes ∧ on = true ∧ c.blanked n ts = false ∧ armed) ∧
    (
      let n : Fin 4 := 0
      let s : State := onReset { State.reset.chip with fire := { blankOpen := [(0, true)] }, trl := { drv := [(0, true)] } }
      let c := s.chip
      let runs := c.fire.clkStop = false
      let was := Assoc.get (fun _ => false) c.trl.drv n
      let armed := bit (c.fld TRL_DRVCFG_DRVEN) n = true
      let opened := Assoc.get (fun _ => false) c.fire.blankOpen n = true ∧ c.blankOver n = true ∧ runs
      let told := Assoc.get (fun _ => false) c.trl.tripped n
      opened ∧ was = true ∧ told = false ∧ armed) ∧
    (
      let n : Fin 4 := 0
      let s : State := onReset { State.reset.chip with fire := { blankOpen := [(0, true)] } }
      let c := s.chip
      let runs := c.fire.clkStop = false
      let was := Assoc.get (fun _ => false) c.trl.drv n
      let armed := bit (c.fld TRL_DRVCFG_DRVEN) n = true
      let opened := Assoc.get (fun _ => false) c.fire.blankOpen n = true ∧ c.blankOver n = true ∧ runs
      let told := Assoc.get (fun _ => false) c.trl.tripped n
      opened ∧ (was = false ∨ told = true ∨ ¬ armed)) ∧
    (
      let n : Fin 4 := 0
      let s : State := onReset State.reset.chip
      let c := s.chip
      let runs := c.fire.clkStop = false
      let opened := Assoc.get (fun _ => false) c.fire.blankOpen n = true ∧ c.blankOver n = true ∧ runs
      (¬ opened)) ∧
    (
      let s : State := onReset State.reset.chip
      let c := s.chip
      c.wetSample = false) ∧
    (
      let s : State := onReset State.reset.chip
      let c := s.chip
      c.flag TRL_TCTL_CIN_EN = false) ∧
    (
      let s : State := onReset { State.reset.chip with regs := [(0x40005000, 2)] }
      let c := s.chip
      c.flag TRL_TCTL_CIN_EN = true) ∧
    (
      let s : State := onReset { State.reset.chip with ctick := 800, regs := [(0x40005000, 2), (0x4000501C, 0x30003), (0x40005020, 1)] }
      let c := s.chip
      c.wetSample = true ∧ c.fld TRL_CINCFG_CFILT = 1) ∧
    (
      let s : State := onReset State.reset.chip
      let c := s.chip
      (c.flag TRL_TCTL_CIN_EN = false ∨ c.ctick < c.trl.chatAt + c.cinWin)) ∧
    (
      let s : State := onReset { State.reset.chip with ctick := 0x7730F0, regs := [(0x4000200C, 3), (0x40005000, 31), (0x40005004, 0x400000), (0x40005014, 0x5F01), (0x40005020, 0xA040A01), (0x40005024, 0x5040), (0x4000502C, 0x2D14)], trl := { bypfSt := 1, bypcSt := 1, locked := [(0, true), (1, true)], confAt := (some 2), low := true, dipAt := (some 10) } }
      let c := s.chip
      c.flag TRL_TCTL_CIN_EN = true ∧ c.trl.chatAt + c.cinWin ≤ c.ctick ∧ ((∀ j : Fin 4, Assoc.get (fun _ => 0) c.trl.rej j ≤ c.fld TRL_CINCFG_CHAT_MAX))) ∧
    (
      let i : Fin 4 := 1
      let s : State := onReset { State.reset.chip with ctick := 0x7730F0, regs := [(0x4000200C, 3), (0x40005000, 31), (0x40005014, 0x5F01), (0x40005020, 0xA040A01), (0x40005024, 0x5040), (0x4000502C, 0x1B00)], trl := { rej := [(1, 5)], disT := [(0, (some (0x5F5E100, none))), (1, (some (0x5F5E100, none)))] } }
      let c := s.chip
      let runs := c.fire.clkStop = false
      c.flag TRL_TCTL_CIN_EN = true ∧ c.trl.chatAt + c.cinWin ≤ c.ctick ∧ (c.fld TRL_CINCFG_CHAT_MAX < Assoc.get (fun _ => 0) c.trl.rej i) ∧ runs) ∧
    (
      let p : Fin 2 := 0
      let s : State := onReset { State.reset.chip with regs := [(0x40005000, 8), (0x4000502C, 0x1B00)], trl := { disT := [(0, (some (0x5F5986, none))), (1, (some (0x5F5E100, none)))] } }
      let c := s.chip
      let runs := c.fire.clkStop = false
      c.pairOn p = true ∧ c.fld (pairFld p) = 3 ∧ c.disDue p = true ∧ runs) ∧
    (
      let p : Fin 2 := 0
      let s : State := onReset State.reset.chip
      let c := s.chip
      (¬ (c.pairOn p = true ∧ c.fld (pairFld p) = 3 ∧ c.disDue p = true))) ∧
    (
      let w : Word := 2
      let s : State := onReset State.reset.chip
      let c := s.chip
      let runs := c.fire.clkStop = false
      let st (q : Nat) := pairState (c.fld (zoneFld (2 * q))) (c.fld (zoneFld (2 * q + 1)))
      let badRst := (bit w.toNat 1 = true ∧ st 0 ≠ 1 ∧ st 0 ≠ 2) ∨ (bit w.toNat 2 = true ∧ st 1 ≠ 1 ∧ st 1 ≠ 2)
      badRst ∧ runs) ∧
    (
      let w : Word := 0
      let s : State := onReset State.reset.chip
      let c := s.chip
      let st (q : Nat) := pairState (c.fld (zoneFld (2 * q))) (c.fld (zoneFld (2 * q + 1)))
      let badRst := (bit w.toNat 1 = true ∧ st 0 ≠ 1 ∧ st 0 ≠ 2) ∨ (bit w.toNat 2 = true ∧ st 1 ≠ 1 ∧ st 1 ≠ 2)
      (¬ badRst)) ∧
    (
      let n : Fin 4 := 0
      let level : Bool := false
      let s : State := onReset State.reset.chip
      let c := s.chip
      let on := level == bit (c.fld TRL_DRVCFG_DPOL) n
      let on := c.flag TRL_TCTL_VAUX_EN = true
      on ∧ c.trl.dipAt = none) ∧
    (
      let n : Fin 4 := 0
      let level : Bool := false
      let s : State := onReset { State.reset.chip with time := 0xFA0 }
      let c := s.chip
      let on := level == bit (c.fld TRL_DRVCFG_DPOL) n
      let on := c.flag TRL_TCTL_VAUX_EN = true
      on ∧ c.trl.dipAt = none ∧ c.trl.low = false ∧ c.trl.riseAt + 4000 ≤ c.time) ∧
    (
      let n : Fin 4 := 0
      let level : Bool := false
      let s : State := onReset State.reset.chip
      let c := s.chip
      let on := level == bit (c.fld TRL_DRVCFG_DPOL) n
      let on := c.flag TRL_TCTL_VAUX_EN = true
      on ∧ c.trl.dipAt = none ∧ (c.trl.low = true ∨ c.time < c.trl.riseAt + 4000)) ∧
    (
      let n : Fin 4 := 0
      let level : Bool := false
      let s : State := onReset { State.reset.chip with trl := { dipAt := (some 0) } }
      let c := s.chip
      let on := level == bit (c.fld TRL_DRVCFG_DPOL) n
      let on := c.flag TRL_TCTL_VAUX_EN = true
      let d := 0
      c.trl.dipAt = some d ∧ on ∧ (c.trl.dipUv = true ∨ c.time < d + 4000)) ∧
    (
      let n : Fin 4 := 0
      let level : Bool := false
      let s : State := onReset { State.reset.chip with time := 0xFA0, trl := { dipAt := (some 0) } }
      let c := s.chip
      let runs := c.fire.clkStop = false
      let on := level == bit (c.fld TRL_DRVCFG_DPOL) n
      let on := c.flag TRL_TCTL_VAUX_EN = true
      let d := 0
      c.trl.dipAt = some d ∧ on ∧ c.trl.dipUv = false ∧ d + 4000 ≤ c.time ∧ runs) ∧
    (
      let n : Fin 4 := 0
      let level : Bool := false
      let s : State := onReset { State.reset.chip with trl := { dipAt := (some 0) } }
      let c := s.chip
      let on := level == bit (c.fld TRL_DRVCFG_DPOL) n
      let on := c.flag TRL_TCTL_VAUX_EN = true
      let d := 0
      c.trl.dipAt = some d ∧ on ∧ c.time < d + 4000) ∧
    (
      let n : Fin 4 := 0
      let level : Bool := false
      let s : State := onReset { State.reset.chip with trl := { dipAt := (some 0) } }
      let c := s.chip
      let on := level == bit (c.fld TRL_DRVCFG_DPOL) n
      let on := c.flag TRL_TCTL_VAUX_EN = true
      let d := 0
      c.trl.dipAt = some d ∧ on) ∧
    (
      let n : Fin 4 := 0
      let level : Bool := false
      let s : State := onReset { State.reset.chip with regs := [(0x40005000, 0)] }
      let c := s.chip
      let on := level == bit (c.fld TRL_DRVCFG_DPOL) n
      let on := c.flag TRL_TCTL_VAUX_EN = true
      (¬ on)) := by
  refine ⟨?_, ?_, ?_, ?_, ?_, ?_, ?_, ?_, ?_, ?_, ?_, ?_, ?_, ?_, ?_, ?_, ?_, ?_, ?_, ?_, ?_, ?_, ?_, ?_, ?_, ?_, ?_, ?_, ?_, ?_⟩ <;> (try dsimp only) <;> decide +kernel

theorem witness_TrellisAndBypass_BypassSequence :
    (
      let s : State := onReset { State.reset.chip with regs := [(0x4000200C, 1)] }
      let c := s.chip
      let ready := c.fld LDG_LSTAT_STATE = 1 ∨ c.fld LDG_LSTAT_STATE = 2
      ready ∧ c.fire.clkStop = false ∧ c.sys.stopCell = false ∧ c.flag TRL_TSTAT_BYP_RUN = false) ∧
    (
      let s : State := onReset { State.reset.chip with regs := [(0x4000200C, 2), (0x40005004, 0x400000)] }
      let c := s.chip
      let ready := c.fld LDG_LSTAT_STATE = 1 ∨ c.fld LDG_LSTAT_STATE = 2
      ready ∧ c.flag TRL_TSTAT_BYP_RUN = true) ∧
    (
      let s : State := onReset State.reset.chip
      let c := s.chip
      let ready := c.fld LDG_LSTAT_STATE = 1 ∨ c.fld LDG_LSTAT_STATE = 2
      (¬ ready) ∧ c.fire.clkStop = false) ∧
    (
      let s : State := onReset { State.reset.chip with regs := [(0x40005004, 0x400000), (0x40005018, 1)], trl := { bypfSt := 0 } }
      let c := s.chip
      let live := c.flag TRL_TSTAT_BYP_RUN = true ∧ c.fire.clkStop = false
      let dly := c.fld TRL_BYPCFG_BYPC_DLY
      live ∧ c.trl.bypfSt = 0 ∧ dly ≠ 0 ∧ c.bypReadsL = true) ∧
    (
      let s : State := onReset { State.reset.chip with ctick := 400, regs := [(0x40005004, 0x400000), (0x40005018, 1)], trl := { bypfSt := 0 } }
      let c := s.chip
      let live := c.flag TRL_TSTAT_BYP_RUN = true ∧ c.fire.clkStop = false
      let dly := c.fld TRL_BYPCFG_BYPC_DLY
      live ∧ c.trl.bypfSt = 0 ∧ dly ≠ 0 ∧ c.trl.bypStart + 400 ≤ c.ctick) ∧
    (
      let s : State := onReset { State.reset.chip with regs := [(0x40005004, 0x400000)], trl := { bypfSt := 0, bypcSt := 0 } }
      let c := s.chip
      let live := c.flag TRL_TSTAT_BYP_RUN = true ∧ c.fire.clkStop = false
      let dly := c.fld TRL_BYPCFG_BYPC_DLY
      live ∧ c.trl.bypfSt = 0 ∧ dly = 0 ∧ c.trl.bypcSt = 0 ∧ c.bypReadsL = true) ∧
    (
      let s : State := onReset { State.reset.chip with trl := { stuck := [(0, (some true))] } }
      let c := s.chip
      c.bypReadsL = false) ∧
    (
      let s : State := onReset State.reset.chip
      let c := s.chip
      c.ctick < c.trl.bypStart + 400) ∧
    (
      let s : State := onReset { State.reset.chip with ctick := 0x862B5, regs := [(0x4000200C, 2), (0x40005000, 31), (0x40005004, 0x400000), (0x40005014, 0x5F01), (0x40005018, 0x10101), (0x40005020, 0xA040A01), (0x40005024, 0x5040)], trl := { bypStart := 406, bypcAt := 0x61A80, bypcSt := 0 } }
      let c := s.chip
      let live := c.flag TRL_TSTAT_BYP_RUN = true ∧ c.fire.clkStop = false
      let ms (n : Nat) : Nat := 400000 * n
      let dly := c.fld TRL_BYPCFG_BYPC_DLY
      live ∧ c.trl.bypcSt = 0 ∧ dly ≠ 0 ∧ c.trl.bypStart + ms dly ≤ c.ctick) ∧
    (
      let s : State := onReset State.reset.chip
      let c := s.chip
      let ms (n : Nat) : Nat := 400000 * n
      let dly := c.fld TRL_BYPCFG_BYPC_DLY
      (dly = 0 ∨ c.ctick < c.trl.bypStart + ms dly)) ∧
    (
      let s : State := onReset { State.reset.chip with ctick := 0x17A284, regs := [(0x4000200C, 2), (0x40005000, 31), (0x40005004, 0x400000), (0x40005014, 0x5F01), (0x40005018, 0x10300), (0x40005020, 0xA040A01), (0x40005024, 0x5040)], trl := { bypfSt := 1, bypcSt := 0 } }
      let c := s.chip
      let live := c.flag TRL_TSTAT_BYP_RUN = true ∧ c.fire.clkStop = false
      let free := c.sys.heldWarm = false
      let ms (n : Nat) : Nat := 400000 * n
      let hold := ms (Nat.max (c.fld TRL_BYPCFG_BYPF_HOLD) 1)
      live ∧ free ∧ c.trl.bypfSt = 1 ∧ c.trl.bypfAt + hold ≤ c.ctick) ∧
    (
      let s : State := onReset { State.reset.chip with ctick := 0x927B3C, regs := [(0x4000200C, 2), (0x40005000, 31), (0x40005004, 0x400000), (0x40005014, 0x5F01), (0x40005020, 0xA040A01), (0x40005024, 0x5040)], trl := { bypfSt := 0, bypcSt := 1, confAt := (some 0x269EB3) } }
      let c := s.chip
      let live := c.flag TRL_TSTAT_BYP_RUN = true ∧ c.fire.clkStop = false
      let free := c.sys.heldWarm = false
      let ms (n : Nat) : Nat := 400000 * n
      let d := 0x269EB3
      c.trl.confAt = some d ∧ live ∧ free ∧ c.trl.bypcSt = 1 ∧ d + ms 10 ≤ c.ctick) ∧
    (
      let s : State := onReset { State.reset.chip with ctick := 0x27B34D, regs := [(0x4000200C, 2), (0x40005000, 31), (0x40005004, 0x400000), (0x40005014, 0x5F01), (0x40005018, 0x50002), (0x40005020, 0xA040A01), (0x40005024, 0x5040)], trl := { bypfSt := 1, bypcSt := 1 } }
      let c := s.chip
      let live := c.flag TRL_TSTAT_BYP_RUN = true ∧ c.fire.clkStop = false
      let free := c.sys.heldWarm = false
      let ms (n : Nat) : Nat := 400000 * n
      let travel := ms (Nat.max (c.fld TRL_BYPCFG_TRAVEL) 1)
      live ∧ free ∧ c.trl.bypcSt = 1 ∧ c.trl.confAt = none ∧ c.trl.bypcAt + travel ≤ c.ctick) ∧
    (
      let s : State := onReset { State.reset.chip with ctick := 0x62D44, regs := [(0x4000200C, 2), (0x40005000, 31), (0x40005004, 0x400000), (0x40005014, 0x5F01), (0x40005018, 0x60100), (0x40005020, 0xA040A01), (0x40005024, 0x5040)], trl := { bypfSt := 1 }, sys := { heldWarm := true } }
      let c := s.chip
      let live := c.flag TRL_TSTAT_BYP_RUN = true ∧ c.fire.clkStop = false
      let ms (n : Nat) : Nat := 400000 * n
      let hold := ms (Nat.max (c.fld TRL_BYPCFG_BYPF_HOLD) 1)
      live ∧ c.sys.heldWarm = true ∧ c.trl.bypfSt = 1 ∧ c.trl.bypcSt = 2 ∧ c.trl.bypfAt + hold ≤ c.ctick) ∧
    (
      let s : State := onReset State.reset.chip
      let c := s.chip
      let free := c.sys.heldWarm = false
      let ms (n : Nat) : Nat := 400000 * n
      let hold := ms (Nat.max (c.fld TRL_BYPCFG_BYPF_HOLD) 1)
      free ∧ c.ctick < c.trl.bypfAt + hold) ∧
    (
      let s : State := onReset State.reset.chip
      let c := s.chip
      let free := c.sys.heldWarm = false
      let ms (n : Nat) : Nat := 400000 * n
      let travel := ms (Nat.max (c.fld TRL_BYPCFG_TRAVEL) 1)
      free ∧ c.ctick < c.trl.bypcAt + travel) ∧
    (
      let s : State := onReset { State.reset.chip with trl := { confAt := (some 0) } }
      let c := s.chip
      let free := c.sys.heldWarm = false
      let ms (n : Nat) : Nat := 400000 * n
      let d := 0
      free ∧ c.trl.confAt = some d ∧ c.ctick < d + ms 10) ∧
    (
      let s : State := onReset State.reset.chip
      let c := s.chip
      let live := c.flag TRL_TSTAT_BYP_RUN = true ∧ c.fire.clkStop = false
      let free := c.sys.heldWarm = false
      free ∧ (¬ live)) ∧
    (
      let s : State := onReset State.reset.chip
      let c := s.chip
      let free := c.sys.heldWarm = false
      free ∧ c.trl.bypfSt = 2) ∧
    (
      let s : State := onReset State.reset.chip
      let c := s.chip
      let free := c.sys.heldWarm = false
      free ∧ c.trl.bypcSt = 2) := by
  refine ⟨?_, ?_, ?_, ?_, ?_, ?_, ?_, ?_, ?_, ?_, ?_, ?_, ?_, ?_, ?_, ?_, ?_, ?_, ?_, ?_⟩ <;> (try dsimp only) <;> decide +kernel

theorem witness_BelvedereAndSlots_BelvedereInputs :
    (
      let n : Fin 192 := 0
      let w : DWord := 0
      let s : State := onReset State.reset.chip
      let c := s.chip
      blockOk w = false ∧ c.laneFresh n = false) ∧
    (
      let n : Fin 192 := 1
      let w : DWord := 0x7606738706BB563A
      let s : State := onReset { State.reset.chip with regs := [(0x1010000, 2)] }
      let c := s.chip
      let meas := c.flag (LN_LCTL_MEAS (laneBase n)) = true
      let good := blockOk w = true ∧ c.laneFresh n = false
      good ∧ meas) ∧
    (
      let n : Fin 192 := 0
      let w : DWord := 0x3C06700012340CDD
      let s : State := onReset State.reset.chip
      let c := s.chip
      let meas := c.flag (LN_LCTL_MEAS (laneBase n)) = true
      let good := blockOk w = true ∧ c.laneFresh n = false
      good ∧ (¬ meas)) ∧
    (
      let n : Fin 192 := 0
      let w : DWord := 0x3C06700012340CDD
      let s : State := onReset State.reset.chip
      let c := s.chip
      let meas := c.flag (LN_LCTL_MEAS (laneBase n)) = true
      let good := blockOk w = true ∧ c.laneFresh n = false
      good ∧ (¬ meas) ∧ c.flag BLV_BCTL_EN = false) ∧
    (
      let n : Fin 192 := 1
      let w : DWord := 0x10064153DA102719
      let s : State := onReset { State.reset.chip with regs := [(0x300000, 1)], blv := { obs := [(1, { seen := [100] })] } }
      let c := s.chip
      let meas := c.flag (LN_LCTL_MEAS (laneBase n)) = true
      let good := blockOk w = true ∧ c.laneFresh n = false
      let k := c.slotOfTag (bits w.toNat 55 44)
      good ∧ (¬ meas) ∧ c.flag BLV_BCTL_EN = true ∧ (c.obs n).seen.contains k = true) ∧
    (
      let n : Fin 192 := 0
      let w : DWord := 0xBA03C00012340CA6
      let s : State := onReset { State.reset.chip with regs := [(0x300000, 1)] }
      let c := s.chip
      let meas := c.flag (LN_LCTL_MEAS (laneBase n)) = true
      let good := blockOk w = true ∧ c.laneFresh n = false
      let k := c.slotOfTag (bits w.toNat 55 44)
      good ∧ (¬ meas) ∧ c.flag BLV_BCTL_EN = true ∧ (c.obs n).seen.contains k = false) ∧
    (
      let n : Fin 192 := 0
      let w : DWord := 0x190665225288A311
      let s : State := onReset { State.reset.chip with regs := [(0x1000000, 50)] }
      let c := s.chip
      let meas := c.flag (LN_LCTL_MEAS (laneBase n)) = true
      let good := blockOk w = true ∧ c.laneFresh n = false
      let inputs := (List.range 4).filter fun m => c.flag (BLV_MIN_CTL_EN m) && c.fld (BLV_MIN_CTL_LANE m) == n.val
      good ∧ meas ∧ inputs = []) ∧
    (
      let n : Fin 192 := 0
      let w : DWord := 0xF306AC0012340DFC
      let s : State := onReset { State.reset.chip with regs := [(0x300048, 0x80000000), (0x1000000, 2)] }
      let c := s.chip
      let meas := c.flag (LN_LCTL_MEAS (laneBase n)) = true
      let good := blockOk w = true ∧ c.laneFresh n = false
      let inputs := (List.range 4).filter fun m => c.flag (BLV_MIN_CTL_EN m) && c.fld (BLV_MIN_CTL_LANE m) == n.val
      let m := 1
      good ∧ meas ∧ inputs = [m]) ∧
    (
      let v : Word := 0
      bit v.toNat 0 = false) ∧
    (
      let v : Word := 1
      bit v.toNat 0 = true) ∧
    (
      let p : Plane := Plane.b
      let s : State := onReset State.reset.chip
      let c := s.chip
      planeNum p ≠ c.fld BND_NCTL_RXPLANE) ∧
    (
      let ra : Word := 0
      let p : Plane := Plane.a
      let s : State := onReset State.reset.chip
      let c := s.chip
      let j := c.slotOfTag (ra.toNat % 4096)
      let late := c.blv.frozen.contains j = true ∨ j ≤ c.slotNow + 1
      planeNum p = c.fld BND_NCTL_RXPLANE ∧ late) ∧
    (
      let ra : Word := 0x7A810EB
      let p : Plane := Plane.b
      let s : State := onReset { State.reset.chip with regs := [(0x400000, 16)] }
      let c := s.chip
      let j := c.slotOfTag (ra.toNat % 4096)
      let late := c.blv.frozen.contains j = true ∨ j ≤ c.slotNow + 1
      planeNum p = c.fld BND_NCTL_RXPLANE ∧ (¬ late)) := by
  refine ⟨?_, ?_, ?_, ?_, ?_, ?_, ?_, ?_, ?_, ?_, ?_, ?_, ?_⟩ <;> (try dsimp only) <;> decide +kernel

theorem witness_BelvedereAndSlots_SlotStarts :
    (
      let s : State := onReset State.reset.chip
      let c := s.chip
      let n := c.slotNow
      c.blv.due = none ∧ n < c.blv.next) ∧
    (
      let s : State := onReset { State.reset.chip with doms := [(2, { acc := 0x10147AE13FFFFFFB5B })] }
      let c := s.chip
      let n := c.slotNow
      c.blv.due = none ∧ c.blv.next ≤ n) ∧
    (
      let s : State := onReset { State.reset.chip with blv := { due := (some 0) } }
      let c := s.chip
      let m := 0
      c.blv.due = some m) := by
  refine ⟨?_, ?_, ?_⟩ <;> (try dsimp only) <;> decide +kernel

theorem witness_PlanAndCommit_PlanMerge :
    (
      let s : State := onReset State.reset.chip
      let c := s.chip
      let merge := c.flag BLV_BCTL_MERGE = true
      (¬ merge)) ∧
    (
      let f : GatherFrame := { tag := 4, keyId := 13, src := 64, keysC := [(0xFE6C, 8)], keysD := [(0xF364, 1), (4, 225)], eofOk := true }
      let s : State := onReset { State.reset.chip with regs := [(0x300000, 2), (0x30000C, 0)] }
      let c := s.chip
      let kf := c.slotOfTag f.tag.toNat
      let merge := c.flag BLV_BCTL_MERGE = true
      merge ∧ c.theMerge kf = none ∧ 2 ≤ c.nhub) ∧
    (
      let f : GatherFrame := { tag := 101, keyId := 101, src := 1, keysC := [(0x800, 9), (6, 8), (14, 0)], keysD := [(2, 9), (5, 0)], eofOk := false }
      let s : State := onReset { State.reset.chip with regs := [(0x300000, 2)], blv := { merges := [{ slot := 101, at' := 0, replan := false, closed := true }] } }
      let c := s.chip
      let kf := c.slotOfTag f.tag.toNat
      let merge := c.flag BLV_BCTL_MERGE = true
      let m := { slot := 101, at' := 0, replan := false, closed := true }
      c.theMerge kf = some m ∧ merge ∧ m.closed = true ∧ (m.lists.any (fun x => x.1 == f.src.toNat) = false)) ∧
    (
      let tag : BitVec 12 := 99
      let s : State := onReset { State.reset.chip with blv := { merges := [{ slot := 99, at' := 0, replan := false, closed := true }] } }
      let c := s.chip
      let k := c.slotOfTag tag.toNat
      let m := { slot := 99, at' := 0, replan := false, closed := true }
      c.theMerge k = some m ∧ m.closed = true ∧ m.done = false) ∧
    (
      let tag : BitVec 12 := 100
      let s : State := onReset { State.reset.chip with blv := { merges := [{ slot := 100, at' := 0, replan := false }] } }
      let c := s.chip
      let k := c.slotOfTag tag.toNat
      let m := { slot := 100, at' := 0, replan := false }
      c.theMerge k = some m ∧ (m.closed = false ∨ m.done = true)) ∧
    (
      let tag : BitVec 12 := 0
      let s : State := onReset State.reset.chip
      let c := s.chip
      let k := c.slotOfTag tag.toNat
      c.theMerge k = none) ∧
    (
      let tag : BitVec 12 := 100
      let s : State := onReset { State.reset.chip with time := 0x610, regs := [(0x100300, 1), (0x100338, 0x400000), (0x300000, 3), (0x30000C, 768), (0x300010, 100), (0x400000, 29), (0x400010, 7), (0x1000004, 5), (0x1010004, 5), (0x1020004, 6)], doms := [(2, { acc := 0x10147AE140000000000 })], blv := { next := 100, obs := [(0, {}), (1, { seen := [100] }), (2, { info := (some { slot := 1, vcap := 2, tj := 3, state := 3, supp := false, fb := true }) })], fc := [(101, (some { n := 3 })), (102, (some { n := 4 }))], fz := [(97, { n := 2, tol := 3 }), (98, { n := 3, tol := 3 }), (99, { n := 4, tol := 3 }), (100, { tol := 3 }), (101, { n := 1, tol := 3 }), (102, { n := 2, tol := 3 }), (103, { n := 3, tol := 3 }), (104, { n := 4, tol := 3 }), (105, { tol := 3 }), (106, { n := 1, tol := 3 }), (107, { n := 2, tol := 3 })], frozen := [98, 99, 100, 101], inputs := [(97, (some { lanes := [0, 1], cells := [{ lane := 0, w := 1, baseN := 5, base0 := 6, baseP := 7, rank := (some (1, 2)) }, { lane := 1, w := 0, baseN := 5, base0 := 9, baseP := 7, rank := none }], hyst := 3, keyId := 4 })), (98, (some { lanes := [0, 1], cells := [{ lane := 0, w := 1, baseN := 5, base0 := 6, baseP := 7, rank := (some (1, 2)) }, { lane := 1, w := 0, baseN := 5, base0 := 9, baseP := 7, rank := none }], hyst := 3, keyId := 4 })), (99, (some { lanes := [0, 1], cells := [{ lane := 0, w := 1, baseN := 5, base0 := 6, baseP := 7, rank := (some (1, 2)) }, { lane := 1, w := 0, baseN := 5, base0 := 9, baseP := 7, rank := none }], hyst := 3, keyId := 4 })), (100, (some { lanes := [0, 1], cells := [{ lane := 0, w := 1, baseN := 5, base0 := 6, baseP := 7, rank := (some (1, 2)) }, { lane := 1, w := 0, baseN := 5, base0 := 9, baseP := 7, rank := none }], hyst := 3, keyId := 4 })), (101, (some { lanes := [0, 1], cells := [{ lane := 0, w := 1, baseN := 5, base0 := 6, baseP := 7, rank := (some (1, 2)) }, { lane := 1, w := 0, baseN := 5, base0 := 9, baseP := 7, rank := none }], hyst := 3, keyId := 4 })), (102, (some { lanes := [0, 1], cells := [{ lane := 0, w := 1, baseN := 5, base0 := 6, baseP := 7, rank := (some (1, 2)) }, { lane := 1, w := 0, baseN := 5, base0 := 9, baseP := 7, rank := none }], hyst := 3, keyId := 4 })), (103, (some { lanes := [0, 1], cells := [{ lane := 0, w := 1, baseN := 5, base0 := 6, baseP := 7, rank := (some (1, 2)) }, { lane := 1, w := 0, baseN := 5, base0 := 9, baseP := 7, rank := none }], hyst := 3, keyId := 4 })), (104, (some { lanes := [0, 1], cells := [{ lane := 0, w := 1, baseN := 5, base0 := 6, baseP := 7, rank := (some (1, 2)) }, { lane := 1, w := 0, baseN := 5, base0 := 9, baseP := 7, rank := none }], hyst := 3, keyId := 4 })), (105, (some { lanes := [0, 1], cells := [{ lane := 0, w := 1, baseN := 5, base0 := 6, baseP := 7, rank := (some (1, 2)) }, { lane := 1, w := 0, baseN := 5, base0 := 9, baseP := 7, rank := none }], hyst := 3, keyId := 4 })), (106, (some { lanes := [0, 1], cells := [{ lane := 0, w := 1, baseN := 5, base0 := 6, baseP := 7, rank := (some (1, 2)) }, { lane := 1, w := 0, baseN := 5, base0 := 9, baseP := 7, rank := none }], hyst := 3, keyId := 4 })), (107, (some { lanes := [0, 1], cells := [{ lane := 0, w := 1, baseN := 5, base0 := 6, baseP := 7, rank := (some (1, 2)) }, { lane := 1, w := 0, baseN := 5, base0 := 9, baseP := 7, rank := none }], hyst := 3, keyId := 4 }))], gen := [(100, 2)], sent := [(97, [(0, 1, 2, false)]), (98, [(0, 1, 2, false)]), (99, [(0, 1, 2, false)]), (100, [(0, 1, 2, false)]), (101, [(0, 1, 2, false)]), (102, [(0, 1, 2, false)]), (103, [(0, 1, 2, false)]), (104, [(0, 1, 2, false)]), (105, [(0, 1, 2, false)]), (106, [(0, 1, 2, false)]), (107, [(0, 1, 2, false)])], runs := [{ slot := 100, at' := 1, gen := 1, replan := true, repair := [0], lc := [(5, 0), (6, 1)], ld := [(6, 1), (5, 0)], tjw := [0] }, { slot := 101, at' := 2, gen := 1, replan := false, repair := [0], lc := [(5, 0), (6, 1)], ld := [(6, 1), (5, 0)], tjw := [0] }], merges := [{ slot := 99, at' := 5, replan := false, lists := [(3, 4, [(5, 0), (6, 1)], [(6, 1), (5, 0)]), (5, 6, [(5, 3)], [(6, 3)])], closed := true }, { slot := 100, at' := 5, replan := false, lists := [(3, 4, [(5, 0), (6, 1)], [(6, 1), (5, 0)]), (5, 6, [(5, 3)], [(6, 3)])] }, { slot := 101, at' := 5, replan := false, lists := [(3, 4, [(5, 0), (6, 1)], [(6, 1), (5, 0)]), (5, 6, [(5, 3)], [(6, 3)])], closed := true, done := true }], cms := [(97, (some { first := 0x610001234, seen := [0x610001234], at' := 9 })), (98, (some { first := 0x620001234, seen := [0x620001234], at' := 9, tested := true })), (99, (some { first := 0x630001234, seen := [0x630001234], at' := 9 })), (100, (some { first := 0x640001234, seen := [0x640001234], at' := 9, tested := true })), (101, (some { first := 0x650001234, seen := [0x650001234], at' := 9 })), (102, (some { first := 0x660001234, seen := [0x660001234], at' := 9, tested := true })), (103, (some { first := 0x670001234, seen := [0x670001234], at' := 9 })), (104, (some { first := 0x680001234, seen := [0x680001234], at' := 9, tested := true })), (105, (some { first := 0x690001234, seen := [0x690001234], at' := 9 })), (106, (some { first := 0x6A0001234, seen := [0x6A0001234], at' := 9, tested := true })), (107, (some { first := 0x6B0001234, seen := [0x6B0001234], at' := 9 }))] } }
      let c := s.chip
      let k := c.slotOfTag tag.toNat
      let merge := c.flag BLV_BCTL_MERGE = true
      let m := { slot := 100, at' := 5, replan := false, lists := [(3, 4, [(5, 0), (6, 1)], [(6, 1), (5, 0)]), (5, 6, [(5, 3)], [(6, 3)])] }
      c.theMerge k = some m ∧ m.closed = false ∧ merge ∧ c.planStart m + 750 ≤ c.tick) ∧
    (
      let tag : BitVec 12 := 99
      let s : State := onReset { State.reset.chip with blv := { merges := [{ slot := 99, at' := 0, replan := false }] } }
      let c := s.chip
      let k := c.slotOfTag tag.toNat
      let merge := c.flag BLV_BCTL_MERGE = true
      let m := { slot := 99, at' := 0, replan := false }
      c.theMerge k = some m ∧ (m.closed = true ∨ ¬ merge ∨ c.tick < c.planStart m + 750)) ∧
    (
      let g : RanksFrame := { tag := 4, ranksC := [], ranksD := [256], eofOk := false }
      let s : State := onReset State.reset.chip
      let c := s.chip
      let kg := c.slotOfTag g.tag.toNat
      (c.theRun kg = none ∨ g.eofOk = false)) ∧
    (
      let g : RanksFrame := { tag := 100, ranksC := [0x800], ranksD := [2], eofOk := true }
      let s : State := onReset { State.reset.chip with blv := { runs := [{ slot := 100, at' := 0, gen := 0, replan := false, repair := [], lc := [], ld := [], tjw := [] }] } }
      let c := s.chip
      let kg := c.slotOfTag g.tag.toNat
      let r := { slot := 100, at' := 0, gen := 0, replan := false, repair := [], lc := [], ld := [], tjw := [] }
      c.theRun kg = some r ∧ g.eofOk = true) ∧
    (
      let tag : BitVec 12 := 0
      let s : State := onReset State.reset.chip
      let c := s.chip
      let k := c.slotOfTag tag.toNat
      c.theRun k = none) ∧
    (
      let tag : BitVec 12 := 100
      let s : State := onReset { State.reset.chip with blv := { runs := [{ slot := 100, at' := 0, gen := 0, replan := false, repair := [], lc := [], ld := [], tjw := [] }] } }
      let c := s.chip
      let k := c.slotOfTag tag.toNat
      let limit := if c.flag BLV_GROUP_SMALL then 900 else 1500
      let r := { slot := 100, at' := 0, gen := 0, replan := false, repair := [], lc := [], ld := [], tjw := [] }
      c.theRun k = some r ∧ c.tick < r.at' + limit) ∧
    (
      let tag : BitVec 12 := 100
      let s : State := onReset { State.reset.chip with time := 0xBB8, blv := { runs := [{ slot := 100, at' := 0, gen := 0, replan := false, repair := [], lc := [], ld := [], tjw := [] }] } }
      let c := s.chip
      let k := c.slotOfTag tag.toNat
      let limit := if c.flag BLV_GROUP_SMALL then 900 else 1500
      let r := { slot := 100, at' := 0, gen := 0, replan := false, repair := [], lc := [], ld := [], tjw := [] }
      c.theRun k = some r ∧ r.at' + limit ≤ c.tick) := by
  refine ⟨?_, ?_, ?_, ?_, ?_, ?_, ?_, ?_, ?_, ?_, ?_, ?_, ?_⟩ <;> (try dsimp only) <;> decide +kernel

theorem witness_PlanAndCommit_CommitRelay :
    (
      let p : Plane := Plane.b
      let s : State := onReset State.reset.chip
      let c := s.chip
      let heard := planeNum p = c.fld BND_NCTL_RXPLANE ∧ c.flag BND_NCTL_EN = true
      (¬ heard)) ∧
    (
      let p : Plane := Plane.a
      let w : DWord := 0
      let s : State := onReset { State.reset.chip with regs := [(0x400000, 1)] }
      let c := s.chip
      let heard := planeNum p = c.fld BND_NCTL_RXPLANE ∧ c.flag BND_NCTL_EN = true
      let n := c.slotOfTag (bits w.toNat 55 44)
      heard ∧ c.cmt n = none) ∧
    (
      let p : Plane := Plane.b
      let w : DWord := 0xC50620001234018F
      let s : State := onReset { State.reset.chip with regs := [(0x400000, 29)], blv := { cms := [(98, (some { first := 0, seen := [0x620001234], at' := 0 }))] } }
      let c := s.chip
      let heard := planeNum p = c.fld BND_NCTL_RXPLANE ∧ c.flag BND_NCTL_EN = true
      let n := c.slotOfTag (bits w.toNat 55 44)
      let x := bits w.toNat 55 16
      let m := { first := 0, seen := [0x620001234], at' := 0 }
      c.cmt n = some m ∧ heard ∧ m.seen.contains x = true) ∧
    (
      let p : Plane := Plane.a
      let w : DWord := 0xB0630F9BEB05CDF
      let s : State := onReset { State.reset.chip with regs := [(0x400000, 1)], blv := { cms := [(99, (some { first := 0, seen := [], at' := 0 }))] } }
      let c := s.chip
      let heard := planeNum p = c.fld BND_NCTL_RXPLANE ∧ c.flag BND_NCTL_EN = true
      let n := c.slotOfTag (bits w.toNat 55 44)
      let x := bits w.toNat 55 16
      let m := { first := 0, seen := [], at' := 0 }
      c.cmt n = some m ∧ heard ∧ m.seen.contains x = false) ∧
    (
      let tag : BitVec 12 := 0
      let s : State := onReset State.reset.chip
      let c := s.chip
      let k := c.slotOfTag tag.toNat
      c.cmt k = none) ∧
    (
      let tag : BitVec 12 := 97
      let s : State := onReset { State.reset.chip with blv := { cms := [(97, (some { first := 0, seen := [], at' := 0 }))] } }
      let c := s.chip
      let k := c.slotOfTag tag.toNat
      let m := { first := 0, seen := [], at' := 0 }
      c.cmt k = some m ∧ (m.tested = true ∨ c.blv.missed.contains k = true ∨ c.flag BND_NCTL_EN = false ∨ c.tick < m.at' + 50)) ∧
    (
      let tag : BitVec 12 := 101
      let s : State := onReset { State.reset.chip with time := 100, regs := [(0x400000, 1)], blv := { frozen := [101], cms := [(101, (some { first := 0, seen := [], at' := 0 }))] } }
      let c := s.chip
      let k := c.slotOfTag tag.toNat
      let off (f : Nat) (m : Cmt) : Bool := bit m.first 1 != (c.fcFrozen f).dir || bit m.first 0 != (c.fcFrozen f).neg
        || decide ((c.fcFrozen f).tol < (if bits m.first 27 16 ≤ (c.fcFrozen f).n then (c.fcFrozen f).n - bits m.first 27 16
          else bits m.first 27 16 - (c.fcFrozen f).n))
      let m := { first := 0, seen := [], at' := 0 }
      c.cmt k = some m ∧ m.tested = false ∧ c.blv.missed.contains k = false ∧ c.flag BND_NCTL_EN = true ∧ m.at' + 50 ≤ c.tick ∧ c.blv.frozen.contains k = true ∧ off k m = false) ∧
    (
      let tag : BitVec 12 := 99
      let s : State := onReset { State.reset.chip with time := 100, regs := [(0x400000, 1)], blv := { fz := [(99, { n := 1 })], frozen := [99], cms := [(99, (some { first := 0, seen := [], at' := 0 }))] } }
      let c := s.chip
      let k := c.slotOfTag tag.toNat
      let off (f : Nat) (m : Cmt) : Bool := bit m.first 1 != (c.fcFrozen f).dir || bit m.first 0 != (c.fcFrozen f).neg
        || decide ((c.fcFrozen f).tol < (if bits m.first 27 16 ≤ (c.fcFrozen f).n then (c.fcFrozen f).n - bits m.first 27 16
          else bits m.first 27 16 - (c.fcFrozen f).n))
      let m := { first := 0, seen := [], at' := 0 }
      c.cmt k = some m ∧ m.tested = false ∧ c.blv.missed.contains k = false ∧ c.flag BND_NCTL_EN = true ∧ m.at' + 50 ≤ c.tick ∧ c.blv.frozen.contains k = true ∧ off k m = true) ∧
    (
      let tag : BitVec 12 := 105
      let s : State := onReset { State.reset.chip with time := 100, regs := [(0x400000, 1)], blv := { cms := [(105, (some { first := 0, seen := [], at' := 0 }))] } }
      let c := s.chip
      let k := c.slotOfTag tag.toNat
      let m := { first := 0, seen := [], at' := 0 }
      c.cmt k = some m ∧ m.tested = false ∧ c.blv.missed.contains k = false ∧ c.flag BND_NCTL_EN = true ∧ m.at' + 50 ≤ c.tick ∧ c.blv.frozen.contains k = false) ∧
    (
      let p : Plane := Plane.b
      let w : DWord := 0
      let s : State := onReset { State.reset.chip with regs := [(0x400000, 29)] }
      let c := s.chip
      let heard := planeNum p = c.fld BND_NCTL_RXPLANE ∧ c.flag BND_NCTL_EN = true
      let n := c.slotOfTag (bits w.toNat 55 44)
      let sent := Assoc.get (fun _ => []) c.blv.sent n
      heard ∧ bits w.toNat 43 42 = 0 ∧ ((c.pastDeadline n = true ∨ sent = [] ∧ (Assoc.get (fun _ => none) c.blv.inputs n = none ∨ c.flag BLV_BCTL_EN = false)))) ∧
    (
      let p : Plane := Plane.b
      let w : DWord := 0x97067125F9D49D6D
      let s : State := onReset { State.reset.chip with regs := [(0x400000, 29), (0x1000004, 5)], blv := { sent := [(103, [(0, 0, 0, false)])] } }
      let c := s.chip
      let heard := planeNum p = c.fld BND_NCTL_RXPLANE ∧ c.flag BND_NCTL_EN = true
      let n := c.slotOfTag (bits w.toNat 55 44)
      let sent := Assoc.get (fun _ => []) c.blv.sent n
      let y := (0, 0, 0, false)
      sent = [y] ∧ y.2.2.2 = false ∧ heard ∧ bits w.toNat 43 42 = 0 ∧ c.pastDeadline n = false ∧ ((Assoc.get (fun _ => none) c.blv.inputs n = none ∨ c.flag BLV_BCTL_EN = false)) ∧ c.laneState y.1 = 5 ∧ c.silenced y.1 = false) ∧
    (
      let p : Plane := Plane.a
      let w : DWord := 0x5806800012340509
      let s : State := onReset { State.reset.chip with regs := [(0x300000, 1), (0x400000, 1)], blv := { inputs := [(104, (some { lanes := [], cells := [], hyst := 0, keyId := 0 }))] } }
      let c := s.chip
      let heard := planeNum p = c.fld BND_NCTL_RXPLANE ∧ c.flag BND_NCTL_EN = true
      let n := c.slotOfTag (bits w.toNat 55 44)
      let inp := { lanes := [], cells := [], hyst := 0, keyId := 0 }
      (Assoc.get (fun _ => none) c.blv.inputs n = some inp) ∧ heard ∧ bits w.toNat 43 42 = 0 ∧ c.flag BLV_BCTL_EN = true ∧ c.pastDeadline n = false ∧ c.flag BLV_BCTL_MERGE = false) := by
  refine ⟨?_, ?_, ?_, ?_, ?_, ?_, ?_, ?_, ?_, ?_, ?_, ?_⟩ <;> (try dsimp only) <;> decide +kernel

theorem witness_LaneBringUp :
    (
      let l : LaneId := LaneId.cell (CellLane.la)
      let w : Word := 4
      let s : State := onReset { State.reset.chip with regs := [(0x40009000, 1)] }
      let c := s.chip
      let n := laneNum l
      let b := laneBase n
      let runs := n < 204 ∨ c.fire.clkStop = false
      let old := c.reg (LN_LCTL b)
      let new := writtenWord (regWord (LN_LCTL b)) old w.toNat
      let fab2 := 192 ≤ n ∧ n < 204 ∧ bit w.toNat 3 = true
      bit old 0 = true ∧ bits new 3 1 ≠ bits old 3 1 ∧ (¬ fab2) ∧ runs) ∧
    (
      let l : LaneId := LaneId.fab 0
      let w : Word := 0x9DF7F3E8
      let s : State := onReset State.reset.chip
      let c := s.chip
      let n := laneNum l
      let b := laneBase n
      let old := c.reg (LN_LCTL b)
      let fab2 := 192 ≤ n ∧ n < 204 ∧ bit w.toNat 3 = true
      fab2 ∧ bit old 0 = false ∧ bit old 3 = false) ∧
    (
      let l : LaneId := LaneId.cl 0
      let w : Word := 1
      let s : State := onReset State.reset.chip
      let c := s.chip
      let n := laneNum l
      let b := laneBase n
      let st := c.laneState n
      let runs := n < 204 ∨ c.fire.clkStop = false
      let old := c.reg (LN_LCTL b)
      let new := writtenWord (regWord (LN_LCTL b)) old w.toNat
      let fab2 := 192 ≤ n ∧ n < 204 ∧ bit w.toNat 3 = true
      (¬ fab2) ∧ bit old 0 = false ∧ bit new 0 = true ∧ st ≠ 8 ∧ runs) ∧
    (
      let l : LaneId := LaneId.cell (CellLane.la)
      let w : Word := 0
      let s : State := onReset { State.reset.chip with regs := [(0x40009000, 1)] }
      let c := s.chip
      let n := laneNum l
      let b := laneBase n
      let st := c.laneState n
      let old := c.reg (LN_LCTL b)
      let new := writtenWord (regWord (LN_LCTL b)) old w.toNat
      let fab2 := 192 ≤ n ∧ n < 204 ∧ bit w.toNat 3 = true
      (¬ fab2) ∧ bit old 0 = true ∧ bits new 3 1 = bits old 3 1 ∧ bit new 0 = false ∧ st ≠ 8) ∧
    (
      let l : LaneId := LaneId.cell (CellLane.la)
      let w : Word := 1
      let s : State := onReset { State.reset.chip with regs := [(0x40009000, 1)] }
      let c := s.chip
      let n := laneNum l
      let b := laneBase n
      let old := c.reg (LN_LCTL b)
      let new := writtenWord (regWord (LN_LCTL b)) old w.toNat
      let fab2 := 192 ≤ n ∧ n < 204 ∧ bit w.toNat 3 = true
      (¬ fab2) ∧ bit old 0 = bit new 0 ∧ (bit old 0 = false ∨ bits new 3 1 = bits old 3 1)) ∧
    (
      let l : LaneId := LaneId.cell (CellLane.la)
      let s : State := onReset State.reset.chip
      let c := s.chip
      let n := laneNum l
      let b := laneBase n
      let st := c.laneState n
      let ln := c.lane n
      let lock := c.flag (LN_LSTAT_LOCK b) = true
      let short := c.fewerBlocks n 64 ln.huntAt = true
      (lock ∨ st = 0 ∨ st = 7 ∨ st = 8 ∨ short)) ∧
    (
      let l : LaneId := LaneId.fab 1
      let s : State := onReset { State.reset.chip with time := 820, regs := [(0x1C10004, 1)] }
      let c := s.chip
      let n := laneNum l
      let b := laneBase n
      let st := c.laneState n
      let ln := c.lane n
      let lock := c.flag (LN_LSTAT_LOCK b) = true
      let short := c.fewerBlocks n 64 ln.huntAt = true
      (¬ lock) ∧ (¬ short) ∧ st = 1 ∧ ln.l2Exit = false ∧ ln.relock = false) ∧
    (
      let l : LaneId := LaneId.cl 1
      let s : State := onReset { State.reset.chip with time := 0x70D, regs := [(0x1000000, 0x5050001), (0x1000004, 33), (0x1010000, 0x5050001), (0x1010004, 33), (0x1C00000, 0x5050001), (0x1C00004, 33), (0x1C10000, 0x5050001), (0x1C10004, 33), (0x40009000, 0x5050001), (0x40009004, 33), (0x40009100, 0x5050001), (0x40009104, 33)], lanes := [(0, { q := [(6, 0x1000000000005265), (4, 0x410000000000531E)], ones := 700, rate := 2, req := (some (0, 0)), accepted := true, relock := true, l2Req := true }), (1, { q := [(6, 0x1000000000005265), (4, 0x410000000000531E)], ones := 700, rate := 2, req := (some (0, 0)), accepted := true, relock := true, l2Req := true }), (192, { q := [(6, 0x1000000000005265), (4, 0x410000000000531E)], ones := 700, rate := 2, req := (some (0, 0)), accepted := true, relock := true, l2Req := true }), (193, { q := [(6, 0x1000000000005265), (4, 0x410000000000531E)], ones := 700, rate := 2, req := (some (0, 0)), accepted := true, relock := true, l2Req := true }), (204, { q := [(6, 0x1000000000005265), (4, 0x410000000000531E)], ones := 700, rate := 2, req := (some (0, 0)), accepted := true, relock := true, l2Req := true }), (205, { q := [(6, 0x1000000000005265), (4, 0x410000000000531E)], ones := 700, rate := 2, req := (some (0, 0)), props := 14, accepted := true, relock := true, l2Req := true, fomLow := 6 })] }
      let c := s.chip
      let n := laneNum l
      let b := laneBase n
      let st := c.laneState n
      let ln := c.lane n
      let lock := c.flag (LN_LSTAT_LOCK b) = true
      let short := c.fewerBlocks n 64 ln.huntAt = true
      (¬ lock) ∧ (¬ short) ∧ st = 1 ∧ ln.l2Exit = false ∧ ln.relock = true) ∧
    (
      let l : LaneId := LaneId.cl 0
      let s : State := onReset { State.reset.chip with time := 0x2F5A, regs := [(0x1000000, 0x5050001), (0x1000004, 1), (0x1010000, 0x5050001), (0x1010004, 1), (0x1C00000, 0x5050001), (0x1C00004, 1), (0x1C10000, 0x5050001), (0x1C10004, 1), (0x40009000, 0x5050001), (0x40009004, 1), (0x40009010, 0x2AAA), (0x40009100, 0x5050001), (0x40009104, 1)], lanes := [(0, { l2Exit := true }), (1, { l2Exit := true }), (192, { l2Exit := true }), (193, { l2Exit := true }), (204, { l2Exit := true }), (205, { l2Exit := true })] }
      let c := s.chip
      let n := laneNum l
      let b := laneBase n
      let st := c.laneState n
      let ln := c.lane n
      let lock := c.flag (LN_LSTAT_LOCK b) = true
      let short := c.fewerBlocks n 64 ln.huntAt = true
      (¬ lock) ∧ (¬ short) ∧ st = 1 ∧ ln.l2Exit = true) ∧
    (
      let l : LaneId := LaneId.cl 0
      let s : State := onReset { State.reset.chip with time := 0x2BDA, regs := [(0x1000000, 0x5050001), (0x1000004, 4), (0x1000010, 71), (0x1010000, 0x5050001), (0x1010004, 4), (0x1010010, 0x4F0661F7), (0x1C00000, 0x5050001), (0x1C00004, 4), (0x1C00010, 71), (0x1C10000, 0x5050001), (0x1C10004, 4), (0x1C10010, 71), (0x40009000, 0x5050001), (0x40009004, 4), (0x40009010, 71), (0x40009100, 0x5050001), (0x40009104, 4), (0x40009110, 71)], lanes := [(0, { q := [(6, 0x1000000000005265), (2, 0x410000000000531E)], capRx := true, initiator := true, req := (some (0, 2)) }), (1, { q := [(6, 0x1000000000005265), (2, 0x410000000000531E)], capRx := true, initiator := true, req := (some (0, 2)) }), (192, { q := [(6, 0x1000000000005265), (2, 0x410000000000531E)], capRx := true, initiator := true, req := (some (0, 2)) }), (193, { q := [(6, 0x1000000000005265), (2, 0x410000000000531E)], capRx := true, initiator := true, req := (some (0, 2)) }), (204, { q := [(6, 0x1000000000005265), (2, 0x410000000000531E)], capRx := true, initiator := true, req := (some (0, 2)) }), (205, { q := [(6, 0x1000000000005265), (2, 0x410000000000531E)], capRx := true, initiator := true, req := (some (0, 2)), badAt := [10, 10, 10, 10, 10, 10, 10, 10, 10, 10] })] }
      let c := s.chip
      let n := laneNum l
      let b := laneBase n
      let st := c.laneState n
      let ln := c.lane n
      let lock := c.flag (LN_LSTAT_LOCK b) = true
      let short := c.fewerBlocks n 64 ln.huntAt = true
      (¬ lock) ∧ (¬ short) ∧ st ≠ 0 ∧ st ≠ 1 ∧ st ≠ 7 ∧ st ≠ 8) ∧
    (
      let l : LaneId := LaneId.fab 1
      let s : State := onReset { State.reset.chip with regs := [(0x1C10004, 0x1040)] }
      let c := s.chip
      let n := laneNum l
      let b := laneBase n
      let runs := n < 204 ∨ c.fire.clkStop = false
      let lock := c.flag (LN_LSTAT_LOCK b) = true
      lock ∧ runs ∧ c.sys.ready = false) ∧
    (
      let l : LaneId := LaneId.cell (CellLane.la)
      let s : State := onReset State.reset.chip
      let c := s.chip
      let n := laneNum l
      let b := laneBase n
      let lock := c.flag (LN_LSTAT_LOCK b) = true
      (¬ lock) ∧ c.sys.ready = false) ∧
    (
      let l : LaneId := LaneId.cell (CellLane.lb)
      let s : State := onReset { State.reset.chip with regs := [(0x40009104, 5)] }
      let c := s.chip
      let n := laneNum l
      let b := laneBase n
      let st := c.laneState n
      let ln := c.lane n
      let lock := c.flag (LN_LSTAT_LOCK b) = true
      (¬ lock) ∧ (st = 5 ∨ st = 6 ∨ ln.l2Exit = true)) ∧
    (
      let l : LaneId := LaneId.cell (CellLane.la)
      let s : State := onReset State.reset.chip
      let c := s.chip
      let n := laneNum l
      let b := laneBase n
      let st := c.laneState n
      let ln := c.lane n
      let lock := c.flag (LN_LSTAT_LOCK b) = true
      (lock ∨ ¬ (st = 5 ∨ st = 6 ∨ ln.l2Exit = true))) ∧
    (
      let l : LaneId := LaneId.fab 1
      let k : DWord := 0
      let s : State := onReset State.reset.chip
      let c := s.chip
      let n := laneNum l
      let bad := blockOk k = false ∧ c.laneFresh n = false
      bad) ∧
    (
      let l : LaneId := LaneId.cell (CellLane.la)
      let k : DWord := 0xE5514D0C54F7BAB
      let s : State := onReset State.reset.chip
      let c := s.chip
      let n := laneNum l
      let good := blockOk k = true ∧ c.laneFresh n = false
      let r := bits k.toNat 55 54
      good ∧ r ≠ c.peerRole n) ∧
    (
      let l : LaneId := LaneId.cell (CellLane.lb)
      let k : DWord := 0x130AFF890399CDC8
      let s : State := onReset { State.reset.chip with regs := [(0x40009104, 66)] }
      let c := s.chip
      let n := laneNum l
      let st := c.laneState n
      let good := blockOk k = true ∧ c.laneFresh n = false
      let r := bits k.toNat 55 54
      good ∧ r = c.peerRole n ∧ st = 2) ∧
    (
      let l : LaneId := LaneId.fab 1
      let k : DWord := 0x2ED2EEA653B39A34
      let s : State := onReset { State.reset.chip with regs := [(0x1C10004, 68)] }
      let c := s.chip
      let n := laneNum l
      let st := c.laneState n
      let ln := c.lane n
      let good := blockOk k = true ∧ c.laneFresh n = false
      let r := bits k.toNat 55 54
      good ∧ r = c.peerRole n ∧ st = 4 ∧ ln.adapted = false) ∧
    (
      let l : LaneId := LaneId.cl 0
      let s : State := onReset { State.reset.chip with regs := [(0x1000004, 2)] }
      let c := s.chip
      let n := laneNum l
      let st := c.laneState n
      st = 2) ∧
    (
      let l : LaneId := LaneId.cell (CellLane.la)
      let s : State := onReset State.reset.chip
      let c := s.chip
      let n := laneNum l
      let st := c.laneState n
      st ≠ 2) ∧
    (
      let l : LaneId := LaneId.cl 0
      let k : DWord := 0x575753AC5B0CB3A3
      let s : State := onReset { State.reset.chip with regs := [(0x1000004, 3)] }
      let c := s.chip
      let n := laneNum l
      let st := c.laneState n
      let ln := c.lane n
      let good := blockOk k = true ∧ c.laneFresh n = false
      good ∧ st = 3 ∧ ln.initiator = false) ∧
    (
      let l : LaneId := LaneId.cell (CellLane.la)
      let k : DWord := 0xE5514D0C54F7BAB
      let s : State := onReset State.reset.chip
      let c := s.chip
      let n := laneNum l
      let st := c.laneState n
      let ln := c.lane n
      let good := blockOk k = true ∧ c.laneFresh n = false
      good ∧ (st ≠ 3 ∨ ln.initiator = true)) ∧
    (
      let l : LaneId := LaneId.cell (CellLane.la)
      let s : State := onReset State.reset.chip
      let c := s.chip
      let n := laneNum l
      let st := c.laneState n
      let ln := c.lane n
      (ln.req = none ∨ st ≠ 3)) ∧
    (
      let l : LaneId := LaneId.cell (CellLane.lb)
      let s : State := onReset { State.reset.chip with regs := [(0x40009104, 67)], lanes := [(205, { req := (some (0, 0)), props := 16 })] }
      let c := s.chip
      let n := laneNum l
      let st := c.laneState n
      let ln := c.lane n
      let op := 0
      let rr := 0
      ln.req = some (op, rr) ∧ st = 3 ∧ 16 ≤ ln.props) ∧
    (
      let l : LaneId := LaneId.cell (CellLane.la)
      let s : State := onReset { State.reset.chip with regs := [(0x40009004, 3)], lanes := [(204, { req := (some (0, 0)) })] }
      let c := s.chip
      let n := laneNum l
      let st := c.laneState n
      let ln := c.lane n
      let op := 0
      let rr := 0
      ln.req = some (op, rr) ∧ st = 3 ∧ ln.props < 16) ∧
    (
      let l : LaneId := LaneId.fab 0
      let k : DWord := 0xC3AC6635AC2F072B
      let s : State := onReset { State.reset.chip with regs := [(0x1C00004, 3)], lanes := [(192, { req := (some (0, 2)) })] }
      let c := s.chip
      let n := laneNum l
      let st := c.laneState n
      let ln := c.lane n
      let good := blockOk k = true ∧ c.laneFresh n = false
      let r := bits k.toNat 55 54
      let op := 0
      let rr := 2
      ln.req = some (op, rr) ∧ good ∧ st = 3 ∧ op ≠ 3 ∧ r = rr) ∧
    (
      let l : LaneId := LaneId.cell (CellLane.la)
      let k : DWord := 0xE5514D0C54F7BAB
      let s : State := onReset { State.reset.chip with lanes := [(204, { req := (some (0, 0)) })] }
      let c := s.chip
      let n := laneNum l
      let st := c.laneState n
      let ln := c.lane n
      let good := blockOk k = true ∧ c.laneFresh n = false
      let r := bits k.toNat 55 54
      let op := 0
      let rr := 0
      ln.req = some (op, rr) ∧ good ∧ (st ≠ 3 ∨ op = 3 ∨ r ≠ rr)) ∧
    (
      let l : LaneId := LaneId.cell (CellLane.la)
      let k : DWord := 0x1CB3A127D3D86446
      let s : State := onReset State.reset.chip
      let c := s.chip
      let n := laneNum l
      let ln := c.lane n
      let good := blockOk k = true ∧ c.laneFresh n = false
      good ∧ ln.req = none) ∧
    (
      let l : LaneId := LaneId.cell (CellLane.la)
      let s : State := onReset { State.reset.chip with regs := [(0x40009004, 35)], lanes := [(204, { accepted := true })] }
      let c := s.chip
      let n := laneNum l
      let st := c.laneState n
      let ln := c.lane n
      st = 3 ∧ ln.accepted = true) ∧
    (
      let l : LaneId := LaneId.cell (CellLane.la)
      let s : State := onReset State.reset.chip
      let c := s.chip
      let n := laneNum l
      let st := c.laneState n
      let ln := c.lane n
      (st ≠ 3 ∨ ln.accepted = false)) ∧
    (
      let l : LaneId := LaneId.fab 0
      let s : State := onReset { State.reset.chip with regs := [(0x1C00004, 1)], lanes := [(192, { relock := true })] }
      let c := s.chip
      let n := laneNum l
      let b := laneBase n
      let st := c.laneState n
      let ln := c.lane n
      st = 1 ∧ ln.relock = true ∧ c.fld (LN_LSTAT_RATE b) = 0) ∧
    (
      let l : LaneId := LaneId.cl 0
      let s : State := onReset { State.reset.chip with regs := [(0x1000004, 33)], lanes := [(0, { initiator := true, relock := true })] }
      let c := s.chip
      let n := laneNum l
      let b := laneBase n
      let st := c.laneState n
      let ln := c.lane n
      st = 1 ∧ ln.relock = true ∧ c.fld (LN_LSTAT_RATE b) ≠ 0 ∧ ln.initiator = true) ∧
    (
      let l : LaneId := LaneId.cell (CellLane.la)
      let s : State := onReset State.reset.chip
      let c := s.chip
      let n := laneNum l
      let st := c.laneState n
      let ln := c.lane n
      (st ≠ 1 ∨ ln.relock = false)) ∧
    (
      let l : LaneId := LaneId.cell (CellLane.la)
      let s : State := onReset State.reset.chip
      let c := s.chip
      let n := laneNum l
      let st := c.laneState n
      let ln := c.lane n
      (st ≠ 4 ∨ ln.adapted = true)) ∧
    (
      let l : LaneId := LaneId.cell (CellLane.la)
      let s : State := onReset { State.reset.chip with regs := [(0x40009004, 36)] }
      let c := s.chip
      let n := laneNum l
      let st := c.laneState n
      let ln := c.lane n
      st = 4 ∧ ln.adapted = false ∧ ln.capRx = false) ∧
    (
      let l : LaneId := LaneId.fab 1
      let s : State := onReset { State.reset.chip with regs := [(0x1C10004, 68)], lanes := [(193, { capRx := true })] }
      let c := s.chip
      let n := laneNum l
      let st := c.laneState n
      let ln := c.lane n
      st = 4 ∧ ln.adapted = false ∧ ln.capRx = true) ∧
    (
      let l : LaneId := LaneId.cell (CellLane.la)
      let s : State := onReset { State.reset.chip with regs := [(0x40009004, 36)] }
      let c := s.chip
      let n := laneNum l
      let st := c.laneState n
      let ln := c.lane n
      st = 4 ∧ ln.capRx = false) ∧
    (
      let l : LaneId := LaneId.cell (CellLane.la)
      let s : State := onReset State.reset.chip
      let c := s.chip
      let n := laneNum l
      let st := c.laneState n
      let ln := c.lane n
      (st ≠ 4 ∨ ln.capRx = true)) ∧
    (
      let l : LaneId := LaneId.cell (CellLane.la)
      let k : DWord := 0x944B2DD95C178A01
      let s : State := onReset { State.reset.chip with regs := [(0x40009004, 35)] }
      let c := s.chip
      let n := laneNum l
      let st := c.laneState n
      let ln := c.lane n
      let good := blockOk k = true ∧ c.laneFresh n = false
      good ∧ (st = 3 ∨ st = 4) ∧ ln.initiator = false) ∧
    (
      let l : LaneId := LaneId.cell (CellLane.la)
      let k : DWord := 0xE5514D0C54F7BAB
      let s : State := onReset State.reset.chip
      let c := s.chip
      let n := laneNum l
      let st := c.laneState n
      let ln := c.lane n
      let good := blockOk k = true ∧ c.laneFresh n = false
      good ∧ (¬ (st = 3 ∨ st = 4) ∨ ln.initiator = true)) ∧
    (
      let l : LaneId := LaneId.cell (CellLane.la)
      let k : DWord := 0xE5514D0C54F7BAB
      let s : State := onReset State.reset.chip
      let c := s.chip
      let n := laneNum l
      let st := c.laneState n
      let good := blockOk k = true ∧ c.laneFresh n = false
      good ∧ st ≠ 3) ∧
    (
      let l : LaneId := LaneId.cell (CellLane.la)
      let k : DWord := 0x2E9F6559D42887BE
      let s : State := onReset { State.reset.chip with regs := [(0x40009004, 35)] }
      let c := s.chip
      let n := laneNum l
      let st := c.laneState n
      let ln := c.lane n
      let good := blockOk k = true ∧ c.laneFresh n = false
      let r := bits k.toNat 55 54
      good ∧ st = 3 ∧ (ln.initiator = false ∨ ln.req = some (3, r))) := by
  refine ⟨?_, ?_, ?_, ?_, ?_, ?_, ?_, ?_, ?_, ?_, ?_, ?_, ?_, ?_, ?_, ?_, ?_, ?_, ?_, ?_, ?_, ?_, ?_, ?_, ?_, ?_, ?_, ?_, ?_, ?_, ?_, ?_, ?_, ?_, ?_, ?_, ?_, ?_, ?_, ?_, ?_, ?_⟩ <;> (try dsimp only) <;> decide +kernel

theorem witness_LaneService :
    (
      let l : LaneId := LaneId.cell (CellLane.la)
      let s : State := onReset State.reset.chip
      let c := s.chip
      let n := laneNum l
      let st := c.laneState n
      (st = 0 ∨ st = 7 ∨ st = 8)) ∧
    (
      let l : LaneId := LaneId.cell (CellLane.la)
      let s : State := onReset { State.reset.chip with regs := [(0x40009004, 5)] }
      let c := s.chip
      let n := laneNum l
      let b := laneBase n
      let st := c.laneState n
      let ln := c.lane n
      let av := ln.available (c.laneClock n)
      st = 5 ∧ pickBlock [] av.1 = none ∧ ln.msgs = [] ∧ ln.wantsBalance = false ∧ c.fld (LN_INJ_MODE b) = 0) ∧
    (
      let l : LaneId := LaneId.cell (CellLane.la)
      let s : State := onReset { State.reset.chip with regs := [(0x40009004, 37)], lanes := [(204, { q := [(0, 0)] })] }
      let c := s.chip
      let n := laneNum l
      let b := laneBase n
      let st := c.laneState n
      let ln := c.lane n
      let av := ln.available (c.laneClock n)
      let y : (Nat × DWord) × List (Nat × DWord) := ((0, 0), [])
      pickBlock [] av.1 = some y ∧ st = 5 ∧ (ln.wantsBalance = false ∨ y.1.1 < 3) ∧ c.fld (LN_INJ_MODE b) = 0 ∧ blockType y.1.2 ∉ [8, 10, 0x10, 0x11, 0x12, 0x13]) ∧
    (
      let l : LaneId := LaneId.fab 0
      let s : State := onReset { State.reset.chip with regs := [(0x1C00004, 37)], lanes := [(192, { q := [(3, 0)], ones := 0 })] }
      let c := s.chip
      let n := laneNum l
      let b := laneBase n
      let st := c.laneState n
      let ln := c.lane n
      let av := ln.available (c.laneClock n)
      let y : (Nat × DWord) × List (Nat × DWord) := ((3, 0), [])
      pickBlock [] av.1 = some y ∧ st = 5 ∧ ln.wantsBalance = true ∧ 3 ≤ y.1.1 ∧ c.fld (LN_INJ_MODE b) = 0) ∧
    (
      let l : LaneId := LaneId.fab 0
      let s : State := onReset { State.reset.chip with lanes := [(192, { fresh := (some 0) })] }
      let c := s.chip
      let n := laneNum l
      c.laneFresh n = true) ∧
    (
      let l : LaneId := LaneId.cell (CellLane.la)
      let k : DWord := 0x3C902B08B6B0EE0B
      let s : State := onReset State.reset.chip
      let c := s.chip
      let n := laneNum l
      let good := blockOk k = true ∧ c.laneFresh n = false
      good) ∧
    (
      let l : LaneId := LaneId.cell (CellLane.la)
      let k : DWord := 0x3C902B08B6B0EE0B
      let s : State := onReset State.reset.chip
      let c := s.chip
      let n := laneNum l
      let good := blockOk k = true ∧ c.laneFresh n = false
      let typ := blockType k
      good ∧ typ ≠ endType n) ∧
    (
      let l : LaneId := LaneId.cl 1
      let k : DWord := 0x11F1C92F68788B1A
      let s : State := onReset { State.reset.chip with regs := [(0x1010000, 0x5050002)] }
      let c := s.chip
      let n := laneNum l
      let good := blockOk k = true ∧ c.laneFresh n = false
      let typ := blockType k
      good ∧ typ = endType n ∧ c.isMeasLane n = true) ∧
    (
      let l : LaneId := LaneId.fab 1
      let k : DWord := 0x13CCCDF560658441
      let s : State := onReset State.reset.chip
      let c := s.chip
      let n := laneNum l
      let ln := c.lane n
      let good := blockOk k = true ∧ c.laneFresh n = false
      let typ := blockType k
      good ∧ typ = endType n ∧ c.isMeasLane n = false ∧ ln.rx = none) ∧
    (
      let l : LaneId := LaneId.cell (CellLane.la)
      let k : DWord := 0x11209947CD4A1E51
      let s : State := onReset { State.reset.chip with lanes := [(204, { rx := (some false) })] }
      let c := s.chip
      let n := laneNum l
      let b := laneBase n
      let ln := c.lane n
      let good := blockOk k = true ∧ c.laneFresh n = false
      let typ := blockType k
      let old := c.reg (LN_TCTL b)
      let old := false
      ln.rx = some old ∧ good ∧ typ = endType n ∧ c.isMeasLane n = false) ∧
    (
      let l : LaneId := LaneId.cl 0
      let k : DWord := 0
      let s : State := onReset State.reset.chip
      let c := s.chip
      let n := laneNum l
      let bad := blockOk k = false ∧ c.laneFresh n = false
      bad) ∧
    (
      let l : LaneId := LaneId.cell (CellLane.la)
      let s : State := onReset State.reset.chip
      let c := s.chip
      let n := laneNum l
      let ln := c.lane n
      c.laneFresh n = false ∧ ln.rx = none) ∧
    (
      let l : LaneId := LaneId.cell (CellLane.la)
      let s : State := onReset { State.reset.chip with lanes := [(204, { rx := (some false) })] }
      let c := s.chip
      let n := laneNum l
      let ln := c.lane n
      c.laneFresh n = false ∧ ln.rx ≠ none) ∧
    (
      let l : LaneId := LaneId.fab 1
      let s : State := onReset State.reset.chip
      let c := s.chip
      let n := laneNum l
      let st := c.laneState n
      let up := st = 5 ∨ st = 6
      (¬ up)) ∧
    (
      let l : LaneId := LaneId.cell (CellLane.la)
      let s : State := onReset { State.reset.chip with regs := [(0x40009004, 37)] }
      let c := s.chip
      let n := laneNum l
      let st := c.laneState n
      let runs := n < 204 ∨ c.fire.clkStop = false
      let up := st = 5 ∨ st = 6
      up ∧ runs) ∧
    (
      let l : LaneId := LaneId.cell (CellLane.la)
      let s : State := onReset State.reset.chip
      let c := s.chip
      let n := laneNum l
      let runs := n < 204 ∨ c.fire.clkStop = false
      runs) ∧
    (
      let l : LaneId := LaneId.cell (CellLane.la)
      let s : State := onReset { State.reset.chip with regs := [(0x40009004, 5)] }
      let c := s.chip
      let n := laneNum l
      let st := c.laneState n
      let ln := c.lane n
      st = 5 ∧ ln.q = [] ∧ ln.msgs = []) ∧
    (
      let l : LaneId := LaneId.cell (CellLane.la)
      let s : State := onReset State.reset.chip
      let c := s.chip
      let n := laneNum l
      let st := c.laneState n
      let ln := c.lane n
      (st ≠ 5 ∨ ln.q ≠ [] ∨ ln.msgs ≠ [])) ∧
    (
      let l : LaneId := LaneId.cl 1
      let s : State := onReset { State.reset.chip with regs := [(0x400000, 1), (0x400010, 2)] }
      let c := s.chip
      let n := laneNum l
      let runs := n < 204 ∨ c.fire.clkStop = false
      let guarded := c.laneGuarded n = true
      guarded ∧ runs) ∧
    (
      let l : LaneId := LaneId.cell (CellLane.la)
      let k : DWord := 0x19DC770A5E8057A1
      let s : State := onReset { State.reset.chip with regs := [(0x4000200C, 2), (0x40009004, 37)] }
      let c := s.chip
      let n := laneNum l
      let st := c.laneState n
      let runs := n < 204 ∨ c.fire.clkStop = false
      let up := st = 5 ∨ st = 6
      let good := blockOk k = true ∧ c.laneFresh n = false
      let guarded := c.laneGuarded n = true
      guarded ∧ runs ∧ good ∧ up) ∧
    (
      let l : LaneId := LaneId.cell (CellLane.la)
      let s : State := onReset { State.reset.chip with regs := [(0x40009004, 37)] }
      let c := s.chip
      let n := laneNum l
      let st := c.laneState n
      let up := st = 5 ∨ st = 6
      let guarded := c.laneGuarded n = true
      (¬ guarded) ∧ up) ∧
    (
      let l : LaneId := LaneId.cell (CellLane.la)
      let k : DWord := 0x3C902B08B6B0EE0B
      let s : State := onReset { State.reset.chip with regs := [(0x40009004, 37)] }
      let c := s.chip
      let n := laneNum l
      let st := c.laneState n
      let up := st = 5 ∨ st = 6
      let good := blockOk k = true ∧ c.laneFresh n = false
      let guarded := c.laneGuarded n = true
      (¬ guarded) ∧ up ∧ good) ∧
    (
      let l : LaneId := LaneId.fab 1
      let s : State := onReset State.reset.chip
      let c := s.chip
      let n := laneNum l
      let st := c.laneState n
      let up := st = 5 ∨ st = 6
      let guarded := c.laneGuarded n = true
      (¬ up) ∧ (¬ guarded)) ∧
    (
      let l : LaneId := LaneId.fab 1
      let k : DWord := 0x13CCCDF560658441
      let s : State := onReset State.reset.chip
      let c := s.chip
      let n := laneNum l
      let st := c.laneState n
      let up := st = 5 ∨ st = 6
      let good := blockOk k = true ∧ c.laneFresh n = false
      (¬ up) ∧ good) ∧
    (
      let l : LaneId := LaneId.cell (CellLane.la)
      let k : DWord := 0x3C902B08B6B0EE0B
      let s : State := onReset { State.reset.chip with lanes := [(204, { l2Req := true })] }
      let c := s.chip
      let n := laneNum l
      let ln := c.lane n
      let good := blockOk k = true ∧ c.laneFresh n = false
      good ∧ ln.l2Req = true) ∧
    (
      let l : LaneId := LaneId.fab 1
      let k : DWord := 0x13CCCDF560658441
      let s : State := onReset State.reset.chip
      let c := s.chip
      let n := laneNum l
      let ln := c.lane n
      let good := blockOk k = true ∧ c.laneFresh n = false
      good ∧ ln.l2Req = false) ∧
    (
      let l : LaneId := LaneId.fab 1
      let s : State := onReset { State.reset.chip with regs := [(0x1C10004, 39)] }
      let c := s.chip
      let n := laneNum l
      let st := c.laneState n
      st = 7) ∧
    (
      let l : LaneId := LaneId.cell (CellLane.la)
      let s : State := onReset State.reset.chip
      let c := s.chip
      let n := laneNum l
      let st := c.laneState n
      st ≠ 7) ∧
    (
      let l : LaneId := LaneId.fab 1
      let s : State := onReset { State.reset.chip with lanes := [(193, { l2Exit := true })] }
      let c := s.chip
      let n := laneNum l
      let ln := c.lane n
      ln.l2Exit = true) ∧
    (
      let l : LaneId := LaneId.cell (CellLane.la)
      let s : State := onReset State.reset.chip
      let c := s.chip
      let n := laneNum l
      let ln := c.lane n
      ln.l2Exit = false) ∧
    (
      let l : LaneId := LaneId.cell (CellLane.la)
      let s : State := onReset State.reset.chip
      let c := s.chip
      let n := laneNum l
      let st := c.laneState n
      (st = 0 ∨ st = 8)) ∧
    (
      let l : LaneId := LaneId.cell (CellLane.la)
      let s : State := onReset { State.reset.chip with regs := [(0x40009004, 1)] }
      let c := s.chip
      let n := laneNum l
      let st := c.laneState n
      st ≠ 0 ∧ st ≠ 8) ∧
    (
      let l : LaneId := LaneId.cell (CellLane.la)
      let w : Word := 10
      let s : State := onReset State.reset.chip
      let c := s.chip
      let n := laneNum l
      let b := laneBase n
      let runs := n < 204 ∨ c.fire.clkStop = false
      let guarded := c.laneGuarded n = true
      let old := c.reg (LN_TCTL b)
      let new := writtenWord (regWord (LN_TCTL b)) old w.toNat
      let badTest := 5 ≤ bits new 3 1 ∨ (bit new 0 = true ∧ bit old 0 = false ∧ guarded)
      badTest ∧ runs) ∧
    (
      let l : LaneId := LaneId.cell (CellLane.la)
      let w : Word := 0
      let s : State := onReset State.reset.chip
      let c := s.chip
      let n := laneNum l
      let b := laneBase n
      let guarded := c.laneGuarded n = true
      let old := c.reg (LN_TCTL b)
      let new := writtenWord (regWord (LN_TCTL b)) old w.toNat
      let badTest := 5 ≤ bits new 3 1 ∨ (bit new 0 = true ∧ bit old 0 = false ∧ guarded)
      (¬ badTest)) ∧
    (
      let l : LaneId := LaneId.fab 1
      let s : State := onReset { State.reset.chip with regs := [(0x1C10004, 0x1000), (0x1C10010, 65)], lanes := [(193, { chk := { pat := (some 0) } })] }
      let c := s.chip
      let n := laneNum l
      let b := laneBase n
      let ln := c.lane n
      let p := 0
      c.flag (LN_TCTL_TEST b) = true ∧ c.flag (LN_TCTL_CHK_EN b) = true ∧ ln.chk.pat = some p ∧ c.flag (LN_LSTAT_CHK_LOCK b) = true) ∧
    (
      let l : LaneId := LaneId.cl 0
      let s : State := onReset { State.reset.chip with regs := [(0x1000010, 67)] }
      let c := s.chip
      let n := laneNum l
      let b := laneBase n
      let ln := c.lane n
      c.flag (LN_TCTL_TEST b) = true ∧ c.flag (LN_TCTL_CHK_EN b) = true ∧ ln.chk.pat = none) ∧
    (
      let l : LaneId := LaneId.cell (CellLane.la)
      let line : List Bool := []
      let s : State := onReset State.reset.chip
      let c := s.chip
      let n := laneNum l
      let b := laneBase n
      (c.flag (LN_TCTL_TEST b) = false ∨ c.flag (LN_TCTL_CHK_EN b) = false ∨ line = [])) ∧
    (
      let l : LaneId := LaneId.fab 0
      let s : State := onReset { State.reset.chip with regs := [(0x1C00014, 1)] }
      let c := s.chip
      let n := laneNum l
      let b := laneBase n
      c.fld (LN_INJ_MODE b) ∈ [1, 3, 5]) ∧
    (
      let l : LaneId := LaneId.cell (CellLane.la)
      let s : State := onReset State.reset.chip
      let c := s.chip
      let n := laneNum l
      let b := laneBase n
      c.fld (LN_INJ_MODE b) ∉ [1, 3, 5]) ∧
    (
      let l : LaneId := LaneId.cell (CellLane.la)
      let s : State := onReset { State.reset.chip with regs := [(0x40009004, 64)] }
      let c := s.chip
      let n := laneNum l
      let b := laneBase n
      let ln := c.lane n
      let seen := ln.badAt.filter (c.fewerBlocks n 64)
      c.flag (LN_LSTAT_LOCK b) = true ∧ c.sys.ready = false ∧ ln.rx = none ∧ seen.length < 15) ∧
    (
      let l : LaneId := LaneId.fab 1
      let s : State := onReset { State.reset.chip with regs := [(0x1C10004, 0x1040)], lanes := [(193, { badAt := [0, 0, 0, 0, 0, 0, 0, 0, 0, 0, 0, 0, 0, 0, 0] })] }
      let c := s.chip
      let n := laneNum l
      let b := laneBase n
      let ln := c.lane n
      let runs := n < 204 ∨ c.fire.clkStop = false
      let seen := ln.badAt.filter (c.fewerBlocks n 64)
      c.flag (LN_LSTAT_LOCK b) = true ∧ c.sys.ready = false ∧ ln.rx = none ∧ 15 ≤ seen.length ∧ runs) ∧
    (
      let l : LaneId := LaneId.cell (CellLane.la)
      let s : State := onReset State.reset.chip
      let c := s.chip
      let n := laneNum l
      let b := laneBase n
      c.flag (LN_LSTAT_LOCK b) = false ∧ c.sys.ready = false) := by
  refine ⟨?_, ?_, ?_, ?_, ?_, ?_, ?_, ?_, ?_, ?_, ?_, ?_, ?_, ?_, ?_, ?_, ?_, ?_, ?_, ?_, ?_, ?_, ?_, ?_, ?_, ?_, ?_, ?_, ?_, ?_, ?_, ?_, ?_, ?_, ?_, ?_, ?_, ?_, ?_, ?_, ?_, ?_⟩ <;> (try dsimp only) <;> decide +kernel

theorem witness_ManagementMessages :
    (
      let l : CellLane := CellLane.la
      let m : Message := { len := 10, seq := 13, data := [238, 120, 30, 47, 141, 13, 0, 0, 0, 0], crc := 0x8BA09DA2, ended := true }
      let s : State := onReset State.reset.chip
      let c := s.chip
      let len := m.len.toNat
      let p := m.data.take len
      let sized := 0 < len ∧ len ≤ 2048 ∧ (m.data.length + 7) / 8 = (len + 7) / 8
      let good := sized ∧ crc32 p = m.crc.toNat
      let whole (j : Nat) : Prop := m.ended = true ∧ c.laneFresh j = false ∧ (c.lane j).rx = none
      let n := cellLaneNum l
      let heard := l = .la ∨ c.dual = true
      heard ∧ whole n ∧ good ∧ (c.flag CLN_CCTL_MBX_EN = false ∨ c.flag CLN_MBX_RXL_FULL = true)) ∧
    (
      let l : CellLane := CellLane.la
      let m : Message := { len := 9, seq := 8, data := [247, 84, 12, 77, 81, 5, 0, 0, 0], crc := 0x8339224E, ended := true }
      let s : State := onReset { State.reset.chip with regs := [(0x40009200, 2)] }
      let c := s.chip
      let len := m.len.toNat
      let p := m.data.take len
      let sized := 0 < len ∧ len ≤ 2048 ∧ (m.data.length + 7) / 8 = (len + 7) / 8
      let good := sized ∧ crc32 p = m.crc.toNat
      let whole (j : Nat) : Prop := m.ended = true ∧ c.laneFresh j = false ∧ (c.lane j).rx = none
      let n := cellLaneNum l
      let heard := l = .la ∨ c.dual = true
      heard ∧ whole n ∧ good ∧ c.flag CLN_CCTL_MBX_EN = true ∧ c.flag CLN_MBX_RXL_FULL = false) ∧
    (
      let l : CellLane := CellLane.la
      let m : Message := { len := 9, seq := 8, data := [247, 84, 12, 77, 81, 5, 0, 0, 0], crc := 0x8339224E, ended := true }
      let s : State := onReset { State.reset.chip with regs := [(0x40009004, 5)] }
      let c := s.chip
      let len := m.len.toNat
      let p := m.data.take len
      let sized := 0 < len ∧ len ≤ 2048 ∧ (m.data.length + 7) / 8 = (len + 7) / 8
      let good := sized ∧ crc32 p = m.crc.toNat
      let whole (j : Nat) : Prop := m.ended = true ∧ c.laneFresh j = false ∧ (c.lane j).rx = none
      let n := cellLaneNum l
      let heard := l = .la ∨ c.dual = true
      let ready (j : Nat) : Prop := c.laneState j = 5 ∧ c.silenced j = false
      let awake := c.flag CGL_BOOTST_RESCUE = false
      let a := 0x4D0C54F7
      let v := 0x551
      wordsLE (p.length / 4) p = [a, v] ∧ heard ∧ whole n ∧ good ∧ awake ∧ ready n ∧ c.laneReach true a = false) ∧
    (
      let l : CellLane := CellLane.la
      let m : Message := { len := 8, seq := 1, data := [216, 0, 0, 32, 197, 62, 76, 4], crc := 0x45DC8F7A, ended := true }
      let s : State := onReset { State.reset.chip with regs := [(0x40009004, 5)] }
      let c := s.chip
      let len := m.len.toNat
      let p := m.data.take len
      let sized := 0 < len ∧ len ≤ 2048 ∧ (m.data.length + 7) / 8 = (len + 7) / 8
      let good := sized ∧ crc32 p = m.crc.toNat
      let whole (j : Nat) : Prop := m.ended = true ∧ c.laneFresh j = false ∧ (c.lane j).rx = none
      let n := cellLaneNum l
      let heard := l = .la ∨ c.dual = true
      let ready (j : Nat) : Prop := c.laneState j = 5 ∧ c.silenced j = false
      let awake := c.flag CGL_BOOTST_RESCUE = false
      let sram (a : Nat) : Prop := 0x20000000 ≤ a ∧ a < 0x20008000 ∧ a % 4 = 0
      let a := 0x200000D8
      let v := 0x44C3EC5
      wordsLE (p.length / 4) p = [a, v] ∧ heard ∧ whole n ∧ good ∧ awake ∧ ready n ∧ sram a) ∧
    (
      let l : CellLane := CellLane.la
      let m : Message := { len := 8, seq := 2, data := [0, 0, 0, 48, 2, 124, 141, 138], crc := 0xB0A1B268, ended := true }
      let s : State := onReset { State.reset.chip with regs := [(0x40000200, 64)] }
      let c := s.chip
      let len := m.len.toNat
      let p := m.data.take len
      let sized := 0 < len ∧ len ≤ 2048 ∧ (m.data.length + 7) / 8 = (len + 7) / 8
      let good := sized ∧ crc32 p = m.crc.toNat
      let whole (j : Nat) : Prop := m.ended = true ∧ c.laneFresh j = false ∧ (c.lane j).rx = none
      let n := cellLaneNum l
      let heard := l = .la ∨ c.dual = true
      let awake := c.flag CGL_BOOTST_RESCUE = false
      heard ∧ whole n ∧ good ∧ (¬ awake)) ∧
    (
      let l : CellLane := CellLane.lb
      let m : Message := { len := 4, seq := 32, data := [36, 0, 0, 48], crc := 0x28CDD7D9, ended := true }
      let s : State := onReset { State.reset.chip with regs := [(0x4000000C, 1), (0x40009104, 5)] }
      let c := s.chip
      let len := m.len.toNat
      let p := m.data.take len
      let sized := 0 < len ∧ len ≤ 2048 ∧ (m.data.length + 7) / 8 = (len + 7) / 8
      let good := sized ∧ crc32 p = m.crc.toNat
      let whole (j : Nat) : Prop := m.ended = true ∧ c.laneFresh j = false ∧ (c.lane j).rx = none
      let n := cellLaneNum l
      let heard := l = .la ∨ c.dual = true
      let ready (j : Nat) : Prop := c.laneState j = 5 ∧ c.silenced j = false
      let a := 0x30000024
      wordsLE (p.length / 4) p = [a] ∧ heard ∧ whole n ∧ good ∧ ready n ∧ c.laneReach false a = false) ∧
    (
      let l : CellLane := CellLane.lb
      let m : Message := { len := 4, seq := 10, data := [180, 0, 0, 32], crc := 0x883A2619, ended := true }
      let s : State := onReset { State.reset.chip with regs := [(0x4000000C, 1), (0x40009104, 5)] }
      let c := s.chip
      let len := m.len.toNat
      let p := m.data.take len
      let sized := 0 < len ∧ len ≤ 2048 ∧ (m.data.length + 7) / 8 = (len + 7) / 8
      let good := sized ∧ crc32 p = m.crc.toNat
      let whole (j : Nat) : Prop := m.ended = true ∧ c.laneFresh j = false ∧ (c.lane j).rx = none
      let n := cellLaneNum l
      let heard := l = .la ∨ c.dual = true
      let ready (j : Nat) : Prop := c.laneState j = 5 ∧ c.silenced j = false
      let awake := c.flag CGL_BOOTST_RESCUE = false
      let sram (a : Nat) : Prop := 0x20000000 ≤ a ∧ a < 0x20008000 ∧ a % 4 = 0
      let a := 0x200000B4
      wordsLE (p.length / 4) p = [a] ∧ heard ∧ whole n ∧ good ∧ awake ∧ ready n ∧ sram a ∧ (c.eccWord true a).1 = 0) ∧
    (
      let x : LaneId := LaneId.fab 0
      let s : State := onReset State.reset.chip
      let c := s.chip
      let bx := laneBase (laneNum x)
      let addr := c.reg (LN_MTX bx)
      let info := c.reg (LN_MTX bx + 4)
      let mtx := laneNum x < 192 ∧ c.flag (LN_LSTAT_MTX_BUSY bx) = false ∧ addr % 8 = 0 ∧ 0x40000000 ≤ addr ∧ addr + bits info 11 0 ≤ poolEnd
      let runs := laneNum x < 204 ∨ c.fire.clkStop = false
      (¬ mtx) ∧ runs) ∧
    (
      let x : LaneId := LaneId.cl 1
      let s : State := onReset { State.reset.chip with regs := [(0x1010004, 5), (0x1010050, 0x40000010)] }
      let c := s.chip
      let ready (j : Nat) : Prop := c.laneState j = 5 ∧ c.silenced j = false
      let bx := laneBase (laneNum x)
      let addr := c.reg (LN_MTX bx)
      let info := c.reg (LN_MTX bx + 4)
      let mtx := laneNum x < 192 ∧ c.flag (LN_LSTAT_MTX_BUSY bx) = false ∧ addr % 8 = 0 ∧ 0x40000000 ≤ addr ∧ addr + bits info 11 0 ≤ poolEnd
      mtx ∧ ready (laneNum x) ∧ (c.poolRead addr (bits info 11 0)).1 = false) ∧
    (
      let x : LaneId := LaneId.fab 0
      let s : State := onReset State.reset.chip
      let c := s.chip
      let runs := laneNum x < 204 ∨ c.fire.clkStop = false
      192 ≤ laneNum x ∧ runs) ∧
    (
      let x : LaneId := LaneId.cl 1
      let s : State := onReset { State.reset.chip with regs := [(0x1010004, 0xAFB6A313), (0x1010050, 0x40000010), (0x1010054, 0x121008), (0x1C00004, 5), (0x1C00050, 0x40000010), (0x1C00054, 0x121008), (0x1C10004, 5), (0x1C10050, 0x40000010), (0x1C10054, 0x121008), (0x4000000C, 1), (0x40009004, 5), (0x40009050, 0x40000010), (0x40009054, 0x121008), (0x40009104, 5), (0x40009150, 0x40000010), (0x40009154, 0x121008), (0x40009200, 0xFFFFFFFF), (0x40009208, 0x20000100), (0x40009210, 0x20000200)] }
      let c := s.chip
      let bx := laneBase (laneNum x)
      laneNum x < 192 ∧ c.flag (LN_LSTAT_MRX_VALID bx) = true) ∧
    (
      let x : LaneId := LaneId.cl 1
      let s : State := onReset State.reset.chip
      let c := s.chip
      let bx := laneBase (laneNum x)
      laneNum x < 192 ∧ c.flag (LN_LSTAT_MRX_VALID bx) = false) ∧
    (
      let w : Word := 0
      bit w.toNat 31 = false) ∧
    (
      let w : Word := 0xE5DBFDC6
      let s : State := onReset { State.reset.chip with regs := [(0x40009004, 5), (0x40009210, 0x20000000)] }
      let c := s.chip
      let ready (j : Nat) : Prop := c.laneState j = 5 ∧ c.silenced j = false
      bit w.toNat 31 = true ∧ bit w.toNat 20 = true ∧ (bit w.toNat 21 = false ∨ c.dual = false) ∧ ready 204 ∧ 0x20000000 ≤ c.reg CLN_MBX_TX ∧ c.reg CLN_MBX_TX + bits w.toNat 11 0 ≤ 0x20008000) := by
  refine ⟨?_, ?_, ?_, ?_, ?_, ?_, ?_, ?_, ?_, ?_, ?_, ?_, ?_, ?_⟩ <;> (try dsimp only) <;> decide +kernel

theorem witness_FrameForwarding :
    (
      let p : Plane := Plane.b
      let f : Frame := { hdr := [0x4C08, 0x4001, 2, 0, 0, 0, 0, 0xF22E], ext := [], payload := [], crc := 0x3115E5B2 }
      let s : State := onReset State.reset.chip
      let c := s.chip
      let w1 := natLE ((f.payload.drop 4).take 4)
      let source := c.measSource (natLE ((f.payload.drop 8).take 4) % 1024) (bits w1 23 16)
      c.frameQueues f.hdr = [] ∧ planeNum p ≠ c.fld BND_NCTL_RXPLANE ∧ source = none) ∧
    (
      let p : Plane := Plane.a
      let f : Frame := { hdr := [0x31C1B, 0x4001, 1, 16, 0, 0, 0, 0x20A9], ext := [], payload := [183, 102, 1, 0, 2, 0, 3, 0, 1, 0, 0, 0, 0, 0, 0, 0], crc := 0x1F3281D8 }
      let s : State := onReset { State.reset.chip with regs := [(0x300030, 0x80010003)] }
      let c := s.chip
      let w1 := natLE ((f.payload.drop 4).take 4)
      let slot := c.slotOfTag (bits w1 11 0)
      let source := c.measSource (natLE ((f.payload.drop 8).take 4) % 1024) (bits w1 23 16)
      let i := 0
      source = some i ∧ planeNum p = c.fld BND_NCTL_RXPLANE ∧ ((c.blv.formed.any fun j => decide (slot ≤ j)) = false)) ∧
    (
      let p : Plane := Plane.a
      let f : Frame := { hdr := [0x3D1B, 0x10001, 0, 16, 0, 0, 0, 0xC47C], ext := [], payload := [233, 42, 1, 0, 0, 0, 3, 0, 1, 0, 0, 0, 0, 0, 0, 0], crc := 0xFDD2F953 }
      let s : State := onReset { State.reset.chip with regs := [(0x300030, 0x80010003)], blv := { formed := (some 0) } }
      let c := s.chip
      let w1 := natLE ((f.payload.drop 4).take 4)
      let slot := c.slotOfTag (bits w1 11 0)
      let source := c.measSource (natLE ((f.payload.drop 8).take 4) % 1024) (bits w1 23 16)
      let i := 0
      source = some i ∧ planeNum p = c.fld BND_NCTL_RXPLANE ∧ ((c.blv.formed.any fun j => decide (slot ≤ j)) = true)) ∧
    (
      let f : Frame := { hdr := [0x14C1B, 0x4001, 1, 16, 0, 0, 0, 0x272E], ext := [], payload := [69, 40, 0, 0, 1, 0, 3, 0, 1, 0, 0, 0, 0, 0, 0, 0], crc := 0 }
      let s : State := onReset { State.reset.chip with regs := [(0x300030, 0x80010003)] }
      let c := s.chip
      let w1 := natLE ((f.payload.drop 4).take 4)
      let source := c.measSource (natLE ((f.payload.drop 8).take 4) % 1024) (bits w1 23 16)
      let i := 0
      source = some i) ∧
    (
      let p : Plane := Plane.b
      let f : Frame := { hdr := [0x21E01, 0x4001, 1, 16, 0, 0, 0, 0xB2AF], ext := [], payload := [182, 182, 182, 182, 182, 182, 182, 182, 182, 182, 182, 182, 182, 182, 182, 182], crc := 0x43D3EFD2 }
      let s : State := onReset { State.reset.chip with gth := { dlv := [(1, { seen := [1] })] } }
      let c := s.chip
      let src := fSrc f.hdr
      let d : Dlv := Assoc.get (fun _ => {}) c.gth.dlv src
      let seq := fSeq f.hdr
      let j := 0
      let q := 1
      c.frameQueues f.hdr = [(j, q)] ∧ d.check (planeNum p) seq = 1) ∧
    (
      let p : Plane := Plane.a
      let f : Frame := { hdr := [0x10C01, 0x14001, 0, 16, 0, 0, 0, 0x62CB], ext := [], payload := [44, 44, 44, 44, 44, 44, 44, 44, 44, 44, 44, 44, 44, 44, 44, 44], crc := 0x4F674C94 }
      let s : State := onReset { State.reset.chip with gth := { dlv := [(1, { hiA := (some 0) })] } }
      let c := s.chip
      let src := fSrc f.hdr
      let d : Dlv := Assoc.get (fun _ => {}) c.gth.dlv src
      let seq := fSeq f.hdr
      let j := 1
      let q := 1
      c.frameQueues f.hdr = [(j, q)] ∧ d.check (planeNum p) seq = 2) ∧
    (
      let p : Plane := Plane.b
      let f : Frame := { hdr := [0x13C01, 0x4001, 1, 24, 0, 0, 0, 5], ext := [], payload := [1, 150, 150, 150, 150, 150, 150, 150, 150, 150, 150, 150, 150, 150, 150, 150, 150, 150, 150, 150, 150, 150, 150, 150, 150], crc := 0xF454E506 }
      let s : State := onReset { State.reset.chip with cores := [(0, { sr := [(41, 0)] })] }
      let c := s.chip
      let src := fSrc f.hdr
      let d : Dlv := Assoc.get (fun _ => {}) c.gth.dlv src
      let seq := fSeq f.hdr
      let j := 0
      let q := 1
      c.frameQueues f.hdr = [(j, q)] ∧ d.check (planeNum p) seq = 0 ∧ c.queueTakes j q f.payload.length = false) ∧
    (
      let p : Plane := Plane.a
      let f : Frame := { hdr := [0x2D01, 0x4001, 2, 32, 0, 0, 0, 5], ext := [], payload := [229, 229, 229, 229, 229, 229, 229, 229, 229, 229, 229, 229, 229, 229, 229, 229, 229, 229, 229, 229, 229, 229, 229, 229, 229, 229, 229, 229, 229, 229, 229, 229], crc := 0xEDD0B8C4 }
      let s : State := onReset { State.reset.chip with regs := [(0x601668, 0)], gth := { rsv := 0 } }
      let c := s.chip
      let lv := fLevel f.hdr
      let src := fSrc f.hdr
      let d : Dlv := Assoc.get (fun _ => {}) c.gth.dlv src
      let seq := fSeq f.hdr
      let j := 0
      let q := 1
      c.frameQueues f.hdr = [(j, q)] ∧ d.check (planeNum p) seq = 0 ∧ c.queueTakes j q f.payload.length = true ∧ c.source (queueAcct j q) (decide (lv < 2)) = none) ∧
    (
      let p : Plane := Plane.a
      let f : Frame := { hdr := [0x10D01, 0x10001, 2, 24, 0, 0, 0, 5], ext := [], payload := [58, 58, 58, 58, 58, 58, 58, 58, 58, 58, 58, 58, 58, 58, 58, 58, 58, 58, 58, 58, 58, 58, 58, 58], crc := 0xF7C4C38D }
      let s : State := onReset State.reset.chip
      let c := s.chip
      let lv := fLevel f.hdr
      let src := fSrc f.hdr
      let d : Dlv := Assoc.get (fun _ => {}) c.gth.dlv src
      let seq := fSeq f.hdr
      let j := 1
      let q := 0
      let b := (c.allocBuf (queueAcct j q) (decide (lv < 2)) 1).1.getD 0
      let y := (c.allocBuf (queueAcct j q) (decide (lv < 2)) 1).2
      c.frameQueues f.hdr = [(j, q)] ∧ d.check (planeNum p) seq = 0 ∧ c.queueTakes j q f.payload.length = true ∧ c.allocBuf (queueAcct j q) (decide (lv < 2)) 1 = (some b, y)) ∧
    (
      let port : Fin 12 := 0
      let s : State := onReset { State.reset.chip with lanes := [(192, { fresh := (some 0) })] }
      let c := s.chip
      let n := 192 + port.val
      c.laneFresh n = true) ∧
    (
      let port : Fin 12 := 0
      let f : Frame := { hdr := [0x3F1B, 0x110001, 1, 16, 0, 0, 0, 0x6645], ext := [3, 3, 3, 3, 3, 3, 3, 3, 3, 3, 3, 3, 3, 3, 3, 3, 3, 3, 3, 3, 3, 3, 3, 3, 3, 3, 3, 3, 3, 3, 3, 3], payload := [152, 72, 0, 0, 3, 0, 3, 0, 1, 0, 0, 0, 0, 0, 0, 0], crc := 0x935EDB45 }
      let rx : Reception := { len := 64, blocks := 8, tail := RxTail.whole, resume := none }
      let s : State := onReset State.reset.chip
      let c := s.chip
      let n := 192 + port.val
      let len := rx.len.toNat
      let calm := c.laneFresh n = false ∧ (c.lane n).rx = none ∧ (c.port port).part = none ∧ rx.resume = none
      let misshapen := calm ∧ rx.tail = .whole ∧ (f.hdr.length ≠ 8 ∨ frameLen f.hdr ≠ len ∨ 2048 < fPlen f.hdr ∨ len < 64 ∨ 2112 < len
        ∨ 8 * rx.blocks.toNat ≠ len ∨ f.ext.length ≠ (if fTx f.hdr = true then 32 else 0) ∨ f.payload.length ≠ fPlen f.hdr)
      misshapen) ∧
    (
      let port : Fin 12 := 0
      let f : Frame := { hdr := [0x4C08, 0x4001, 2, 0, 0, 0, 0, 0xF22E], ext := [], payload := [], crc := 0x3115E5B2 }
      let rx : Reception := { len := 64, blocks := 8, tail := RxTail.whole, resume := none }
      let s : State := onReset State.reset.chip
      let c := s.chip
      let n := 192 + port.val
      let l := frameBytes f.hdr f.ext f.payload
      let len := rx.len.toNat
      let calm := c.laneFresh n = false ∧ (c.lane n).rx = none ∧ (c.port port).part = none ∧ rx.resume = none
      let header := f.hdr.length = 8 ∧ frameLen f.hdr = len ∧ fPlen f.hdr ≤ 2048 ∧ 64 ≤ len ∧ len ≤ 2112
      let framed := calm ∧ header ∧ rx.tail = .whole ∧ 8 * rx.blocks.toNat = len ∧ f.ext.length = (if fTx f.hdr = true then 32 else 0)
        ∧ f.payload.length = fPlen f.hdr
      let whole := crc32 l = f.crc.toNat
      let en := c.flag GTH_GCTL_EN = true
      framed ∧ (¬ en) ∧ whole) ∧
    (
      let port : Fin 12 := 0
      let f : Frame := { hdr := [0x14C1B, 0x4001, 1, 16, 0, 0, 0, 0x272E], ext := [], payload := [69, 40, 0, 0, 1, 0, 3, 0, 1, 0, 0, 0, 0, 0, 0, 0], crc := 0 }
      let rx : Reception := { len := 64, blocks := 8, tail := RxTail.whole, resume := none }
      let s : State := onReset State.reset.chip
      let c := s.chip
      let n := 192 + port.val
      let l := frameBytes f.hdr f.ext f.payload
      let len := rx.len.toNat
      let calm := c.laneFresh n = false ∧ (c.lane n).rx = none ∧ (c.port port).part = none ∧ rx.resume = none
      let header := f.hdr.length = 8 ∧ frameLen f.hdr = len ∧ fPlen f.hdr ≤ 2048 ∧ 64 ≤ len ∧ len ≤ 2112
      let framed := calm ∧ header ∧ rx.tail = .whole ∧ 8 * rx.blocks.toNat = len ∧ f.ext.length = (if fTx f.hdr = true then 32 else 0)
        ∧ f.payload.length = fPlen f.hdr
      let whole := crc32 l = f.crc.toNat
      let en := c.flag GTH_GCTL_EN = true
      framed ∧ (¬ en) ∧ (¬ whole)) ∧
    (
      let port : Fin 12 := 0
      let f : Frame := { hdr := [0x12D40, 1, 1, 24, 0, 0, 0, 5], ext := [], payload := [162, 162, 162, 162, 162, 162, 162, 162, 162, 162, 162, 162, 162, 162, 162, 162, 162, 162, 162, 162, 162, 162, 162, 162], crc := 0x63788DD0 }
      let rx : Reception := { len := 64, blocks := 8, tail := RxTail.whole, resume := none }
      let s : State := onReset { State.reset.chip with regs := [(0x500000, 1)] }
      let c := s.chip
      let n := 192 + port.val
      let l := frameBytes f.hdr f.ext f.payload
      let len := rx.len.toNat
      let calm := c.laneFresh n = false ∧ (c.lane n).rx = none ∧ (c.port port).part = none ∧ rx.resume = none
      let header := f.hdr.length = 8 ∧ frameLen f.hdr = len ∧ fPlen f.hdr ≤ 2048 ∧ 64 ≤ len ∧ len ≤ 2112
      let framed := calm ∧ header ∧ rx.tail = .whole ∧ 8 * rx.blocks.toNat = len ∧ f.ext.length = (if fTx f.hdr = true then 32 else 0)
        ∧ f.payload.length = fPlen f.hdr
      let whole := crc32 l = f.crc.toNat
      let hok := crc16 (hdrBytes f.hdr) = bits (hw f.hdr 7) 15 0
      let en := c.flag GTH_GCTL_EN = true
      framed ∧ en ∧ whole ∧ (¬ hok)) ∧
    (
      let port : Fin 12 := 0
      let f : Frame := { hdr := [0xC40, 0x14001, 0, 24, 0, 0, 0, 0x4F92], ext := [], payload := [238, 238, 238, 238, 238, 238, 238, 238, 238, 238, 238, 238, 238, 238, 238, 238, 238, 238, 238, 238, 238, 238, 238, 238], crc := 0xBE785E9E }
      let rx : Reception := { len := 64, blocks := 8, tail := RxTail.whole, resume := none }
      let s : State := onReset { State.reset.chip with regs := [(0x500000, 1)] }
      let c := s.chip
      let n := 192 + port.val
      let l := frameBytes f.hdr f.ext f.payload
      let len := rx.len.toNat
      let calm := c.laneFresh n = false ∧ (c.lane n).rx = none ∧ (c.port port).part = none ∧ rx.resume = none
      let header := f.hdr.length = 8 ∧ frameLen f.hdr = len ∧ fPlen f.hdr ≤ 2048 ∧ 64 ≤ len ∧ len ≤ 2112
      let framed := calm ∧ header ∧ rx.tail = .whole ∧ 8 * rx.blocks.toNat = len ∧ f.ext.length = (if fTx f.hdr = true then 32 else 0)
        ∧ f.payload.length = fPlen f.hdr
      let whole := crc32 l = f.crc.toNat
      let hok := crc16 (hdrBytes f.hdr) = bits (hw f.hdr 7) 15 0
      let en := c.flag GTH_GCTL_EN = true
      framed ∧ en ∧ whole ∧ hok ∧ fTtl f.hdr = 0) ∧
    (
      let port : Fin 12 := 0
      let f : Frame := { hdr := [0x14C01, 0x14001, 1, 24, 0, 0, 0, 0x4FD8], ext := [], payload := [110, 110, 110, 110, 110, 110, 110, 110, 110, 110, 110, 110, 110, 110, 110, 110, 110, 110, 110, 110, 110, 110, 110, 110], crc := 0xFAE2A3E7 }
      let rx : Reception := { len := 64, blocks := 8, tail := RxTail.whole, resume := none }
      let s : State := onReset { State.reset.chip with regs := [(0x500000, 1)] }
      let c := s.chip
      let pl := port.val / 6
      let n := 192 + port.val
      let k := fKind f.hdr
      let l := frameBytes f.hdr f.ext f.payload
      let len := rx.len.toNat
      let calm := c.laneFresh n = false ∧ (c.lane n).rx = none ∧ (c.port port).part = none ∧ rx.resume = none
      let header := f.hdr.length = 8 ∧ frameLen f.hdr = len ∧ fPlen f.hdr ≤ 2048 ∧ 64 ≤ len ∧ len ≤ 2112
      let framed := calm ∧ header ∧ rx.tail = .whole ∧ 8 * rx.blocks.toNat = len ∧ f.ext.length = (if fTx f.hdr = true then 32 else 0)
        ∧ f.payload.length = fPlen f.hdr
      let whole := crc32 l = f.crc.toNat
      let hok := crc16 (hdrBytes f.hdr) = bits (hw f.hdr 7) 15 0
      let en := c.flag GTH_GCTL_EN = true
      let own := c.flag GTH_GSTAT_ID_VALID = true ∧ fDst f.hdr = c.fld GTH_GSTAT_NODE_ID
      let passes := en ∧ hok ∧ fTtl f.hdr ≠ 0 ∧ fMc f.hdr = false ∧ k ≠ 8 ∧ k ≠ 9 ∧ ¬ own
      let uni := framed ∧ whole ∧ passes
      let e := c.reg (GTH_RT pl (fDst f.hdr))
      let pri := 6 * pl + bits e 2 0
      let alt := 6 * pl + bits e 6 4
      let direct := bit e 3 = true ∧ bits e 2 0 < 6 ∧ c.portUp pri = true
      let other := bit e 3 = true ∧ ¬ direct ∧ c.flag GTH_GCTL_ALT_EN = true ∧ bit e 7 = true ∧ bits e 6 4 < 6 ∧ c.portUp alt = true
      uni ∧ (¬ direct) ∧ (¬ other)) ∧
    (
      let port : Fin 12 := 0
      let f : Frame := { hdr := [0x31C10, 0x14001, 1, 8, 0, 0, 0, 0x26C3], ext := [], payload := [60, 60, 60, 60, 60, 60, 60, 60], crc := 0xFC5F41FC }
      let rx : Reception := { len := 64, blocks := 8, tail := RxTail.whole, resume := none }
      let s : State := onReset { State.reset.chip with regs := [(0x500000, 1), (0x50100C, 168), (0x1C00004, 5)] }
      let c := s.chip
      let pl := port.val / 6
      let n := 192 + port.val
      let k := fKind f.hdr
      let l := frameBytes f.hdr f.ext f.payload
      let len := rx.len.toNat
      let calm := c.laneFresh n = false ∧ (c.lane n).rx = none ∧ (c.port port).part = none ∧ rx.resume = none
      let header := f.hdr.length = 8 ∧ frameLen f.hdr = len ∧ fPlen f.hdr ≤ 2048 ∧ 64 ≤ len ∧ len ≤ 2112
      let framed := calm ∧ header ∧ rx.tail = .whole ∧ 8 * rx.blocks.toNat = len ∧ f.ext.length = (if fTx f.hdr = true then 32 else 0)
        ∧ f.payload.length = fPlen f.hdr
      let whole := crc32 l = f.crc.toNat
      let hok := crc16 (hdrBytes f.hdr) = bits (hw f.hdr 7) 15 0
      let en := c.flag GTH_GCTL_EN = true
      let own := c.flag GTH_GSTAT_ID_VALID = true ∧ fDst f.hdr = c.fld GTH_GSTAT_NODE_ID
      let passes := en ∧ hok ∧ fTtl f.hdr ≠ 0 ∧ fMc f.hdr = false ∧ k ≠ 8 ∧ k ≠ 9 ∧ ¬ own
      let uni := framed ∧ whole ∧ passes
      let e := c.reg (GTH_RT pl (fDst f.hdr))
      let pri := 6 * pl + bits e 2 0
      let direct := bit e 3 = true ∧ bits e 2 0 < 6 ∧ c.portUp pri = true
      let lv := fLevel f.hdr
      let free (q : Nat) : Prop := c.silenced (192 + q) = false ∧ (c.port q).cur = none
      let b := (c.allocBuf n (decide (lv < 2)) 1).1.getD 0
      let y := (c.allocBuf n (decide (lv < 2)) 1).2
      c.allocBuf n (decide (lv < 2)) 1 = (some b, y) ∧ uni ∧ direct ∧ free pri) ∧
    (
      let port : Fin 12 := 6
      let f : Frame := { hdr := [0x34C40, 0x14001, 2, 16, 0, 0, 0, 0xD8D6], ext := [], payload := [94, 94, 94, 94, 94, 94, 94, 94, 94, 94, 94, 94, 94, 94, 94, 94], crc := 0x85C5AC22 }
      let rx : Reception := { len := 64, blocks := 8, tail := RxTail.whole, resume := none }
      let s : State := onReset { State.reset.chip with regs := [(0x500000, 249), (0x50200C, 154), (0x1C70004, 5)] }
      let c := s.chip
      let pl := port.val / 6
      let n := 192 + port.val
      let k := fKind f.hdr
      let l := frameBytes f.hdr f.ext f.payload
      let len := rx.len.toNat
      let calm := c.laneFresh n = false ∧ (c.lane n).rx = none ∧ (c.port port).part = none ∧ rx.resume = none
      let header := f.hdr.length = 8 ∧ frameLen f.hdr = len ∧ fPlen f.hdr ≤ 2048 ∧ 64 ≤ len ∧ len ≤ 2112
      let framed := calm ∧ header ∧ rx.tail = .whole ∧ 8 * rx.blocks.toNat = len ∧ f.ext.length = (if fTx f.hdr = true then 32 else 0)
        ∧ f.payload.length = fPlen f.hdr
      let whole := crc32 l = f.crc.toNat
      let hok := crc16 (hdrBytes f.hdr) = bits (hw f.hdr 7) 15 0
      let en := c.flag GTH_GCTL_EN = true
      let own := c.flag GTH_GSTAT_ID_VALID = true ∧ fDst f.hdr = c.fld GTH_GSTAT_NODE_ID
      let passes := en ∧ hok ∧ fTtl f.hdr ≠ 0 ∧ fMc f.hdr = false ∧ k ≠ 8 ∧ k ≠ 9 ∧ ¬ own
      let uni := framed ∧ whole ∧ passes
      let e := c.reg (GTH_RT pl (fDst f.hdr))
      let pri := 6 * pl + bits e 2 0
      let alt := 6 * pl + bits e 6 4
      let direct := bit e 3 = true ∧ bits e 2 0 < 6 ∧ c.portUp pri = true
      let other := bit e 3 = true ∧ ¬ direct ∧ c.flag GTH_GCTL_ALT_EN = true ∧ bit e 7 = true ∧ bits e 6 4 < 6 ∧ c.portUp alt = true
      let lv := fLevel f.hdr
      let free (q : Nat) : Prop := c.silenced (192 + q) = false ∧ (c.port q).cur = none
      let b := (c.allocBuf n (decide (lv < 2)) 1).1.getD 0
      let y := (c.allocBuf n (decide (lv < 2)) 1).2
      c.allocBuf n (decide (lv < 2)) 1 = (some b, y) ∧ uni ∧ other ∧ free alt) ∧
    (
      let port : Fin 12 := 0
      let f : Frame := { hdr := [0x12C01, 0x10001, 0, 0, 0, 0, 0, 0xC9B], ext := [], payload := [], crc := 0xA3993615 }
      let rx : Reception := { len := 64, blocks := 8, tail := RxTail.whole, resume := none }
      let s : State := onReset { State.reset.chip with regs := [(0x500000, 1), (0x501004, 168), (0x1C00004, 5)] }
      let c := s.chip
      let pl := port.val / 6
      let n := 192 + port.val
      let k := fKind f.hdr
      let l := frameBytes f.hdr f.ext f.payload
      let len := rx.len.toNat
      let calm := c.laneFresh n = false ∧ (c.lane n).rx = none ∧ (c.port port).part = none ∧ rx.resume = none
      let header := f.hdr.length = 8 ∧ frameLen f.hdr = len ∧ fPlen f.hdr ≤ 2048 ∧ 64 ≤ len ∧ len ≤ 2112
      let framed := calm ∧ header ∧ rx.tail = .whole ∧ 8 * rx.blocks.toNat = len ∧ f.ext.length = (if fTx f.hdr = true then 32 else 0)
        ∧ f.payload.length = fPlen f.hdr
      let whole := crc32 l = f.crc.toNat
      let hok := crc16 (hdrBytes f.hdr) = bits (hw f.hdr 7) 15 0
      let en := c.flag GTH_GCTL_EN = true
      let own := c.flag GTH_GSTAT_ID_VALID = true ∧ fDst f.hdr = c.fld GTH_GSTAT_NODE_ID
      let passes := en ∧ hok ∧ fTtl f.hdr ≠ 0 ∧ fMc f.hdr = false ∧ k ≠ 8 ∧ k ≠ 9 ∧ ¬ own
      let e := c.reg (GTH_RT pl (fDst f.hdr))
      let pri := 6 * pl + bits e 2 0
      let direct := bit e 3 = true ∧ bits e 2 0 < 6 ∧ c.portUp pri = true
      let lv := fLevel f.hdr
      let free (q : Nat) : Prop := c.silenced (192 + q) = false ∧ (c.port q).cur = none
      let b := (c.allocBuf n (decide (lv < 2)) 1).1.getD 0
      let y := (c.allocBuf n (decide (lv < 2)) 1).2
      c.allocBuf n (decide (lv < 2)) 1 = (some b, y) ∧ framed ∧ (¬ whole) ∧ passes ∧ direct ∧ free pri) ∧
    (
      let port : Fin 12 := 0
      let f : Frame := { hdr := [0x34C02, 0x4001, 0, 0, 0, 0, 0, 99], ext := [], payload := [], crc := 0xE00BA2AC }
      let rx : Reception := { len := 64, blocks := 8, tail := RxTail.whole, resume := none }
      let s : State := onReset { State.reset.chip with regs := [(0x500000, 1), (0x50100C, 168), (0x601600, 0), (0x1C00004, 5)] }
      let c := s.chip
      let pl := port.val / 6
      let n := 192 + port.val
      let k := fKind f.hdr
      let l := frameBytes f.hdr f.ext f.payload
      let len := rx.len.toNat
      let calm := c.laneFresh n = false ∧ (c.lane n).rx = none ∧ (c.port port).part = none ∧ rx.resume = none
      let header := f.hdr.length = 8 ∧ frameLen f.hdr = len ∧ fPlen f.hdr ≤ 2048 ∧ 64 ≤ len ∧ len ≤ 2112
      let framed := calm ∧ header ∧ rx.tail = .whole ∧ 8 * rx.blocks.toNat = len ∧ f.ext.length = (if fTx f.hdr = true then 32 else 0)
        ∧ f.payload.length = fPlen f.hdr
      let whole := crc32 l = f.crc.toNat
      let hok := crc16 (hdrBytes f.hdr) = bits (hw f.hdr 7) 15 0
      let en := c.flag GTH_GCTL_EN = true
      let own := c.flag GTH_GSTAT_ID_VALID = true ∧ fDst f.hdr = c.fld GTH_GSTAT_NODE_ID
      let passes := en ∧ hok ∧ fTtl f.hdr ≠ 0 ∧ fMc f.hdr = false ∧ k ≠ 8 ∧ k ≠ 9 ∧ ¬ own
      let uni := framed ∧ whole ∧ passes
      let e := c.reg (GTH_RT pl (fDst f.hdr))
      let pri := 6 * pl + bits e 2 0
      let direct := bit e 3 = true ∧ bits e 2 0 < 6 ∧ c.portUp pri = true
      let lv := fLevel f.hdr
      c.source n (decide (lv < 2)) = none ∧ uni ∧ direct) ∧
    (
      let port : Fin 12 := 0
      let f : Frame := { hdr := [0x2D40, 0x10001, 1, 0, 0, 0, 0, 0x1092], ext := [], payload := [], crc := 0x40691DA8 }
      let rx : Reception := { len := 64, blocks := 6, tail := RxTail.suspended, resume := none }
      let s : State := onReset { State.reset.chip with regs := [(0x500000, 1), (0x501000, 168), (0x1C00004, 5)] }
      let c := s.chip
      let pl := port.val / 6
      let n := 192 + port.val
      let k := fKind f.hdr
      let l := frameBytes f.hdr f.ext f.payload
      let len := rx.len.toNat
      let calm := c.laneFresh n = false ∧ (c.lane n).rx = none ∧ (c.port port).part = none ∧ rx.resume = none
      let header := f.hdr.length = 8 ∧ frameLen f.hdr = len ∧ fPlen f.hdr ≤ 2048 ∧ 64 ≤ len ∧ len ≤ 2112
      let hok := crc16 (hdrBytes f.hdr) = bits (hw f.hdr 7) 15 0
      let en := c.flag GTH_GCTL_EN = true
      let own := c.flag GTH_GSTAT_ID_VALID = true ∧ fDst f.hdr = c.fld GTH_GSTAT_NODE_ID
      let passes := en ∧ hok ∧ fTtl f.hdr ≠ 0 ∧ fMc f.hdr = false ∧ k ≠ 8 ∧ k ≠ 9 ∧ ¬ own
      let e := c.reg (GTH_RT pl (fDst f.hdr))
      let pri := 6 * pl + bits e 2 0
      let direct := bit e 3 = true ∧ bits e 2 0 < 6 ∧ c.portUp pri = true
      let lv := fLevel f.hdr
      let b := (c.allocBuf n (decide (lv < 2)) 1).1.getD 0
      let y := (c.allocBuf n (decide (lv < 2)) 1).2
      c.allocBuf n (decide (lv < 2)) 1 = (some b, y) ∧ calm ∧ header ∧ rx.tail = .suspended ∧ 4 ≤ rx.blocks.toNat ∧ 8 * rx.blocks.toNat ≤ len ∧ crc32 (l.take (8 * rx.blocks.toNat)) = f.crc.toNat ∧ passes ∧ direct) ∧
    (
      let port : Fin 12 := 0
      let f : Frame := { hdr := [0x12D40, 0x4001, 0, 8, 0, 0, 0, 0x34C5], ext := [], payload := [117, 117, 117, 117, 117, 117, 117, 117], crc := 0 }
      let rx : Reception := { len := 64, blocks := 0, tail := RxTail.coming, resume := none }
      let s : State := onReset { State.reset.chip with gth := { ports := [(0, { part := (some { seq := 0, off := 0, buf := 0, outs := [], rest := [], loc := false }) })] } }
      let c := s.chip
      let n := 192 + port.val
      let len := rx.len.toNat
      let header := f.hdr.length = 8 ∧ frameLen f.hdr = len ∧ fPlen f.hdr ≤ 2048 ∧ 64 ≤ len ∧ len ≤ 2112
      let lv := fLevel f.hdr
      let ln := c.lane n
      let y := { seq := 0, off := 0, buf := 0, outs := [], rest := [], loc := false }
      (c.port port).part = some y ∧ c.laneFresh n = false ∧ ln.rx = none ∧ rx.resume = none ∧ header ∧ rx.tail = .coming ∧ rx.blocks.toNat = 0 ∧ 0 < lv) ∧
    (
      let port : Fin 12 := 0
      let s : State := onReset { State.reset.chip with lanes := [(192, { rx := (some true) })] }
      let c := s.chip
      let n := 192 + port.val
      let ln := c.lane n
      ln.rx = some true) ∧
    (
      let port : Fin 12 := 0
      let s : State := onReset State.reset.chip
      let c := s.chip
      let n := 192 + port.val
      let ln := c.lane n
      ln.rx ≠ some true) ∧
    (
      let port : Fin 12 := 3
      let s : State := onReset State.reset.chip
      let c := s.chip
      let n := 192 + port.val
      let x := c.port port
      let ln := c.lane n
      let ready := c.portUp port = true ∧ x.cur = none ∧ ln.msgs = []
      (¬ ready)) ∧
    (
      let port : Fin 12 := 0
      let s : State := onReset { State.reset.chip with regs := [(0x1C00004, 5)] }
      let c := s.chip
      let n := 192 + port.val
      let x := c.port port
      let ln := c.lane n
      let ready := c.portUp port = true ∧ x.cur = none ∧ ln.msgs = []
      ready ∧ x.q = []) ∧
    (
      let port : Fin 12 := 0
      let s : State := onReset { State.reset.chip with regs := [(0x1C00004, 5)], gth := { ports := [(0, { q := [{ buf := 0, level := 2, hdr := [], ext := [], payload := [] }], await := (some (0, 2)) })] } }
      let c := s.chip
      let n := 192 + port.val
      let x := c.port port
      let ln := c.lane n
      let ready := c.portUp port = true ∧ x.cur = none ∧ ln.msgs = []
      let g := { buf := 0, level := 2, hdr := [], ext := [], payload := [] }
      x.q = [g] ∧ ready ∧ x.lets g = false) ∧
    (
      let port : Fin 12 := 0
      let s : State := onReset { State.reset.chip with regs := [(0x1C00004, 5)], gth := { ports := [(0, { q := [{ buf := 0, level := 0, hdr := [], ext := [], payload := [] }] })] } }
      let c := s.chip
      let n := 192 + port.val
      let x := c.port port
      let ln := c.lane n
      let ready := c.portUp port = true ∧ x.cur = none ∧ ln.msgs = []
      let g := { buf := 0, level := 0, hdr := [], ext := [], payload := [] }
      x.q = [g] ∧ ready ∧ x.lets g = true ∧ c.silenced n = false) ∧
    (
      let port : Fin 12 := 0
      let s : State := onReset { State.reset.chip with regs := [(0x1C00004, 5)], lanes := [(192, { q := [(0, 0x1200000000040895)], newAt := 1, msgs := [{ start := 0x1200000000040CDC, words := [], fin := 0 }] }), (193, { q := [(6, 0x1200000000040CDC)], newAt := 1, msgs := [{ start := 0x1200000000040CDC, words := [], fin := 0 }] }), (194, { q := [(6, 0x1200000000040CDC)], newAt := 1, msgs := [{ start := 0x1200000000040CDC, words := [], fin := 0 }] }), (195, { q := [(6, 0x1200000000040CDC)], newAt := 1, msgs := [{ start := 0x1200000000040CDC, words := [], fin := 0 }] }), (196, { q := [(6, 0x1200000000040CDC)], newAt := 1, msgs := [{ start := 0x1200000000040CDC, words := [], fin := 0 }] }), (197, { q := [(6, 0x1200000000040CDC)], newAt := 1, msgs := [{ start := 0x1200000000040CDC, words := [], fin := 0 }] }), (198, { q := [(6, 0x1200000000040CDC)], newAt := 1, msgs := [{ start := 0x1200000000040CDC, words := [], fin := 0 }] }), (199, { q := [(6, 0x1200000000040CDC)], newAt := 1, msgs := [{ start := 0x1200000000040CDC, words := [], fin := 0 }] }), (200, { q := [(6, 0x1200000000040CDC)], newAt := 1, msgs := [{ start := 0x1200000000040CDC, words := [], fin := 0 }] }), (201, { q := [(6, 0x1200000000040CDC)], newAt := 1, msgs := [{ start := 0x1200000000040CDC, words := [], fin := 0 }] }), (202, { q := [(6, 0x1200000000040CDC)], newAt := 1, msgs := [{ start := 0x1200000000040CDC, words := [], fin := 0 }] }), (203, { q := [(6, 0x1200000000040CDC)], newAt := 1, msgs := [{ start := 0x1200000000040CDC, words := [], fin := 0 }] })], gth := { ports := [(0, { cur := (some { buf := 0x2328, level := 2, hdr := [0x23501, 1, 4, 8, 0, 0, 0, 0xBA9F], ext := [], payload := [1, 2, 3, 4, 5, 6, 7, 8] }) }), (1, { cur := (some { buf := 0x2328, level := 2, hdr := [0x23501, 1, 4, 8, 0, 0, 0, 0xBA9F], ext := [], payload := [1, 2, 3, 4, 5, 6, 7, 8] }) }), (2, { cur := (some { buf := 0x2328, level := 2, hdr := [0x23501, 1, 4, 8, 0, 0, 0, 0xBA9F], ext := [], payload := [1, 2, 3, 4, 5, 6, 7, 8] }) }), (3, { cur := (some { buf := 0x2328, level := 2, hdr := [0x23501, 1, 4, 8, 0, 0, 0, 0xBA9F], ext := [], payload := [1, 2, 3, 4, 5, 6, 7, 8] }) }), (4, { cur := (some { buf := 0x2328, level := 2, hdr := [0x23501, 1, 4, 8, 0, 0, 0, 0xBA9F], ext := [], payload := [1, 2, 3, 4, 5, 6, 7, 8] }) }), (5, { cur := (some { buf := 0x2328, level := 2, hdr := [0x23501, 1, 4, 8, 0, 0, 0, 0xBA9F], ext := [], payload := [1, 2, 3, 4, 5, 6, 7, 8] }) }), (6, { cur := (some { buf := 0x2328, level := 2, hdr := [0x23501, 1, 4, 8, 0, 0, 0, 0xBA9F], ext := [], payload := [1, 2, 3, 4, 5, 6, 7, 8] }) }), (7, { cur := (some { buf := 0x2328, level := 2, hdr := [0x23501, 1, 4, 8, 0, 0, 0, 0xBA9F], ext := [], payload := [1, 2, 3, 4, 5, 6, 7, 8] }) }), (8, { cur := (some { buf := 0x2328, level := 2, hdr := [0x23501, 1, 4, 8, 0, 0, 0, 0xBA9F], ext := [], payload := [1, 2, 3, 4, 5, 6, 7, 8] }) }), (9, { cur := (some { buf := 0x2328, level := 2, hdr := [0x23501, 1, 4, 8, 0, 0, 0, 0xBA9F], ext := [], payload := [1, 2, 3, 4, 5, 6, 7, 8] }) }), (10, { cur := (some { buf := 0x2328, level := 2, hdr := [0x23501, 1, 4, 8, 0, 0, 0, 0xBA9F], ext := [], payload := [1, 2, 3, 4, 5, 6, 7, 8] }) }), (11, { cur := (some { buf := 0x2328, level := 2, hdr := [0x23501, 1, 4, 8, 0, 0, 0, 0xBA9F], ext := [], payload := [1, 2, 3, 4, 5, 6, 7, 8] }) })] } }
      let c := s.chip
      let n := 192 + port.val
      let x := c.port port
      let ln := c.lane n
      let g := { buf := 0x2328, level := 2, hdr := [0x23501, 1, 4, 8, 0, 0, 0, 0xBA9F], ext := [], payload := [1, 2, 3, 4, 5, 6, 7, 8] }
      let m := { start := 0x1200000000040CDC, words := [], fin := 0 }
      let y : (Nat × DWord) × List (Nat × DWord) := ((0, 0x1200000000040895), [])
      x.cur = some g ∧ ln.msgs = [m] ∧ pickBlock [] (ln.available (c.laneClock n)).1 = some y ∧ blockType y.1.2 = 0x12 ∧ c.portUp port = true ∧ ln.wantsBalance = false ∧ c.fld (LN_INJ_MODE (laneBase n)) = 0 ∧ g.off = 0 ∧ g.req = none ∧ fTx g.hdr = false ∧ 8192 ≤ g.buf ∧ g.upto = none ∧ g.eof = none) := by
  refine ⟨?_, ?_, ?_, ?_, ?_, ?_, ?_, ?_, ?_, ?_, ?_, ?_, ?_, ?_, ?_, ?_, ?_, ?_, ?_, ?_, ?_, ?_, ?_, ?_, ?_, ?_, ?_, ?_, ?_⟩ <;> (try dsimp only) <;> first | decide +kernel | ((repeat' apply And.intro) <;> first | decide +kernel | rfl | exact ⟨_, _, _, _, rfl⟩ | (simp [hubSerial]; done) | (simp [hubSerial]; omega) | (simp; done) | exact rc_above _ _ _ (by decide +kernel) | exact rc_below _ _ _ (by decide +kernel) | exact us_above _ _ _ (by decide +kernel) | exact us_from _ _ _ (by decide +kernel) | exact us_below _ _ _ (by decide +kernel))

theorem witness_PoolAccounts :
    (
      let r : Requester := Requester.shed
      let hub := hubRequester r = true
      (¬ hub)) ∧
    (
      let r : Requester := Requester.host
      let s : State := onReset { State.reset.chip with regs := [(0x6018E0, 0)] }
      let c := s.chip
      let own := acctOf r
      let hub := hubRequester r = true
      hub ∧ (c.source own false = none ∨ c.regionOf r = true)) ∧
    (
      let r : Requester := Requester.kiosk 8
      let s : State := onReset State.reset.chip
      let c := s.chip
      let own := acctOf r
      let hub := hubRequester r = true
      let n := (c.allocBuf own false 1).1.getD 0
      let y := (c.allocBuf own false 1).2
      c.allocBuf own false 1 = (some n, y) ∧ hub ∧ c.regionOf r = false) ∧
    (
      let r : Requester := Requester.host
      let w : Word := 0
      let s : State := onReset { State.reset.chip with gth := { bufs := [(0, (some { acct := 284, rsv := false, refs := 0 }))] } }
      let c := s.chip
      let own := acctOf r
      let hub := hubRequester r = true
      let b := bits w.toNat 12 0
      let x := { acct := 284, rsv := false, refs := 0 }
      c.buf b = some x ∧ hub ∧ x.acct = own ∧ x.refs ≤ 1) ∧
    (
      let r : Requester := Requester.kiosk 1
      let w : Word := 0
      let s : State := onReset { State.reset.chip with gth := { bufs := [(0, (some { acct := 0, rsv := false, refs := 0 }))] } }
      let c := s.chip
      let own := acctOf r
      let hub := hubRequester r = true
      let b := bits w.toNat 12 0
      let x := { acct := 0, rsv := false, refs := 0 }
      c.buf b = some x ∧ hub ∧ x.acct ≠ own) ∧
    (
      let r : Requester := Requester.kiosk 8
      let w : Word := 0
      let s : State := onReset State.reset.chip
      let c := s.chip
      let hub := hubRequester r = true
      let b := bits w.toNat 12 0
      c.buf b = none ∧ hub) ∧
    (
      let r : Requester := Requester.host
      let a : Fin 288 := 3
      let w : Word := 0x1FFF
      let s : State := onReset { State.reset.chip with hold := [(0, (some (0x601018, [(0, 0x1FFF)])))] }
      let c := s.chip
      let held := c.holdOf r = some (acctAddr a, [(0, w.toNat)])
      let hub := hubRequester r = true
      let calm := c.takeDue = false
      let m := bits w.toNat 12 0
      let beyond := 8192 < c.sumMin a m + c.fld ORG_OCTL_RSV_CTL
      hub ∧ calm ∧ held ∧ beyond) ∧
    (
      let r : Requester := Requester.host
      let a : Fin 288 := 3
      let w : Word := 7
      let s : State := onReset { State.reset.chip with hold := [(0, (some (0x601018, [(0, 7)])))] }
      let c := s.chip
      let held := c.holdOf r = some (acctAddr a, [(0, w.toNat)])
      let hub := hubRequester r = true
      let calm := c.takeDue = false
      let m := bits w.toNat 12 0
      let beyond := 8192 < c.sumMin a m + c.fld ORG_OCTL_RSV_CTL
      hub ∧ calm ∧ held ∧ (¬ beyond)) ∧
    (
      let r : Requester := Requester.kiosk 8
      let w : Word := 0x1B52
      let s : State := onReset State.reset.chip
      let c := s.chip
      let hub := hubRequester r = true
      let calm := c.takeDue = false
      let m := bits w.toNat 12 0
      let beyond' := 8192 < c.sumMin 288 0 + m
      hub ∧ calm ∧ beyond') ∧
    (
      let r : Requester := Requester.host
      let w : Word := 0
      let s : State := onReset State.reset.chip
      let c := s.chip
      let hub := hubRequester r = true
      let calm := c.takeDue = false
      let m := bits w.toNat 12 0
      let beyond' := 8192 < c.sumMin 288 0 + m
      hub ∧ calm ∧ (¬ beyond')) := by
  refine ⟨?_, ?_, ?_, ?_, ?_, ?_, ?_, ?_, ?_, ?_⟩ <;> (try dsimp only) <;> first | decide +kernel | ((repeat' apply And.intro) <;> first | decide +kernel | rfl | exact ⟨_, _, _, _, rfl⟩ | (simp [hubSerial]; done) | (simp [hubSerial]; omega) | (simp; done) | exact rc_above _ _ _ (by decide +kernel) | exact rc_below _ _ _ (by decide +kernel) | exact us_above _ _ _ (by decide +kernel) | exact us_from _ _ _ (by decide +kernel) | exact us_below _ _ _ (by decide +kernel))

theorem witness_Discovery :
    (
      let s : State := onReset State.reset.chip
      let c := s.chip
      let en := c.flag GTH_GCTL_EN = true
      (¬ en)) ∧
    (
      let s : State := onReset { State.reset.chip with regs := [(0x500000, 1)] }
      let c := s.chip
      let en := c.flag GTH_GCTL_EN = true
      en) ∧
    (
      let h : Hello := { serial := Config.hubSerial, flags := 10, nodeId := 1, prefId := 1, epoch := 2, hops := 0, path := [1, 2], nbr := [1, 0, 0, 0, 0, 2], member := 0, seq := 2 }
      let ser := h.serial.toNat
      ser = hubSerial) ∧
    (
      let port : Fin 12 := 6
      let h : Hello := { serial := Config.hubSerial + 1, flags := 64, nodeId := 1, prefId := 1, epoch := 0, hops := 0, path := [1, 2], nbr := [1, 0, 0, 0, 0, 1], member := 0, seq := 2 }
      let s : State := onReset { State.reset.chip with regs := [(0x500000, 1)] }
      let c := s.chip
      let en := c.flag GTH_GCTL_EN = true
      let pl := port.val / 6
      let ser := h.serial.toNat
      let calm := c.gth.epoch = h.epoch.toNat ∧ (c.gth.heard.all fun x => !(x.plane == pl && x.serial == ser)) = true
      en ∧ ser ≠ hubSerial ∧ calm) ∧
    (
      let h : Hello := { serial := Config.hubSerial + 1, flags := 3, nodeId := 1, prefId := 1, epoch := 1, hops := 15, path := [1, 2], nbr := [1, 0, 0, 0, 0, 2], member := 0, seq := 0 }
      let s : State := onReset { State.reset.chip with regs := [(0x500000, 1)] }
      let c := s.chip
      let en := c.flag GTH_GCTL_EN = true
      let ser := h.serial.toNat
      en ∧ ser ≠ hubSerial ∧ c.gth.epoch < h.epoch.toNat) ∧
    (
      let port : Fin 12 := 0
      let s : State := onReset State.reset.chip
      let c := s.chip
      let v := bit (c.fld GTH_PORTS_NBR_V) port = true ∧ c.threeIntervals (Assoc.get (fun _ => 0) c.gth.nbrAt port) = true
      (¬ v)) ∧
    (
      let port : Fin 12 := 1
      let s : State := onReset { State.reset.chip with time := 0x5967E49, regs := [(0x500000, 249), (0x500004, 0x800), (0x500028, 0x92F68788), (0x501000, 168), (0x501004, 169), (0x501008, 170), (0x50100C, 168), (0x502000, 152), (0x502004, 153), (0x502008, 154), (0x50200C, 155), (0x600000, 0), (0x601600, 0x50002), (0x601608, 0x50002), (0x601610, 0x50002), (0x601618, 0x50002), (0x601620, 0x50002), (0x601628, 0x50002), (0x601630, 0x50002), (0x601638, 0x50002), (0x601640, 0x50002), (0x601648, 0x50002), (0x601650, 0x50002), (0x601658, 0x50002), (0x601660, 0x50002), (0x601668, 0x50002), (0x601670, 0x50002), (0x601678, 0x50002), (0x601680, 0x50002), (0x601688, 0x50002), (0x601690, 0x50002), (0x601698, 0x50002), (0x6016A0, 0x50002), (0x6016A8, 0x50002), (0x6016B0, 0x50002), (0x6016B8, 0x50002), (0x6016C0, 0x50002), (0x6016C8, 0x50002), (0x6016D0, 0x50002), (0x6016D8, 0x50002), (0x6016E0, 0x50002), (0x6016E8, 0x50002), (0x6016F0, 0x50002), (0x6016F8, 0x50002), (0x601700, 0x50002), (0x601708, 0x50002), (0x601710, 0x50002), (0x601718, 0x50002), (0x601720, 0x50002), (0x601728, 0x50002), (0x601730, 0x50002), (0x601738, 0x50002), (0x601740, 0x50002), (0x601748, 0x50002), (0x601750, 0x50002), (0x601758, 0x50002), (0x601760, 0x50002), (0x601768, 0x50002), (0x601770, 0x50002), (0x601778, 0x50002), (0x601780, 0x50002), (0x601788, 0x50002), (0x601790, 0x50002), (0x601798, 0x50002), (0x6017A0, 0x50002), (0x6017A8, 0x50002), (0x6017B0, 0x50002), (0x6017B8, 0x50002), (0x6017C0, 0x50002), (0x6017C8, 0x50002), (0x6017D0, 0x50002), (0x6017D8, 0x50002), (0x6017E0, 0x50002), (0x6017E8, 0x50002), (0x6017F0, 0x50002), (0x6017F8, 0x50002), (0x601800, 0x50002), (0x601808, 0x50002), (0x601810, 0x50002), (0x601818, 0x50002), (0x601820, 0x50002), (0x601828, 0x50002), (0x601830, 0x50002), (0x601838, 0x50002), (0x601840, 0x50002), (0x601848, 0x50002), (0x601850, 0x50002), (0x601858, 0x50002), (0x1C00004, 5), (0x1C10004, 5), (0x1C20004, 5), (0x1C60004, 5), (0x1C70004, 5)], sys := { leadPin := true } }
      let c := s.chip
      let isLead := c.flag GTH_GSTAT_IS_LEAD = true
      let v := bit (c.fld GTH_PORTS_NBR_V) port = true ∧ c.threeIntervals (Assoc.get (fun _ => 0) c.gth.nbrAt port) = true
      v ∧ (¬ isLead)) ∧
    (
      let s : State := onReset State.reset.chip
      let c := s.chip
      let chosen := c.reg64 GTH_LEAD_SERIAL ≠ 0
      let settled := c.gth.setAt + Nat.max (c.fld GTH_DISCCFG_SETTLE) 1 * 2000000 ≤ c.time
      (chosen ∨ ¬ settled)) ∧
    (
      let s : State := onReset { State.reset.chip with time := 0xB2D0138, regs := [(0x500000, 249), (0x500004, 0x800), (0x500028, 0x10000), (0x501000, 168), (0x501004, 169), (0x501008, 170), (0x50100C, 168), (0x502000, 152), (0x502004, 153), (0x502008, 154), (0x50200C, 155), (0x601600, 0x50002), (0x601608, 0x50002), (0x601610, 0x50002), (0x601618, 0x50002), (0x601620, 0x50002), (0x601628, 0x50002), (0x601630, 0x50002), (0x601638, 0x50002), (0x601640, 0x50002), (0x601648, 0x50002), (0x601650, 0x50002), (0x601658, 0x50002), (0x601660, 0x50002), (0x601668, 0x50002), (0x601670, 0x50002), (0x601678, 0x50002), (0x601680, 0x50002), (0x601688, 0x50002), (0x601690, 0x50002), (0x601698, 0x50002), (0x6016A0, 0x50002), (0x6016A8, 0x50002), (0x6016B0, 0x50002), (0x6016B8, 0x50002), (0x6016C0, 0x50002), (0x6016C8, 0x50002), (0x6016D0, 0x50002), (0x6016D8, 0x50002), (0x6016E0, 0x50002), (0x6016E8, 0x50002), (0x6016F0, 0x50002), (0x6016F8, 0x50002), (0x601700, 0x50002), (0x601708, 0x50002), (0x601710, 0x50002), (0x601718, 0x50002), (0x601720, 0x50002), (0x601728, 0x50002), (0x601730, 0x50002), (0x601738, 0x50002), (0x601740, 0x50002), (0x601748, 0x50002), (0x601750, 0x50002), (0x601758, 0x50002), (0x601760, 0x50002), (0x601768, 0x50002), (0x601770, 0x50002), (0x601778, 0x50002), (0x601780, 0x50002), (0x601788, 0x50002), (0x601790, 0x50002), (0x601798, 0x50002), (0x6017A0, 0x50002), (0x6017A8, 0x50002), (0x6017B0, 0x50002), (0x6017B8, 0x50002), (0x6017C0, 0x50002), (0x6017C8, 0x50002), (0x6017D0, 0x50002), (0x6017D8, 0x50002), (0x6017E0, 0x50002), (0x6017E8, 0x50002), (0x6017F0, 0x50002), (0x6017F8, 0x50002), (0x601800, 0x50002), (0x601808, 0x50002), (0x601810, 0x50002), (0x601818, 0x50002), (0x601820, 0x50002), (0x601828, 0x50002), (0x601830, 0x50002), (0x601838, 0x50002), (0x601840, 0x50002), (0x601848, 0x50002), (0x601850, 0x50002), (0x601858, 0x50002), (0x1C00004, 5), (0x1C10004, 5), (0x1C20004, 5), (0x1C60004, 5), (0x1C70004, 5)], gth := { heard := [{ plane := 0, serial := 2, flags := 0, nodeId := 0, prefId := 0, epoch := 0, path := [1], nbr := [1, 2, 0], member := 0, at' := 0xB2D05E00 }] } }
      let c := s.chip
      let en := c.flag GTH_GCTL_EN = true
      let chosen := c.reg64 GTH_LEAD_SERIAL ≠ 0
      let settled := c.gth.setAt + Nat.max (c.fld GTH_DISCCFG_SETTLE) 1 * 2000000 ≤ c.time
      let leads := c.withFlag 4
      let forced := c.withFlag 1
      let elig := c.withFlag 0
      let free := en ∧ ¬ chosen ∧ settled
      free ∧ leads = [] ∧ forced = [] ∧ elig = []) ∧
    (
      let s : State := onReset { State.reset.chip with time := 0x2CAF75, regs := [(0x500000, 249), (0x500004, 0x800), (0x50000C, 0x4000000), (0x500100, 0x5A60B0F5), (0x501000, 168), (0x501004, 169), (0x501008, 170), (0x50100C, 168), (0x502000, 152), (0x502004, 153), (0x502008, 154), (0x50200C, 155), (0x601600, 0x50002), (0x601608, 0x50002), (0x601610, 0x50002), (0x601618, 0x50002), (0x601620, 0x50002), (0x601628, 0x50002), (0x601630, 0x50002), (0x601638, 0x50002), (0x601640, 0x50002), (0x601648, 0x50002), (0x601650, 0x50002), (0x601658, 0x50002), (0x601660, 0x50002), (0x601668, 0x50002), (0x601670, 0x50002), (0x601678, 0x50002), (0x601680, 0x50002), (0x601688, 0x50002), (0x601690, 0x50002), (0x601698, 0x50002), (0x6016A0, 0x50002), (0x6016A8, 0x50002), (0x6016B0, 0x50002), (0x6016B8, 0x50002), (0x6016C0, 0x50002), (0x6016C8, 0x50002), (0x6016D0, 0x50002), (0x6016D8, 0x50002), (0x6016E0, 0x50002), (0x6016E8, 0x50002), (0x6016F0, 0x50002), (0x6016F8, 0x50002), (0x601700, 0x50002), (0x601708, 0x50002), (0x601710, 0x50002), (0x601718, 0x50002), (0x601720, 0x50002), (0x601728, 0x50002), (0x601730, 0x50002), (0x601738, 0x50002), (0x601740, 0x50002), (0x601748, 0x50002), (0x601750, 0x50002), (0x601758, 0x50002), (0x601760, 0x50002), (0x601768, 0x50002), (0x601770, 0x50002), (0x601778, 0x50002), (0x601780, 0x50002), (0x601788, 0x50002), (0x601790, 0x50002), (0x601798, 0x50002), (0x6017A0, 0x50002), (0x6017A8, 0x50002), (0x6017B0, 0x50002), (0x6017B8, 0x50002), (0x6017C0, 0x50002), (0x6017C8, 0x50002), (0x6017D0, 0x50002), (0x6017D8, 0x50002), (0x6017E0, 0x50002), (0x6017E8, 0x50002), (0x6017F0, 0x50002), (0x6017F8, 0x50002), (0x601800, 0x50002), (0x601808, 0x50002), (0x601810, 0x50002), (0x601818, 0x50002), (0x601820, 0x50002), (0x601828, 0x50002), (0x601830, 0x50002), (0x601838, 0x50002), (0x601840, 0x50002), (0x601848, 0x50002), (0x601850, 0x50002), (0x601858, 0x50002), (0x1C00004, 5), (0x1C10004, 5), (0x1C20004, 5), (0x1C60004, 5), (0x1C70004, 5)], lanes := [(192, { rx := (some true) }), (193, { rx := (some true) }), (194, { rx := (some true) }), (195, { rx := (some true) }), (196, { rx := (some true) }), (197, { rx := (some true) }), (198, { rx := (some true) }), (199, { rx := (some true) }), (200, { rx := (some true) }), (201, { rx := (some true) }), (202, { rx := (some true) }), (203, { rx := (some true) })], gth := { heard := [{ plane := 0, serial := 2, flags := 16, nodeId := 0, prefId := 0, epoch := 0, path := [1], nbr := [1, 2, 0], member := 0, at' := 0xB2D05E00 }] } }
      let c := s.chip
      let en := c.flag GTH_GCTL_EN = true
      let chosen := c.reg64 GTH_LEAD_SERIAL ≠ 0
      let settled := c.gth.setAt + Nat.max (c.fld GTH_DISCCFG_SETTLE) 1 * 2000000 ≤ c.time
      let leads := c.withFlag 4
      let free := en ∧ ¬ chosen ∧ settled
      let n := 2
      lowest leads = some n ∧ free) ∧
    (
      let s : State := onReset { State.reset.chip with time := 0xB2D0138, regs := [(0x500000, 249), (0x500004, 0x800), (0x501000, 168), (0x501004, 169), (0x501008, 170), (0x50100C, 168), (0x502000, 152), (0x502004, 153), (0x502008, 154), (0x50200C, 155), (0x601600, 0x50002), (0x601608, 0x50002), (0x601610, 0x50002), (0x601618, 0x50002), (0x601620, 0x50002), (0x601628, 0x50002), (0x601630, 0x50002), (0x601638, 0x50002), (0x601640, 0x50002), (0x601648, 0x50002), (0x601650, 0x50002), (0x601658, 0x50002), (0x601660, 0x50002), (0x601668, 0x50002), (0x601670, 0x50002), (0x601678, 0x50002), (0x601680, 0x50002), (0x601688, 0x50002), (0x601690, 0x50002), (0x601698, 0x50002), (0x6016A0, 0x50002), (0x6016A8, 0x50002), (0x6016B0, 0x50002), (0x6016B8, 0x50002), (0x6016C0, 0x50002), (0x6016C8, 0x50002), (0x6016D0, 0x50002), (0x6016D8, 0x50002), (0x6016E0, 0x50002), (0x6016E8, 0x50002), (0x6016F0, 0x50002), (0x6016F8, 0x50002), (0x601700, 0x50002), (0x601708, 0x50002), (0x601710, 0x50002), (0x601718, 0x50002), (0x601720, 0x50002), (0x601728, 0x50002), (0x601730, 0x50002), (0x601738, 0x50002), (0x601740, 0x50002), (0x601748, 0x50002), (0x601750, 0x50002), (0x601758, 0x50002), (0x601760, 0x50002), (0x601768, 0x50002), (0x601770, 0x50002), (0x601778, 0x50002), (0x601780, 0x50002), (0x601788, 0x50002), (0x601790, 0x50002), (0x601798, 0x50002), (0x6017A0, 0x50002), (0x6017A8, 0x50002), (0x6017B0, 0x50002), (0x6017B8, 0x50002), (0x6017C0, 0x50002), (0x6017C8, 0x50002), (0x6017D0, 0x50002), (0x6017D8, 0x50002), (0x6017E0, 0x50002), (0x6017E8, 0x50002), (0x6017F0, 0x50002), (0x6017F8, 0x50002), (0x601800, 0x50002), (0x601808, 0x50002), (0x601810, 0x50002), (0x601818, 0x50002), (0x601820, 0x50002), (0x601828, 0x50002), (0x601830, 0x50002), (0x601838, 0x50002), (0x601840, 0x50002), (0x601848, 0x50002), (0x601850, 0x50002), (0x601858, 0x50002), (0x1C00004, 5), (0x1C10004, 5), (0x1C20004, 5), (0x1C60004, 5), (0x1C70004, 5)], gth := { heard := [{ plane := 0, serial := 2, flags := 2, nodeId := 0, prefId := 0, epoch := 0, path := [1], nbr := [1, 2, 0], member := 0, at' := 0xB2D05E00 }] }, sys := { leadPin := true } }
      let c := s.chip
      let en := c.flag GTH_GCTL_EN = true
      let chosen := c.reg64 GTH_LEAD_SERIAL ≠ 0
      let settled := c.gth.setAt + Nat.max (c.fld GTH_DISCCFG_SETTLE) 1 * 2000000 ≤ c.time
      let leads := c.withFlag 4
      let forced := c.withFlag 1
      let free := en ∧ ¬ chosen ∧ settled
      let n := 2
      lowest forced = some n ∧ free ∧ leads = []) ∧
    (
      let s : State := onReset { State.reset.chip with time := 0xB2D0138, regs := [(0x500000, 249), (0x500004, 0x800), (0x501000, 168), (0x501004, 169), (0x501008, 170), (0x50100C, 168), (0x502000, 152), (0x502004, 153), (0x502008, 154), (0x50200C, 155), (0x601600, 0x50002), (0x601608, 0x50002), (0x601610, 0x50002), (0x601618, 0x50002), (0x601620, 0x50002), (0x601628, 0x50002), (0x601630, 0x50002), (0x601638, 0x50002), (0x601640, 0x50002), (0x601648, 0x50002), (0x601650, 0x50002), (0x601658, 0x50002), (0x601660, 0x50002), (0x601668, 0x50002), (0x601670, 0x50002), (0x601678, 0x50002), (0x601680, 0x50002), (0x601688, 0x50002), (0x601690, 0x50002), (0x601698, 0x50002), (0x6016A0, 0x50002), (0x6016A8, 0x50002), (0x6016B0, 0x50002), (0x6016B8, 0x50002), (0x6016C0, 0x50002), (0x6016C8, 0x50002), (0x6016D0, 0x50002), (0x6016D8, 0x50002), (0x6016E0, 0x50002), (0x6016E8, 0x50002), (0x6016F0, 0x50002), (0x6016F8, 0x50002), (0x601700, 0x50002), (0x601708, 0x50002), (0x601710, 0x50002), (0x601718, 0x50002), (0x601720, 0x50002), (0x601728, 0x50002), (0x601730, 0x50002), (0x601738, 0x50002), (0x601740, 0x50002), (0x601748, 0x50002), (0x601750, 0x50002), (0x601758, 0x50002), (0x601760, 0x50002), (0x601768, 0x50002), (0x601770, 0x50002), (0x601778, 0x50002), (0x601780, 0x50002), (0x601788, 0x50002), (0x601790, 0x50002), (0x601798, 0x50002), (0x6017A0, 0x50002), (0x6017A8, 0x50002), (0x6017B0, 0x50002), (0x6017B8, 0x50002), (0x6017C0, 0x50002), (0x6017C8, 0x50002), (0x6017D0, 0x50002), (0x6017D8, 0x50002), (0x6017E0, 0x50002), (0x6017E8, 0x50002), (0x6017F0, 0x50002), (0x6017F8, 0x50002), (0x601800, 0x50002), (0x601808, 0x50002), (0x601810, 0x50002), (0x601818, 0x50002), (0x601820, 0x50002), (0x601828, 0x50002), (0x601830, 0x50002), (0x601838, 0x50002), (0x601840, 0x50002), (0x601848, 0x50002), (0x601850, 0x50002), (0x601858, 0x50002), (0x1C00004, 5), (0x1C10004, 5), (0x1C20004, 5), (0x1C60004, 5), (0x1C70004, 5)], gth := { heard := [{ plane := 0, serial := 2, flags := 1, nodeId := 0, prefId := 0, epoch := 0, path := [1], nbr := [1, 2, 0], member := 0, at' := 0xB2D05E00 }] }, hh := { taken := [(1, 1)] } }
      let c := s.chip
      let en := c.flag GTH_GCTL_EN = true
      let chosen := c.reg64 GTH_LEAD_SERIAL ≠ 0
      let settled := c.gth.setAt + Nat.max (c.fld GTH_DISCCFG_SETTLE) 1 * 2000000 ≤ c.time
      let leads := c.withFlag 4
      let forced := c.withFlag 1
      let elig := c.withFlag 0
      let free := en ∧ ¬ chosen ∧ settled
      let n := 2
      lowest elig = some n ∧ free ∧ leads = [] ∧ forced = []) ∧
    (
      let s : State := onReset State.reset.chip
      let c := s.chip
      let chosen := c.reg64 GTH_LEAD_SERIAL ≠ 0
      let isLead := c.flag GTH_GSTAT_IS_LEAD = true
      let heardLead := c.gth.heard.filter fun x => x.serial == c.reg64 GTH_LEAD_SERIAL
      let lost := chosen ∧ ¬ isLead ∧ heardLead ≠ [] ∧ heardLead.all (fun x => c.threeIntervals x.at') = true
      (¬ lost)) ∧
    (
      let s : State := onReset { State.reset.chip with time := 0x5967E49, regs := [(0x500000, 249), (0x500004, 0x800), (0x500018, 2), (0x500028, 0x30000), (0x501000, 168), (0x501004, 169), (0x501008, 170), (0x50100C, 168), (0x502000, 152), (0x502004, 153), (0x502008, 154), (0x50200C, 155), (0x601600, 3), (0x601608, 0x50002), (0x601610, 0x50002), (0x601618, 0x50002), (0x601620, 0x50002), (0x601628, 0x50002), (0x601630, 0x50002), (0x601638, 0x50002), (0x601640, 0x50002), (0x601648, 0x50002), (0x601650, 0x50002), (0x601658, 0x50002), (0x601660, 0x50002), (0x601668, 0x50002), (0x601670, 0x50002), (0x601678, 0x50002), (0x601680, 0x50002), (0x601688, 0x50002), (0x601690, 0x50002), (0x601698, 0x50002), (0x6016A0, 0x50002), (0x6016A8, 0x50002), (0x6016B0, 0x50002), (0x6016B8, 0x50002), (0x6016C0, 0x50002), (0x6016C8, 0x50002), (0x6016D0, 0x50002), (0x6016D8, 0x50002), (0x6016E0, 0x50002), (0x6016E8, 0x50002), (0x6016F0, 0x50002), (0x6016F8, 0x50002), (0x601700, 0x50002), (0x601708, 0x50002), (0x601710, 0x50002), (0x601718, 0x50002), (0x601720, 0x50002), (0x601728, 0x50002), (0x601730, 0x50002), (0x601738, 0x50002), (0x601740, 0x50002), (0x601748, 0x50002), (0x601750, 0x50002), (0x601758, 0x50002), (0x601760, 0x50002), (0x601768, 0x50002), (0x601770, 0x50002), (0x601778, 0x50002), (0x601780, 0x50002), (0x601788, 0x50002), (0x601790, 0x50002), (0x601798, 0x50002), (0x6017A0, 0x50002), (0x6017A8, 0x50002), (0x6017B0, 0x50002), (0x6017B8, 0x50002), (0x6017C0, 0x50002), (0x6017C8, 0x50002), (0x6017D0, 0x50002), (0x6017D8, 0x50002), (0x6017E0, 0x50002), (0x6017E8, 0x50002), (0x6017F0, 0x50002), (0x6017F8, 0x50002), (0x601800, 0x50002), (0x601808, 0x50002), (0x601810, 0x50002), (0x601818, 0x50002), (0x601820, 0x50002), (0x601828, 0x50002), (0x601830, 0x50002), (0x601838, 0x50002), (0x601840, 0x50002), (0x601848, 0x50002), (0x601850, 0x50002), (0x601858, 0x50002), (0x1C00004, 5), (0x1C10004, 5), (0x1C20004, 5), (0x1C60004, 5), (0x1C70004, 5)], gth := { heard := [{ plane := 0, serial := 2, flags := 16, nodeId := 0, prefId := 0, epoch := 0, path := [1], nbr := [1, 2, 0], member := 0, at' := 0 }, { plane := 0, serial := 3, flags := 16, nodeId := 0, prefId := 0, epoch := 0, path := [1], nbr := [1, 2, 0], member := 0, at' := 0 }] } }
      let c := s.chip
      let chosen := c.reg64 GTH_LEAD_SERIAL ≠ 0
      let isLead := c.flag GTH_GSTAT_IS_LEAD = true
      let heardLead := c.gth.heard.filter fun x => x.serial == c.reg64 GTH_LEAD_SERIAL
      let lost := chosen ∧ ¬ isLead ∧ heardLead ≠ [] ∧ heardLead.all (fun x => c.threeIntervals x.at') = true
      lost) ∧
    (
      let serial : DWord := Config.hubSerial + 1
      let s : State := onReset State.reset.chip
      let c := s.chip
      let idle := (List.range 12).all (fun i => (c.port i).cur.isNone && !c.silenced (192 + i)) = true
      serial.toNat ≠ hubSerial ∧ idle) ∧
    (
      let port : Fin 12 := 0
      let o : Fin 12 := 1
      let serial : DWord := Config.hubSerial + 1
      let path' : List Nat := [1]
      let s : State := onReset { State.reset.chip with regs := [(0x1C10004, 5)] }
      let c := s.chip
      let pl := port.val / 6
      let takesOut := c.portUp o = true ∧ c.silenced (192 + o) = false ∧ (c.port o).cur = none
      let y := 1
      path'.getLast? = some y ∧ serial.toNat ≠ hubSerial ∧ y < 6 ∧ o.val = 6 * pl + y ∧ takesOut) ∧
    (
      let serial : DWord := Config.hubSerial
      serial.toNat = hubSerial) ∧
    (
      let s : State := onReset { State.reset.chip with regs := [(0x500004, 0x800)] }
      let c := s.chip
      let mine := c.flag GTH_GSTAT_ID_VALID = true
      mine ∧ c.gth.firstLoad = true) ∧
    (
      let s : State := onReset State.reset.chip
      let c := s.chip
      let mine := c.flag GTH_GSTAT_ID_VALID = true
      (¬ (mine ∧ c.gth.firstLoad = true))) ∧
    (
      let at' : DWord := 0
      let s : State := onReset State.reset.chip
      let c := s.chip
      let passed := at'.toNat ≤ c.ftNs % 2 ^ 64
      passed) ∧
    (
      let at' : DWord := 1
      let s : State := onReset State.reset.chip
      let c := s.chip
      let passed := at'.toNat ≤ c.ftNs % 2 ^ 64
      (¬ passed)) ∧
    (
      let s : State := onReset State.reset.chip
      let c := s.chip
      let past := c.reg64 GTH_SWAP_AT ≤ c.ftNs % 2 ^ 64
      past) ∧
    (
      let s : State := onReset { State.reset.chip with regs := [(0x500020, 1)] }
      let c := s.chip
      let past := c.reg64 GTH_SWAP_AT ≤ c.ftNs % 2 ^ 64
      (¬ past)) ∧
    (
      let s : State := onReset { State.reset.chip with gth := { swapArmed := true } }
      let c := s.chip
      let past := c.reg64 GTH_SWAP_AT ≤ c.ftNs % 2 ^ 64
      c.gth.swapArmed = true ∧ past) ∧
    (
      let s : State := onReset State.reset.chip
      let c := s.chip
      let past := c.reg64 GTH_SWAP_AT ≤ c.ftNs % 2 ^ 64
      (¬ (c.gth.swapArmed = true ∧ past))) ∧
    (
      let s : State := onReset State.reset.chip
      let c := s.chip
      let isLead := c.flag GTH_GSTAT_IS_LEAD = true
      (¬ isLead)) ∧
    (
      let id : BitVec 10 := 1
      let s : State := onReset { State.reset.chip with regs := [(0x500004, 0x1356), (0x501000, 168), (0x501004, 169), (0x501008, 170), (0x50100C, 168), (0x502000, 152), (0x502004, 0x200000), (0x502008, 154), (0x50200C, 155), (0x1C00004, 5), (0x1C10004, 5), (0x1C20004, 5), (0x1C60004, 5), (0x1C70004, 5)], gth := { ids := [(hubSerial, 1)], firstLoad := false }, hh := { taken := [(1, 1)] } }
      let c := s.chip
      let isLead := c.flag GTH_GSTAT_IS_LEAD = true
      isLead ∧ c.gth.ids = [(hubSerial, id.toNat)] ∧ c.heardNow = [] ∧ c.ftNs + 1000000 < 2 ^ 64) ∧
    (
      let o : Fin 12 := 1
      let s : State := onReset { State.reset.chip with regs := [(0x500004, 0x1357), (0x500028, 0x1AA7DD0F), (0x501000, 168), (0x501004, 169), (0x501008, 170), (0x50100C, 168), (0x502000, 152), (0x502004, 153), (0x502008, 154), (0x50200C, 155), (0x1C00004, 5), (0x1C10004, 5), (0x1C20004, 5), (0x1C60004, 5), (0x1C70004, 5)], gth := { heard := [{ plane := 0, serial := hubSerial + 1, flags := 1, nodeId := 0, prefId := 0, epoch := 0, path := [1], nbr := [1, 2, 0], member := 0, at' := 0x5B8D80 }], ids := [(hubSerial, 0), (hubSerial + 1, 1)] } }
      let c := s.chip
      let takesOut := c.portUp o = true ∧ c.silenced (192 + o) = false ∧ (c.port o).cur = none
      let isLead := c.flag GTH_GSTAT_IS_LEAD = true
      let x := { plane := 0, serial := hubSerial + 1, flags := 1, nodeId := 0, prefId := 0, epoch := 0, path := [1], nbr := [1, 2, 0], member := 0, at' := 0x5B8D80 }
      c.heardNow = [x] ∧ isLead ∧ o.val = 6 * x.plane + x.path.getLastD 0 ∧ takesOut ∧ c.ftNs + 1000000 < 2 ^ 64 ∧ c.gth.ids = [(hubSerial, 0), (x.serial, 1)] ∧ x.serial ≠ hubSerial) := by
  refine ⟨?_, ?_, ?_, ?_, ?_, ?_, ?_, ?_, ?_, ?_, ?_, ?_, ?_, ?_, ?_, ?_, ?_, ?_, ?_, ?_, ?_, ?_, ?_, ?_, ?_, ?_, ?_, ?_⟩ <;> (try dsimp only) <;> first | decide +kernel | ((repeat' apply And.intro) <;> first | decide +kernel | rfl | exact ⟨_, _, _, _, rfl⟩ | (simp [hubSerial]; done) | (simp [hubSerial]; omega) | (simp; done) | exact rc_above _ _ _ (by decide +kernel) | exact rc_below _ _ _ (by decide +kernel) | exact us_above _ _ _ (by decide +kernel) | exact us_from _ _ _ (by decide +kernel) | exact us_below _ _ _ (by decide +kernel))

theorem witness_LaneDelay :
    (
      let l : LaneId := LaneId.cell (CellLane.la)
      let s : State := onReset { State.reset.chip with regs := [(0x40009004, 5)] }
      let c := s.chip
      let n := laneNum l
      let b := laneBase n
      let ln := c.lane n
      let st := c.laneState n
      let measures := ¬ (n < 192 ∧ c.flag (LN_LCTL_MEAS b) = true)
      let due := measures ∧ st = 5 ∧ c.flag (LN_PRBCTL_PROBE_EN b) = true ∧ ln.probe = none
      due ∧ c.silenced n = false) ∧
    (
      let l : LaneId := LaneId.cell (CellLane.la)
      let s : State := onReset State.reset.chip
      let c := s.chip
      let n := laneNum l
      let b := laneBase n
      let ln := c.lane n
      let st := c.laneState n
      let measures := ¬ (n < 192 ∧ c.flag (LN_LCTL_MEAS b) = true)
      let due := measures ∧ st = 5 ∧ c.flag (LN_PRBCTL_PROBE_EN b) = true ∧ ln.probe = none
      (¬ due)) ∧
    (
      let l : LaneId := LaneId.cell (CellLane.la)
      let w : DWord := 0
      let s : State := onReset State.reset.chip
      let c := s.chip
      let n := laneNum l
      let bad := blockOk w = false ∧ c.laneFresh n = false
      bad) ∧
    (
      let l : LaneId := LaneId.cl 0
      let w : DWord := 0xA944EF7BC5CE13E
      let s : State := onReset { State.reset.chip with regs := [(0x1000000, 0x3FD00002)] }
      let c := s.chip
      let n := laneNum l
      let b := laneBase n
      let measures := ¬ (n < 192 ∧ c.flag (LN_LCTL_MEAS b) = true)
      let good := blockOk w = true ∧ c.laneFresh n = false
      good ∧ (¬ measures)) ∧
    (
      let l : LaneId := LaneId.fab 1
      let w : DWord := 0xA00000000008E9A
      let s : State := onReset { State.reset.chip with regs := [(0x1C10004, 5)] }
      let c := s.chip
      let n := laneNum l
      let b := laneBase n
      let ln := c.lane n
      let st := c.laneState n
      let measures := ¬ (n < 192 ∧ c.flag (LN_LCTL_MEAS b) = true)
      let good := blockOk w = true ∧ c.laneFresh n = false
      good ∧ measures ∧ (st = 5 ∨ st = 6) ∧ c.silenced n = false ∧ (ln.q.any (fun x => isEcho x.2) = false)) ∧
    (
      let l : LaneId := LaneId.cell (CellLane.la)
      let w : DWord := 0xA00200000000CC8
      let s : State := onReset { State.reset.chip with regs := [(0x40009004, 5)], lanes := [(204, { q := [(0, 0xA20000000007934), (2, 0x4100000000003322)], dlyHist := [3, 5], probe := (some 1) }), (205, { q := [(6, 0xA20000000007DBC), (2, 0x4100000000003322)], dlyHist := [3, 5], probe := (some 1) })] }
      let c := s.chip
      let n := laneNum l
      let b := laneBase n
      let ln := c.lane n
      let st := c.laneState n
      let measures := ¬ (n < 192 ∧ c.flag (LN_LCTL_MEAS b) = true)
      let good := blockOk w = true ∧ c.laneFresh n = false
      good ∧ measures ∧ st = 5 ∧ (ln.q.any (fun x => isEcho x.2) = true)) ∧
    (
      let l : LaneId := LaneId.fab 0
      let w : DWord := 0xA00000002000E42
      let s : State := onReset State.reset.chip
      let c := s.chip
      let n := laneNum l
      let ln := c.lane n
      let good := blockOk w = true ∧ c.laneFresh n = false
      ln.probe = none ∧ good) ∧
    (
      let l : LaneId := LaneId.fab 1
      let w : DWord := 0xA00000000008E9A
      let s : State := onReset { State.reset.chip with lanes := [(193, { probe := (some 1) })] }
      let c := s.chip
      let n := laneNum l
      let ln := c.lane n
      let good := blockOk w = true ∧ c.laneFresh n = false
      let pid := bits w.toNat 52 45
      let p := 1
      ln.probe = some p ∧ good ∧ pid ≠ p) ∧
    (
      let l : LaneId := LaneId.cell (CellLane.la)
      let w : DWord := 0xA00200080000EDC
      let rtt : BitVec 40 := 0
      let s : State := onReset { State.reset.chip with lanes := [(204, { probe := (some 1) })] }
      let c := s.chip
      let n := laneNum l
      let ln := c.lane n
      let good := blockOk w = true ∧ c.laneFresh n = false
      let t32 := bits w.toNat 44 12
      let pid := bits w.toNat 52 45
      let p := 1
      ln.probe = some p ∧ good ∧ pid = p ∧ rtt.toNat < t32) ∧
    (
      let l : LaneId := LaneId.fab 0
      let w : DWord := 0xA00200000003CD6
      let rtt : BitVec 40 := 3
      let s : State := onReset { State.reset.chip with lanes := [(192, { probe := (some 1) })] }
      let c := s.chip
      let n := laneNum l
      let b := laneBase n
      let ln := c.lane n
      let good := blockOk w = true ∧ c.laneFresh n = false
      let t32 := bits w.toNat 44 12
      let pid := bits w.toNat 52 45
      let d := (rtt.toNat - t32 + 1) / 2
      let m := c.reg (LN_DLY_MEAN b)
      let jump := 16 * Nat.max (c.fld (LN_PRBCTL_DJUMP b)) 1
      let cal := c.flag (LN_PRBSTAT_CAL b) = true
      let apart := cal ∧ (m + jump < d ∨ d + jump < m)
      let p := 1
      ln.probe = some p ∧ good ∧ pid = p ∧ t32 ≤ rtt.toNat ∧ (¬ apart)) ∧
    (
      let l : LaneId := LaneId.cell (CellLane.la)
      let w : DWord := 0xA00200000000CC8
      let rtt : BitVec 40 := 0
      let s : State := onReset { State.reset.chip with regs := [(0x40009084, 1), (0x4000908C, 81)], lanes := [(204, { probe := (some 1) })] }
      let c := s.chip
      let n := laneNum l
      let b := laneBase n
      let ln := c.lane n
      let good := blockOk w = true ∧ c.laneFresh n = false
      let t32 := bits w.toNat 44 12
      let pid := bits w.toNat 52 45
      let d := (rtt.toNat - t32 + 1) / 2
      let m := c.reg (LN_DLY_MEAN b)
      let jump := 16 * Nat.max (c.fld (LN_PRBCTL_DJUMP b)) 1
      let cal := c.flag (LN_PRBSTAT_CAL b) = true
      let apart := cal ∧ (m + jump < d ∨ d + jump < m)
      let p := 1
      ln.probe = some p ∧ good ∧ pid = p ∧ t32 ≤ rtt.toNat ∧ apart) ∧
    (
      let l : LaneId := LaneId.cell (CellLane.la)
      let s : State := onReset State.reset.chip
      let c := s.chip
      let n := laneNum l
      let ln := c.lane n
      ln.probe = none) ∧
    (
      let l : LaneId := LaneId.cell (CellLane.la)
      let s : State := onReset { State.reset.chip with lanes := [(204, { probe := (some 0) })] }
      let c := s.chip
      let n := laneNum l
      let ln := c.lane n
      let p := 0
      ln.probe = some p) ∧
    (
      let l : LaneId := LaneId.cell (CellLane.la)
      let v : Word := 0
      let s : State := onReset State.reset.chip
      let c := s.chip
      let n := laneNum l
      let b := laneBase n
      let restarts := (c.flag (LN_PRBCTL_PROBE_EN b) = true ∧ bit v.toNat 31 = false) ∨ c.fld (LN_PRBCTL_DAVG b) ≠ bits v.toNat 18 16
      restarts) ∧
    (
      let l : LaneId := LaneId.cell (CellLane.la)
      let v : Word := 0
      let s : State := onReset { State.reset.chip with regs := [(0x40009080, 0)] }
      let c := s.chip
      let n := laneNum l
      let b := laneBase n
      let restarts := (c.flag (LN_PRBCTL_PROBE_EN b) = true ∧ bit v.toNat 31 = false) ∨ c.fld (LN_PRBCTL_DAVG b) ≠ bits v.toNat 18 16
      (¬ restarts)) := by
  refine ⟨?_, ?_, ?_, ?_, ?_, ?_, ?_, ?_, ?_, ?_, ?_, ?_, ?_, ?_, ?_⟩ <;> (try dsimp only) <;> decide +kernel

theorem witness_TimeFrames :
    (
      let s : State := onReset State.reset.chip
      let c := s.chip
      let root := c.flag SDL_TDCFG_ROOT = true
      (¬ root)) ∧
    (
      let s : State := onReset { State.reset.chip with regs := [(0x100C00, 1)] }
      let c := s.chip
      let root := c.flag SDL_TDCFG_ROOT = true
      let lone := c.gth.ports = [] ∧ c.gth.loopq = [] ∧ c.reg (GTH_MC 255) = 0
      root ∧ lone) ∧
    (
      let s : State := onReset { State.reset.chip with regs := [(0x100C00, 1)] }
      let c := s.chip
      let root := c.flag SDL_TDCFG_ROOT = true
      root) ∧
    (
      let port : Fin 12 := 0
      let x : TimeExt := { origin := 0x4000, ofrac := 0x10000000, corr := 0x3F63D4093EA, hops := 2, uncal := false, tseq := 1, root := 2 }
      let s : State := onReset { State.reset.chip with td := { last := [(0, (some (1, 0, 0)))] } }
      let c := s.chip
      let pl := port.val / 6
      let root := c.flag SDL_TDCFG_ROOT = true
      let last := c.tsLast pl
      let old := last.any (fun q => decide (toSigned 16 (wrapNat 16 ((x.tseq.toNat : Int) - q.1)) ≤ 0)) = true
      (¬ root) ∧ old) ∧
    (
      let x : TimeExt := { origin := 0x4000, ofrac := 0x10000000, corr := 0x3F63D4093EA, hops := 2, uncal := false, tseq := 1, root := 2 }
      let s : State := onReset { State.reset.chip with td := { root := (some 0) } }
      let c := s.chip
      let root := c.flag SDL_TDCFG_ROOT = true
      let foreign := c.td.root.any (fun q => x.root.toNat != q) = true
      (¬ root) ∧ foreign) ∧
    (
      let port : Fin 12 := 0
      let x : TimeExt := { origin := 3, ofrac := 2, corr := 8, hops := 2, uncal := false, tseq := 2, root := 1 }
      let s : State := onReset State.reset.chip
      let c := s.chip
      let pl := port.val / 6
      let root := c.flag SDL_TDCFG_ROOT = true
      let last := c.tsLast pl
      let old := last.any (fun q => decide (toSigned 16 (wrapNat 16 ((x.tseq.toNat : Int) - q.1)) ≤ 0)) = true
      let foreign := c.td.root.any (fun q => x.root.toNat != q) = true
      let taken := ¬ root ∧ ¬ old ∧ ¬ foreign
      taken) ∧
    (
      let p : Plane := Plane.a
      let s : State := onReset { State.reset.chip with regs := [(0x100C00, 0x283C9976)] }
      let c := s.chip
      let root := c.flag SDL_TDCFG_ROOT = true
      (¬ root) ∧ planeNum p ≠ c.fld SDL_TDCFG_TS_PLANE) ∧
    (
      let p : Plane := Plane.a
      let s : State := onReset State.reset.chip
      let c := s.chip
      let root := c.flag SDL_TDCFG_ROOT = true
      (¬ root) ∧ planeNum p = c.fld SDL_TDCFG_TS_PLANE) ∧
    (
      let s : State := onReset { State.reset.chip with regs := [(0x100C04, 1)] }
      let c := s.chip
      let align := c.fld SDL_TDSTAT_ALIGN
      align = 1) ∧
    (
      let s : State := onReset State.reset.chip
      let c := s.chip
      let align := c.fld SDL_TDSTAT_ALIGN
      align ≠ 1) ∧
    (
      let a : TannPayload := { serial := 2, ft := 0x50F531DFE6C, stNs := 0x80000, stSec := 0x2000000000, stFrac := 11, stValid := false }
      let s : State := onReset State.reset.chip
      let c := s.chip
      let root := c.flag SDL_TDCFG_ROOT = true
      (¬ root) ∧ (c.td.root = none ∨ c.td.root = some a.serial.toNat)) ∧
    (
      let a : TannPayload := { serial := 2, ft := 0xA4CD00793F65A6B, stNs := 6, stSec := 2, stFrac := 0xF364, stValid := false }
      let s : State := onReset { State.reset.chip with td := { root := (some 0) } }
      let c := s.chip
      let root := c.flag SDL_TDCFG_ROOT = true
      let q := 0
      c.td.root = some q ∧ (¬ root) ∧ q ≠ a.serial.toNat) ∧
    (
      let w : Word := 0
      let go := bit w.toNat 31 = true
      (¬ go)) ∧
    (
      let w : Word := 0x92F682DB
      let s : State := onReset State.reset.chip
      let c := s.chip
      let lone := c.gth.ports = [] ∧ c.gth.loopq = [] ∧ c.reg (GTH_MC 255) = 0
      let go := bit w.toNat 31 = true
      go ∧ lone ∧ c.sys.ready = false) ∧
    (
      let s : State := onReset State.reset.chip
      let c := s.chip
      c.gth.ports = []) ∧
    (
      let port : Fin 12 := 0
      let s : State := onReset State.reset.chip
      let c := s.chip
      let pl := port.val / 6
      c.td.path ≠ some pl) ∧
    (
      let port : Fin 12 := 0
      let s : State := onReset { State.reset.chip with td := { path := (some 0) } }
      let c := s.chip
      let pl := port.val / 6
      let q := 0
      c.td.path = some q ∧ q = pl) ∧
    (
      let s : State := onReset State.reset.chip
      let c := s.chip
      c.td.path = none) ∧
    (
      let s : State := onReset { State.reset.chip with td := { path := (some 0) } }
      let c := s.chip
      let q := 0
      c.td.path = some q) ∧
    (
      let r : Requester := Requester.shed
      let hub := hubRequester r = true
      (¬ hub)) ∧
    (
      let r : Requester := Requester.kiosk 5
      let hub := hubRequester r = true
      hub) := by
  refine ⟨?_, ?_, ?_, ?_, ?_, ?_, ?_, ?_, ?_, ?_, ?_, ?_, ?_, ?_, ?_, ?_, ?_, ?_, ?_, ?_, ?_⟩ <;> (try dsimp only) <;> decide +kernel

theorem witness_EthernetPorts :
    (
      let n : Fin 2 := 0
      let s : State := onReset State.reset.chip
      let c := s.chip
      let en := c.flag (ETH_ECTL_EN n) = true
      (¬ en)) ∧
    (
      let n : Fin 2 := 0
      let fr : List Byte := []
      let ok : Bool := false
      let s : State := onReset { State.reset.chip with regs := [(0xA00000, 1)] }
      let c := s.chip
      let en := c.flag (ETH_ECTL_EN n) = true
      let fits := ok = true ∧ fr.length + 4 ≤ 1522
      en ∧ (¬ fits)) ∧
    (
      let n : Fin 2 := 0
      let fr : List Byte := []
      let ok : Bool := true
      let s : State := onReset { State.reset.chip with regs := [(0xA00000, 1)], eth := [(0, { rxq := [[], [], [], [], [], [], [], [], [], [], [], [], [], [], [], [], [], [], [], [], [], [], [], [], [], [], [], [], [], [], [], [], [], [], [], [], [], [], [], [], [], [], [], [], [], [], [], [], [], [], [], [], [], [], [], [], [], [], [], [], [], [], [], []] })] }
      let c := s.chip
      let e := c.ethOf n
      let en := c.flag (ETH_ECTL_EN n) = true
      let fits := ok = true ∧ fr.length + 4 ≤ 1522
      en ∧ fits ∧ 64 ≤ e.rxq.length) ∧
    (
      let n : Fin 2 := 0
      let fr : List Byte := []
      let ok : Bool := true
      let s : State := onReset { State.reset.chip with regs := [(0x6018E8, 0), (0xA00000, 1)] }
      let c := s.chip
      let e := c.ethOf n
      let en := c.flag (ETH_ECTL_EN n) = true
      let fits := ok = true ∧ fr.length + 4 ≤ 1522
      en ∧ fits ∧ e.rxq.length < 64 ∧ c.source 285 false = none) ∧
    (
      let n : Fin 2 := 1
      let fr : List Byte := []
      let ok : Bool := true
      let s : State := onReset { State.reset.chip with regs := [(0xA01000, 1)] }
      let c := s.chip
      let e := c.ethOf n
      let en := c.flag (ETH_ECTL_EN n) = true
      let fits := ok = true ∧ fr.length + 4 ≤ 1522
      let b := (c.allocBuf 285 false 1).1.getD 0
      let y := (c.allocBuf 285 false 1).2
      c.allocBuf 285 false 1 = (some b, y) ∧ en ∧ fits ∧ e.rxq.length < 64) ∧
    (
      let s : State := onReset State.reset.chip
      let c := s.chip
      let held := c.holdOf .host = none
      held) ∧
    (
      let n : Fin 2 := 0
      let s : State := onReset State.reset.chip
      let c := s.chip
      let e := c.ethOf n
      let en := c.flag (ETH_ECTL_EN n) = true
      (e.tx = [] ∨ ¬ en)) ∧
    (
      let n : Fin 2 := 0
      let s : State := onReset { State.reset.chip with regs := [(0xA00000, 1)], eth := [(0, { tx := [[]] })] }
      let c := s.chip
      let e := c.ethOf n
      let en := c.flag (ETH_ECTL_EN n) = true
      let d := []
      let q := []
      e.tx = d :: q ∧ en ∧ c.hubEcc = []) ∧
    (
      let r : Requester := Requester.laneCtl (CellLane.la)
      let hub := hubRequester r = true
      (¬ hub)) ∧
    (
      let r : Requester := Requester.host
      let hub := hubRequester r = true
      hub) ∧
    (
      let w : Word := 0
      let go := bit w.toNat 31 = true
      (¬ go)) ∧
    (
      let w : Word := 0x9FFFFB53
      let go := bit w.toNat 31 = true
      go) := by
  refine ⟨?_, ?_, ?_, ?_, ?_, ?_, ?_, ?_, ?_, ?_, ?_, ?_⟩ <;> (try dsimp only) <;> first | decide +kernel | ((repeat' apply And.intro) <;> first | decide +kernel | rfl | exact ⟨_, _, _, _, rfl⟩ | (simp [hubSerial]; done) | (simp [hubSerial]; omega) | (simp; done) | exact rc_above _ _ _ (by decide +kernel) | exact rc_below _ _ _ (by decide +kernel) | exact us_above _ _ _ (by decide +kernel) | exact us_from _ _ _ (by decide +kernel) | exact us_below _ _ _ (by decide +kernel))

theorem witness_SafetyReceivers :
    (
      let s : State := onReset State.reset.chip
      let c := s.chip
      c.flag HHA_HCTL_TX_EN = false) ∧
    (
      let s : State := onReset { State.reset.chip with regs := [(0x700000, 256)] }
      let c := s.chip
      c.flag HHA_HCTL_TX_EN = true ∧ (c.flag HHA_PEER_ROLE = true ∨ c.sLanes = []) ∧ c.gth.ports = [] ∧ c.reg (GTH_MC (c.fld HHA_TXID_SGRP)) = 0) ∧
    (
      let s : State := onReset { State.reset.chip with regs := [(0x700000, 256), (0x700060, 2), (0x1010004, 5)] }
      let c := s.chip
      let m := 1
      c.sLanes = [m] ∧ c.flag HHA_HCTL_TX_EN = true ∧ c.flag HHA_PEER_ROLE = false ∧ c.flag (LN_LCTL_MEAS (laneBase m)) = false ∧ c.flag HHA_PEER_PARTNER_V = false ∧ c.laneState m = 5 ∧ c.silenced m = false) ∧
    (
      let e : SafetyEnd := SafetyEnd.hubLane 0
      let n : Word := 0
      let s : State := onReset State.reset.chip
      let c := s.chip
      let listens : Bool := match e with
        | .cell => !c.fire.clkStop
        | .hubRx n => c.flag (HHA_RXCONN_EN n)
        | .hubLane n => c.sLanes.contains n.val && !c.flag HHA_PEER_ROLE
      let hears := listens = true
      let relay : Bool := match e with
        | .hubLane n => c.sLanes.contains n.val && c.flag HHA_PEER_ROLE
        | _ => false
      (¬ hears) ∧ relay = false) ∧
    (
      let e : SafetyEnd := SafetyEnd.cell
      let p : SafetyPdu := { conn := 7, seq := 2, ts := 1, wd := 100, cmd := 1, scrc := 5 }
      let n : Word := 0
      let s : State := onReset State.reset.chip
      let c := s.chip
      let good := pduOk p = true
      let listens : Bool := match e with
        | .cell => !c.fire.clkStop
        | .hubRx n => c.flag (HHA_RXCONN_EN n)
        | .hubLane n => c.sLanes.contains n.val && !c.flag HHA_PEER_ROLE
      let hears := listens = true
      hears ∧ (¬ good)) ∧
    (
      let e : SafetyEnd := SafetyEnd.hubRx 0
      let p : SafetyPdu := { conn := 1, seq := 2, ts := 2, wd := 100, cmd := 34, scrc := 0xDE4F95B3 }
      let n : Word := 0
      let s : State := onReset { State.reset.chip with regs := [(0x700040, 0xFF000002)] }
      let c := s.chip
      let cfg := c.endCfg e
      let good := pduOk p = true
      let listens : Bool := match e with
        | .cell => !c.fire.clkStop
        | .hubRx n => c.flag (HHA_RXCONN_EN n)
        | .hubLane n => c.sLanes.contains n.val && !c.flag HHA_PEER_ROLE
      let hears := listens = true
      hears ∧ good ∧ p.conn.toNat ≠ cfg.1) ∧
    (
      let e : SafetyEnd := SafetyEnd.hubRx 0
      let p : SafetyPdu := { conn := 7, seq := 5, ts := 3, wd := 100, cmd := 32, scrc := 0x2784DF41 }
      let n : Word := 0
      let s : State := onReset { State.reset.chip with regs := [(0x700010, 0), (0x700040, 0xFF000007)] }
      let c := s.chip
      let cfg := c.endCfg e
      let rx := cfg.2.1
      let good := pduOk p = true
      let listens : Bool := match e with
        | .cell => !c.fire.clkStop
        | .hubRx n => c.flag (HHA_RXCONN_EN n)
        | .hubLane n => c.sLanes.contains n.val && !c.flag HHA_PEER_ROLE
      let hears := listens = true
      hears ∧ good ∧ p.conn.toNat = cfg.1 ∧ (p.wd.toNat = 0 ∨ bits rx 31 20 < p.wd.toNat)) ∧
    (
      let e : SafetyEnd := SafetyEnd.cell
      let p : SafetyPdu := { conn := 7, seq := 1, ts := 3, wd := 100, cmd := 34, scrc := 0x488AC33A }
      let n : Word := 0
      let s : State := onReset { State.reset.chip with regs := [(0x4000700C, 7)] }
      let c := s.chip
      let cfg := c.endCfg e
      let rx := cfg.2.1
      let now : Nat := (if e = .cell then c.cellFtNs else c.ftNs) / 2 ^ 10 % 2 ^ 32
      let age := toSigned 32 (wrapNat 32 ((now : Int) - p.ts.toNat))
      let good := pduOk p = true
      let listens : Bool := match e with
        | .cell => !c.fire.clkStop
        | .hubRx n => c.flag (HHA_RXCONN_EN n)
        | .hubLane n => c.sLanes.contains n.val && !c.flag HHA_PEER_ROLE
      let hears := listens = true
      hears ∧ good ∧ p.conn.toNat = cfg.1 ∧ (¬ (p.wd.toNat = 0 ∨ bits rx 31 20 < p.wd.toNat)) ∧ (age < -2 ∨ (bits rx 15 8 : Int) < age)) ∧
    (
      let e : SafetyEnd := SafetyEnd.hubRx 0
      let p : SafetyPdu := { conn := 7, seq := 2, ts := 1, wd := 100, cmd := 34, scrc := 0x9FF57A31 }
      let n : Word := 0
      let s : State := onReset { State.reset.chip with regs := [(0x700040, 0xFF000007)] }
      let c := s.chip
      let k := endNum e
      let x := c.conn k
      let cfg := c.endCfg e
      let rx := cfg.2.1
      let one := cfg.2.2.1
      let seq := p.seq.toNat
      let cmd := p.cmd.toNat
      let now : Nat := (if e = .cell then c.cellFtNs else c.ftNs) / 2 ^ 10 % 2 ^ 32
      let age := toSigned 32 (wrapNat 32 ((now : Int) - p.ts.toNat))
      let good := pduOk p = true
      let listens : Bool := match e with
        | .cell => !c.fire.clkStop
        | .hubRx n => c.flag (HHA_RXCONN_EN n)
        | .hubLane n => c.sLanes.contains n.val && !c.flag HHA_PEER_ROLE
      let hears := listens = true
      let sane := p.conn.toNat = cfg.1 ∧ ¬ (p.wd.toNat = 0 ∨ bits rx 31 20 < p.wd.toNat) ∧ ¬ (age < -2 ∨ (bits rx 15 8 : Int) < age)
      let fresh := x.wait.all (fun f => f.pdu.seq != p.seq) = true
      let calm := bit cmd 0 = false
      let inNext := 1 ≤ wrapNat 32 ((seq : Int) - x.last.getD 0) ∧ wrapNat 32 ((seq : Int) - x.last.getD 0) ≤ Nat.max (bits rx 19 16) 1
      let opens := x.last = none ∨ fresh ∧ x.opened.contains seq = false ∧ inNext
      hears ∧ good ∧ sane ∧ opens ∧ calm ∧ one = false ∧ x.wait.length < 4) ∧
    (
      let e : SafetyEnd := SafetyEnd.cell
      let p : SafetyPdu := { conn := 7, seq := 2, ts := 2, wd := 100, cmd := 34, scrc := 0x936AB67C }
      let n : Word := 0
      let s : State := onReset { State.reset.chip with regs := [(0x40007000, 2), (0x4000700C, 7)] }
      let c := s.chip
      let k := endNum e
      let x := c.conn k
      let cfg := c.endCfg e
      let rx := cfg.2.1
      let one := cfg.2.2.1
      let seq := p.seq.toNat
      let cmd := p.cmd.toNat
      let now : Nat := (if e = .cell then c.cellFtNs else c.ftNs) / 2 ^ 10 % 2 ^ 32
      let age := toSigned 32 (wrapNat 32 ((now : Int) - p.ts.toNat))
      let good := pduOk p = true
      let listens : Bool := match e with
        | .cell => !c.fire.clkStop
        | .hubRx n => c.flag (HHA_RXCONN_EN n)
        | .hubLane n => c.sLanes.contains n.val && !c.flag HHA_PEER_ROLE
      let hears := listens = true
      let sane := p.conn.toNat = cfg.1 ∧ ¬ (p.wd.toNat = 0 ∨ bits rx 31 20 < p.wd.toNat) ∧ ¬ (age < -2 ∨ (bits rx 15 8 : Int) < age)
      let fresh := x.wait.all (fun f => f.pdu.seq != p.seq) = true
      let calm := bit cmd 0 = false
      let inNext := 1 ≤ wrapNat 32 ((seq : Int) - x.last.getD 0) ∧ wrapNat 32 ((seq : Int) - x.last.getD 0) ≤ Nat.max (bits rx 19 16) 1
      let opens := x.last = none ∨ fresh ∧ x.opened.contains seq = false ∧ inNext
      hears ∧ good ∧ sane ∧ opens ∧ calm ∧ one = true) ∧
    (
      let e : SafetyEnd := SafetyEnd.cell
      let p : SafetyPdu := { conn := 7, seq := 4, ts := 0, wd := 100, cmd := 1, scrc := 0x12A37986 }
      let n : Word := 0
      let s : State := onReset { State.reset.chip with regs := [(0x4000700C, 7)] }
      let c := s.chip
      let k := endNum e
      let x := c.conn k
      let cfg := c.endCfg e
      let rx := cfg.2.1
      let one := cfg.2.2.1
      let seq := p.seq.toNat
      let cmd := p.cmd.toNat
      let now : Nat := (if e = .cell then c.cellFtNs else c.ftNs) / 2 ^ 10 % 2 ^ 32
      let age := toSigned 32 (wrapNat 32 ((now : Int) - p.ts.toNat))
      let good := pduOk p = true
      let listens : Bool := match e with
        | .cell => !c.fire.clkStop
        | .hubRx n => c.flag (HHA_RXCONN_EN n)
        | .hubLane n => c.sLanes.contains n.val && !c.flag HHA_PEER_ROLE
      let hears := listens = true
      let sane := p.conn.toNat = cfg.1 ∧ ¬ (p.wd.toNat = 0 ∨ bits rx 31 20 < p.wd.toNat) ∧ ¬ (age < -2 ∨ (bits rx 15 8 : Int) < age)
      let fresh := x.wait.all (fun f => f.pdu.seq != p.seq) = true
      let inNext := 1 ≤ wrapNat 32 ((seq : Int) - x.last.getD 0) ∧ wrapNat 32 ((seq : Int) - x.last.getD 0) ≤ Nat.max (bits rx 19 16) 1
      let opens := x.last = none ∨ fresh ∧ x.opened.contains seq = false ∧ inNext
      hears ∧ good ∧ sane ∧ opens ∧ one = false ∧ x.wait.length < 4 ∧ bit cmd 0 = true) ∧
    (
      let e : SafetyEnd := SafetyEnd.cell
      let p : SafetyPdu := { conn := 7, seq := 1, ts := 1, wd := 100, cmd := 32, scrc := 0x5D954679 }
      let n : Word := 0
      let s : State := onReset { State.reset.chip with regs := [(0x4000700C, 7)], hh := { conns := [(0, { last := (some 0), opened := [1] })] } }
      let c := s.chip
      let k := endNum e
      let x := c.conn k
      let cfg := c.endCfg e
      let rx := cfg.2.1
      let seq := p.seq.toNat
      let now : Nat := (if e = .cell then c.cellFtNs else c.ftNs) / 2 ^ 10 % 2 ^ 32
      let age := toSigned 32 (wrapNat 32 ((now : Int) - p.ts.toNat))
      let good := pduOk p = true
      let listens : Bool := match e with
        | .cell => !c.fire.clkStop
        | .hubRx n => c.flag (HHA_RXCONN_EN n)
        | .hubLane n => c.sLanes.contains n.val && !c.flag HHA_PEER_ROLE
      let hears := listens = true
      let sane := p.conn.toNat = cfg.1 ∧ ¬ (p.wd.toNat = 0 ∨ bits rx 31 20 < p.wd.toNat) ∧ ¬ (age < -2 ∨ (bits rx 15 8 : Int) < age)
      let fresh := x.wait.all (fun f => f.pdu.seq != p.seq) = true
      let m := 0
      x.last = some m ∧ hears ∧ good ∧ sane ∧ fresh ∧ x.opened.contains seq = true) ∧
    (
      let e : SafetyEnd := SafetyEnd.hubRx 1
      let p : SafetyPdu := { conn := 7, seq := 5, ts := 0, wd := 100, cmd := 1, scrc := 0xF44BC05C }
      let n : Word := 0
      let s : State := onReset { State.reset.chip with regs := [(0x700010, 0xFF1035F), (0x700040, 0xFF000007), (0x700044, 0xFF000007), (0x700060, 2), (0x4000700C, 7), (0x40007010, 0xFF20808)], hh := { conns := [(0, { last := (some 2), wait := [{ pdu := ({ conn := 7, seq := 2, ts := 0, wd := 100, cmd := 34, scrc := 0x9B803E0A }), second := true, at' := 0x1312918 }], opened := [2, 1], acc := (some (({ conn := 7, seq := 1, ts := 2, wd := 100, cmd := 32, scrc := 0x510A8A34 }), 0x1312D00)), wd := (some (0, 100)) }), (1, { last := (some 2), wait := [{ pdu := ({ conn := 7, seq := 2, ts := 1, wd := 100, cmd := 34, scrc := 0x9FF57A31 }), second := true, at' := 0x1312918 }], opened := [2, 1], acc := (some (({ conn := 7, seq := 1, ts := 2, wd := 100, cmd := 32, scrc := 0x510A8A34 }), 0x1312D00)), wd := (some (0, 100)) }), (2, { last := (some 2), wait := [{ pdu := ({ conn := 7, seq := 2, ts := 2, wd := 100, cmd := 34, scrc := 0x936AB67C }), second := true, at' := 0x1312918 }], opened := [2, 1], acc := (some (({ conn := 7, seq := 1, ts := 2, wd := 100, cmd := 32, scrc := 0x510A8A34 }), 0x1312D00)), wd := (some (0, 100)) }), (16, { last := (some 2), wait := [{ pdu := ({ conn := 65, seq := 2, ts := 1, wd := 100, cmd := 34, scrc := 0xCF9BCBE3 }), second := true, at' := 0x1312918 }], opened := [2, 1], acc := (some (({ conn := 65, seq := 1, ts := 2, wd := 100, cmd := 32, scrc := 0x1643BE6 }), 0x1312D00)), wd := (some (0, 100)) }), (17, { last := (some 2), wait := [{ pdu := ({ conn := 65, seq := 2, ts := 2, wd := 100, cmd := 34, scrc := 0xC30407AE }), second := true, at' := 0x1312918 }], opened := [2, 1], acc := (some (({ conn := 65, seq := 1, ts := 2, wd := 100, cmd := 32, scrc := 0x1643BE6 }), 0x1312D00)), wd := (some (0, 100)) })] } }
      let c := s.chip
      let k := endNum e
      let x := c.conn k
      let cfg := c.endCfg e
      let rx := cfg.2.1
      let seq := p.seq.toNat
      let now : Nat := (if e = .cell then c.cellFtNs else c.ftNs) / 2 ^ 10 % 2 ^ 32
      let age := toSigned 32 (wrapNat 32 ((now : Int) - p.ts.toNat))
      let good := pduOk p = true
      let listens : Bool := match e with
        | .cell => !c.fire.clkStop
        | .hubRx n => c.flag (HHA_RXCONN_EN n)
        | .hubLane n => c.sLanes.contains n.val && !c.flag HHA_PEER_ROLE
      let hears := listens = true
      let sane := p.conn.toNat = cfg.1 ∧ ¬ (p.wd.toNat = 0 ∨ bits rx 31 20 < p.wd.toNat) ∧ ¬ (age < -2 ∨ (bits rx 15 8 : Int) < age)
      let fresh := x.wait.all (fun f => f.pdu.seq != p.seq) = true
      let inNext := 1 ≤ wrapNat 32 ((seq : Int) - x.last.getD 0) ∧ wrapNat 32 ((seq : Int) - x.last.getD 0) ≤ Nat.max (bits rx 19 16) 1
      let m := 2
      x.last = some m ∧ hears ∧ good ∧ sane ∧ fresh ∧ x.opened.contains seq = false ∧ (¬ inNext)) ∧
    (
      let e : SafetyEnd := SafetyEnd.hubRx 1
      let second : Bool := true
      let p : SafetyPdu := { conn := 7, seq := 2, ts := 2, wd := 100, cmd := 1, scrc := 0x51CF6819 }
      let n : Word := 0
      let s : State := onReset { State.reset.chip with regs := [(0x700044, 0xFF000007)], hh := { conns := [(2, { last := (some 0), wait := [{ pdu := ({ conn := 7, seq := 2, ts := 2, wd := 100, cmd := 34, scrc := 0x936AB67C }), second := true, at' := 0 }] })] } }
      let c := s.chip
      let k := endNum e
      let x := c.conn k
      let cfg := c.endCfg e
      let rx := cfg.2.1
      let now : Nat := (if e = .cell then c.cellFtNs else c.ftNs) / 2 ^ 10 % 2 ^ 32
      let age := toSigned 32 (wrapNat 32 ((now : Int) - p.ts.toNat))
      let good := pduOk p = true
      let listens : Bool := match e with
        | .cell => !c.fire.clkStop
        | .hubRx n => c.flag (HHA_RXCONN_EN n)
        | .hubLane n => c.sLanes.contains n.val && !c.flag HHA_PEER_ROLE
      let hears := listens = true
      let sane := p.conn.toNat = cfg.1 ∧ ¬ (p.wd.toNat = 0 ∨ bits rx 31 20 < p.wd.toNat) ∧ ¬ (age < -2 ∨ (bits rx 15 8 : Int) < age)
      let f := { pdu := ({ conn := 7, seq := 2, ts := 2, wd := 100, cmd := 34, scrc := 0x936AB67C }), second := true, at' := 0 }
      let m := 0
      (x.wait.find? (fun y => y.pdu.seq == p.seq) = some f) ∧ x.last = some m ∧ hears ∧ good ∧ sane ∧ f.second = second) ∧
    (
      let e : SafetyEnd := SafetyEnd.cell
      let second : Bool := false
      let p : SafetyPdu := { conn := 7, seq := 2, ts := 0, wd := 100, cmd := 34, scrc := 0x9B803E0A }
      let n : Word := 0
      let s : State := onReset { State.reset.chip with regs := [(0x4000700C, 7)], hh := { conns := [(0, { last := (some 0), wait := [{ pdu := ({ conn := 7, seq := 2, ts := 0, wd := 100, cmd := 34, scrc := 0x9B803E0A }), second := true, at' := 0 }] })] } }
      let c := s.chip
      let k := endNum e
      let x := c.conn k
      let cfg := c.endCfg e
      let rx := cfg.2.1
      let now : Nat := (if e = .cell then c.cellFtNs else c.ftNs) / 2 ^ 10 % 2 ^ 32
      let age := toSigned 32 (wrapNat 32 ((now : Int) - p.ts.toNat))
      let good := pduOk p = true
      let listens : Bool := match e with
        | .cell => !c.fire.clkStop
        | .hubRx n => c.flag (HHA_RXCONN_EN n)
        | .hubLane n => c.sLanes.contains n.val && !c.flag HHA_PEER_ROLE
      let hears := listens = true
      let sane := p.conn.toNat = cfg.1 ∧ ¬ (p.wd.toNat = 0 ∨ bits rx 31 20 < p.wd.toNat) ∧ ¬ (age < -2 ∨ (bits rx 15 8 : Int) < age)
      let c1 := c.draw.1
      let f := { pdu := ({ conn := 7, seq := 2, ts := 0, wd := 100, cmd := 34, scrc := 0x9B803E0A }), second := true, at' := 0 }
      let m := 0
      (x.wait.find? (fun y => y.pdu.seq == p.seq) = some f) ∧ x.last = some m ∧ hears ∧ good ∧ sane ∧ f.second ≠ second ∧ (c.time - f.at') * (960 + c1 % 81) / 1000 ≤ bits rx 7 0 * 2000 ∧ f.pdu = p) ∧
    (
      let e : SafetyEnd := SafetyEnd.hubRx 0
      let second : Bool := false
      let p : SafetyPdu := { conn := 7, seq := 2, ts := 2, wd := 100, cmd := 34, scrc := 0x936AB67C }
      let n : Word := 0
      let s : State := onReset { State.reset.chip with regs := [(0x700040, 0xFF000007)], hh := { conns := [(1, { last := (some 0), wait := [{ pdu := ({ conn := 7, seq := 2, ts := 1, wd := 100, cmd := 34, scrc := 0x9FF57A31 }), second := true, at' := 0 }] })] } }
      let c := s.chip
      let k := endNum e
      let x := c.conn k
      let cfg := c.endCfg e
      let rx := cfg.2.1
      let now : Nat := (if e = .cell then c.cellFtNs else c.ftNs) / 2 ^ 10 % 2 ^ 32
      let age := toSigned 32 (wrapNat 32 ((now : Int) - p.ts.toNat))
      let good := pduOk p = true
      let listens : Bool := match e with
        | .cell => !c.fire.clkStop
        | .hubRx n => c.flag (HHA_RXCONN_EN n)
        | .hubLane n => c.sLanes.contains n.val && !c.flag HHA_PEER_ROLE
      let hears := listens = true
      let sane := p.conn.toNat = cfg.1 ∧ ¬ (p.wd.toNat = 0 ∨ bits rx 31 20 < p.wd.toNat) ∧ ¬ (age < -2 ∨ (bits rx 15 8 : Int) < age)
      let c1 := c.draw.1
      let f := { pdu := ({ conn := 7, seq := 2, ts := 1, wd := 100, cmd := 34, scrc := 0x9FF57A31 }), second := true, at' := 0 }
      let m := 0
      (x.wait.find? (fun y => y.pdu.seq == p.seq) = some f) ∧ x.last = some m ∧ hears ∧ good ∧ sane ∧ f.second ≠ second ∧ (c.time - f.at') * (960 + c1 % 81) / 1000 ≤ bits rx 7 0 * 2000 ∧ f.pdu ≠ p) ∧
    (
      let e : SafetyEnd := SafetyEnd.hubRx 1
      let second : Bool := true
      let p : SafetyPdu := { conn := 7, seq := 2, ts := 0, wd := 100, cmd := 34, scrc := 0x9B803E0A }
      let n : Word := 0
      let s : State := onReset { State.reset.chip with time := 0x1316F00, regs := [(0x700000, 256), (0x700010, 0xFF10808), (0x700040, 0xFF000007), (0x700044, 0xFF000007), (0x4000700C, 7), (0x40007010, 0xFF20808)], hh := { conns := [(0, { last := (some 2), wait := [{ pdu := ({ conn := 7, seq := 2, ts := 2, wd := 100, cmd := 32, scrc := 0x8E9FBB49 }), second := false, at' := 0x13105F0 }], opened := [2, 1], wd := (some (0, 100)) }), (1, { last := (some 2), wait := [{ pdu := ({ conn := 7, seq := 2, ts := 2, wd := 100, cmd := 32, scrc := 0x8E9FBB49 }), second := false, at' := 0x13105F0 }], opened := [2, 1], wd := (some (0, 100)) }), (2, { last := (some 2), wait := [{ pdu := ({ conn := 7, seq := 2, ts := 2, wd := 100, cmd := 32, scrc := 0x8E9FBB49 }), second := false, at' := 0x13105F0 }], opened := [2, 1], wd := (some (0, 100)) }), (16, { last := (some 2), wait := [{ pdu := ({ conn := 65, seq := 2, ts := 2, wd := 100, cmd := 32, scrc := 0xDEF10A9B }), second := false, at' := 0x13105F0 }], opened := [2, 1], wd := (some (0, 100)) }), (17, { last := (some 2), wait := [{ pdu := ({ conn := 65, seq := 2, ts := 2, wd := 100, cmd := 32, scrc := 0xDEF10A9B }), second := false, at' := 0x13105F0 }], opened := [2, 1], wd := (some (0, 100)) })], hub := { fell := 5 }, cell := { fell := 5 } } }
      let c := s.chip
      let k := endNum e
      let x := c.conn k
      let cfg := c.endCfg e
      let rx := cfg.2.1
      let now : Nat := (if e = .cell then c.cellFtNs else c.ftNs) / 2 ^ 10 % 2 ^ 32
      let age := toSigned 32 (wrapNat 32 ((now : Int) - p.ts.toNat))
      let good := pduOk p = true
      let listens : Bool := match e with
        | .cell => !c.fire.clkStop
        | .hubRx n => c.flag (HHA_RXCONN_EN n)
        | .hubLane n => c.sLanes.contains n.val && !c.flag HHA_PEER_ROLE
      let hears := listens = true
      let sane := p.conn.toNat = cfg.1 ∧ ¬ (p.wd.toNat = 0 ∨ bits rx 31 20 < p.wd.toNat) ∧ ¬ (age < -2 ∨ (bits rx 15 8 : Int) < age)
      let c1 := c.draw.1
      let f := { pdu := ({ conn := 7, seq := 2, ts := 2, wd := 100, cmd := 32, scrc := 0x8E9FBB49 }), second := false, at' := 0x13105F0 }
      let m := 2
      (x.wait.find? (fun y => y.pdu.seq == p.seq) = some f) ∧ x.last = some m ∧ hears ∧ good ∧ sane ∧ f.second ≠ second ∧ bits rx 7 0 * 2000 < (c.time - f.at') * (960 + c1 % 81) / 1000) ∧
    (
      let e : SafetyEnd := SafetyEnd.cell
      let n : Word := 0
      let s : State := onReset State.reset.chip
      let c := s.chip
      let k := endNum e
      let x := c.conn k
      let cfg := c.endCfg e
      let rx := cfg.2.1
      let receives := c.endOn e = true
      let out (n : Word) : Prop := x.wait.any (fun f => f.pdu.seq == n && decide (bits rx 7 0 * 2000 ≤ (c.time - f.at') * 1040 / 1000)) = true
      (¬ (receives ∧ out n))) ∧
    (
      let e : SafetyEnd := SafetyEnd.hubRx 1
      let n : Word := 2
      let s : State := onReset { State.reset.chip with time := 0x1319958, free := 3, regs := [(0x700000, 256), (0x700010, 1), (0x700040, 0xFF000007), (0x700044, 0xFF000007), (0x700060, 2), (0x4000700C, 7), (0x40007010, 0xFF20808)], hh := { conns := [(0, { last := (some 2), wait := [{ pdu := ({ conn := 7, seq := 2, ts := 2, wd := 100, cmd := 32, scrc := 0x8E9FBB49 }), second := false, at' := 0x13105F0 }], opened := [2, 1], wd := (some (0, 100)) }), (1, { last := (some 2), wait := [{ pdu := ({ conn := 7, seq := 2, ts := 2, wd := 100, cmd := 32, scrc := 0x8E9FBB49 }), second := false, at' := 0x13105F0 }], opened := [2, 1], wd := (some (0, 100)) }), (2, { last := (some 2), wait := [{ pdu := ({ conn := 7, seq := 2, ts := 2, wd := 100, cmd := 32, scrc := 0x8E9FBB49 }), second := false, at' := 0x13105F0 }], opened := [2, 1], wd := (some (0, 100)) }), (16, { last := (some 2), wait := [{ pdu := ({ conn := 65, seq := 2, ts := 2, wd := 100, cmd := 32, scrc := 0xDEF10A9B }), second := false, at' := 0x13105F0 }], opened := [2, 1], wd := (some (0, 100)) }), (17, { last := (some 2), wait := [{ pdu := ({ conn := 65, seq := 2, ts := 2, wd := 100, cmd := 32, scrc := 0xDEF10A9B }), second := false, at' := 0x13105F0 }], opened := [2, 1], wd := (some (0, 100)) })] } }
      let c := s.chip
      let k := endNum e
      let x := c.conn k
      let cfg := c.endCfg e
      let rx := cfg.2.1
      let receives := c.endOn e = true
      let out (n : Word) : Prop := x.wait.any (fun f => f.pdu.seq == n && decide (bits rx 7 0 * 2000 ≤ (c.time - f.at') * 1040 / 1000)) = true
      receives ∧ out n) ∧
    (
      let e : SafetyEnd := SafetyEnd.hubLane 0
      let s : State := onReset State.reset.chip
      let c := s.chip
      let k := endNum e
      let x := c.conn k
      let receives := c.endOn e = true
      let late : Prop := x.wd.any (fun d => decide (d.2 * 2000 ≤ (c.time - d.1) * 1040 / 1000)) = true
      (¬ (receives ∧ late))) ∧
    (
      let e : SafetyEnd := SafetyEnd.cell
      let s : State := onReset { State.reset.chip with time := 0x4C00E, regs := [(0x700000, 256), (0x700010, 0xFF10808), (0x700040, 0xFF000007), (0x700044, 0xFF000007), (0x700060, 0x10000000), (0x4000200C, 2), (0x4000700C, 7), (0x40007010, 0xFF20808)], hh := { conns := [(0, { last := (some 2), wait := [{ pdu := ({ conn := 7, seq := 2, ts := 0, wd := 100, cmd := 34, scrc := 0x9B803E0A }), second := true, at' := 0x1312918 }], opened := [2, 1], acc := (some (({ conn := 7, seq := 1, ts := 2, wd := 100, cmd := 32, scrc := 0x510A8A34 }), 0x1312D00)), wd := (some (0, 100)) }), (1, { last := (some 2), wait := [{ pdu := ({ conn := 7, seq := 2, ts := 1, wd := 100, cmd := 34, scrc := 0x9FF57A31 }), second := true, at' := 0x1312918 }], opened := [2, 1], acc := (some (({ conn := 7, seq := 1, ts := 2, wd := 100, cmd := 32, scrc := 0x510A8A34 }), 0x1312D00)), wd := (some (0, 100)) }), (2, { last := (some 2), wait := [{ pdu := ({ conn := 7, seq := 2, ts := 2, wd := 100, cmd := 34, scrc := 0x936AB67C }), second := true, at' := 0x1312918 }], opened := [2, 1], acc := (some (({ conn := 7, seq := 1, ts := 2, wd := 100, cmd := 32, scrc := 0x510A8A34 }), 0x1312D00)), wd := (some (0, 100)) }), (16, { last := (some 2), wait := [{ pdu := ({ conn := 65, seq := 2, ts := 1, wd := 100, cmd := 34, scrc := 0xCF9BCBE3 }), second := true, at' := 0x1312918 }], opened := [2, 1], acc := (some (({ conn := 65, seq := 1, ts := 2, wd := 100, cmd := 32, scrc := 0x1643BE6 }), 0x1312D00)), wd := (some (0, 100)) }), (17, { last := (some 2), wait := [{ pdu := ({ conn := 65, seq := 2, ts := 2, wd := 100, cmd := 34, scrc := 0xC30407AE }), second := true, at' := 0x1312918 }], opened := [2, 1], acc := (some (({ conn := 65, seq := 1, ts := 2, wd := 100, cmd := 32, scrc := 0x1643BE6 }), 0x1312D00)), wd := (some (0, 100)) })] } }
      let c := s.chip
      let k := endNum e
      let x := c.conn k
      let receives := c.endOn e = true
      let late : Prop := x.wd.any (fun d => decide (d.2 * 2000 ≤ (c.time - d.1) * 1040 / 1000)) = true
      receives ∧ late) := by
  refine ⟨?_, ?_, ?_, ?_, ?_, ?_, ?_, ?_, ?_, ?_, ?_, ?_, ?_, ?_, ?_, ?_, ?_, ?_, ?_, ?_, ?_⟩ <;> (try dsimp only) <;> first | decide +kernel | ((repeat' apply And.intro) <;> first | decide +kernel | rfl | exact ⟨_, _, _, _, rfl⟩ | (simp [hubSerial]; done) | (simp [hubSerial]; omega) | (simp; done) | exact rc_above _ _ _ (by decide +kernel) | exact rc_below _ _ _ (by decide +kernel) | exact us_above _ _ _ (by decide +kernel) | exact us_from _ _ _ (by decide +kernel) | exact us_below _ _ _ (by decide +kernel))

theorem witness_SafeStateAndReset :
    (
      let p : Part := Part.cell
      let s : State := onReset { State.reset.chip with regs := [(0x40007004, 0)] }
      let c := s.chip
      let q := rqFld p
      let rq := c.flag q = true
      (¬ rq)) ∧
    (
      let p : Part := Part.hub
      let s : State := onReset State.reset.chip
      let c := s.chip
      let q := rqFld p
      let rq := c.flag q = true
      rq) ∧
    (
      let p : Part := Part.cell
      let s : State := onReset { State.reset.chip with regs := [(0x40007004, 0)] }
      let c := s.chip
      let q := rqFld p
      let rq := c.flag q = true
      let live := (c.rq p).live = true
      let level := c.rmode p = true
      let us := (c.time - (c.rq p).fell) * (960 + c.draw.1 % 81) / 1000 / 2000
      (¬ rq) ∧ (¬ live ∨ level ∨ us < 50000)) ∧
    (
      let p : Part := Part.cell
      let s : State := onReset { State.reset.chip with time := 0x12A05ED54, regs := [(0x700000, 0x4F275033), (0x700004, 256), (0x700010, 0xFF10808), (0x700030, 0x57B778DB), (0x40007004, 264), (0x4000700C, 7), (0x40007010, 0xFF20808), (0x40007018, 0x60954873)], hh := { conns := [(0, { last := (some 2), wait := [{ pdu := ({ conn := 7, seq := 2, ts := 0, wd := 100, cmd := 34, scrc := 0x9B803E0A }), second := true, at' := 0x1312918 }], opened := [2, 1], acc := (some (({ conn := 7, seq := 1, ts := 2, wd := 100, cmd := 32, scrc := 0x510A8A34 }), 0x1312D00)), wd := (some (0, 100)) }), (1, { last := (some 2), wait := [{ pdu := ({ conn := 7, seq := 2, ts := 1, wd := 100, cmd := 34, scrc := 0x9FF57A31 }), second := true, at' := 0x1312918 }], opened := [2, 1], acc := (some (({ conn := 7, seq := 1, ts := 2, wd := 100, cmd := 32, scrc := 0x510A8A34 }), 0x1312D00)), wd := (some (0, 100)) }), (2, { last := (some 2), wait := [{ pdu := ({ conn := 7, seq := 2, ts := 2, wd := 100, cmd := 34, scrc := 0x936AB67C }), second := true, at' := 0x1312918 }], opened := [2, 1], acc := (some (({ conn := 7, seq := 1, ts := 2, wd := 100, cmd := 32, scrc := 0x510A8A34 }), 0x1312D00)), wd := (some (0, 100)) }), (16, { last := (some 2), wait := [{ pdu := ({ conn := 65, seq := 2, ts := 1, wd := 100, cmd := 34, scrc := 0xCF9BCBE3 }), second := true, at' := 0x1312918 }], opened := [2, 1], acc := (some (({ conn := 65, seq := 1, ts := 2, wd := 100, cmd := 32, scrc := 0x1643BE6 }), 0x1312D00)), wd := (some (0, 100)) }), (17, { last := (some 2), wait := [{ pdu := ({ conn := 65, seq := 2, ts := 2, wd := 100, cmd := 34, scrc := 0xC30407AE }), second := true, at' := 0x1312918 }], opened := [2, 1], acc := (some (({ conn := 65, seq := 1, ts := 2, wd := 100, cmd := 32, scrc := 0x1643BE6 }), 0x1312D00)), wd := (some (0, 100)) })], hub := { live := true, fell := 5 }, cell := { live := true, fell := 5 } } }
      let c := s.chip
      let q := rqFld p
      let rq := c.flag q = true
      let live := (c.rq p).live = true
      let level := c.rmode p = true
      let us := (c.time - (c.rq p).fell) * (960 + c.draw.1 % 81) / 1000 / 2000
      (¬ rq) ∧ live ∧ (¬ level) ∧ 2000000 < us) ∧
    (
      let p : Part := Part.cell
      let s : State := onReset { State.reset.chip with time := 0x7270954, regs := [(0x700000, 256), (0x700004, 256), (0x700010, 0xFF10808), (0x700030, 0x57B778DB), (0x4000200C, 17), (0x40007004, 1), (0x4000700C, 7), (0x40007010, 0xFF20808), (0x40007018, 0x60954873)], hh := { conns := [(0, { last := (some 2), wait := [{ pdu := ({ conn := 7, seq := 2, ts := 0, wd := 100, cmd := 34, scrc := 0x9B803E0A }), second := true, at' := 0x1312918 }], opened := [2, 1], acc := (some (({ conn := 7, seq := 5, ts := 2, wd := 100, cmd := 34, scrc := 0x3E04964F }), 0x7270E00)), wd := (some (0, 100)) }), (1, { last := (some 2), wait := [{ pdu := ({ conn := 7, seq := 2, ts := 1, wd := 100, cmd := 34, scrc := 0x9FF57A31 }), second := true, at' := 0x1312918 }], opened := [2, 1], acc := (some (({ conn := 7, seq := 1, ts := 2, wd := 100, cmd := 32, scrc := 0x510A8A34 }), 0x1312D00)), wd := (some (0, 100)) }), (2, { last := (some 2), wait := [{ pdu := ({ conn := 7, seq := 2, ts := 2, wd := 100, cmd := 34, scrc := 0x936AB67C }), second := true, at' := 0x1312918 }], opened := [2, 1], acc := (some (({ conn := 7, seq := 1, ts := 2, wd := 100, cmd := 32, scrc := 0x510A8A34 }), 0x1312D00)), wd := (some (0, 100)) }), (16, { last := (some 2), wait := [{ pdu := ({ conn := 65, seq := 2, ts := 1, wd := 100, cmd := 34, scrc := 0xCF9BCBE3 }), second := true, at' := 0x1312918 }], opened := [2, 1], acc := (some (({ conn := 65, seq := 1, ts := 2, wd := 100, cmd := 32, scrc := 0x1643BE6 }), 0x1312D00)), wd := (some (0, 100)) }), (17, { last := (some 2), wait := [{ pdu := ({ conn := 65, seq := 2, ts := 2, wd := 100, cmd := 34, scrc := 0xC30407AE }), second := true, at' := 0x1312918 }], opened := [2, 1], acc := (some (({ conn := 65, seq := 1, ts := 2, wd := 100, cmd := 32, scrc := 0x1643BE6 }), 0x1312D00)), wd := (some (0, 100)) })], hub := { live := true, fell := 5 }, cell := { live := true, fell := 5 } } }
      let c := s.chip
      let q := rqFld p
      let rq := c.flag q = true
      let live := (c.rq p).live = true
      let level := c.rmode p = true
      let us := (c.time - (c.rq p).fell) * (960 + c.draw.1 % 81) / 1000 / 2000
      let st := match p with
        | .hub => c.fld HHA_HSTAT_STATE
        | .cell => c.fld CHH_HSTAT_STATE
      (¬ rq) ∧ live ∧ (¬ level) ∧ 50000 ≤ us ∧ us ≤ 2000000 ∧ (st = 1 ∨ st = 3)) ∧
    (
      let p : Part := Part.hub
      let s : State := onReset { State.reset.chip with time := 0x7270954, regs := [(0x700000, 256), (0x700004, 256), (0x700010, 0xFF10808), (0x700030, 0x57B778DB), (0x4000200C, 17), (0x40007000, 0x80000), (0x40007004, 266), (0x4000700C, 7), (0x40007010, 0xFF20808), (0x40007018, 0x60954873)], hh := { conns := [(0, { last := (some 2), wait := [{ pdu := ({ conn := 7, seq := 2, ts := 0, wd := 100, cmd := 34, scrc := 0x9B803E0A }), second := true, at' := 0x1312918 }], opened := [2, 1], acc := (some (({ conn := 7, seq := 5, ts := 2, wd := 100, cmd := 34, scrc := 0x3E04964F }), 0x7270E00)), wd := (some (0, 100)) }), (1, { last := (some 2), wait := [{ pdu := ({ conn := 7, seq := 2, ts := 1, wd := 100, cmd := 34, scrc := 0x9FF57A31 }), second := true, at' := 0x1312918 }], opened := [2, 1], acc := (some (({ conn := 7, seq := 1, ts := 2, wd := 100, cmd := 32, scrc := 0x510A8A34 }), 0x1312D00)), wd := (some (0, 100)) }), (2, { last := (some 2), wait := [{ pdu := ({ conn := 7, seq := 2, ts := 2, wd := 100, cmd := 34, scrc := 0x936AB67C }), second := true, at' := 0x1312918 }], opened := [2, 1], acc := (some (({ conn := 7, seq := 1, ts := 2, wd := 100, cmd := 32, scrc := 0x510A8A34 }), 0x1312D00)), wd := (some (0, 100)) }), (16, { last := (some 2), wait := [{ pdu := ({ conn := 65, seq := 2, ts := 1, wd := 100, cmd := 34, scrc := 0xCF9BCBE3 }), second := true, at' := 0x1312918 }], opened := [2, 1], acc := (some (({ conn := 65, seq := 1, ts := 2, wd := 100, cmd := 32, scrc := 0x1643BE6 }), 0x1312D00)), wd := (some (0, 100)) }), (17, { last := (some 2), wait := [{ pdu := ({ conn := 65, seq := 2, ts := 2, wd := 100, cmd := 34, scrc := 0xC30407AE }), second := true, at' := 0x1312918 }], opened := [2, 1], acc := (some (({ conn := 65, seq := 1, ts := 2, wd := 100, cmd := 32, scrc := 0x1643BE6 }), 0x1312D00)), wd := (some (0, 100)) })], hub := { live := true, fell := 5 }, cell := { live := true, fell := 5 } } }
      let c := s.chip
      let q := rqFld p
      let rq := c.flag q = true
      let live := (c.rq p).live = true
      let level := c.rmode p = true
      let us := (c.time - (c.rq p).fell) * (960 + c.draw.1 % 81) / 1000 / 2000
      let st := match p with
        | .hub => c.fld HHA_HSTAT_STATE
        | .cell => c.fld CHH_HSTAT_STATE
      let hubClear := c.rxConns = [] ∧ c.hh.sin = false ∧ c.sliNow = false ∧ c.hhaCrcOk = true ∧ c.sLanes = []
      (¬ rq) ∧ live ∧ (¬ level) ∧ 50000 ≤ us ∧ us ≤ 2000000 ∧ st ≠ 1 ∧ st ≠ 3 ∧ p = .hub ∧ hubClear) ∧
    (
      let p : Part := Part.hub
      let s : State := onReset { State.reset.chip with time := 0x7270954, regs := [(0x700000, 256), (0x700004, 256), (0x700010, 0xFF10808), (0x700030, 0x57B778DB), (0x700060, 2), (0x40007004, 264), (0x4000700C, 7), (0x40007010, 0xFF20808), (0x40007018, 0x60954873)], hh := { conns := [(0, { last := (some 2), wait := [{ pdu := ({ conn := 7, seq := 2, ts := 0, wd := 100, cmd := 34, scrc := 0x9B803E0A }), second := true, at' := 0x1312918 }], opened := [2, 1], acc := (some (({ conn := 7, seq := 1, ts := 2, wd := 100, cmd := 32, scrc := 0x510A8A34 }), 0x1312D00)), wd := (some (0, 100)) }), (1, { last := (some 2), wait := [{ pdu := ({ conn := 7, seq := 2, ts := 1, wd := 100, cmd := 34, scrc := 0x9FF57A31 }), second := true, at' := 0x1312918 }], opened := [2, 1], acc := (some (({ conn := 7, seq := 1, ts := 2, wd := 100, cmd := 32, scrc := 0x510A8A34 }), 0x1312D00)), wd := (some (0, 100)) }), (2, { last := (some 2), wait := [{ pdu := ({ conn := 7, seq := 2, ts := 2, wd := 100, cmd := 34, scrc := 0x936AB67C }), second := true, at' := 0x1312918 }], opened := [2, 1], acc := (some (({ conn := 7, seq := 1, ts := 2, wd := 100, cmd := 32, scrc := 0x510A8A34 }), 0x1312D00)), wd := (some (0, 100)) }), (16, { last := (some 2), wait := [{ pdu := ({ conn := 65, seq := 2, ts := 1, wd := 100, cmd := 34, scrc := 0xCF9BCBE3 }), second := true, at' := 0x1312918 }], opened := [2, 1], acc := (some (({ conn := 65, seq := 1, ts := 2, wd := 100, cmd := 32, scrc := 0x1643BE6 }), 0x1312D00)), wd := (some (0, 100)) }), (17, { last := (some 2), wait := [{ pdu := ({ conn := 65, seq := 2, ts := 2, wd := 100, cmd := 34, scrc := 0xC30407AE }), second := true, at' := 0x1312918 }], opened := [2, 1], acc := (some (({ conn := 65, seq := 1, ts := 2, wd := 100, cmd := 32, scrc := 0x1643BE6 }), 0x1312D00)), wd := (some (0, 100)) })], hub := { live := true, fell := 5 }, cell := { live := true, fell := 5 }, slv := true } }
      let c := s.chip
      let q := rqFld p
      let rq := c.flag q = true
      let live := (c.rq p).live = true
      let level := c.rmode p = true
      let us := (c.time - (c.rq p).fell) * (960 + c.draw.1 % 81) / 1000 / 2000
      let st := match p with
        | .hub => c.fld HHA_HSTAT_STATE
        | .cell => c.fld CHH_HSTAT_STATE
      let cell0 := (c.conn 0).acc
      let cellBlocked := cell0 = none ∨ c.chhCrcOk = false
      let hubBlocked := c.hhaCrcOk = false ∨ c.sliNow = true
      (¬ rq) ∧ live ∧ (¬ level) ∧ 50000 ≤ us ∧ us ≤ 2000000 ∧ st ≠ 1 ∧ st ≠ 3 ∧ (p = .hub ∧ hubBlocked ∨ p = .cell ∧ cellBlocked)) ∧
    (
      let p : Part := Part.cell
      let s : State := onReset { State.reset.chip with time := 0x7270E00, regs := [(0x40007004, 0), (0x4000700C, 7), (0x40007010, 0xFF20808), (0x40007018, 0x60954873)], hh := { conns := [(0, { acc := (some (({ conn := 7, seq := 5, ts := 2, wd := 100, cmd := 34, scrc := 0x3E04964F }), 0x7270E00)) })], cell := { live := true } } }
      let c := s.chip
      let q := rqFld p
      let rq := c.flag q = true
      let live := (c.rq p).live = true
      let level := c.rmode p = true
      let us := (c.time - (c.rq p).fell) * (960 + c.draw.1 % 81) / 1000 / 2000
      let st := match p with
        | .hub => c.fld HHA_HSTAT_STATE
        | .cell => c.fld CHH_HSTAT_STATE
      let cell0 := (c.conn 0).acc
      let a := (({ conn := 7, seq := 5, ts := 2, wd := 100, cmd := 34, scrc := 0x3E04964F }), 0x7270E00)
      cell0 = some a ∧ (¬ rq) ∧ live ∧ (¬ level) ∧ 50000 ≤ us ∧ us ≤ 2000000 ∧ st ≠ 1 ∧ st ≠ 3 ∧ p = .cell ∧ a.2 = c.time ∧ bit a.1.cmd.toNat 0 = false ∧ c.hh.slv = false ∧ c.chhCrcOk = true) ∧
    (
      let p : Part := Part.cell
      let s : State := onReset State.reset.chip
      let c := s.chip
      let q := rqFld p
      let rq := c.flag q = true
      let live := (c.rq p).live = true
      let level := c.rmode p = true
      let due := 50000 * 2000 ≤ (c.time - (c.rq p).fell) * 1040 / 1000
      (¬ (level ∧ ¬ rq ∧ live ∧ due))) ∧
    (
      let p : Part := Part.hub
      let s : State := onReset { State.reset.chip with time := 0x7270954, regs := [(0x700000, 257), (0x700004, 256), (0x700010, 0xFF10808), (0x700030, 0x8E0AAF99), (0x40007000, 1), (0x40007004, 264), (0x4000700C, 7), (0x40007010, 0xFF20808), (0x40007018, 0x65BB6276)], hh := { conns := [(0, { last := (some 2), wait := [{ pdu := ({ conn := 7, seq := 2, ts := 0, wd := 100, cmd := 34, scrc := 0x9B803E0A }), second := true, at' := 0x1312918 }], opened := [2, 1], acc := (some (({ conn := 7, seq := 1, ts := 2, wd := 100, cmd := 32, scrc := 0x510A8A34 }), 0x1312D00)), wd := (some (0, 100)) }), (1, { last := (some 2), wait := [{ pdu := ({ conn := 7, seq := 2, ts := 1, wd := 100, cmd := 34, scrc := 0x9FF57A31 }), second := true, at' := 0x1312918 }], opened := [2, 1], acc := (some (({ conn := 7, seq := 1, ts := 2, wd := 100, cmd := 32, scrc := 0x510A8A34 }), 0x1312D00)), wd := (some (0, 100)) }), (2, { last := (some 2), wait := [{ pdu := ({ conn := 7, seq := 2, ts := 2, wd := 100, cmd := 34, scrc := 0x936AB67C }), second := true, at' := 0x1312918 }], opened := [2, 1], acc := (some (({ conn := 7, seq := 1, ts := 2, wd := 100, cmd := 32, scrc := 0x510A8A34 }), 0x1312D00)), wd := (some (0, 100)) }), (16, { last := (some 2), wait := [{ pdu := ({ conn := 65, seq := 2, ts := 1, wd := 100, cmd := 34, scrc := 0xCF9BCBE3 }), second := true, at' := 0x1312918 }], opened := [2, 1], acc := (some (({ conn := 65, seq := 1, ts := 2, wd := 100, cmd := 32, scrc := 0x1643BE6 }), 0x1312D00)), wd := (some (0, 100)) }), (17, { last := (some 2), wait := [{ pdu := ({ conn := 65, seq := 2, ts := 2, wd := 100, cmd := 34, scrc := 0xC30407AE }), second := true, at' := 0x1312918 }], opened := [2, 1], acc := (some (({ conn := 65, seq := 1, ts := 2, wd := 100, cmd := 32, scrc := 0x1643BE6 }), 0x1312D00)), wd := (some (0, 100)) })], hub := { live := true, fell := 5 }, cell := { live := true, fell := 5 } } }
      let c := s.chip
      let q := rqFld p
      let rq := c.flag q = true
      let live := (c.rq p).live = true
      let level := c.rmode p = true
      let due := 50000 * 2000 ≤ (c.time - (c.rq p).fell) * 1040 / 1000
      let st := match p with
        | .hub => c.fld HHA_HSTAT_STATE
        | .cell => c.fld CHH_HSTAT_STATE
      let hubClear := c.rxConns = [] ∧ c.hh.sin = false ∧ c.sliNow = false ∧ c.hhaCrcOk = true ∧ c.sLanes = []
      level ∧ (¬ rq) ∧ live ∧ due ∧ st ≠ 1 ∧ st ≠ 3 ∧ p = .hub ∧ hubClear) ∧
    (
      let p : Part := Part.hub
      let s : State := onReset { State.reset.chip with time := 0x7270954, regs := [(0x700000, 9), (0x700004, 256), (0x700010, 0xFF10808), (0x700030, 0x57B778DB), (0x4000200C, 17), (0x40007004, 266), (0x4000700C, 7), (0x40007010, 0xFF20808), (0x40007018, 0x60954873)], hh := { conns := [(0, { last := (some 2), wait := [{ pdu := ({ conn := 7, seq := 2, ts := 0, wd := 100, cmd := 34, scrc := 0x9B803E0A }), second := true, at' := 0x1312918 }], opened := [2, 1], acc := (some (({ conn := 7, seq := 5, ts := 2, wd := 100, cmd := 34, scrc := 0x3E04964F }), 0x7270E00)), wd := (some (0, 100)) }), (1, { last := (some 2), wait := [{ pdu := ({ conn := 7, seq := 2, ts := 1, wd := 100, cmd := 34, scrc := 0x9FF57A31 }), second := true, at' := 0x1312918 }], opened := [2, 1], acc := (some (({ conn := 7, seq := 1, ts := 2, wd := 100, cmd := 32, scrc := 0x510A8A34 }), 0x1312D00)), wd := (some (0, 100)) }), (2, { last := (some 2), wait := [{ pdu := ({ conn := 7, seq := 2, ts := 2, wd := 100, cmd := 34, scrc := 0x936AB67C }), second := true, at' := 0x1312918 }], opened := [2, 1], acc := (some (({ conn := 7, seq := 1, ts := 2, wd := 100, cmd := 32, scrc := 0x510A8A34 }), 0x1312D00)), wd := (some (0, 100)) }), (16, { last := (some 2), wait := [{ pdu := ({ conn := 65, seq := 2, ts := 1, wd := 100, cmd := 34, scrc := 0xCF9BCBE3 }), second := true, at' := 0x1312918 }], opened := [2, 1], acc := (some (({ conn := 65, seq := 1, ts := 2, wd := 100, cmd := 32, scrc := 0x1643BE6 }), 0x1312D00)), wd := (some (0, 100)) }), (17, { last := (some 2), wait := [{ pdu := ({ conn := 65, seq := 2, ts := 2, wd := 100, cmd := 34, scrc := 0xC30407AE }), second := true, at' := 0x1312918 }], opened := [2, 1], acc := (some (({ conn := 65, seq := 1, ts := 2, wd := 100, cmd := 32, scrc := 0x1643BE6 }), 0x1312D00)), wd := (some (0, 100)) })], hub := { live := true, fell := 5 }, cell := { live := true, fell := 5 } } }
      let c := s.chip
      let q := rqFld p
      let rq := c.flag q = true
      let live := (c.rq p).live = true
      let level := c.rmode p = true
      let due := 50000 * 2000 ≤ (c.time - (c.rq p).fell) * 1040 / 1000
      let st := match p with
        | .hub => c.fld HHA_HSTAT_STATE
        | .cell => c.fld CHH_HSTAT_STATE
      let cell0 := (c.conn 0).acc
      let cellBlocked := cell0 = none ∨ c.chhCrcOk = false
      let hubBlocked := c.hhaCrcOk = false ∨ c.sliNow = true
      level ∧ (¬ rq) ∧ live ∧ due ∧ st ≠ 1 ∧ st ≠ 3 ∧ (p = .hub ∧ hubBlocked ∨ p = .cell ∧ cellBlocked)) ∧
    (
      let s : State := onReset State.reset.chip
      let c := s.chip
      c.flag CHH_HCTL_SLV_EN = false) ∧
    (
      let s : State := onReset { State.reset.chip with regs := [(0x40007000, 4)] }
      let c := s.chip
      c.flag CHH_HCTL_SLV_EN = true) ∧
    (
      let sec : Bool := false
      let s : State := onReset State.reset.chip
      let c := s.chip
      let silent := c.flag HHA_HCTL_SLI_EN = true ∧ (if sec then c.hh.lost.2 else c.hh.lost.1) = false
        ∧ (if sec then c.hh.smpAt.2 else c.hh.smpAt.1) + 2000 * c.fld HHA_SLICFG_SLI_TO ≤ c.time
      (¬ silent)) ∧
    (
      let sec : Bool := false
      let s : State := onReset { State.reset.chip with time := 0x4C00E, regs := [(0x700000, 260), (0x700004, 256), (0x700010, 0xFF10808), (0x700030, 0x57B778DB), (0x4000200C, 17), (0x40007000, 4), (0x40007004, 281), (0x4000700C, 7), (0x40007010, 0xFF20808), (0x40007018, 0x60954873)], hh := { conns := [(0, { last := (some 2), wait := [{ pdu := ({ conn := 7, seq := 2, ts := 0, wd := 100, cmd := 34, scrc := 0x9B803E0A }), second := true, at' := 0x1312918 }], opened := [2, 1], acc := (some (({ conn := 7, seq := 5, ts := 2, wd := 100, cmd := 34, scrc := 0x3E04964F }), 0x1312D00)), wd := (some (0, 100)) }), (1, { last := (some 2), wait := [{ pdu := ({ conn := 7, seq := 2, ts := 1, wd := 100, cmd := 34, scrc := 0x9FF57A31 }), second := true, at' := 0x1312918 }], opened := [2, 1], acc := (some (({ conn := 7, seq := 1, ts := 2, wd := 100, cmd := 32, scrc := 0x510A8A34 }), 0x1312D00)), wd := (some (0, 100)) }), (2, { last := (some 2), wait := [{ pdu := ({ conn := 7, seq := 2, ts := 2, wd := 100, cmd := 34, scrc := 0x936AB67C }), second := true, at' := 0x1312918 }], opened := [2, 1], acc := (some (({ conn := 7, seq := 1, ts := 2, wd := 100, cmd := 32, scrc := 0x510A8A34 }), 0x1312D00)), wd := (some (0, 100)) }), (16, { last := (some 2), wait := [{ pdu := ({ conn := 65, seq := 2, ts := 1, wd := 100, cmd := 34, scrc := 0xCF9BCBE3 }), second := true, at' := 0x1312918 }], opened := [2, 1], acc := (some (({ conn := 65, seq := 1, ts := 2, wd := 100, cmd := 32, scrc := 0x1643BE6 }), 0x1312D00)), wd := (some (0, 100)) }), (17, { last := (some 2), wait := [{ pdu := ({ conn := 65, seq := 2, ts := 2, wd := 100, cmd := 34, scrc := 0xC30407AE }), second := true, at' := 0x1312918 }], opened := [2, 1], acc := (some (({ conn := 65, seq := 1, ts := 2, wd := 100, cmd := 32, scrc := 0x1643BE6 }), 0x1312D00)), wd := (some (0, 100)) })], hub := { live := true, fell := 5 }, cell := { live := true, fell := 5 } } }
      let c := s.chip
      let silent := c.flag HHA_HCTL_SLI_EN = true ∧ (if sec then c.hh.lost.2 else c.hh.lost.1) = false
        ∧ (if sec then c.hh.smpAt.2 else c.hh.smpAt.1) + 2000 * c.fld HHA_SLICFG_SLI_TO ≤ c.time
      silent) ∧
    (
      let g : Fin 4 := 0
      let s : State := onReset State.reset.chip
      let c := s.chip
      let removed (neg : Bool) (at' : Nat) : Prop := c.sddMasked neg = true ∧ (c.sddGate neg).any (fun x => partner x == g.val) = true
        ∧ at' + c.fld PWM_DEADT_DEAD + 16 ≤ c.ctick
      let sddBad := c.blocked = false ∧ c.fire.clkStop = false ∧ c.pinLevel g.val = false
        ∧ (removed false c.hh.maskAt.1 ∨ removed true c.hh.maskAt.2)
      (¬ sddBad)) ∧
    (
      let g : Fin 4 := 1
      let s : State := onReset { State.reset.chip with ctick := 0x40F, regs := [(0x4000200C, 2), (0x40007004, 400)] }
      let c := s.chip
      let removed (neg : Bool) (at' : Nat) : Prop := c.sddMasked neg = true ∧ (c.sddGate neg).any (fun x => partner x == g.val) = true
        ∧ at' + c.fld PWM_DEADT_DEAD + 16 ≤ c.ctick
      let sddBad := c.blocked = false ∧ c.fire.clkStop = false ∧ c.pinLevel g.val = false
        ∧ (removed false c.hh.maskAt.1 ∨ removed true c.hh.maskAt.2)
      sddBad) ∧
    (
      let s : State := onReset { State.reset.chip with regs := [(0x4000200C, 1), (0x40007004, 1)], hh := { conns := [(0, { acc := (some (({ conn := 7, seq := 5, ts := 2, wd := 100, cmd := 34, scrc := 0x3E04964F }), 0)) })] } }
      let c := s.chip
      let cell0 := (c.conn 0).acc
      let cmd := match cell0 with
        | some (x, _) => x.cmd.toNat
        | none => 0
      let frees := c.cellState = 1 ∧ c.fld CHH_HSTAT_STATE = 1 ∧ bit cmd 1 = true ∧ bit cmd 0 = false ∧ c.flag CFL_REACT_BLK = false
      frees) ∧
    (
      let s : State := onReset State.reset.chip
      let c := s.chip
      let cell0 := (c.conn 0).acc
      let cmd := match cell0 with
        | some (x, _) => x.cmd.toNat
        | none => 0
      let frees := c.cellState = 1 ∧ c.fld CHH_HSTAT_STATE = 1 ∧ bit cmd 1 = true ∧ bit cmd 0 = false ∧ c.flag CFL_REACT_BLK = false
      (¬ frees) ∧ c.fire.clkStop = false) := by
  refine ⟨?_, ?_, ?_, ?_, ?_, ?_, ?_, ?_, ?_, ?_, ?_, ?_, ?_, ?_, ?_, ?_, ?_, ?_, ?_⟩ <;> (try dsimp only) <;> first | decide +kernel | ((repeat' apply And.intro) <;> first | decide +kernel | rfl | exact ⟨_, _, _, _, rfl⟩ | (simp [hubSerial]; done) | (simp [hubSerial]; omega) | (simp; done) | exact rc_above _ _ _ (by decide +kernel) | exact rc_below _ _ _ (by decide +kernel) | exact us_above _ _ _ (by decide +kernel) | exact us_from _ _ _ (by decide +kernel) | exact us_below _ _ _ (by decide +kernel))

theorem witness_Recorder :
    (
      let p : Part := Part.cell
      p = .cell) ∧
    (
      let p : Part := Part.hub
      let n : Fin 16 := 0
      let k : Fin 2 := 0
      let e : RIn := { ft := 0, etype := 0, srcid := 0, pay := 0 }
      let es : List RIn := []
      let s : State := onReset State.reset.chip
      let c := s.chip
      let ch := if p = .hub then n.val else 16 + k.val
      let x := c.recd ch
      let en := c.chEn ch = true
      (¬ en ∨ x.fifo = [] ∨ x.fifo = e :: es ∧ e.lost ≠ none)) ∧
    (
      let p : Part := Part.cell
      let n : Fin 16 := 0
      let k : Fin 2 := 0
      let e : RIn := { ft := 70, etype := 4, srcid := 1, pay := 0 }
      let es : List RIn := [{ ft := 9, etype := 1, srcid := 0, pay := 5 }]
      let s : State := onReset { State.reset.chip with regs := [(0x40008100, 1), (0x40008104, 1)], gls := { ch := [(16, { fifo := [{ ft := 70, etype := 4, srcid := 1, pay := 0 }, { ft := 9, etype := 1, srcid := 0, pay := 5 }] })] } }
      let c := s.chip
      let ch := if p = .hub then n.val else 16 + k.val
      let x := c.recd ch
      let st := c.chState ch
      let en := c.chEn ch = true
      let front := en ∧ x.fifo = e :: es ∧ e.lost = none
      let lv := if c.chMode ch = 0 then none else c.entryTrig ch e.srcid e.pay e.ft (Assoc.get (fun _ => none) x.prev e.srcid)
      let quiet := lv = none ∧ x.force = false ∧ x.stamps = []
      front ∧ st = 1 ∧ quiet) ∧
    (
      let p : Part := Part.cell
      let n : Fin 16 := 0
      let k : Fin 2 := 0
      let e : RIn := { ft := 70, etype := 4, srcid := 1, pay := 0 }
      let es : List RIn := []
      let s : State := onReset { State.reset.chip with regs := [(0x40008100, 0x905), (0x40008104, 1)], gls := { ch := [(16, { force := true, fifo := [{ ft := 70, etype := 4, srcid := 1, pay := 0 }] })] } }
      let c := s.chip
      let ch := if p = .hub then n.val else 16 + k.val
      let x := c.recd ch
      let st := c.chState ch
      let en := c.chEn ch = true
      let front := en ∧ x.fifo = e :: es ∧ e.lost = none
      let lv := if c.chMode ch = 0 then none else c.entryTrig ch e.srcid e.pay e.ft (Assoc.get (fun _ => none) x.prev e.srcid)
      let quiet := lv = none ∧ x.force = false ∧ x.stamps = []
      front ∧ st = 1 ∧ c.chMode ch ≠ 0 ∧ (¬ quiet) ∧ x.stamps = [] ∧ c.chFld ch 0 12 12 = 0 ∧ c.chFld ch 0 31 16 = 0) ∧
    (
      let p : Part := Part.cell
      let n : Fin 16 := 0
      let k : Fin 2 := 1
      let e : RIn := { ft := 9, etype := 1, srcid := 0, pay := 5 }
      let es : List RIn := []
      let s : State := onReset { State.reset.chip with regs := [(0x40008140, 1), (0x40008144, 2), (0x4000816C, 2)], gls := { ch := [(17, { fifo := [{ ft := 9, etype := 1, srcid := 0, pay := 5 }] })] } }
      let c := s.chip
      let ch := if p = .hub then n.val else 16 + k.val
      let x := c.recd ch
      let st := c.chState ch
      let en := c.chEn ch = true
      let front := en ∧ x.fifo = e :: es ∧ e.lost = none
      let lv := if c.chMode ch = 0 then none else c.entryTrig ch e.srcid e.pay e.ft (Assoc.get (fun _ => none) x.prev e.srcid)
      front ∧ st = 2 ∧ x.after < c.chPost ch ∧ lv = none) ∧
    (
      let p : Part := Part.hub
      let n : Fin 16 := 1
      let k : Fin 2 := 0
      let e : RIn := { ft := 9, etype := 1, srcid := 0, pay := 5 }
      let es : List RIn := [{ ft := 9, etype := 1, srcid := 0, pay := 5 }]
      let s : State := onReset { State.reset.chip with regs := [(0x800140, 261), (0x800154, 1)], gls := { ch := [(1, { prev := [(0, (some (0, 0)))], fifo := [{ ft := 9, etype := 1, srcid := 0, pay := 5 }, { ft := 9, etype := 1, srcid := 0, pay := 5 }] })] } }
      let c := s.chip
      let ch := if p = .hub then n.val else 16 + k.val
      let x := c.recd ch
      let st := c.chState ch
      let en := c.chEn ch = true
      let front := en ∧ x.fifo = e :: es ∧ e.lost = none
      let lv := if c.chMode ch = 0 then none else c.entryTrig ch e.srcid e.pay e.ft (Assoc.get (fun _ => none) x.prev e.srcid)
      let decided := c.trigNow ch
      let full := st = 2 ∧ c.chPost ch ≤ x.after
      front ∧ st ≠ 1 ∧ (st ≠ 2 ∨ full) ∧ lv ≠ none ∧ decided = none) ∧
    (
      let p : Part := Part.hub
      let n : Fin 16 := 0
      let k : Fin 2 := 0
      let e : RIn := { ft := 9, etype := 1, srcid := 0, pay := 5 }
      let es : List RIn := [{ ft := 9, etype := 1, srcid := 0, pay := 5 }]
      let s : State := onReset { State.reset.chip with regs := [(0x800100, 261), (0x800104, 2), (0x800114, 1)], gls := { ch := [(0, { prev := [(0, (some (0, 0)))], trig := (some { idx := 0, src := 0, ft := 0, pre := 0 }), fifo := [{ ft := 9, etype := 1, srcid := 0, pay := 5 }, { ft := 9, etype := 1, srcid := 0, pay := 5 }] })] } }
      let c := s.chip
      let ch := if p = .hub then n.val else 16 + k.val
      let x := c.recd ch
      let en := c.chEn ch = true
      let front := en ∧ x.fifo = e :: es ∧ e.lost = none
      let lv := if c.chMode ch = 0 then none else c.entryTrig ch e.srcid e.pay e.ft (Assoc.get (fun _ => none) x.prev e.srcid)
      let decided := c.trigNow ch
      let g := { idx := 0, src := 0, ft := 0, pre := 0 }
      decided = some g ∧ front ∧ lv ≠ none) ∧
    (
      let k : Fin 2 := 1
      let ft : DWord := 0
      let level : Bool := false
      let g4 : Fin 4 := 0
      let held : BitVec 5 := 4
      let s : State := onReset { State.reset.chip with regs := [(0x40008140, 0x4ECAB9DB)] }
      let c := s.chip
      let edge : RIn := { ft := c.cellFtNs, etype := 0x15, srcid := g4.val,
                          pay := b2n level + (c.ctick + 1 - held.toNat) % 2 ^ 32 * 2 ^ 32 }
      c.fire.clkStop = false ∧ c.chEn (16 + k.val) = true ∧ c.takes (16 + k.val) 0x15 g4.val edge.pay = true ∧ Nat.min (Nat.max (c.fld TRL_DRVCFG_DFILT) 1) 16 ≤ held.toNat ∧ (Assoc.get (fun _ => false) c.trl.drv g4.val ≠ (level == bit (c.fld TRL_DRVCFG_DPOL) g4.val))) ∧
    (
      let p : Part := Part.hub
      let n : Fin 16 := 0
      let k : Fin 2 := 0
      let s : State := onReset State.reset.chip
      let c := s.chip
      let ch := if p = .hub then n.val else 16 + k.val
      let x := c.recd ch
      let st := c.chState ch
      let en := c.chEn ch = true
      let full := st = 2 ∧ c.chPost ch ≤ x.after
      (¬ (en ∧ full))) ∧
    (
      let p : Part := Part.hub
      let n : Fin 16 := 0
      let k : Fin 2 := 0
      let s : State := onReset { State.reset.chip with regs := [(0x800100, 1), (0x800104, 2)] }
      let c := s.chip
      let ch := if p = .hub then n.val else 16 + k.val
      let x := c.recd ch
      let st := c.chState ch
      let en := c.chEn ch = true
      let full := st = 2 ∧ c.chPost ch ≤ x.after
      en ∧ full) ∧
    (
      let p : Part := Part.hub
      let n : Fin 16 := 0
      let k : Fin 2 := 0
      let s : State := onReset State.reset.chip
      let c := s.chip
      let ch := if p = .hub then n.val else 16 + k.val
      let x := c.recd ch
      let st := c.chState ch
      let en := c.chEn ch = true
      let due := x.heldAt + 2000 * c.chFld ch 0x24 31 20 ≤ c.time
      (¬ (en ∧ st = 3 ∧ due))) ∧
    (
      let p : Part := Part.hub
      let n : Fin 16 := 0
      let k : Fin 2 := 0
      let s : State := onReset { State.reset.chip with regs := [(0x800100, 0x903), (0x800104, 3)] }
      let c := s.chip
      let ch := if p = .hub then n.val else 16 + k.val
      let x := c.recd ch
      let st := c.chState ch
      let en := c.chEn ch = true
      let due := x.heldAt + 2000 * c.chFld ch 0x24 31 20 ≤ c.time
      en ∧ st = 3 ∧ due ∧ (c.chMode ch = 1 ∨ c.freeSlot ch = none)) ∧
    (
      let p : Part := Part.cell
      let n : Fin 16 := 0
      let k : Fin 2 := 0
      let s : State := onReset { State.reset.chip with regs := [(0x40008100, 1), (0x40008104, 3)] }
      let c := s.chip
      let ch := if p = .hub then n.val else 16 + k.val
      let x := c.recd ch
      let st := c.chState ch
      let en := c.chEn ch = true
      let due := x.heldAt + 2000 * c.chFld ch 0x24 31 20 ≤ c.time
      let q := 0
      c.freeSlot ch = some q ∧ en ∧ st = 3 ∧ due ∧ c.chMode ch ≠ 1) ∧
    (
      let p : Part := Part.hub
      let n : Fin 16 := 0
      let k : Fin 2 := 0
      let s : State := onReset State.reset.chip
      let c := s.chip
      let ch := if p = .hub then n.val else 16 + k.val
      let x := c.recd ch
      let en := c.chEn ch = true
      (¬ en ∨ x.nextLost = none)) ∧
    (
      let p : Part := Part.hub
      let n : Fin 16 := 0
      let k : Fin 2 := 0
      let s : State := onReset { State.reset.chip with regs := [(0x800100, 1), (0x800104, 1)], gls := { ch := [(0, { fifo := [{ ft := 0, etype := 0, srcid := 0, pay := 0, lost := (some { n := 0, first := 0, last := 0 }) }] })] } }
      let c := s.chip
      let ch := if p = .hub then n.val else 16 + k.val
      let x := c.recd ch
      let st := c.chState ch
      let en := c.chEn ch = true
      let l := { n := 0, first := 0, last := 0 }
      let y := { fifo := [{ ft := 0, etype := 0, srcid := 0, pay := 0 }] }
      x.nextLost = some (l, y) ∧ en ∧ (st = 1 ∨ st = 2 ∧ x.after < c.chPost ch)) ∧
    (
      let p : Part := Part.hub
      let n : Fin 16 := 0
      let k : Fin 2 := 0
      let s : State := onReset { State.reset.chip with regs := [(0x800100, 1)], gls := { ch := [(0, { fifo := [{ ft := 0, etype := 0, srcid := 0, pay := 0, lost := (some { n := 0, first := 0, last := 0 }) }] })] } }
      let c := s.chip
      let ch := if p = .hub then n.val else 16 + k.val
      let x := c.recd ch
      let st := c.chState ch
      let en := c.chEn ch = true
      let full := st = 2 ∧ c.chPost ch ≤ x.after
      let l := { n := 0, first := 0, last := 0 }
      let y := { fifo := [{ ft := 0, etype := 0, srcid := 0, pay := 0 }] }
      x.nextLost = some (l, y) ∧ en ∧ st ≠ 1 ∧ (st ≠ 2 ∨ full)) ∧
    (
      let p : Part := Part.hub
      let n : Fin 16 := 0
      let k : Fin 2 := 0
      let s : State := onReset { State.reset.chip with regs := [(0x800100, 1)] }
      let c := s.chip
      let ch := if p = .hub then n.val else 16 + k.val
      let en := c.chEn ch = true
      en ∧ c.chMode ch = 0) ∧
    (
      let p : Part := Part.hub
      let n : Fin 16 := 0
      let k : Fin 2 := 0
      let s : State := onReset { State.reset.chip with regs := [(0x800100, 261), (0x800104, 1)] }
      let c := s.chip
      let ch := if p = .hub then n.val else 16 + k.val
      let st := c.chState ch
      let en := c.chEn ch = true
      en ∧ c.chMode ch ≠ 0 ∧ st = 1) ∧
    (
      let p : Part := Part.hub
      let n : Fin 16 := 0
      let k : Fin 2 := 0
      let s : State := onReset State.reset.chip
      let c := s.chip
      let ch := if p = .hub then n.val else 16 + k.val
      let st := c.chState ch
      let en := c.chEn ch = true
      let decided := c.trigNow ch
      (¬ en ∨ c.chMode ch ≠ 0 ∧ st ≠ 1 ∧ decided = none)) ∧
    (
      let p : Part := Part.hub
      let n : Fin 16 := 0
      let k : Fin 2 := 0
      let s : State := onReset { State.reset.chip with regs := [(0x800100, 259), (0x800104, 2)], gls := { ch := [(0, { trig := (some { idx := 0, src := 0, ft := 0, pre := 0 }) })] } }
      let c := s.chip
      let ch := if p = .hub then n.val else 16 + k.val
      let en := c.chEn ch = true
      let decided := c.trigNow ch
      let g := { idx := 0, src := 0, ft := 0, pre := 0 }
      decided = some g ∧ en ∧ c.chMode ch ≠ 0) ∧
    (
      let p : Part := Part.hub
      let n : Fin 16 := 0
      let k : Fin 2 := 0
      let s : State := onReset State.reset.chip
      let c := s.chip
      let ch := if p = .hub then n.val else 16 + k.val
      let st := c.chState ch
      let en := c.chEn ch = true
      (¬ (en ∧ st = 4 ∧ c.chMode ch = 2))) ∧
    (
      let p : Part := Part.hub
      let n : Fin 16 := 1
      let k : Fin 2 := 0
      let m : BitVec 16 := 2
      let s : State := onReset { State.reset.chip with regs := [(0x800140, 261), (0x800144, 0xABE21D84), (0x800164, 0x10000)] }
      let c := s.chip
      let ch := if p = .hub then n.val else 16 + k.val
      let st := c.chState ch
      let en := c.chEn ch = true
      en ∧ st = 4 ∧ c.chMode ch = 2 ∧ ((List.range (c.chSlots ch)).any (fun q => bit m.toNat q) = true)) ∧
    (
      let p : Part := Part.cell
      let n : Fin 16 := 0
      let k : Fin 2 := 1
      let w : Word := 259
      let s : State := onReset { State.reset.chip with regs := [(0x40008140, 259)] }
      let c := s.chip
      let ch := if p = .hub then n.val else 16 + k.val
      let en := c.chEn ch = true
      let starts := bit w.toNat 0 = true
      en ∧ starts ∧ c.changes (chBase ch) w.toNat = false) ∧
    (
      let p : Part := Part.hub
      let n : Fin 16 := 0
      let k : Fin 2 := 0
      let w : Word := 1
      let s : State := onReset { State.reset.chip with regs := [(0x800100, 257)] }
      let c := s.chip
      let ch := if p = .hub then n.val else 16 + k.val
      let en := c.chEn ch = true
      let runs := p = .hub ∨ c.fire.clkStop = false
      let starts := bit w.toNat 0 = true
      runs ∧ en ∧ starts ∧ c.changes (chBase ch) w.toNat = true) ∧
    (
      let p : Part := Part.hub
      let n : Fin 16 := 0
      let k : Fin 2 := 0
      let w : Word := 0xA63A6
      let s : State := onReset State.reset.chip
      let c := s.chip
      let ch := if p = .hub then n.val else 16 + k.val
      let en := c.chEn ch = true
      let runs := p = .hub ∨ c.fire.clkStop = false
      let bad := 5 ≤ bits w.toNat 10 8 ∨ bits w.toNat 2 1 = 3
      let starts := bit w.toNat 0 = true
      runs ∧ (¬ (en ∧ starts)) ∧ (bad ∨ ¬ en ∧ starts ∧ c.enOk ch = false)) ∧
    (
      let p : Part := Part.hub
      let n : Fin 16 := 0
      let k : Fin 2 := 0
      let w : Word := 0
      let s : State := onReset { State.reset.chip with regs := [(0x800100, 1)] }
      let c := s.chip
      let ch := if p = .hub then n.val else 16 + k.val
      let st := c.chState ch
      let en := c.chEn ch = true
      let bad := 5 ≤ bits w.toNat 10 8 ∨ bits w.toNat 2 1 = 3
      let starts := bit w.toNat 0 = true
      en ∧ (¬ starts) ∧ (¬ bad) ∧ st ≠ 1 ∧ st ≠ 2) ∧
    (
      let p : Part := Part.hub
      let n : Fin 16 := 0
      let k : Fin 2 := 0
      let w : Word := 0
      let s : State := onReset { State.reset.chip with regs := [(0x800100, 1), (0x800104, 1)] }
      let c := s.chip
      let ch := if p = .hub then n.val else 16 + k.val
      let st := c.chState ch
      let en := c.chEn ch = true
      let bad := 5 ≤ bits w.toNat 10 8 ∨ bits w.toNat 2 1 = 3
      let starts := bit w.toNat 0 = true
      en ∧ (¬ starts) ∧ (¬ bad) ∧ (st = 1 ∨ st = 2)) ∧
    (
      let p : Part := Part.hub
      let n : Fin 16 := 0
      let k : Fin 2 := 0
      let w : Word := 0
      let s : State := onReset State.reset.chip
      let c := s.chip
      let ch := if p = .hub then n.val else 16 + k.val
      let en := c.chEn ch = true
      let bad := 5 ≤ bits w.toNat 10 8 ∨ bits w.toNat 2 1 = 3
      let starts := bit w.toNat 0 = true
      (¬ en) ∧ (¬ starts) ∧ (¬ bad)) ∧
    (
      let p : Part := Part.hub
      let n : Fin 16 := 0
      let k : Fin 2 := 0
      let w : Word := 1
      let s : State := onReset { State.reset.chip with regs := [(0xC00004, 5)] }
      let c := s.chip
      let ch := if p = .hub then n.val else 16 + k.val
      let en := c.chEn ch = true
      let bad := 5 ≤ bits w.toNat 10 8 ∨ bits w.toNat 2 1 = 3
      let starts := bit w.toNat 0 = true
      (¬ en) ∧ starts ∧ (¬ bad) ∧ c.enOk ch = true) ∧
    (
      let xs : BitVec 16 := 0
      let node : BitVec 10 := 0
      let s : State := onReset { State.reset.chip with gls := { seen := [(0, 0)] } }
      let c := s.chip
      let key := (node.toNat, xs.toNat)
      c.gls.seen.contains key = true) ∧
    (
      let xs : BitVec 16 := 0
      let node : BitVec 10 := 0
      let s : State := onReset State.reset.chip
      let c := s.chip
      let key := (node.toNat, xs.toNat)
      c.gls.seen.contains key = false ∧ ((List.range 16).all (fun j => c.chFld j 0 11 11 != 1) = true)) ∧
    (
      let n : Fin 16 := 0
      let xs : BitVec 16 := 0
      let node : BitVec 10 := 0
      let ch4 : BitVec 4 := 1
      let s : State := onReset { State.reset.chip with regs := [(0x800100, 0x800)] }
      let c := s.chip
      let key := (node.toNat, xs.toNat)
      let alone (d : Nat) (l : List Nat) : Prop := l.all (fun j => (c.chFld j 0 11 11 == 1) == (j == d)) = true
      c.gls.seen.contains key = false ∧ alone n.val (List.range 16) ∧ (¬ (node.toNat = c.fld GTH_GSTAT_NODE_ID ∧ ch4.toNat = n.val))) ∧
    (
      let n : Fin 16 := 1
      let xs : BitVec 16 := 0
      let node : BitVec 10 := 0
      let ch4 : BitVec 4 := 1
      let s : State := onReset { State.reset.chip with regs := [(0x800140, 0x800)] }
      let c := s.chip
      let key := (node.toNat, xs.toNat)
      let alone (d : Nat) (l : List Nat) : Prop := l.all (fun j => (c.chFld j 0 11 11 == 1) == (j == d)) = true
      c.gls.seen.contains key = false ∧ alone n.val (List.range 16) ∧ node.toNat = c.fld GTH_GSTAT_NODE_ID ∧ ch4.toNat = n.val) ∧
    (
      let r : Requester := Requester.host
      hubRequester r = true) ∧
    (
      let p : Part := Part.cell
      let n : Fin 16 := 0
      let k : Fin 2 := 0
      let r : Requester := Requester.shed
      let s : State := onReset { State.reset.chip with regs := [(0x40008100, 0x800)] }
      let c := s.chip
      let ch := if p = .hub then n.val else 16 + k.val
      let alone (d : Nat) (l : List Nat) : Prop := l.all (fun j => (c.chFld j 0 11 11 == 1) == (j == d)) = true
      p = .cell ∧ hubRequester r = false ∧ c.holdOf r = none ∧ alone ch [16, 17]) ∧
    (
      let r : Requester := Requester.laneCtl (CellLane.la)
      let s : State := onReset State.reset.chip
      let c := s.chip
      hubRequester r = false ∧ c.holdOf r = none ∧ c.chFld 16 0 11 11 = 0 ∧ c.chFld 17 0 11 11 = 0) ∧
    (
      let w : Word := 1
      let s : State := onReset State.reset.chip
      let c := s.chip
      let ldd := c.flag LDD_LDCTL_EN = true
      bit w.toNat 0 = true ∧ (¬ ldd)) ∧
    (
      let w : Word := 0
      let s : State := onReset State.reset.chip
      let c := s.chip
      let ldd := c.flag LDD_LDCTL_EN = true
      (¬ (bit w.toNat 0 = true ∧ ¬ ldd))) ∧
    (
      let s : State := onReset State.reset.chip
      let c := s.chip
      let ldd := c.flag LDD_LDCTL_EN = true
      (¬ ldd)) ∧
    (
      let s : State := onReset { State.reset.chip with regs := [(0xC00000, 1)] }
      let c := s.chip
      let ldd := c.flag LDD_LDCTL_EN = true
      ldd) ∧
    (
      let inr : Bool := false
      let s : State := onReset { State.reset.chip with gls := { hot := true } }
      let c := s.chip
      (inr = true ∨ c.gls.hot = true)) ∧
    (
      let inr : Bool := false
      let s : State := onReset State.reset.chip
      let c := s.chip
      inr = false ∧ c.gls.hot = false) := by
  refine ⟨?_, ?_, ?_, ?_, ?_, ?_, ?_, ?_, ?_, ?_, ?_, ?_, ?_, ?_, ?_, ?_, ?_, ?_, ?_, ?_, ?_, ?_, ?_, ?_, ?_, ?_, ?_, ?_, ?_, ?_, ?_, ?_, ?_, ?_, ?_, ?_, ?_, ?_, ?_, ?_, ?_, ?_⟩ <;> (try dsimp only) <;> decide +kernel

theorem witness_BootAndUpdate :
    (
      let s : State := onReset { State.reset.chip with regs := [(0xB00008, 1)] }
      let c := s.chip
      let done := c.flag PCI_BOOTSTAT_DONE = true
      done) ∧
    (
      let s : State := onReset State.reset.chip
      let c := s.chip
      let done := c.flag PCI_BOOTSTAT_DONE = true
      let fails := c.flag PCI_BOOTSTAT_FAIL = true
      let waits := c.sys.loading = none ∧ (c.bootMode = 1 ∨ c.bootMode = 2 ∧ fails)
      (¬ done) ∧ (¬ waits)) ∧
    (
      let s : State := onReset { State.reset.chip with sys := { bootPins := 1 } }
      let c := s.chip
      let done := c.flag PCI_BOOTSTAT_DONE = true
      (¬ done)) ∧
    (
      let s : State := onReset State.reset.chip
      let c := s.chip
      c.sys.loading = none) ∧
    (
      let s : State := onReset { State.reset.chip with sys := { loading := (some none) } }
      let c := s.chip
      let x := none
      c.sys.loading = some x ∧ x = none) ∧
    (
      let s : State := onReset { State.reset.chip with sys := { loading := (some (some 0)) } }
      let c := s.chip
      let x := (some 0)
      let y := 0
      c.sys.loading = some x ∧ x = some y ∧ ((imgSections c.poolImg).all (fun z => z.1 != 1 && z.1 != 2) = true) ∧ y < 3) ∧
    (
      let r : Requester := Requester.shed
      let w : Word := 0
      let v := w.toNat
      let go := bit v 31 = true
      let hub := hubRequester r = true
      (¬ (hub ∧ go))) ∧
    (
      let r : Requester := Requester.kiosk 10
      let w : Word := 0x80001012
      let s : State := onReset State.reset.chip
      let c := s.chip
      let v := w.toNat
      let go := bit v 31 = true
      let hub := hubRequester r = true
      let op := bits v 7 0
      let cnt := Nat.min (bits v 21 12) 256
      let a := c.reg PCI_QADDR % (if bit v 9 then 2 ^ 32 else 2 ^ 24)
      let guarded (x k : Nat) : Prop := c.flag PCI_QCTL_UNLOCK = false ∧ c.hitsBooted x k = true
      hub ∧ go ∧ (op = 0x02 ∨ op = 0x12) ∧ (¬ guarded a cnt) ∧ 0 < cnt) ∧
    (
      let r : Requester := Requester.host
      let w : Word := 0x80001002
      let s : State := onReset { State.reset.chip with regs := [(0xB00008, 1)] }
      let c := s.chip
      let v := w.toNat
      let go := bit v 31 = true
      let hub := hubRequester r = true
      let op := bits v 7 0
      let cnt := Nat.min (bits v 21 12) 256
      let a := c.reg PCI_QADDR % (if bit v 9 then 2 ^ 32 else 2 ^ 24)
      let guarded (x k : Nat) : Prop := c.flag PCI_QCTL_UNLOCK = false ∧ c.hitsBooted x k = true
      hub ∧ go ∧ (op = 0x02 ∨ op = 0x12) ∧ guarded a cnt) ∧
    (
      let r : Requester := Requester.kiosk 12
      let w : Word := 0x80001003
      let v := w.toNat
      let go := bit v 31 = true
      let hub := hubRequester r = true
      let op := bits v 7 0
      let cnt := Nat.min (bits v 21 12) 256
      hub ∧ go ∧ op = 0x03 ∧ bit v 22 = false ∧ 0 < cnt) ∧
    (
      let r : Requester := Requester.host
      let w : Word := 0x80000020
      let s : State := onReset State.reset.chip
      let c := s.chip
      let v := w.toNat
      let go := bit v 31 = true
      let hub := hubRequester r = true
      let op := bits v 7 0
      let a := c.reg PCI_QADDR % (if bit v 9 then 2 ^ 32 else 2 ^ 24)
      let guarded (x k : Nat) : Prop := c.flag PCI_QCTL_UNLOCK = false ∧ c.hitsBooted x k = true
      hub ∧ go ∧ op = 0x20 ∧ (¬ guarded (a / 0x1000 * 0x1000) 0x1000)) ∧
    (
      let w : Word := 0
      let v := w.toNat
      let go := bit v 31 = true
      (¬ go)) ∧
    (
      let w : Word := 0x80000008
      let v := w.toNat
      let go := bit v 31 = true
      let fuse := bits v 10 0
      go ∧ fuseOk fuse = true) ∧
    (
      let w : Word := 0x80000005
      let v := w.toNat
      let go := bit v 31 = true
      let fuse := bits v 10 0
      go ∧ fuseOk fuse = false) ∧
    (
      let s : State := onReset State.reset.chip
      let c := s.chip
      let rec' := c.sys.record.1
      rec'.trial = false) ∧
    (
      let s : State := onReset { State.reset.chip with sys := { rec0 := (some { trial := true }) } }
      let c := s.chip
      let rec' := c.sys.record.1
      rec'.trial = true) ∧
    (
      let s : State := onReset State.reset.chip
      let c := s.chip
      (c.sys.bootWd.any (fun x => decide (x ≤ c.time)) = false)) ∧
    (
      let s : State := onReset { State.reset.chip with sys := { bootWd := (some 0), cellRst := none } }
      let c := s.chip
      (c.sys.bootWd.any (fun x => decide (x ≤ c.time)) = true) ∧ c.sys.cellRst = none ∧ c.flag TRL_TSTAT_BYP_RUN = false) := by
  refine ⟨?_, ?_, ?_, ?_, ?_, ?_, ?_, ?_, ?_, ?_, ?_, ?_, ?_, ?_, ?_, ?_, ?_, ?_⟩ <;> (try dsimp only) <;> decide +kernel

theorem witness_ResetsAndSupply :
    (
      let us : Nat := 1
      1 ≤ us) ∧
    (
      let s : State := onReset { State.reset.chip with time := 2000000, regs := [(0x18, 0x80000001)] }
      let c := s.chip
      let ranOut := c.flag GLB_WDT_EN = true ∧ c.sys.wdtAt + 2000000 * Nat.max (c.fld GLB_WDT_PERIOD) 1 ≤ c.time
      ranOut) ∧
    (
      let us : Nat := 0
      us = 0) ∧
    (
      let s : State := onReset State.reset.chip
      let c := s.chip
      let ranOut := c.flag GLB_WDT_EN = true ∧ c.sys.wdtAt + 2000000 * Nat.max (c.fld GLB_WDT_PERIOD) 1 ≤ c.time
      (¬ ranOut)) ∧
    (
      let s : State := onReset { State.reset.chip with sys := { hubRst := none } }
      let c := s.chip
      let hubIdle := c.sys.hubRst = none
      hubIdle) ∧
    (
      let s : State := onReset { State.reset.chip with sys := { bootPins := 1 } }
      let c := s.chip
      let hubIdle := c.sys.hubRst = none
      (¬ hubIdle) ∧ c.bootMode = 1) ∧
    (
      let s : State := onReset State.reset.chip
      let c := s.chip
      let hubIdle := c.sys.hubRst = none
      (¬ hubIdle) ∧ c.bootMode ≠ 1) ∧
    (
      let s : State := onReset { State.reset.chip with sys := { cellRst := none } }
      let c := s.chip
      let cellIdle := c.sys.cellRst = none
      cellIdle ∧ c.sys.swapDue = false) ∧
    (
      let s : State := onReset { State.reset.chip with sys := { vin := false } }
      let c := s.chip
      let cellIdle := c.sys.cellRst = none
      let vin := c.sys.vin = true
      (¬ cellIdle) ∧ (¬ vin)) ∧
    (
      let s : State := onReset State.reset.chip
      let c := s.chip
      let cellIdle := c.sys.cellRst = none
      let vin := c.sys.vin = true
      let booted := c.sys.record.1
      (¬ cellIdle) ∧ vin ∧ booted.trial = false ∧ (c.checkBank booted.active).1 ≠ 0 ∧ (c.checkBank (1 - booted.active)).1 ≠ 0) ∧
    (
      let fast : Bool := false
      fast = false) ∧
    (
      let fast : Bool := true
      fast = true) ∧
    (
      let s : State := onReset { State.reset.chip with sys := { vin := false } }
      let c := s.chip
      let vin := c.sys.vin = true
      (¬ vin)) ∧
    (
      let s : State := onReset State.reset.chip
      let c := s.chip
      let runs := c.fire.clkStop = false
      let vin := c.sys.vin = true
      vin ∧ runs) := by
  refine ⟨?_, ?_, ?_, ?_, ?_, ?_, ?_, ?_, ?_, ?_, ?_, ?_, ?_, ?_⟩ <;> (try dsimp only) <;> decide +kernel

theorem witness_PcieAndTap :
    (
      let s : State := onReset { State.reset.chip with regs := [(0xB00000, 256), (0xB18000, 1)] }
      let c := s.chip
      let up := c.flag PCI_PSTAT_LINK = true
      up) ∧
    (
      let v : BitVec 11 := 3
      let s : State := onReset State.reset.chip
      let c := s.chip
      let pb := PCI_PBA (v.toNat / 32)
      let waits := bit (c.reg pb) (v.toNat % 32) = true
      let up := c.flag PCI_PSTAT_LINK = true
      (¬ (up ∧ waits))) := by
  refine ⟨?_, ?_⟩ <;> (try dsimp only) <;> decide +kernel

end Sys2Proof.Tests
end

/-!
PROOF. What a raised hub fault leaves alone: everything but the fault records, the lanes and ports that its standing order silences, the
recorder and the FAULT_N pin.
-/
namespace Sys2Proof.Machine

/-- A command that makes `t` of the chipset completes with what holds of `t`. -/
theorem completes_of_eq {i : Instr} {s : State} {p : Chip → Prop} {f : Chip → Chip} {t : Chip} (h : exec i s = .next (s.on f))
    (ht : f s.chip = t) (hp : p t) : completes i s p :=
  ⟨s.on f, h, rfl, by rwa [on_chip, ht]⟩

/-- What a hub fault may reach beside its own flag: the state behind lanes, ports, recorder and the FAULT_N pin, and register words from
ORG on. -/
def Chip.faultOnly (c t : Chip) : Prop :=
  t = { c with regs := t.regs, lanes := t.lanes, gth := t.gth, gls := t.gls, hubEcc := t.hubEcc, sent := t.sent, takeDue := t.takeDue,
               fnEndHub := t.fnEndHub }
    ∧ ∀ a < ORG_OCTL, t.reg a = c.reg a

/-! ### The single updates -/

theorem faultOnly_refl (c : Chip) : c.faultOnly c := ⟨rfl, fun _ _ => rfl⟩

theorem faultOnly_trans {c d e : Chip} (h : c.faultOnly d) (h' : d.faultOnly e) : c.faultOnly e := by
  obtain ⟨hd, rd⟩ := h
  obtain ⟨he, re⟩ := h'
  refine ⟨?_, fun a ha => (re a ha).trans (rd a ha)⟩
  rw [he, hd]

theorem faultOnly_setReg (c : Chip) {a : Nat} (v : Nat) (h : ORG_OCTL ≤ a) : c.faultOnly (c.setReg a v) :=
  ⟨rfl, fun _ hb => reg_setReg_ne c v (by omega)⟩

theorem faultOnly_setFld (c : Chip) {f : Fld} (x : Nat) (h : ORG_OCTL ≤ f.addr) : c.faultOnly (c.setFld f x) := faultOnly_setReg c _ h

theorem faultOnly_bump (c : Chip) {a : Nat} (h : ORG_OCTL ≤ a) : c.faultOnly (c.bump a) := faultOnly_setReg c _ h

theorem faultOnly_setWords (l : List Nat) : ∀ (c : Chip) (a : Nat), ORG_OCTL ≤ a → c.faultOnly (c.setWords a l) := by
  induction l with
  | nil => intro c _ _; exact faultOnly_refl c
  | cons w l ih => intro c a h; exact faultOnly_trans (faultOnly_setReg c w h) (ih _ _ (by omega))

theorem faultOnly_setLane (c : Chip) (l : Nat) (x : Lane) : c.faultOnly (c.setLane l x) := ⟨rfl, fun _ _ => rfl⟩
theorem faultOnly_setPort (c : Chip) (p : Nat) (x : Port) : c.faultOnly (c.setPort p x) := ⟨rfl, fun _ _ => rfl⟩
theorem faultOnly_setBuf (c : Chip) (b : Nat) (x : Option Buf) : c.faultOnly (c.setBuf b x) := ⟨rfl, fun _ _ => rfl⟩
theorem faultOnly_emit (c : Chip) (o : Sent) : c.faultOnly (c.emit o) := ⟨rfl, fun _ _ => rfl⟩
theorem faultOnly_recdUp (c : Chip) (ch : Nat) (f : Recd → Recd) : c.faultOnly (c.recdUp ch f) := ⟨rfl, fun _ _ => rfl⟩
theorem faultOnly_gth (c : Chip) (g : Gth) : c.faultOnly { c with gth := g } := ⟨rfl, fun _ _ => rfl⟩
theorem faultOnly_hubEcc (c : Chip) (m : Assoc Nat) : c.faultOnly { c with hubEcc := m } := ⟨rfl, fun _ _ => rfl⟩
theorem faultOnly_fnEndHub (c : Chip) (t : Nat) : c.faultOnly { c with fnEndHub := t } := ⟨rfl, fun _ _ => rfl⟩

/-! ### Combinators -/

theorem faultOnly_when (c : Chip) (b : Bool) {f : Chip → Chip} (h : c.faultOnly (f c)) : c.faultOnly (c.when b f) := by
  cases b
  · exact faultOnly_refl c
  · exact h

theorem faultOnly_forEach {α : Type} {f : α → Chip → Chip} (h : ∀ (x : α) (c : Chip), c.faultOnly (f x c)) :
    ∀ (l : List α) (c : Chip), c.faultOnly (c.forEach l f) := by
  intro l
  induction l with
  | nil => exact faultOnly_refl
  | cons x l ih => exact fun c => faultOnly_trans (h x c) (ih _)

/-! ### Lanes, ports and the pool -/

theorem faultOnly_uncharge (c : Chip) (a : Nat) (rsv : Bool) : c.faultOnly (c.uncharge a rsv) := by
  have used (d : Chip) (n : Nat) : d.faultOnly (d.setUsed a n) := faultOnly_setReg d _ (by unfold acctAddr ORG_OCTL; omega)
  have free (d : Chip) (x y : Int) : d.faultOnly (d.setFree x y) :=
    faultOnly_trans (faultOnly_gth d _) (faultOnly_setReg _ _ (by decide))
  unfold Chip.uncharge
  split
  · exact faultOnly_trans (faultOnly_gth c _) (faultOnly_trans (used _ _) (free _ _ _))
  · exact faultOnly_trans (used _ _) (free _ _ _)

theorem faultOnly_releaseBuf (c : Chip) (b : Nat) : c.faultOnly (c.releaseBuf b) := by
  unfold Chip.releaseBuf
  split
  · exact faultOnly_refl c
  · split
    · exact faultOnly_trans (faultOnly_setBuf c _ _) (faultOnly_uncharge _ _ _)
    · exact faultOnly_setBuf c _ _

theorem faultOnly_portDone (c : Chip) (p : Nat) : c.faultOnly (c.portDone p) := by
  unfold Chip.portDone
  dsimp only
  split
  · exact faultOnly_refl c
  · exact faultOnly_trans (faultOnly_setPort c _ _) (faultOnly_releaseBuf _ _)

/-- The register set of a lane of the hub lies above ORG. -/
theorem laneBase_ge (l : Nat) : ORG_OCTL ≤ laneBase l := by unfold laneBase ORG_OCTL; split_ifs <;> omega

theorem faultOnly_muteLane (c : Chip) (l : Nat) : c.faultOnly (c.muteLane l) := by
  unfold Chip.muteLane
  dsimp only
  split
  · split
    · exact faultOnly_setLane c _ _
    · exact faultOnly_trans (faultOnly_setLane c _ _)
        (faultOnly_when _ _ (faultOnly_setFld _ 0 (Nat.le_add_right_of_le (laneBase_ge l))))
  · exact faultOnly_setLane c _ _

theorem faultOnly_mutePort (c : Chip) (p : Nat) : c.faultOnly (c.mutePort p) := by
  have cleared : c.faultOnly (c.clearPortQ p) :=
    faultOnly_trans (faultOnly_setPort c _ _) (faultOnly_forEach (fun (f : QFrame) d => faultOnly_releaseBuf d f.buf) _ _)
  have muted := faultOnly_trans cleared (faultOnly_muteLane _ (192 + p))
  unfold Chip.mutePort
  dsimp only
  split
  · exact faultOnly_trans muted (faultOnly_portDone _ p)
  · exact muted

/-! ### The reactions and the log -/

theorem faultOnly_record (c : Chip) (etype srcid pay : Nat) : c.faultOnly (c.record false etype srcid pay) :=
  faultOnly_forEach (fun ch d => faultOnly_recdUp d ch _) _ c

theorem faultOnly_msix (c : Chip) (v : Nat) : c.faultOnly (c.msix v) := by
  unfold Chip.msix
  split
  · exact faultOnly_setReg c _ (by unfold PCI_PBA ORG_OCTL; omega)
  · exact faultOnly_emit c _

theorem faultOnly_faultNPulse (c : Chip) : c.faultOnly (c.faultNPulse .hub) := by
  have raise (d : Chip) (f : Fld) (h : ORG_OCTL ≤ f.addr) : d.faultOnly (d.raiseFlag f) := faultOnly_setFld d 1 h
  exact faultOnly_trans (faultOnly_trans (faultOnly_trans (raise c FLT_FSTAT_FN_PULSE (by decide)) (raise _ FLT_FSTAT_FN_DRIVE (by decide)))
    (raise _ FLT_FSTAT_FN_PIN (by decide))) (faultOnly_fnEndHub _ _)

theorem faultOnly_silenceHub (c : Chip) (b i : Nat) : c.faultOnly (c.silenceHub b i) := by
  unfold Chip.silenceHub
  refine faultOnly_trans (faultOnly_forEach (fun l d => ?_) _ c) (faultOnly_setReg _ _ (by decide))
  split
  · exact faultOnly_trans (faultOnly_setReg d _ (by unfold FLT_SILENCED ORG_OCTL; omega)) (faultOnly_muteLane _ l)
  · exact faultOnly_trans (faultOnly_setReg d _ (by decide)) (faultOnly_mutePort _ _)

theorem faultOnly_logHub (c : Chip) (b w2 w3 : Nat) : c.faultOnly (c.logHub b w2 w3) := by
  have ctl : ORG_OCTL ≤ FLT_LOGCTL b := by unfold FLT_LOGCTL ORG_OCTL; omega
  have entered := faultOnly_trans (faultOnly_setWords [c.ftNs, c.ftNs / 2 ^ 32, w2, w3] c (FLT_LOGE b (c.fld (FLT_LOGCTL_WR_IDX b)))
    (by unfold FLT_LOGE ORG_OCTL; omega)) (faultOnly_record _ 5 b (w2 % 2 ^ 32 + w3 % 2 ^ 32 * 2 ^ 32))
  have moved := faultOnly_trans entered (faultOnly_setFld _ (f := FLT_LOGCTL_WR_IDX b) ((c.fld (FLT_LOGCTL_WR_IDX b) + 1) % 1024) ctl)
  unfold Chip.logHub
  dsimp only
  split
  · exact faultOnly_trans (faultOnly_trans moved (faultOnly_setFld _ (f := FLT_LOGCTL_RD_IDX b) _ ctl))
      (faultOnly_bump _ (by unfold FLT_LOST ORG_OCTL; omega))
  · exact moved

/-- The counter that a fault of any class counts in lies above ORG. -/
theorem faultCounter_ge (b n : Nat) : ORG_OCTL ≤ if n == 1 then FLT_CNT_C b else if n == 2 then FLT_CNT_K b else FLT_CNT_F b := by
  unfold FLT_CNT_C FLT_CNT_K FLT_CNT_F ORG_OCTL
  split_ifs <;> omega

theorem faultOnly_reactHub (c : Chip) (b s i cls entry upb w3 : Nat) : c.faultOnly (c.reactHub b s i cls entry upb w3).1 := by
  unfold Chip.reactHub
  dsimp only
  refine faultOnly_trans ?_ (faultOnly_logHub _ b _ w3)
  refine faultOnly_trans ?_ (faultOnly_when _ _ (f := fun c => { c with takeDue := true }) ⟨rfl, fun _ _ => rfl⟩)
  refine faultOnly_trans ?_ (faultOnly_when _ _ (faultOnly_silenceHub _ b i))
  refine faultOnly_trans ?_ (faultOnly_when _ _ (faultOnly_faultNPulse _))
  refine faultOnly_trans ?_ (faultOnly_when _ _ (faultOnly_msix _ _))
  refine faultOnly_trans ?_ (faultOnly_bump _ (faultCounter_ge b _))
  exact faultOnly_trans (faultOnly_setReg c _ (by unfold FLT_CSTATE ORG_OCTL; omega))
    (faultOnly_when _ _ (faultOnly_bump _ (by unfold FLT_ESC_CNT ORG_OCTL; omega)))

theorem faultOnly_lookupHub (c : Chip) (b s : Nat) : c.faultOnly (c.lookupHub b s).2.2 := by
  unfold Chip.lookupHub
  dsimp only
  split
  · exact faultOnly_refl c
  · split
    · exact faultOnly_refl c
    · exact faultOnly_hubEcc c _
    · exact faultOnly_refl c

theorem faultOnly_soEccHub (c : Chip) (cls : Nat) : c.faultOnly (c.soEccHub cls) := by
  unfold Chip.soEccHub
  split
  · exact faultOnly_refl c
  · exact faultOnly_reactHub c _ _ _ _ _ _ _

/-- A source raised in a hub block: beside its flag, only what `Chip.faultOnly` names. -/
theorem faultOnly_raiseHub (c : Chip) (x : Src) (i : Nat) : (c.setFld x.flag 1).faultOnly (c.raiseHub x i) := by
  have native := faultOnly_trans (faultOnly_lookupHub (c.setFld x.flag 1) x.blk x.src) (faultOnly_reactHub _ x.blk x.src i x.cls
    ((c.setFld x.flag 1).lookupHub x.blk x.src).1 0 (((c.setFld x.flag 1).lookupHub x.blk x.src).2.2.reg x.flag.addr))
  have ecc (d : Chip) (m n : Nat) : d.faultOnly ((d.soEccHub m).soEccHub n) :=
    faultOnly_trans (faultOnly_soEccHub d m) (faultOnly_soEccHub _ n)
  unfold Chip.raiseHub
  dsimp only
  split
  · have looked := faultOnly_trans native (faultOnly_lookupHub _ 9 (upSource x.blk))
    split_ifs
    · exact faultOnly_trans (faultOnly_trans looked (ecc _ _ _)) (faultOnly_reactHub _ _ _ _ _ _ _ _)
    · exact faultOnly_trans (faultOnly_trans looked (faultOnly_reactHub _ _ _ _ _ _ _ _)) (ecc _ _ _)
  · exact faultOnly_trans native (faultOnly_soEccHub _ _)

/-! ### What is read after a fault -/

theorem faultOnly_doms {c t : Chip} (h : c.faultOnly t) : t.doms = c.doms := by rw [h.1]
theorem faultOnly_pulses {c t : Chip} (h : c.faultOnly t) : t.pulses = c.pulses := by rw [h.1]

theorem faultOnly_fld {c t : Chip} (h : c.faultOnly t) {f : Fld} (hf : f.addr < ORG_OCTL) : t.fld f = c.fld f := by
  unfold Chip.fld
  rw [h.2 _ hf]

theorem faultOnly_flag {c t : Chip} (h : c.faultOnly t) {f : Fld} (hf : f.addr < ORG_OCTL) : t.flag f = c.flag f := by
  unfold Chip.flag
  rw [faultOnly_fld h hf]

end Sys2Proof.Machine

/-!
PROOF. Frames of register words, of a domain and of a pulse output, and what one-bit fields read as after a write.
-/
namespace Sys2Proof.Machine

/-! ### One-bit fields -/

/-- No bit of the one field is a bit of the other, should they stand in the same word. -/
def Fld.apart (e f : Fld) : Bool := decide (e.hi < f.lo) || decide (f.hi < e.lo)

theorem flag_setFld_apart (c : Chip) (f e : Fld) (x : Nat) (h : f.ok = true) (d : e.apart f = true) :
    (c.setFld f x).flag e = c.flag e :=
  flag_setFld_other c f e x h (.inr (by simpa [Fld.apart] using d))

theorem flag_raise_apart (c : Chip) (f e : Fld) (h : f.ok = true) (d : e.apart f = true) : (c.raiseFlag f).flag e = c.flag e :=
  flag_setFld_apart c f e 1 h d

theorem flag_clr_apart (c : Chip) (f e : Fld) (h : f.ok = true) (d : e.apart f = true) : (c.clrFlag f).flag e = c.flag e :=
  flag_setFld_apart c f e 0 h d

theorem flag_setReg_ne (c : Chip) {a : Nat} {f : Fld} (v : Nat) (h : f.addr ≠ a) : (c.setReg a v).flag f = c.flag f := by
  unfold Chip.flag
  rw [fld_setReg_ne c v h]

theorem reg_raise_ne (c : Chip) {f : Fld} {a : Nat} (h : a ≠ f.addr) : (c.raiseFlag f).reg a = c.reg a := reg_setFld_ne c f 1 h

/-- A flag raised under a condition. -/
theorem flag_when_raise (c : Chip) (b : Bool) (f : Fld) (h : f.ok = true) : (c.when b (·.raiseFlag f)).flag f = (b || c.flag f) := by
  cases b
  · rfl
  · exact flag_raise_same c f h

/-! ### Register words alone -/

theorem onlyRegs_refl (c : Chip) (l : List Nat) : c.onlyRegs c l := ⟨rfl, fun _ _ => rfl⟩

theorem onlyRegs_trans {c d e : Chip} {l : List Nat} (h : c.onlyRegs d l) (h' : d.onlyRegs e l) : c.onlyRegs e l := by
  obtain ⟨hd, rd⟩ := h
  obtain ⟨he, re⟩ := h'
  refine ⟨?_, fun a ha => (re a ha).trans (rd a ha)⟩
  rw [he, hd]

theorem onlyRegs_setReg (c : Chip) {a : Nat} (v : Nat) {l : List Nat} (h : a ∈ l) : c.onlyRegs (c.setReg a v) l :=
  ⟨rfl, fun _ hb => reg_setReg_ne c v fun e => hb (e ▸ h)⟩

theorem onlyRegs_raise (c : Chip) {f : Fld} {l : List Nat} (h : f.addr ∈ l) : c.onlyRegs (c.raiseFlag f) l := onlyRegs_setReg c _ h
theorem onlyRegs_clr (c : Chip) {f : Fld} {l : List Nat} (h : f.addr ∈ l) : c.onlyRegs (c.clrFlag f) l := onlyRegs_setReg c _ h

theorem onlyRegs_when (c : Chip) (b : Bool) {f : Chip → Chip} {l : List Nat} (h : c.onlyRegs (f c) l) : c.onlyRegs (c.when b f) l := by
  cases b
  · exact onlyRegs_refl c l
  · exact h

theorem fld_of_onlyRegs {c t : Chip} {l : List Nat} (h : c.onlyRegs t l) {f : Fld} (hf : f.addr ∉ l) : t.fld f = c.fld f := by
  unfold Chip.fld
  rw [h.2 _ hf]

theorem flag_of_onlyRegs {c t : Chip} {l : List Nat} (h : c.onlyRegs t l) {f : Fld} (hf : f.addr ∉ l) : t.flag f = c.flag f := by
  unfold Chip.flag
  rw [fld_of_onlyRegs h hf]

theorem pulse_of_onlyRegs {c t : Chip} {l : List Nat} (h : c.onlyRegs t l) (n : Nat) : t.pulse n = c.pulse n := by
  rw [h.1]
  rfl

theorem tick_of_onlyRegs {c t : Chip} {l : List Nat} (h : c.onlyRegs t l) : t.tick = c.tick := by
  rw [h.1]
  rfl

theorem dom_of_onlyRegs {c t : Chip} {l : List Nat} (h : c.onlyRegs t l) (d : Nat) : t.dom d = c.dom d := by
  rw [h.1]
  rfl

theorem reg64_of_onlyRegs {c t : Chip} {l : List Nat} (h : c.onlyRegs t l) {a : Nat} (ha : a ∉ l) (ha' : a + 4 ∉ l) :
    t.reg64 a = c.reg64 a := by
  unfold Chip.reg64
  rw [h.2 _ ha, h.2 _ ha']

/-! ### One domain -/

theorem onlyDom_of_onlyRegs {c t : Chip} {l : List Nat} (d : Nat) (h : c.onlyRegs t l) : c.onlyDom t d l := by
  obtain ⟨ht, hr⟩ := h
  refine ⟨?_, hr, fun e _ => ?_⟩ <;> rw [ht]
  rfl

theorem onlyDom_trans {c t u : Chip} {d : Nat} {l : List Nat} (h : c.onlyDom t d l) (h' : t.onlyDom u d l) : c.onlyDom u d l := by
  obtain ⟨ht, rt, dt⟩ := h
  obtain ⟨hu, ru, du⟩ := h'
  refine ⟨?_, fun a ha => (ru a ha).trans (rt a ha), fun e he => (du e he).trans (dt e he)⟩
  rw [hu, ht]

theorem onlyDom_setDom (c : Chip) (d : Nat) (x : Dom) (l : List Nat) : c.onlyDom (c.setDom d x) d l :=
  ⟨rfl, fun _ _ => rfl, fun _ he => dom_setDom_ne c x he⟩

/-! ### One pulse output -/

theorem onlyPulse_of_onlyRegs {c t : Chip} {l : List Nat} (n : Nat) (h : c.onlyRegs t l) : c.onlyPulse t n l := by
  obtain ⟨ht, hr⟩ := h
  refine ⟨?_, hr, fun e _ => ?_⟩ <;> rw [ht]
  rfl

theorem onlyPulse_trans {c t u : Chip} {n : Nat} {l : List Nat} (h : c.onlyPulse t n l) (h' : t.onlyPulse u n l) : c.onlyPulse u n l := by
  obtain ⟨ht, rt, pt⟩ := h
  obtain ⟨hu, ru, pu⟩ := h'
  refine ⟨?_, fun a ha => (ru a ha).trans (rt a ha), fun e he => (pu e he).trans (pt e he)⟩
  rw [hu, ht]

theorem onlyPulse_setPulse (c : Chip) (n : Nat) (x : Pulse) (l : List Nat) : c.onlyPulse (c.setPulse n x) n l :=
  ⟨rfl, fun _ _ => rfl, fun _ he => pulse_setPulse_ne c x he⟩

/-! ### The bits of a command word -/

/-- Bit `k` of a word is a test bit. -/
theorem bit_eq_testBit (v k : Nat) : bit v k = v.testBit k := by
  simp [bit, Nat.testBit_eq_decide_div_mod_eq, Bool.beq_eq_decide_eq]

/-- The bits of a command word with its own command bit set, `m` = 2^k. -/
theorem bit_or (v k j : Nat) {m : Nat} (hm : m = 2 ^ k) : bit (v ||| m) j = (bit v j || decide (k = j)) := by
  subst hm
  simp [bit_eq_testBit, Nat.testBit_or, Nat.testBit_two_pow]

/-- The command's own bit. -/
theorem bit_or_own (v k : Nat) {m : Nat} (hm : m = 2 ^ k) : bit (v ||| m) k = true := by simp [bit_or v k k hm]

/-- A bit that is set stays set. -/
theorem bit_or_of_bit {v m j : Nat} (h : bit v j = true) : bit (v ||| m) j = true := by
  rw [bit_eq_testBit] at *
  rw [Nat.testBit_or, h, Bool.true_or]

/-- Of the `n` lowest bits of a command word, bit `k` is set and no other. -/
def loneBit (v n k : Nat) : Prop := ∀ j < n, bit v j = decide (k = j)

/-- A command that stands alone in its word. -/
theorem loneBit_of_sole {w : Word} {n k m : Nat} (h : soleBit w n k) (hm : m = 2 ^ k) : loneBit (w.toNat ||| m) n k := by
  intro j hj
  rw [bit_or _ k j hm]
  by_cases hk : k = j
  · simp [hk]
  · simp [hk, h j hj (Ne.symm hk)]

/-- A field above the command bit. -/
theorem bits_or {v k m hi lo : Nat} (hm : m = 2 ^ k) (h : k < lo) : bits (v ||| m) hi lo = bits v hi lo := by
  subst hm
  apply Nat.eq_of_testBit_eq
  intro j
  simp only [testBit_bits, Nat.testBit_or, Nat.testBit_two_pow]
  rw [decide_eq_false (by omega : ¬ k = lo + j), Bool.or_false]

end Sys2Proof.Machine

/-!
PROOF. The correction commands of Sundial's domains (R27, R29, R31 to R35).
-/
namespace Sys2Proof.Machine

/-! ### Reading past a domain's record -/

@[simp] theorem reg64_setDom (c : Chip) (d : Nat) (x : Dom) (a : Nat) : (c.setDom d x).reg64 a = c.reg64 a := rfl

/-- A domain that keeps its value keeps FT. -/
theorem ftNs_setDom (c : Chip) (d : Nat) (x : Dom) (h : x.acc = (c.dom d).acc) : (c.setDom d x).ftNs = c.ftNs := by
  unfold Chip.ftNs
  by_cases hd : 1 = d
  · rw [← hd, dom_setDom_same, h, hd]
  · rw [dom_setDom_ne c x hd]

/-- A domain and one of its flags are all that changes where its record is replaced and the flag raised. -/
theorem onlyDom_setDom_raise (c : Chip) (d : Nat) (x : Dom) {f : Fld} {l : List Nat} (h : f.addr ∈ l) :
    c.onlyDom ((c.setDom d x).raiseFlag f) d l :=
  onlyDom_trans (onlyDom_setDom c d x l) (onlyDom_of_onlyRegs d (onlyRegs_raise _ h))

/-! ### The parts of a command -/

/-- ARM_INC captures INC_NEXT and INC_AT, and tells that INC_AT is past (R32 to R34). -/
theorem armInc_spec (c : Chip) (d : Nat) :
    (c.armInc d).flag (SDL_DSTAT_INC_ARMED d) = true
      ∧ (c.armInc d).flag (SDL_DSTAT_LATE d) = (decide (c.reg64 (SDL_INC_AT d) < c.ftNs) || c.flag (SDL_DSTAT_LATE d))
      ∧ c.onlyDom (c.armInc d) d [SDL_DSTAT d]
      ∧ (c.armInc d).dom d = { c.dom d with incNext := c.reg64 (SDL_INC_NEXT d), incAt := c.reg64 (SDL_INC_AT d) } := by
  unfold Chip.armInc
  dsimp only
  simp only [ftNs_setDom, reg64_setDom]
  have marked (e : Chip) (b : Bool) : e.onlyRegs (e.when b (·.raiseFlag (SDL_DSTAT_LATE d))) [SDL_DSTAT d] :=
    onlyRegs_when e b (onlyRegs_raise e (List.mem_singleton_self _))
  refine ⟨flag_raise_same _ _ rfl, ?_, ?_, ?_⟩
  · rw [flag_raise_apart _ _ _ rfl rfl, flag_when_raise _ _ _ rfl, flag_setDom]
  · exact onlyDom_trans (onlyDom_setDom c d _ _)
      (onlyDom_of_onlyRegs d (onlyRegs_trans (marked _ _) (onlyRegs_raise _ (List.mem_singleton_self _))))
  · rw [dom_raiseFlag, dom_of_onlyRegs (marked _ _), dom_setDom_same]

theorem cutSlew_idle {c : Chip} {d : Nat} (h : c.flag (SDL_DSTAT_SLEW_ACT d) = false) : c.cutSlew d = c := by
  simp [Chip.cutSlew, h]

theorem cutSlew_running {c : Chip} {d : Nat} (h : c.flag (SDL_DSTAT_SLEW_ACT d) = true) :
    c.cutSlew d = ((c.clrFlag (SDL_DSTAT_SLEW_ACT d)).setReg (SDL_SLEW_LEFT d) 0).raiseFlag (SDL_DSTAT_SLEW_CUT d) := by
  simp [Chip.cutSlew, h]

theorem slewLeft_ne_dstat (d : Nat) : SDL_SLEW_LEFT d ≠ SDL_DSTAT d := by unfold SDL_SLEW_LEFT SDL_DSTAT; omega

theorem onlyRegs_cutSlew (c : Chip) (d : Nat) : c.onlyRegs (c.cutSlew d) [SDL_DSTAT d, SDL_SLEW_LEFT d] := by
  cases h : c.flag (SDL_DSTAT_SLEW_ACT d)
  · rw [cutSlew_idle h]
    exact onlyRegs_refl c _
  · rw [cutSlew_running h]
    exact onlyRegs_trans (onlyRegs_clr c (List.mem_cons_self ..))
      (onlyRegs_trans (onlyRegs_setReg _ 0 (by simp)) (onlyRegs_raise _ (List.mem_cons_self ..)))

/-- SLEW_CUT tells of a slew that was running. -/
theorem cutSlew_flag (c : Chip) (d : Nat) :
    (c.cutSlew d).flag (SDL_DSTAT_SLEW_CUT d) = (c.flag (SDL_DSTAT_SLEW_ACT d) || c.flag (SDL_DSTAT_SLEW_CUT d)) := by
  cases h : c.flag (SDL_DSTAT_SLEW_ACT d)
  · rw [cutSlew_idle h, Bool.false_or]
  · rw [cutSlew_running h, flag_raise_same _ _ rfl, Bool.true_or]

/-- A running slew that is cut is over, with nothing left (R33). -/
theorem cutSlew_running_spec {c : Chip} {d : Nat} (h : c.flag (SDL_DSTAT_SLEW_ACT d) = true) :
    (c.cutSlew d).flag (SDL_DSTAT_SLEW_ACT d) = false ∧ (c.cutSlew d).reg (SDL_SLEW_LEFT d) = 0 := by
  rw [cutSlew_running h]
  constructor
  · rw [flag_raise_apart _ _ _ rfl rfl, flag_setReg_ne _ _ (slewLeft_ne_dstat d).symm, flag_clr_same _ _ rfl]
  · rw [reg_raise_ne _ (slewLeft_ne_dstat d), reg_setReg_same, Nat.zero_mod]

/-- SLEW replaces a running slew and captures its operands (R33). -/
theorem startSlew_spec (c : Chip) (d : Nat) :
    (c.startSlew d).flag (SDL_DSTAT_SLEW_ACT d) = true ∧ (c.startSlew d).reg (SDL_SLEW_LEFT d) = c.reg (SDL_SLEW_TICKS d)
      ∧ (c.startSlew d).flag (SDL_DSTAT_SLEW_CUT d) = (c.flag (SDL_DSTAT_SLEW_ACT d) || c.flag (SDL_DSTAT_SLEW_CUT d))
      ∧ c.onlyDom (c.startSlew d) d [SDL_DSTAT d, SDL_SLEW_LEFT d]
      ∧ (c.startSlew d).dom d = { c.dom d with slewInc := c.reg64 (SDL_SLEW_INC d) } := by
  have cut := onlyRegs_cutSlew c d
  have ticks : (c.cutSlew d).reg (SDL_SLEW_TICKS d) = c.reg (SDL_SLEW_TICKS d) :=
    cut.2 _ (by simp [SDL_SLEW_TICKS, SDL_DSTAT, SDL_SLEW_LEFT])
  have inc : (c.cutSlew d).reg64 (SDL_SLEW_INC d) = c.reg64 (SDL_SLEW_INC d) :=
    reg64_of_onlyRegs cut (by simp [SDL_SLEW_INC, SDL_DSTAT, SDL_SLEW_LEFT]) (by simp [SDL_SLEW_INC, SDL_DSTAT, SDL_SLEW_LEFT]; omega)
  unfold Chip.startSlew
  dsimp only
  rw [reg_setDom, ticks, inc, dom_of_onlyRegs cut]
  refine ⟨flag_raise_same _ _ rfl, ?_, ?_, ?_, ?_⟩
  · rw [reg_raise_ne _ (slewLeft_ne_dstat d), reg_setReg_same, Nat.mod_eq_of_lt (reg_lt c _)]
  · rw [flag_raise_apart _ _ _ rfl rfl, flag_setReg_ne _ _ (slewLeft_ne_dstat d).symm, flag_setDom, cutSlew_flag]
  · exact onlyDom_trans (onlyDom_of_onlyRegs d cut) (onlyDom_trans (onlyDom_setDom _ d _ _)
      (onlyDom_of_onlyRegs d (onlyRegs_trans (onlyRegs_setReg _ _ (by simp)) (onlyRegs_raise _ (List.mem_cons_self ..)))))
  · rw [dom_raiseFlag, dom_setReg, dom_setDom_same]

/-! ### A word with one command -/

section
variable {c : Chip} {d v : Nat}

/-- What refuses a DCMD word (R27, R29, R33). -/
theorem dcmdRefused_iff : c.dcmdRefused d v = true ↔
    (bit v 0 = true ∧ d = 0 ∧ 10 ^ 9 ≤ c.reg (SDL_SETV 0 + 4)) ∨ (bit v 2 = true ∧ incOk d (c.reg64 (SDL_INC_NEXT d)) = false)
      ∨ (bit v 4 = true ∧ (c.reg (SDL_SLEW_TICKS d) = 0 ∨ incOk d (c.reg64 (SDL_SLEW_INC d)) = false)) := by
  simp [Chip.dcmdRefused, and_assoc, or_assoc]

theorem dcmdWrite_refused (h : c.dcmdRefused d v = true) : c.dcmdWrite d v = c.refuseDom d := by simp [Chip.dcmdWrite, h]

theorem dcmdWrite_load (hv : loneBit v 6 0) (hs : ¬ (d = 0 ∧ 10 ^ 9 ≤ c.reg (SDL_SETV 0 + 4))) :
    c.dcmdWrite d v = (c.setDom d { c.dom d with setv := c.accAt d (SDL_SETV d) }).raiseFlag (SDL_DSTAT_LOAD_PEND d) := by
  have ok : c.dcmdRefused d v = false := by simpa [Chip.dcmdRefused, hv 0, hv 2, hv 4] using hs
  simp [Chip.dcmdWrite, ok, hv 0, hv 1, hv 2, hv 3, hv 4, hv 5]

theorem dcmdWrite_step (hv : loneBit v 6 1) :
    c.dcmdWrite d v = (c.setDom d { c.dom d with stepv := q4024 (c.reg64 (SDL_STEP d)) }).raiseFlag (SDL_DSTAT_STEP_PEND d) := by
  have ok : c.dcmdRefused d v = false := by simp [Chip.dcmdRefused, hv 0, hv 2, hv 4]
  simp [Chip.dcmdWrite, ok, hv 0, hv 1, hv 2, hv 3, hv 4, hv 5]

theorem dcmdWrite_armInc (hv : loneBit v 6 2) (hi : incOk d (c.reg64 (SDL_INC_NEXT d)) = true) : c.dcmdWrite d v = c.armInc d := by
  have ok : c.dcmdRefused d v = false := by simp [Chip.dcmdRefused, hv 0, hv 4, hi]
  simp [Chip.dcmdWrite, ok, hv 0, hv 1, hv 2, hv 3, hv 4, hv 5]

theorem dcmdWrite_cancelInc (hv : loneBit v 6 3) : c.dcmdWrite d v = c.clrFlag (SDL_DSTAT_INC_ARMED d) := by
  have ok : c.dcmdRefused d v = false := by simp [Chip.dcmdRefused, hv 0, hv 2, hv 4]
  simp [Chip.dcmdWrite, ok, hv 0, hv 1, hv 2, hv 3, hv 4, hv 5]

theorem dcmdWrite_slew (hv : loneBit v 6 4) (ht : c.reg (SDL_SLEW_TICKS d) ≠ 0) (hi : incOk d (c.reg64 (SDL_SLEW_INC d)) = true) :
    c.dcmdWrite d v = c.startSlew d := by
  have ok : c.dcmdRefused d v = false := by simp [Chip.dcmdRefused, hv 0, hv 2, ht, hi]
  simp [Chip.dcmdWrite, ok, hv 0, hv 1, hv 2, hv 3, hv 4, hv 5]

theorem dcmdWrite_cancelSlew (hv : loneBit v 6 5) : c.dcmdWrite d v = c.cutSlew d := by
  have ok : c.dcmdRefused d v = false := by simp [Chip.dcmdRefused, hv 0, hv 2, hv 4]
  simp [Chip.dcmdWrite, ok, hv 0, hv 1, hv 2, hv 3, hv 4, hv 5]

/-- CANCEL_INC beside ARM_INC: the cancel comes first (R35). -/
theorem dcmdWrite_cancelInc_armInc (h2 : bit v 2 = true) (h3 : bit v 3 = true) (hv : ∀ j ∈ [0, 1, 4, 5], bit v j = false)
    (hi : incOk d (c.reg64 (SDL_INC_NEXT d)) = true) : c.dcmdWrite d v = (c.clrFlag (SDL_DSTAT_INC_ARMED d)).armInc d := by
  have ok : c.dcmdRefused d v = false := by simp [Chip.dcmdRefused, hv, hi]
  simp [Chip.dcmdWrite, ok, h2, h3, hv]

end

/-- A refused write or command of a domain sets REFUSED and raises its fault, and leaves the domains, INC, what is pending or armed and a
running slew alone (R29, R33). -/
theorem refuseDom_spec (c : Chip) (d : Fin 6) :
    (c.refuseDom d).flag (SDL_DSTAT_REFUSED d) = true ∧ (c.refuseDom d).doms = c.doms
      ∧ (c.refuseDom d).reg64 (SDL_INC d) = c.reg64 (SDL_INC d)
      ∧ (c.refuseDom d).flag (SDL_DSTAT_LOAD_PEND d) = c.flag (SDL_DSTAT_LOAD_PEND d)
      ∧ (c.refuseDom d).flag (SDL_DSTAT_INC_ARMED d) = c.flag (SDL_DSTAT_INC_ARMED d)
      ∧ (c.refuseDom d).flag (SDL_DSTAT_SLEW_ACT d) = c.flag (SDL_DSTAT_SLEW_ACT d)
      ∧ (c.refuseDom d).reg (SDL_SLEW_LEFT d) = c.reg (SDL_SLEW_LEFT d)
      ∧ (c.refuseDom d).flag (SDL_DSTAT_SLEW_CUT d) = c.flag (SDL_DSTAT_SLEW_CUT d) := by
  have fault : (c.raiseFlag (SDL_DSTAT_REFUSED d)).faultOnly (c.refuseDom d) := faultOnly_raiseHub c (srcIncRefused (SDL_DSTAT_REFUSED d)) 0
  have dstat : SDL_DSTAT d < ORG_OCTL := by unfold SDL_DSTAT ORG_OCTL; omega
  have word {a : Nat} (ha : a < ORG_OCTL) (hd : a ≠ SDL_DSTAT d) : (c.refuseDom d).reg a = c.reg a :=
    (fault.2 a ha).trans (reg_raise_ne c hd)
  have other {f : Fld} (ha : f.addr = SDL_DSTAT d) (hf : f.apart (SDL_DSTAT_REFUSED d) = true) : (c.refuseDom d).flag f = c.flag f :=
    (faultOnly_flag fault (ha ▸ dstat)).trans (flag_raise_apart c _ f rfl hf)
  refine ⟨?_, (faultOnly_doms fault).trans (raiseFlag_doms c _), ?_, other rfl rfl, other rfl rfl, other rfl rfl, ?_, other rfl rfl⟩
  · rw [faultOnly_flag fault dstat, flag_raise_same _ _ rfl]
  · unfold Chip.reg64
    rw [word, word] <;> simp only [SDL_INC, SDL_DSTAT, ORG_OCTL] <;> omega
  · exact word (by unfold SDL_SLEW_LEFT ORG_OCTL; omega) (slewLeft_ne_dstat d)

/-- Settles O29: each command of DCMD alone in its word by its equation, a refused one by what a raised hub fault leaves alone. -/
theorem domainCommands : Obligations.DomainCommands := by
  unfold Obligations.DomainCommands
  intro d w v s c refused
  have refuse {i : Instr} {m : Nat} (h : exec i s = .next (s.on (·.dcmdWrite d m))) (hm : c.dcmdRefused d m = true) : refused i :=
    completes_of_eq h (dcmdWrite_refused hm) (refuseDom_spec c d)
  have mem (l : List Nat) : SDL_DSTAT d ∈ SDL_DSTAT d :: l := List.mem_cons_self ..
  refine ⟨?load, ?step, ?armInc, ?cancelInc, ?slew, ?cancelSlew, ?cancelIdle, ?cancelArm, ?badLoad, ?badLoadStep, ?badInc,
    ?badSlew, ?badWrite⟩
  case load =>
    intro hw hs
    exact completes_of_eq rfl (dcmdWrite_load (loneBit_of_sole hw rfl) hs)
      ⟨flag_raise_same _ _ rfl, onlyDom_setDom_raise c d _ (mem []), by rw [dom_raiseFlag, dom_setDom_same]; rfl⟩
  case step =>
    intro hw
    exact completes_of_eq rfl (dcmdWrite_step (loneBit_of_sole hw rfl))
      ⟨flag_raise_same _ _ rfl, onlyDom_setDom_raise c d _ (mem []), by rw [dom_raiseFlag, dom_setDom_same]; rfl⟩
  case armInc =>
    intro hw hi
    exact completes_of_eq rfl (dcmdWrite_armInc (loneBit_of_sole hw rfl) hi) (armInc_spec c d)
  case cancelInc =>
    intro hw
    exact completes_of_eq rfl (dcmdWrite_cancelInc (loneBit_of_sole hw rfl)) ⟨flag_clr_same c _ rfl, onlyRegs_clr c (mem [])⟩
  case slew =>
    intro hw ht hi
    exact completes_of_eq rfl (dcmdWrite_slew (loneBit_of_sole hw rfl) ht hi) (startSlew_spec c d)
  case cancelSlew =>
    intro hw hr
    obtain ⟨still, empty⟩ := cutSlew_running_spec hr
    exact completes_of_eq rfl (dcmdWrite_cancelSlew (loneBit_of_sole hw rfl))
      ⟨still, by rw [cutSlew_flag, hr, Bool.true_or], empty, onlyRegs_cutSlew c d⟩
  case cancelIdle =>
    intro hw hr
    exact completes_of_eq rfl (dcmdWrite_cancelSlew (loneBit_of_sole hw rfl)) (cutSlew_idle hr)
  case cancelArm =>
    intro hw hb hi
    have others : ∀ j ∈ [0, 1, 4, 5], bit (w.toNat ||| 8) j = false := by
      intro j hj
      have hj' : j < 6 ∧ j ≠ 2 ∧ 3 ≠ j := by simp at hj; omega
      rw [bit_or (m := 8) _ 3 j rfl, hw j hj'.1 hj'.2.1, decide_eq_false hj'.2.2]
      rfl
    obtain ⟨armed, -, -, captured⟩ := armInc_spec (c.clrFlag (SDL_DSTAT_INC_ARMED d)) d
    have cleared := onlyRegs_clr c (f := SDL_DSTAT_INC_ARMED d) (mem [])
    refine completes_of_eq rfl (dcmdWrite_cancelInc_armInc (bit_or_of_bit hb) (bit_or_own _ 3 rfl) others hi) ⟨armed, ?_⟩
    rw [captured]
    exact reg64_of_onlyRegs cleared (by simp [SDL_INC_NEXT, SDL_DSTAT]) (by simp [SDL_INC_NEXT, SDL_DSTAT]; omega)
  case badLoad =>
    intro hd hs
    exact refuse rfl (dcmdRefused_iff.2 (.inl ⟨bit_or_own _ 0 rfl, hd, hs⟩))
  case badLoadStep =>
    intro hd hs hb
    exact refuse rfl (dcmdRefused_iff.2 (.inl ⟨bit_or_of_bit hb, hd, hs⟩))
  case badInc =>
    intro hi
    exact refuse rfl (dcmdRefused_iff.2 (.inr (.inl ⟨bit_or_own _ 2 rfl, hi⟩)))
  case badSlew =>
    intro hi
    exact refuse rfl (dcmdRefused_iff.2 (.inr (.inr ⟨bit_or_own _ 4 rfl, hi⟩)))
  case badWrite =>
    intro hi
    exact completes_of_eq rfl (if_neg (by simp [hi])) (refuseDom_spec c d)

end Sys2Proof.Machine

/-!
PROOF. Plain writes of register words, runs of words, and the snapshot of all domains (R39, R50).
-/
namespace Sys2Proof.Machine

/-! ### What a plain write makes of a word, bit by bit -/

/-- Numbers without a common bit add without a carry. -/
theorem add_eq_or_of_and_eq_zero {x y : Nat} (h : x &&& y = 0) : x + y = x ||| y := by
  have hlt : x + y < 2 ^ (x + y) := Nat.lt_two_pow_self
  have hx : x % 2 ^ (x + y) = x := Nat.mod_eq_of_lt (by omega)
  have hy : y % 2 ^ (x + y) = y := Nat.mod_eq_of_lt (by omega)
  have e := congrArg BitVec.toNat (BitVec.add_eq_or_of_and_eq_zero (BitVec.ofNat (x + y) x) (BitVec.ofNat (x + y) y)
    (by apply BitVec.eq_of_toNat_eq; simp [hx, hy, h]))
  simpa [hx, hy, Nat.mod_eq_of_lt hlt] using e

/-- Common bits taken away. -/
theorem testBit_sub_and (x y j : Nat) : (x - (x &&& y)).testBit j = (x.testBit j && !y.testBit j) := by
  have split : (x &&& y) + (x ^^^ (x &&& y)) = x := by
    rw [add_eq_or_of_and_eq_zero]
    all_goals
      apply Nat.eq_of_testBit_eq
      intro i
      simp only [Nat.testBit_and, Nat.testBit_or, Nat.testBit_xor, Nat.zero_testBit]
      cases x.testBit i <;> cases y.testBit i <;> rfl
  rw [show x - (x &&& y) = x ^^^ (x &&& y) by omega, Nat.testBit_xor, Nat.testBit_and]
  cases x.testBit j <;> cases y.testBit j <;> rfl

/-- A writable bit takes the value written, a W1C bit clears where a 1 is written, every other bit stays (Table 0-4). -/
theorem testBit_writtenWord (m : RegWord) (old v j : Nat) :
    (writtenWord m old v).testBit j =
      ((if m.rw.testBit j then v.testBit j else old.testBit j) && !(m.w1c.testBit j && v.testBit j)) := by
  have kept : (old - (old &&& m.rw)) &&& (v &&& m.rw) = 0 := by
    apply Nat.eq_of_testBit_eq
    intro i
    simp only [Nat.testBit_and, testBit_sub_and, Nat.zero_testBit]
    cases m.rw.testBit i <;> simp
  unfold writtenWord
  dsimp only
  rw [Nat.and_assoc, testBit_sub_and, Nat.testBit_and, add_eq_or_of_and_eq_zero kept, Nat.testBit_or, testBit_sub_and, Nat.testBit_and]
  cases m.rw.testBit j <;> simp

/-- The bits of a field are writable. -/
def Fld.writable (f : Fld) : Prop :=
  ∀ j, f.lo ≤ j → j ≤ f.hi → (regWord f.addr).rw.testBit j = true ∧ (regWord f.addr).w1c.testBit j = false

/-- A writable field takes what a plain write of its word brings. -/
theorem fld_plainWrite (c : Chip) (f : Fld) (v : Nat) (hf : f.ok = true) (hw : f.writable) :
    (c.plainWrite f.addr v).fld f = bits v f.hi f.lo := by
  simp only [Fld.ok, Bool.and_eq_true, decide_eq_true_eq] at hf
  unfold Chip.fld Chip.plainWrite
  rw [reg_setReg_same]
  apply Nat.eq_of_testBit_eq
  intro j
  rw [testBit_bits, testBit_bits]
  by_cases hj : j < f.hi + 1 - f.lo
  · obtain ⟨hrw, hw1c⟩ := hw (f.lo + j) (by omega) (by omega)
    rw [Nat.testBit_mod_two_pow, testBit_writtenWord, hrw, hw1c]
    simp [show f.lo + j < 32 by omega]
  · simp [hj]

/-! ### Runs of words -/

theorem setWords_doms (l : List Nat) : ∀ (c : Chip) (a : Nat), (c.setWords a l).doms = c.doms := by
  induction l with
  | nil => intro c a; rfl
  | cons w l ih => intro c a; exact ih _ _

theorem reg_setWords_ne (l : List Nat) : ∀ (c : Chip) (a b : Nat), (∀ i < l.length, b ≠ a + 4 * i) → (c.setWords a l).reg b = c.reg b := by
  induction l with
  | nil => intro c a b _; rfl
  | cons w l ih =>
    intro c a b h
    have hb : b ≠ a := by simpa using h 0 (by simp)
    refine (ih (c.setReg a w) (a + 4) b fun i hi => ?_).trans (reg_setReg_ne c w hb)
    have := h (i + 1) (by simpa using hi)
    omega

theorem reg_setWords (l : List Nat) : ∀ (c : Chip) (a i : Nat) (hi : i < l.length), (c.setWords a l).reg (a + 4 * i) = l[i] % 2 ^ 32 := by
  induction l with
  | nil => intro c a i hi; exact absurd hi (Nat.not_lt_zero i)
  | cons w l ih =>
    intro c a i hi
    cases i with
    | zero => exact (reg_setWords_ne l _ _ _ fun i _ => by omega).trans (reg_setReg_same c a w)
    | succ i =>
      rw [show a + 4 * (i + 1) = a + 4 + 4 * i by omega]
      exact ih (c.setReg a w) (a + 4) i (by simpa using hi)

/-- A run of words just written. -/
theorem regWords_setWords (c : Chip) (a : Nat) (l : List Nat) : (c.setWords a l).regWords a l.length = l.map (· % 2 ^ 32) := by
  apply List.ext_getElem
  · simp [Chip.regWords]
  · intro i _ hi
    have hi' : i < l.length := by simpa using hi
    simp [Chip.regWords, reg_setWords l c a i hi']

theorem regWords_congr {c t : Chip} {a n : Nat} (h : ∀ i < n, t.reg (a + 4 * i) = c.reg (a + 4 * i)) : t.regWords a n = c.regWords a n :=
  List.map_congr_left fun i hi => h i (List.mem_range.mp hi)

/-! ### The snapshot -/

/-- The present values of the domains of a list copied into their SNAPV. -/
def Chip.snapDoms (c : Chip) (l : List Nat) : Chip := c.forEach l fun d c => c.setWords (SDL_SNAPV d) (wordsOfAcc d (c.dom d).acc)

theorem wordsOfAcc_length (d acc : Nat) : (wordsOfAcc d acc).length = 4 := by
  unfold wordsOfAcc
  dsimp only
  split <;> rfl

/-- The words of SNAPV of two domains are apart. -/
theorem snapv_apart {d e i j : Nat} (h : d ≠ e) (hi : i < 4) (hj : j < 4) : SDL_SNAPV d + 4 * i ≠ SDL_SNAPV e + 4 * j := by
  unfold SDL_SNAPV
  omega

theorem snapDoms_doms (l : List Nat) : ∀ c : Chip, (c.snapDoms l).doms = c.doms := by
  induction l with
  | nil => intro c; rfl
  | cons e l ih => intro c; exact (ih _).trans (setWords_doms _ c _)

theorem reg_snapDoms_ne (l : List Nat) : ∀ (c : Chip) {a : Nat}, (∀ e ∈ l, ∀ i < 4, a ≠ SDL_SNAPV e + 4 * i) →
    (c.snapDoms l).reg a = c.reg a := by
  induction l with
  | nil => intro c a _; rfl
  | cons e l ih =>
    intro c a h
    refine (ih _ fun e' he => h e' (List.mem_cons_of_mem e he)).trans (reg_setWords_ne _ c _ a ?_)
    rw [wordsOfAcc_length]
    exact h e (List.mem_cons_self ..)

theorem regWords_snapDoms (l : List Nat) : ∀ (c : Chip) {d : Nat}, d ∈ l →
    (c.snapDoms l).regWords (SDL_SNAPV d) 4 = (wordsOfAcc d (c.dom d).acc).map (· % 2 ^ 32) := by
  induction l with
  | nil => intro c d h; exact absurd h List.not_mem_nil
  | cons e l ih =>
    intro c d h
    by_cases hl : d ∈ l
    · have same : (c.setWords (SDL_SNAPV e) (wordsOfAcc e (c.dom e).acc)).dom d = c.dom d := by
        unfold Chip.dom
        rw [setWords_doms]
      exact (ih _ hl).trans (by rw [same])
    · obtain rfl : d = e := (List.mem_cons.mp h).resolve_right hl
      have kept := regWords_congr (n := 4) fun i hi => reg_snapDoms_ne l (c.setWords (SDL_SNAPV d) (wordsOfAcc d (c.dom d).acc))
        (a := SDL_SNAPV d + 4 * i) fun e he j hj => snapv_apart (fun h => hl (h ▸ he)) hi hj
      refine Eq.trans kept ?_
      rw [← wordsOfAcc_length d (c.dom d).acc]
      exact regWords_setWords c _ _

/-! ### A write of SCTL -/

/-- SCTL written, and the slot grid moved to a new base of the arm. -/
def Chip.sctlPlain (c : Chip) (v : Nat) : Chip :=
  (c.plainWrite SDL_SCTL v).when (c.fld SDL_SCTL_ARM_BASE != (c.plainWrite SDL_SCTL v).fld SDL_SCTL_ARM_BASE) (·.regrid)

theorem sctlPlain_doms (c : Chip) (v : Nat) : (c.sctlPlain v).doms = c.doms := by unfold Chip.sctlPlain Chip.when; split <;> rfl
theorem reg_sctlPlain (c : Chip) (v a : Nat) : (c.sctlPlain v).reg a = (c.plainWrite SDL_SCTL v).reg a := by
  unfold Chip.sctlPlain Chip.when; split <;> rfl

theorem syncPer_writable : SDL_SCTL_SYNC_PER.writable := by
  have word : regWord SDL_SCTL = ⟨0x3FFF0030, 0, 0, 0x640000⟩ := rfl
  intro j hlo hhi
  simp only [SDL_SCTL_SYNC_PER] at hlo hhi
  rw [show SDL_SCTL_SYNC_PER.addr = SDL_SCTL from rfl, word]
  interval_cases j <;> decide

/-- A SYNC_PER out of range is refused, and the write with it (R50). -/
theorem sctlWrite_refused {c : Chip} {v : Nat} (h : bits v 29 16 < 10 ∨ 10000 < bits v 29 16) :
    c.sctlWrite v = c.raiseFlag SDL_SSTAT_REFUSED :=
  if_pos (by simpa using h)

/-- The snapshot taken by a write of SCTL with SNAP. -/
def Chip.snapped (c : Chip) (v : Nat) : Chip := (c.sctlPlain v).snapDoms (List.range 6)

theorem sctlWrite_snap {c : Chip} {v : Nat} (hlo : 10 ≤ bits v 29 16) (hhi : bits v 29 16 ≤ 10000) (h0 : bit v 0 = true) :
    c.sctlWrite v = (c.snapped v).setFld SDL_SSTAT_SNAP_CNT ((c.snapped v).fld SDL_SSTAT_SNAP_CNT + 1) := by
  have ok : ¬ (decide (bits v 29 16 < 10) || decide (10000 < bits v 29 16)) = true := by simp; omega
  unfold Chip.sctlWrite
  rw [if_neg ok, h0]
  rfl

theorem snapped_doms (c : Chip) (v : Nat) : (c.snapped v).doms = c.doms := (snapDoms_doms _ _).trans (sctlPlain_doms c v)

/-- The words of SNAPV of all six domains. -/
def snapvWords : List Nat := (List.range 6).flatMap fun e => (List.range 4).map fun i => SDL_SNAPV e + 4 * i

theorem mem_snapvWords {a : Nat} : a ∈ snapvWords ↔ ∃ e < 6, ∃ i < 4, SDL_SNAPV e + 4 * i = a := by simp [snapvWords]

theorem reg_snapped (c : Chip) (v : Nat) {a : Nat} (h : a ∉ snapvWords) : (c.snapped v).reg a = (c.plainWrite SDL_SCTL v).reg a := by
  refine (reg_snapDoms_ne _ _ fun e he i hi heq => ?_).trans (reg_sctlPlain c v a)
  exact h (mem_snapvWords.2 ⟨e, List.mem_range.mp he, i, hi, heq.symm⟩)

theorem regWords_snapped (c : Chip) (v : Nat) (d : Fin 6) :
    (c.snapped v).regWords (SDL_SNAPV d) 4 = (wordsOfAcc d (c.dom d).acc).map (· % 2 ^ 32) := by
  have same : (c.sctlPlain v).dom d = c.dom d := by
    unfold Chip.dom
    rw [sctlPlain_doms]
  refine (regWords_snapDoms (List.range 6) (c.sctlPlain v) (List.mem_range.mpr d.isLt)).trans ?_
  rw [same]

theorem not_mem_snapvWords {a : Nat} (h : a < 0x100100) : a ∉ snapvWords := by
  rw [mem_snapvWords]
  rintro ⟨e, -, i, -, rfl⟩
  unfold SDL_SNAPV at h
  omega

/-- SNAP copies the present values of all domains and counts; SYNC_PER takes what is written (R39, R50). -/
theorem sctlWrite_snap_spec {c : Chip} {v : Nat} (hlo : 10 ≤ bits v 29 16) (hhi : bits v 29 16 ≤ 10000) (h0 : bit v 0 = true) (d : Fin 6) :
    (c.sctlWrite v).regWords (SDL_SNAPV d) 4 = (wordsOfAcc d (c.dom d).acc).map (· % 2 ^ 32)
      ∧ (c.sctlWrite v).fld SDL_SSTAT_SNAP_CNT = (c.fld SDL_SSTAT_SNAP_CNT + 1) % 256
      ∧ (c.sctlWrite v).fld SDL_SCTL_SYNC_PER = bits v 29 16 ∧ (c.sctlWrite v).doms = c.doms
      ∧ c.regsBut (c.sctlWrite v) ([SDL_SCTL, SDL_SSTAT] ++ snapvWords) := by
  have count : (c.snapped v).fld SDL_SSTAT_SNAP_CNT = c.fld SDL_SSTAT_SNAP_CNT := by
    unfold Chip.fld
    rw [reg_snapped c v (not_mem_snapvWords (by decide))]
    exact congrArg (bits · 15 8) (reg_setReg_ne c _ (by decide))
  have period : (c.snapped v).fld SDL_SCTL_SYNC_PER = bits v 29 16 := by
    have written : (c.plainWrite SDL_SCTL v).fld SDL_SCTL_SYNC_PER = bits v 29 16 :=
      fld_plainWrite c SDL_SCTL_SYNC_PER v rfl syncPer_writable
    rw [← written]
    unfold Chip.fld
    rw [reg_snapped c v (not_mem_snapvWords (by decide))]
  rw [sctlWrite_snap hlo hhi h0]
  refine ⟨?_, ?_, ?_, snapped_doms c v, fun a ha => ?_⟩
  · rw [← regWords_snapped c v d]
    exact regWords_congr fun i _ => reg_setFld_ne _ _ _ (by simp only [SDL_SNAPV, SDL_SSTAT_SNAP_CNT, SDL_SSTAT]; omega)
  · rw [fld_setFld_same _ _ _ rfl, count]
    rfl
  · rw [fld_setFld_addr _ _ _ _ (by decide), period]
  · simp only [List.mem_append, List.mem_cons, List.not_mem_nil, or_false, not_or] at ha
    obtain ⟨⟨sctl, sstat⟩, snapv⟩ := ha
    rw [reg_setFld_ne _ _ _ sstat, reg_snapped c v snapv]
    exact reg_setReg_ne c _ sctl

/-- A fall of the PLL's lock (R50): TICK_LOCK clears, TICK_LOST is set and raised. -/
theorem pllLockLoss_spec (c : Chip) :
    ((c.clrFlag SDL_SSTAT_TICK_LOCK).raiseHub srcTickLost).flag SDL_SSTAT_TICK_LOCK = false
      ∧ ((c.clrFlag SDL_SSTAT_TICK_LOCK).raiseHub srcTickLost).flag SDL_SSTAT_TICK_LOST = true
      ∧ ((c.clrFlag SDL_SSTAT_TICK_LOCK).raiseHub srcTickLost).doms = c.doms := by
  have fault : ((c.clrFlag SDL_SSTAT_TICK_LOCK).raiseFlag SDL_SSTAT_TICK_LOST).faultOnly
      ((c.clrFlag SDL_SSTAT_TICK_LOCK).raiseHub srcTickLost) := faultOnly_raiseHub _ srcTickLost 0
  refine ⟨?_, ?_, by rw [faultOnly_doms fault, raiseFlag_doms, clrFlag_doms]⟩
  · rw [faultOnly_flag fault (by decide), flag_raise_apart _ _ _ rfl rfl, flag_clr_same _ _ rfl]
  · rw [faultOnly_flag fault (by decide), flag_raise_same _ _ rfl]

end Sys2Proof.Machine

/-!
PROOF. The pulse outputs of Sundial: arming, start, end and disarming (R40 to R45).
-/
namespace Sys2Proof.Machine

/-! ### The next instant -/

/-- Of a repeating output whose instant has come, the next instant is the first above the present value, where none of the instants up to
it wraps (R43). -/
theorem nextInstant_reached {d start per v : Nat} (h : start ≤ v) (hp : 0 < per) (room : v + per < domMod d) :
    v < (nextInstant d start per v).1 ∧ (nextInstant d start per v).1 ≤ v + per
      ∧ ((nextInstant d start per v).1 - start) % per = 0 ∧ (nextInstant d start per v).2 = (v - start) / per := by
  have whole : (v - start) / per * per + (v - start) % per = v - start := Nat.div_add_mod' _ _
  have rest : (v - start) % per < per := Nat.mod_lt _ hp
  have next : ((v - start) / per + 1) * per = (v - start) / per * per + per := Nat.succ_mul _ _
  have inside : (start + ((v - start) / per + 1) * per) % domMod d = start + ((v - start) / per + 1) * per := Nat.mod_eq_of_lt (by omega)
  unfold nextInstant
  rw [if_neg (by omega)]
  dsimp only
  rw [inside]
  refine ⟨by omega, by omega, ?_, rfl⟩
  rw [Nat.add_sub_cancel_left, Nat.mul_mod_left]

theorem nextInstant_ahead {d start per v : Nat} (h : v < start) : nextInstant d start per v = (start, 0) := if_pos h

/-! ### ARM and DISARM -/

/-- What refuses an ARM (R41). -/
theorem armRefused_iff (c : Chip) (n : Nat) : c.armRefused n = true ↔
    c.fld (SDL_PCTL_MODE n) = 0 ∨ c.fld (SDL_PCTL_MODE n) = 3 ∨ 5 < c.fld (SDL_PCTL_DOM n) ∨ c.fld (SDL_PWID_WIDTH n) = 0
      ∨ 1000000 < c.fld (SDL_PWID_WIDTH n) ∨ (c.fld (SDL_PCTL_DOM n) = 0 ∧ 10 ^ 9 ≤ c.reg (SDL_PSTART n + 4))
      ∨ (c.fld (SDL_PCTL_MODE n) = 2 ∧ c.fld (SDL_PCTL_DOM n) < 2 ∧ c.reg64 (SDL_PPER n) = 0) := by
  simp [Chip.armRefused, or_assoc, and_assoc]

section
variable {c : Chip} {n v : Nat}

theorem pcmdWrite_refused (h0 : bit v 0 = true) (h : c.armRefused n = true) :
    c.pcmdWrite n v = c.raiseHub (srcIncRefused (SDL_PSTAT_REFUSED n)) := by
  simp [Chip.pcmdWrite, h0, h]

theorem pcmdWrite_arm (h0 : bit v 0 = true) (h1 : bit v 1 = false) (h : c.armRefused n = false) : c.pcmdWrite n v = c.armPulse n := by
  simp [Chip.pcmdWrite, h0, h1, h]

theorem pcmdWrite_disarm (h0 : bit v 0 = false) (h1 : bit v 1 = true) : c.pcmdWrite n v = c.disarmPulse n := by
  simp [Chip.pcmdWrite, h0, h1]

end

/-- A refused ARM sets REFUSED, and leaves the outputs and ARMED as they were (R41). -/
theorem refuseArm_spec (c : Chip) (n : Fin 4) :
    (c.raiseHub (srcIncRefused (SDL_PSTAT_REFUSED n))).flag (SDL_PSTAT_REFUSED n) = true
      ∧ (c.raiseHub (srcIncRefused (SDL_PSTAT_REFUSED n))).flag (SDL_PSTAT_ARMED n) = c.flag (SDL_PSTAT_ARMED n)
      ∧ (c.raiseHub (srcIncRefused (SDL_PSTAT_REFUSED n))).pulses = c.pulses := by
  have fault : (c.raiseFlag (SDL_PSTAT_REFUSED n)).faultOnly (c.raiseHub (srcIncRefused (SDL_PSTAT_REFUSED n))) :=
    faultOnly_raiseHub c (srcIncRefused (SDL_PSTAT_REFUSED n)) 0
  have pstat : SDL_PSTAT n < ORG_OCTL := by unfold SDL_PSTAT ORG_OCTL; omega
  refine ⟨?_, ?_, by rw [faultOnly_pulses fault, raiseFlag_pulses]⟩
  · rw [faultOnly_flag fault pstat, flag_raise_same _ _ rfl]
  · rw [faultOnly_flag fault pstat, flag_raise_apart _ _ _ rfl rfl]

/-- The period of an output in the unit of an accumulator: PPER, or a full turn where it is 0 (R41). -/
def Chip.armPeriod (c : Chip) (n : Nat) : Nat := (if c.reg64 (SDL_PPER n) = 0 then 2 ^ 32 else c.reg64 (SDL_PPER n)) * 2 ^ 40

theorem armPeriod_pos (c : Chip) (n : Nat) : 0 < c.armPeriod n := by
  unfold Chip.armPeriod
  split <;> omega

/-- The value of PSTART of an output, in the unit of its domain's accumulator. -/
def Chip.armStart (c : Chip) (n : Nat) : Nat := c.accAt (c.fld (SDL_PCTL_DOM n)) (SDL_PSTART n)

/-- The record of an output just armed: its operands captured, its first instant, no DISARM waiting (R41, R42). -/
def Chip.armedPulse (c : Chip) (n : Nat) : Pulse :=
  { c.pulse n with
    pol := c.flag (SDL_PCTL_POL n), mode := c.fld (SDL_PCTL_MODE n), dom := c.fld (SDL_PCTL_DOM n), wid := c.fld (SDL_PWID_WIDTH n)
    per := c.armPeriod n
    next := if c.fld (SDL_PCTL_MODE n) = 2
      then (nextInstant (c.fld (SDL_PCTL_DOM n)) (c.armStart n) (c.armPeriod n) (c.dom (c.fld (SDL_PCTL_DOM n))).acc).1
      else c.armStart n
    disarm := false }

theorem pctl_ne_pstat (n : Nat) : SDL_PCTL n ≠ SDL_PSTAT n := by unfold SDL_PCTL SDL_PSTAT; omega
theorem pwid_ne_pstat (n : Nat) : SDL_PWID n ≠ SDL_PSTAT n := by unfold SDL_PWID SDL_PSTAT; omega
theorem pmiss_ne_pstat (n : Nat) : SDL_PMISS n ≠ SDL_PSTAT n := by unfold SDL_PMISS SDL_PSTAT; omega

theorem armPulse_eq (c : Chip) (n : Nat) :
    c.armPulse n = (((c.when (decide (c.armStart n ≤ (c.dom (c.fld (SDL_PCTL_DOM n))).acc)) (·.raiseFlag (SDL_PSTAT_LATE n))).setPulse n
      (c.armedPulse n)).raiseFlag (SDL_PSTAT_ARMED n)) := by
  have late := onlyRegs_when c (decide (c.armStart n ≤ (c.dom (c.fld (SDL_PCTL_DOM n))).acc)) (f := (·.raiseFlag (SDL_PSTAT_LATE n)))
    (onlyRegs_raise c (List.mem_singleton_self (SDL_PSTAT n)))
  have pol := flag_of_onlyRegs late (f := SDL_PCTL_POL n) (mt List.mem_singleton.mp (pctl_ne_pstat n))
  have wid := fld_of_onlyRegs late (f := SDL_PWID_WIDTH n) (mt List.mem_singleton.mp (pwid_ne_pstat n))
  have record := pulse_of_onlyRegs late n
  unfold Chip.armPulse Chip.armedPulse
  rw [← pol, ← wid, ← record]
  simp only [beq_iff_eq]
  rfl

/-- ARM captures the operands of an output and arms it; LATE tells that its instant is past (R41, R42). -/
theorem armPulse_spec (c : Chip) (n : Nat) :
    (c.armPulse n).flag (SDL_PSTAT_ARMED n) = true
      ∧ (c.armPulse n).flag (SDL_PSTAT_LATE n)
        = (decide (c.armStart n ≤ (c.dom (c.fld (SDL_PCTL_DOM n))).acc) || c.flag (SDL_PSTAT_LATE n))
      ∧ (c.armPulse n).pulse n = c.armedPulse n ∧ c.onlyPulse (c.armPulse n) n [SDL_PSTAT n] := by
  rw [armPulse_eq]
  refine ⟨flag_raise_same _ _ rfl, ?_, ?_, ?_⟩
  · rw [flag_raise_apart _ _ _ rfl rfl, flag_setPulse, flag_when_raise _ _ _ rfl]
  · rw [pulse_raiseFlag, pulse_setPulse_same]
  · exact onlyPulse_trans (onlyPulse_of_onlyRegs n (onlyRegs_when c _ (onlyRegs_raise c (List.mem_singleton_self _))))
      (onlyPulse_trans (onlyPulse_setPulse _ n _ _) (onlyPulse_of_onlyRegs n (onlyRegs_raise _ (List.mem_singleton_self _))))

/-- The first instant of an output of one pulse is PSTART. -/
theorem armedPulse_next_single {c : Chip} {n : Nat} (h : c.fld (SDL_PCTL_MODE n) ≠ 2) : (c.armedPulse n).next = c.armStart n := if_neg h

/-- The first instant of a repeating output is PSTART or, where that is past, the first instant above the present value (R42). -/
theorem armedPulse_next_repeating {c : Chip} {n : Nat} (h : c.fld (SDL_PCTL_MODE n) = 2)
    (room : (c.dom (c.fld (SDL_PCTL_DOM n))).acc + c.armPeriod n < domMod (c.fld (SDL_PCTL_DOM n))) :
    c.armStart n ≤ (c.armedPulse n).next
      ∧ (c.armStart n ≤ (c.dom (c.fld (SDL_PCTL_DOM n))).acc → (c.dom (c.fld (SDL_PCTL_DOM n))).acc < (c.armedPulse n).next) := by
  have next : (c.armedPulse n).next = _ := if_pos h
  rw [next]
  rcases Nat.lt_or_ge (c.dom (c.fld (SDL_PCTL_DOM n))).acc (c.armStart n) with ahead | past
  · rw [nextInstant_ahead ahead]
    exact ⟨le_rfl, fun past => absurd ahead (Nat.not_lt.mpr past)⟩
  · obtain ⟨above, -, -, -⟩ := nextInstant_reached past (armPeriod_pos c n) room
    exact ⟨by omega, fun _ => above⟩

theorem disarmPulse_idle {c : Chip} {n : Nat} (h : c.flag (SDL_PSTAT_LEVEL n) = false) :
    c.disarmPulse n = c.clrFlag (SDL_PSTAT_ARMED n) := by
  simp [Chip.disarmPulse, h]

theorem disarmPulse_level {c : Chip} {n : Nat} (h : c.flag (SDL_PSTAT_LEVEL n) = true) :
    c.disarmPulse n = c.setPulse n { c.pulse n with disarm := true } := by
  simp [Chip.disarmPulse, h]

/-! ### The end of a pulse -/

/-- A pulse just ended but for a DISARM that waits: the level is gone, WCLIP tells that its width had not passed (R44). -/
def Chip.pulseCut (c : Chip) (n : Nat) : Chip :=
  (c.clrFlag (SDL_PSTAT_LEVEL n)).when (decide (c.tick < (c.pulse n).began + (c.pulse n).wid)) (·.raiseFlag (SDL_PSTAT_WCLIP n))

theorem onlyRegs_pulseCut (c : Chip) (n : Nat) : c.onlyRegs (c.pulseCut n) [SDL_PSTAT n] :=
  onlyRegs_trans (onlyRegs_clr c (List.mem_singleton_self _)) (onlyRegs_when _ _ (onlyRegs_raise _ (List.mem_singleton_self _)))

/-- The flags of PSTAT but WCLIP are not moved by the mark of a cut pulse. -/
theorem flag_when_wclip (c : Chip) (n : Nat) (b : Bool) {f : Fld} (h : f.apart (SDL_PSTAT_WCLIP n) = true) :
    (c.when b (·.raiseFlag (SDL_PSTAT_WCLIP n))).flag f = c.flag f := by
  cases b
  · rfl
  · exact flag_raise_apart c _ f rfl h

theorem pulseCut_spec (c : Chip) (n : Nat) :
    (c.pulseCut n).flag (SDL_PSTAT_LEVEL n) = false
      ∧ (c.pulseCut n).flag (SDL_PSTAT_WCLIP n)
        = (decide (c.tick < (c.pulse n).began + (c.pulse n).wid) || c.flag (SDL_PSTAT_WCLIP n))
      ∧ (c.pulseCut n).flag (SDL_PSTAT_ARMED n) = c.flag (SDL_PSTAT_ARMED n) := by
  unfold Chip.pulseCut
  refine ⟨?_, ?_, ?_⟩
  · rw [flag_when_wclip _ _ _ rfl, flag_clr_same _ _ rfl]
  · rw [flag_when_raise _ _ _ rfl, flag_clr_apart _ _ _ rfl rfl]
  · rw [flag_when_wclip _ _ _ rfl, flag_clr_apart _ _ _ rfl rfl]

theorem pulseEnd_plain {c : Chip} {n : Nat} (h : c.flag (SDL_PSTAT_LEVEL n) = true) (hd : (c.pulse n).disarm = false) :
    c.pulseEnd n = c.pulseCut n := by
  simp only [Chip.pulseEnd, h, if_true, hd, when_false]
  rfl

theorem pulseEnd_disarm {c : Chip} {n : Nat} (h : c.flag (SDL_PSTAT_LEVEL n) = true) (hd : (c.pulse n).disarm = true) :
    c.pulseEnd n = ((c.pulseCut n).setPulse n { c.pulse n with disarm := false }).clrFlag (SDL_PSTAT_ARMED n) := by
  simp only [Chip.pulseEnd, h, if_true, hd, when_true]
  rfl

theorem pulseEnd_idle {c : Chip} {n : Nat} (h : c.flag (SDL_PSTAT_LEVEL n) = false) : c.pulseEnd n = c := by simp [Chip.pulseEnd, h]

/-- The level at the pin when no pulse is in progress. -/
theorem ppo_of_low {c : Chip} {n : Nat} (h : c.flag (SDL_PSTAT_LEVEL n) = false) : c.ppo n = (c.pulse n).pol := by simp [Chip.ppo, h]

/-- The level at the pin during a pulse. -/
theorem ppo_of_level {c : Chip} {n : Nat} (h : c.flag (SDL_PSTAT_LEVEL n) = true) : c.ppo n = !(c.pulse n).pol := by simp [Chip.ppo, h]

/-- The end of a pulse in progress: the level goes, WCLIP tells of a pulse cut short, a DISARM that waited takes effect (R44, R45). -/
theorem pulseEnd_spec {c : Chip} {n : Nat} (h : c.flag (SDL_PSTAT_LEVEL n) = true) :
    (c.pulseEnd n).flag (SDL_PSTAT_LEVEL n) = false ∧ (c.pulseEnd n).ppo n = (c.pulse n).pol
      ∧ (c.pulseEnd n).flag (SDL_PSTAT_WCLIP n)
        = (decide (c.tick < (c.pulse n).began + (c.pulse n).wid) || c.flag (SDL_PSTAT_WCLIP n))
      ∧ (c.pulseEnd n).flag (SDL_PSTAT_ARMED n) = (!(c.pulse n).disarm && c.flag (SDL_PSTAT_ARMED n))
      ∧ c.onlyPulse (c.pulseEnd n) n [SDL_PSTAT n] := by
  obtain ⟨low, clip, armed⟩ := pulseCut_spec c n
  have regs := onlyRegs_pulseCut c n
  cases hd : (c.pulse n).disarm
  · rw [pulseEnd_plain h hd]
    exact ⟨low, by rw [ppo_of_low low, pulse_of_onlyRegs regs], clip, armed, onlyPulse_of_onlyRegs n regs⟩
  · rw [pulseEnd_disarm h hd]
    have down : (((c.pulseCut n).setPulse n { c.pulse n with disarm := false }).clrFlag (SDL_PSTAT_ARMED n)).flag (SDL_PSTAT_LEVEL n)
        = false := by rw [flag_clr_apart _ _ _ rfl rfl, flag_setPulse, low]
    refine ⟨down, ?_, ?_, flag_clr_same _ _ rfl, ?_⟩
    · rw [ppo_of_low down, pulse_clrFlag, pulse_setPulse_same]
    · rw [flag_clr_apart _ _ _ rfl rfl, flag_setPulse, clip]
    · exact onlyPulse_trans (onlyPulse_of_onlyRegs n regs)
        (onlyPulse_trans (onlyPulse_setPulse _ n _ _) (onlyPulse_of_onlyRegs n (onlyRegs_clr _ (List.mem_singleton_self _))))

/-- A pulse ends at this tick when its width has passed or the next tick reaches the next instant, but not in its first tick (R44). -/
theorem pulseOver_iff (c : Chip) (n : Nat) : c.pulseOver n = true ↔
    (c.flag (SDL_PSTAT_LEVEL n) = true ∧ (c.pulse n).began < c.tick)
      ∧ ((c.pulse n).began + (c.pulse n).wid ≤ c.tick
        ∨ c.flag (SDL_PSTAT_ARMED n) = true ∧ c.flag (SDL_DCTL_RUN (c.pulse n).dom) = true
          ∧ (c.pulse n).next ≤ c.nextAcc (c.pulse n).dom) := by
  simp [Chip.pulseOver, and_assoc]

/-! ### The start of a pulse -/

/-- The conditions of a start: armed with no DISARM waiting, the domain running and at or past the next instant (R40, R45). -/
def Chip.pulseStarts (c : Chip) (n : Nat) : Prop :=
  c.flag (SDL_PSTAT_ARMED n) = true ∧ c.flag (SDL_DCTL_RUN (c.pulse n).dom) = true ∧ (c.pulse n).next ≤ (c.dom (c.pulse n).dom).acc
    ∧ (c.pulse n).disarm = false

/-- The flags of an output whose pulse begins, one still in progress ended first. -/
def Chip.pulseBegun (c : Chip) (n : Nat) : Chip := ((c.pulseEnd n).raiseFlag (SDL_PSTAT_LEVEL n)).raiseFlag (SDL_PSTAT_FIRED n)

theorem pulseBegun_spec {c : Chip} {n : Nat} (hd : (c.pulse n).disarm = false) :
    (c.pulseBegun n).flag (SDL_PSTAT_LEVEL n) = true ∧ (c.pulseBegun n).flag (SDL_PSTAT_FIRED n) = true
      ∧ (c.pulseBegun n).flag (SDL_PSTAT_ARMED n) = c.flag (SDL_PSTAT_ARMED n) ∧ c.onlyRegs (c.pulseBegun n) [SDL_PSTAT n] := by
  have ended : (c.pulseEnd n).flag (SDL_PSTAT_ARMED n) = c.flag (SDL_PSTAT_ARMED n) ∧ c.onlyRegs (c.pulseEnd n) [SDL_PSTAT n] := by
    cases h : c.flag (SDL_PSTAT_LEVEL n)
    · rw [pulseEnd_idle h]
      exact ⟨rfl, onlyRegs_refl c _⟩
    · rw [pulseEnd_plain h hd]
      obtain ⟨-, -, armed⟩ := pulseCut_spec c n
      exact ⟨armed, onlyRegs_pulseCut c n⟩
  obtain ⟨armed, regs⟩ := ended
  unfold Chip.pulseBegun
  refine ⟨?_, flag_raise_same _ _ rfl, ?_, ?_⟩
  · rw [flag_raise_apart _ _ _ rfl rfl, flag_raise_same _ _ rfl]
  · rw [flag_raise_apart _ _ _ rfl rfl, flag_raise_apart _ _ _ rfl rfl, armed]
  · exact onlyRegs_trans regs (onlyRegs_trans (onlyRegs_raise _ (List.mem_singleton_self _)) (onlyRegs_raise _ (List.mem_singleton_self _)))

theorem pulseStart_idle {c : Chip} {n : Nat} (h : ¬ c.pulseStarts n) : c.pulseStart n = c :=
  if_neg (by simpa [Chip.pulseStarts, and_assoc] using h)

theorem pulseStart_of_starts {c : Chip} {n : Nat} (h : c.pulseStarts n) :
    c.pulseStart n =
      if (c.pulse n).mode = 2 then
        ((c.pulseBegun n).setPulse n { c.pulse n with
          began := c.tick
          next := (nextInstant (c.pulse n).dom (c.pulse n).next (c.pulse n).per (c.dom (c.pulse n).dom).acc).1 }).bumpBy (SDL_PMISS n)
            (nextInstant (c.pulse n).dom (c.pulse n).next (c.pulse n).per (c.dom (c.pulse n).dom).acc).2
      else ((c.pulseBegun n).setPulse n { c.pulse n with began := c.tick }).clrFlag (SDL_PSTAT_ARMED n) := by
  have hc : (c.flag (SDL_PSTAT_ARMED n) && c.flag (SDL_DCTL_RUN (c.pulse n).dom)
      && decide ((c.pulse n).next ≤ (c.dom (c.pulse n).dom).acc) && !(c.pulse n).disarm) = true := by
    simpa [Chip.pulseStarts, and_assoc] using h
  obtain ⟨-, -, -, hd⟩ := h
  obtain ⟨-, -, -, regs⟩ := pulseBegun_spec hd
  rw [← tick_of_onlyRegs regs]
  unfold Chip.pulseStart
  dsimp only
  rw [if_pos hc]
  simp only [beq_iff_eq]
  rfl

/-- The pulse of an output of one pulse begins, and the output is armed no longer (R40, log entry 91). -/
theorem pulseStart_single {c : Chip} {n : Nat} (h : c.pulseStarts n) (hm : (c.pulse n).mode ≠ 2) :
    (c.pulseStart n).flag (SDL_PSTAT_LEVEL n) = true ∧ (c.pulseStart n).flag (SDL_PSTAT_FIRED n) = true
      ∧ (c.pulseStart n).flag (SDL_PSTAT_ARMED n) = false ∧ (c.pulseStart n).ppo n = !(c.pulse n).pol
      ∧ (c.pulseStart n).pulse n = { c.pulse n with began := c.tick } ∧ c.onlyPulse (c.pulseStart n) n [SDL_PSTAT n] := by
  rw [pulseStart_of_starts h, if_neg hm]
  obtain ⟨-, -, -, hd⟩ := h
  obtain ⟨level, fired, -, regs⟩ := pulseBegun_spec hd
  have up : (((c.pulseBegun n).setPulse n { c.pulse n with began := c.tick }).clrFlag (SDL_PSTAT_ARMED n)).flag
      (SDL_PSTAT_LEVEL n) = true := by
    rw [flag_clr_apart _ _ _ rfl rfl, flag_setPulse, level]
  refine ⟨up, ?_, flag_clr_same _ _ rfl, ?_, ?_, ?_⟩
  · rw [flag_clr_apart _ _ _ rfl rfl, flag_setPulse, fired]
  · rw [ppo_of_level up, pulse_clrFlag, pulse_setPulse_same]
  · rw [pulse_clrFlag, pulse_setPulse_same]
  · exact onlyPulse_trans (onlyPulse_of_onlyRegs n regs)
      (onlyPulse_trans (onlyPulse_setPulse _ n _ _) (onlyPulse_of_onlyRegs n (onlyRegs_clr _ (List.mem_singleton_self _))))

/-- A pulse of a repeating output begins: its next instant is the first above the present value, the instants skipped count in PMISS
(R40, R43). -/
theorem pulseStart_repeating {c : Chip} {n : Nat} (h : c.pulseStarts n) (hm : (c.pulse n).mode = 2) (hp : 0 < (c.pulse n).per)
    (room : (c.dom (c.pulse n).dom).acc + (c.pulse n).per < domMod (c.pulse n).dom) :
    (c.pulseStart n).flag (SDL_PSTAT_LEVEL n) = true ∧ (c.pulseStart n).flag (SDL_PSTAT_FIRED n) = true
      ∧ (c.pulseStart n).flag (SDL_PSTAT_ARMED n) = true
      ∧ (c.dom (c.pulse n).dom).acc < ((c.pulseStart n).pulse n).next
      ∧ ((c.pulseStart n).pulse n).next ≤ (c.dom (c.pulse n).dom).acc + (c.pulse n).per
      ∧ (((c.pulseStart n).pulse n).next - (c.pulse n).next) % (c.pulse n).per = 0
      ∧ (c.pulseStart n).reg (SDL_PMISS n)
        = Nat.min (c.reg (SDL_PMISS n) + ((c.dom (c.pulse n).dom).acc - (c.pulse n).next) / (c.pulse n).per) 0xFFFFFFFF
      ∧ c.onlyPulse (c.pulseStart n) n [SDL_PSTAT n, SDL_PMISS n] := by
  rw [pulseStart_of_starts h, if_pos hm]
  obtain ⟨harmed, -, reached, hd⟩ := h
  obtain ⟨level, fired, armed, regs⟩ := pulseBegun_spec hd
  obtain ⟨above, within, multiple, skipped⟩ := nextInstant_reached reached hp room
  have counted (e : Chip) (x : Pulse) (k : Nat) (f : Fld) (hf : f.addr = SDL_PSTAT n) :
      ((e.setPulse n x).bumpBy (SDL_PMISS n) k).flag f = e.flag f :=
    flag_setReg_ne _ _ (hf ▸ (pmiss_ne_pstat n).symm)
  have next (e : Chip) (x : Pulse) (k : Nat) : ((e.setPulse n x).bumpBy (SDL_PMISS n) k).pulse n = x := pulse_setPulse_same e n x
  rw [counted _ _ _ _ rfl, counted _ _ _ _ rfl, counted _ _ _ _ rfl, next]
  refine ⟨level, fired, armed.trans harmed, above, within, multiple, ?_, ?_⟩
  · have kept : (c.pulseBegun n).reg (SDL_PMISS n) = c.reg (SDL_PMISS n) := regs.2 _ (mt List.mem_singleton.mp (pmiss_ne_pstat n))
    have bound (k : Nat) : Nat.min (c.reg (SDL_PMISS n) + k) 0xFFFFFFFF < 2 ^ 32 :=
      Nat.lt_of_le_of_lt (Nat.min_le_right _ _) (by decide)
    unfold Chip.bumpBy
    rw [reg_setReg_same, reg_setPulse, kept, skipped, Nat.mod_eq_of_lt (bound _)]
  · have wider : c.onlyRegs (c.pulseBegun n) [SDL_PSTAT n, SDL_PMISS n] := ⟨regs.1, fun a ha => regs.2 a fun h => ha (by simp_all)⟩
    exact onlyPulse_trans (onlyPulse_of_onlyRegs n wider)
      (onlyPulse_trans (onlyPulse_setPulse _ n _ _) (onlyPulse_of_onlyRegs n (onlyRegs_setReg _ _ (by simp))))

/-! ### The statement -/

/-- Settles O31: SCTL by the words a snapshot writes, the lock by what a raised hub fault leaves alone, each pulse command by its
equation. -/
theorem snapAndPulses : Obligations.SnapAndPulses := by
  unfold Obligations.SnapAndPulses
  refine ⟨fun w d s => ?sctl, fun n w s => ?outputs⟩
  case sctl =>
    intro c
    have period : bits (w.toNat ||| 1) 29 16 = bits w.toNat 29 16 := bits_or (k := 0) rfl (by decide)
    refine ⟨fun hlo hhi => ?_, fun hbad => ?_, completes_of_eq rfl rfl (pllLockLoss_spec c)⟩
    · have spec := sctlWrite_snap_spec (c := c) (v := w.toNat ||| 1) (period.symm ▸ hlo) (period.symm ▸ hhi) (bit_or_own w.toNat 0 rfl) d
      rw [period] at spec
      exact completes_of_eq rfl rfl spec
    · exact completes_of_eq rfl (sctlWrite_refused (period.symm ▸ hbad))
        ⟨flag_raise_same c _ rfl, onlyRegs_raise c (List.mem_singleton_self _)⟩
  case outputs =>
    intro c m d p v bad starts v0 room level cuts ended
    have single : SDL_PSTAT n ∈ [SDL_PSTAT n] := List.mem_singleton_self _
    have own (k : Nat) {j : Nat} (h : bit w.toNat j = false) (hk : k ≠ j) : bit (w.toNat ||| 2 ^ k) j = false := by
      rw [bit_or _ k j rfl, h, decide_eq_false hk]
      rfl
    refine ⟨?badArm, ?arm, ?disarm, ?disarmLater, ?startSingle, ?startRepeating, ?startIdle, ?endWidth, ?endCut, ?endIdle⟩
    case badArm =>
      intro hb
      exact completes_of_eq rfl (pcmdWrite_refused (bit_or_own _ 0 rfl) ((armRefused_iff c n).2 hb)) (refuseArm_spec c n)
    case arm =>
      intro h1 hb
      have ok : c.armRefused n = false := Bool.eq_false_iff.2 fun h => hb ((armRefused_iff c n).1 h)
      obtain ⟨armed, late, record, only⟩ := armPulse_spec c n
      refine completes_of_eq rfl (pcmdWrite_arm (bit_or_own _ 0 rfl) (own 0 h1 (by decide)) ok) ⟨armed, late, ?_⟩
      rw [record]
      refine ⟨rfl, rfl, rfl, rfl, rfl, fun hm => ?_, fun hm hr => ?_, fun hm hr => ?_, only⟩
      · exact armedPulse_next_single (by rw [show c.fld (SDL_PCTL_MODE n) = 1 from hm]; decide)
      · exact (armedPulse_next_repeating hm hr).1
      · exact (armedPulse_next_repeating hm hr).2
    case disarm =>
      intro h0 hl
      exact completes_of_eq rfl ((pcmdWrite_disarm (own 1 h0 (by decide)) (bit_or_own _ 1 rfl)).trans (disarmPulse_idle hl))
        ⟨flag_clr_same c _ rfl, onlyRegs_clr c single⟩
    case disarmLater =>
      intro h0 hl
      exact completes_of_eq rfl ((pcmdWrite_disarm (own 1 h0 (by decide)) (bit_or_own _ 1 rfl)).trans (disarmPulse_level hl))
        ⟨pulse_setPulse_same c n _, onlyPulse_setPulse c n _ []⟩
    case startSingle =>
      intro hs hm
      exact completes_of_eq rfl rfl (pulseStart_single hs hm)
    case startRepeating =>
      intro hs hm hp hr
      exact completes_of_eq rfl rfl (pulseStart_repeating hs hm hp hr)
    case startIdle =>
      intro hs
      exact completes_of_eq rfl (pulseStart_idle hs) rfl
    case endWidth =>
      intro hl hw
      obtain ⟨low, pin, clip, armed, only⟩ := pulseEnd_spec hl.1
      rw [decide_eq_false (Nat.not_lt.mpr hw)] at clip
      exact completes_of_eq rfl (if_pos ((pulseOver_iff c n).2 ⟨hl, .inl hw⟩)) ⟨low, pin, clip, armed, only⟩
    case endCut =>
      intro hl hw hc
      obtain ⟨low, pin, clip, armed, only⟩ := pulseEnd_spec hl.1
      rw [decide_eq_true hw] at clip
      exact completes_of_eq rfl (if_pos ((pulseOver_iff c n).2 ⟨hl, .inr hc⟩)) ⟨low, pin, clip, armed, only⟩
    case endIdle =>
      intro hn
      exact completes_of_eq rfl (if_neg fun h => hn ((pulseOver_iff c n).1 h)) rfl

end Sys2Proof.Machine

/-!
PROOF. What an instruction of a core may touch, and the rules of a core's single updates: special registers, the next address with the
loops' counts (R168, R169), and the entry to a handler (R173).
-/
namespace Sys2Proof.Machine

/-! ### One core -/

/-- Nothing but core `k` has changed, and of it only its program counter, its general and special registers, its wait and its open region. -/
def Chip.ownOnly (c t : Chip) (k : Nat) : Prop :=
  t = { c with regs := t.regs, cores := t.cores } ∧ c.regsBut t [KS_KPC (coreBase k)] ∧ (∀ j, j ≠ k → t.core j = c.core j)
    ∧ t.core k = { c.core k with g := (t.core k).g, sr := (t.core k).sr, wait := (t.core k).wait, spec := (t.core k).spec }

theorem ownOnly_trans {c d e : Chip} {k : Nat} (h : c.ownOnly d k) (h' : d.ownOnly e k) : c.ownOnly e k := by
  obtain ⟨hd, rd, jd, kd⟩ := h
  obtain ⟨he, re, je, ke⟩ := h'
  refine ⟨?_, fun a ha => (re a ha).trans (rd a ha), fun j hj => (je j hj).trans (jd j hj), ?_⟩
  · rw [he, hd]
  · rw [ke, kd]

theorem ownOnly_of_onlyCore {c t : Chip} {k : Nat} {l : List Nat} (h : c.onlyCore t k l) : c.ownOnly t k := by
  obtain ⟨ht, rt, jt, kt, -⟩ := h
  refine ⟨ht, rt, jt, ?_⟩
  rw [kt]

theorem ownOnly_refl (c : Chip) (k : Nat) : c.ownOnly c k := ownOnly_of_onlyCore (onlyCore_refl c k [])
theorem ownOnly_setPc (c : Chip) (k v : Nat) : c.ownOnly (c.setPc k v) k := ownOnly_of_onlyCore (onlyCore_setPc c k v [])
theorem ownOnly_setG (c : Chip) (k n : Nat) (v : Word) : c.ownOnly (c.setG k n v) k := ownOnly_of_onlyCore (onlyCore_setG c k n v [])
theorem ownOnly_setSr (c : Chip) (k n v : Nat) : c.ownOnly (c.setSr k n v) k :=
  ownOnly_of_onlyCore (onlyCore_setSr c k n v (l := [n]) (.inl (List.mem_singleton_self n)))

/-- A core's record updated in its wait and its open region alone. -/
theorem ownOnly_coreUp (c : Chip) (k : Nat) (w : Option Wait) (sp : Option Spec) :
    c.ownOnly (c.coreUp k fun x => { x with wait := w, spec := sp }) k :=
  ⟨rfl, fun _ _ => rfl, fun _ hj => core_coreUp_ne c _ hj, by rw [core_coreUp_same]⟩

/-- An instruction that turns the chipset into `t`, and that after what it does to other state at once keeps to its core, ends with no
stop. -/
theorem issue_eq_of_own {c d t : Chip} {k : Nat} {f : Chip → Chip} (h : c.canIssue k = true) (hf : f c = t)
    (hd : d.core k = c.core k) (own : d.ownOnly t k) : c.issue k f = t := by
  obtain ⟨step, hold⟩ := canIssue_core h
  obtain ⟨-, -, -, core⟩ := own
  rw [issue_eq c k f h, hf]
  apply boundary_eq <;> rw [core, hd] <;> assumption

/-! ### Special registers and the program counter -/

theorem sr_setSr_ne (c : Chip) (k : Nat) {n m : Nat} (v : Nat) (h : m ≠ n) : (c.setSr k n v).sr k m = c.sr k m := by
  simp [Chip.sr, Chip.setSr, Assoc.get_set_ne _ _ _ h]

@[simp] theorem core_g_setSr (c : Chip) (k n v : Nat) : ((c.setSr k n v).core k).g = (c.core k).g := by simp [Chip.setSr]
@[simp] theorem sr_setPc (c : Chip) (k v j n : Nat) : (c.setPc k v).sr j n = c.sr j n := rfl
@[simp] theorem pc_setSr (c : Chip) (k n v j : Nat) : (c.setSr k n v).pc j = c.pc j := rfl
@[simp] theorem pc_setG (c : Chip) (k n : Nat) (v : Word) (j : Nat) : (c.setG k n v).pc j = c.pc j := by
  unfold Chip.setG
  split <;> rfl

/-- An address relative to the program counter is the one that R167 names. -/
theorem rel_eq_movedBy (c : Chip) (k : Nat) (n : Int) : c.rel k n = movedBy (c.pc k) n := rfl

theorem movedBy_lt (p : Nat) (n : Int) : movedBy p n < 2 ^ 32 := by unfold movedBy; omega

theorem movedBy_ofNat (p n : Nat) : movedBy p n = (p + 4 * n) % 2 ^ 32 := by unfold movedBy; omega

/-! ### The next address -/

section
variable {c : Chip} {k p lc le : Nat}

theorem loopBack_of_inactive (h : ¬ (c.sr k lc ≠ 0 ∧ c.sr k le = p)) : c.loopBack k p lc le = (false, c) := by
  unfold Chip.loopBack
  exact if_neg (by simpa using h)

theorem loopBack_of_active (h : c.sr k lc ≠ 0 ∧ c.sr k le = p) :
    c.loopBack k p lc le = ((c.sr k lc - 1) % 2 ^ 32 != 0, c.setSr k lc (c.sr k lc - 1)) := by
  simp [Chip.loopBack, h, sr_setSr_same]

end

/-- The part of `Chip.seq` that is left when level 1 does not loop back: level 0, of start `ls`, at address `p`. -/
def Chip.seqLevel0 (c : Chip) (k p ls : Nat) : Chip :=
  let r := c.loopBack k p 0x12 0x11
  if r.1 then r.2.setPc k ls else r.2.setPc k (p + 4)

theorem seq_eq_level0 {c d : Chip} {k : Nat} (h : c.loopBack k (c.pc k) 0x15 0x14 = (false, d)) :
    c.seq k = d.seqLevel0 k (c.pc k) (c.sr k 0x10) := by
  unfold Chip.seq
  dsimp only
  rw [h]
  rfl

theorem seq_eq_back1 {c : Chip} {k : Nat} (hit : c.sr k 0x15 ≠ 0 ∧ c.sr k 0x14 = c.pc k) (more : (c.sr k 0x15 - 1) % 2 ^ 32 ≠ 0) :
    c.seq k = (c.setSr k 0x15 (c.sr k 0x15 - 1)).setPc k (c.sr k 0x13) := by
  unfold Chip.seq
  dsimp only
  rw [loopBack_of_active hit]
  exact if_pos (bne_iff_ne.2 more)

theorem seqLevel0_spec (c : Chip) (k p ls : Nat) :
    (c.seqLevel0 k p ls).pc k =
        (if c.sr k 0x12 ≠ 0 ∧ c.sr k 0x11 = p ∧ (c.sr k 0x12 - 1) % 2 ^ 32 ≠ 0 then ls % 2 ^ 32 else (p + 4) % 2 ^ 32)
      ∧ (c.seqLevel0 k p ls).sr k 0x12 = (if c.sr k 0x12 ≠ 0 ∧ c.sr k 0x11 = p then (c.sr k 0x12 - 1) % 2 ^ 32 else c.sr k 0x12)
      ∧ (c.seqLevel0 k p ls).sr k 0x15 = c.sr k 0x15 := by
  unfold Chip.seqLevel0
  by_cases hit : c.sr k 0x12 ≠ 0 ∧ c.sr k 0x11 = p
  · rw [loopBack_of_active hit]
    by_cases more : (c.sr k 0x12 - 1) % 2 ^ 32 = 0
    · simp [-Nat.reducePow, hit, more, pc_setPc, sr_setSr_same, sr_setSr_ne]
    · simp [-Nat.reducePow, hit, more, pc_setPc, sr_setSr_same, sr_setSr_ne]
  · rw [loopBack_of_inactive hit, if_neg hit]
    exact ⟨(pc_setPc c k (p + 4)).trans (if_neg fun h => hit ⟨h.1, h.2.1⟩).symm, rfl, rfl⟩

/-- An instruction that completes without a branch goes on as R169 says. -/
theorem wentOn_seq (c : Chip) (k : Nat) : c.wentOn (c.seq k) k := by
  unfold Chip.wentOn nextPc nextCounts
  by_cases hit : c.sr k 0x15 ≠ 0 ∧ c.sr k 0x14 = c.pc k
  · by_cases more : (c.sr k 0x15 - 1) % 2 ^ 32 = 0
    · rw [seq_eq_level0 (d := c.setSr k 0x15 (c.sr k 0x15 - 1)) (by rw [loopBack_of_active hit, more]; rfl)]
      obtain ⟨pc, lc0, lc1⟩ := seqLevel0_spec (c.setSr k 0x15 (c.sr k 0x15 - 1)) k (c.pc k) (c.sr k 0x10)
      rw [pc, lc0, lc1]
      simp [-Nat.reducePow, hit, more, sr_setSr_same, sr_setSr_ne]
    · rw [seq_eq_back1 hit more]
      simp [-Nat.reducePow, hit, more, pc_setPc, sr_setSr_same, sr_setSr_ne]
  · rw [seq_eq_level0 (loopBack_of_inactive hit)]
    obtain ⟨pc, lc0, lc1⟩ := seqLevel0_spec c k (c.pc k) (c.sr k 0x10)
    rw [pc, lc0, lc1]
    refine ⟨(if_neg fun h => hit ⟨h.1, h.2.1⟩).symm, ?_⟩
    simp [-Nat.reducePow, hit]

/-- Going on is a matter of the program counter and the special registers. -/
theorem wentOn_of_same {c d t : Chip} {k : Nat} (hp : d.pc k = c.pc k) (hs : ∀ n, d.sr k n = c.sr k n) (h : d.wentOn t k) :
    c.wentOn t k := by
  unfold Chip.wentOn at h ⊢
  simpa only [hp, hs] using h

/-! ### Exceptions -/

/-- Outside a region and a handler, with no stop due. -/
theorem calm_iff (c : Chip) (k : Nat) : c.calm k = true ↔ c.canIssue k = true ∧ (c.core k).spec = none ∧ c.exl k = false := by
  simp [Chip.calm, and_assoc]

/-- Core `k` has taken an exception: what `traps` says of the chipset after it. -/
def Chip.trapped (c t : Chip) (k epc cause : Nat) (bad : Option Nat) : Prop :=
  c.entered t k epc cause 0 ∧ t.sr k 4 = (bad.map (· % 2 ^ 32)).getD (c.sr k 4) ∧ ∀ n, n ∉ [0, 2, 3, 4] → t.sr k n = c.sr k n

theorem traps_of_trapped {i : Instr} {s : State} {k epc cause : Nat} {bad : Option Nat}
    (h : completes i s fun t => s.chip.trapped t k epc cause bad) : traps i k epc cause bad s := by
  cases bad <;> exact h

/-- The record of BADADDR that precedes the entry to a handler. -/
def Chip.setBad (c : Chip) (k : Nat) : Option Nat → Chip
  | some a => c.setSr k 4 a
  | none => c

theorem takeExc_calm {c : Chip} {k : Nat} (hs : (c.core k).spec = none) (he : c.exl k = false) (code epc : Nat) (bad : Option Nat)
    (arg : Nat) : c.takeExc k code epc bad arg = (c.setBad k bad).enterHandler k epc (code + arg * 2 ^ 16) 0 := by
  have outside : ¬ (c.core k).spec.isSome = true := by rw [hs]; decide
  have single : ¬ c.exl k = true := by rw [he]; decide
  exact (if_neg outside).trans ((if_neg single).trans (by cases bad <;> rfl))

/-- Entry to a handler as R173 says. -/
theorem enterHandler_spec (c : Chip) (k epc cause off : Nat) :
    c.entered (c.enterHandler k epc cause off) k epc cause off ∧ c.ownOnly (c.enterHandler k epc cause off) k
      ∧ ∀ n, n ∉ [0, 2, 3] → (c.enterHandler k epc cause off).sr k n = c.sr k n := by
  have own : c.ownOnly (c.enterHandler k epc cause off) k :=
    ownOnly_trans (ownOnly_setSr c k 2 epc) <| ownOnly_trans (ownOnly_setSr _ k 3 cause) <| ownOnly_trans (ownOnly_setSr _ k 0 _) <|
      ownOnly_trans (ownOnly_coreUp _ k none _) (ownOnly_setPc _ k _)
  have frame (d : Chip) (n : Nat) : (d.coreUp k fun x => { x with wait := none }).sr k n = d.sr k n := by simp [Chip.sr]
  have status (d : Chip) (a b e : Bool) : d.setStatus k a b e = d.setSr k 0 (b2n a + b2n b * 2 + b2n e * 4) := rfl
  have rest (n : Nat) (hn : n ∉ [0, 2, 3]) : (c.enterHandler k epc cause off).sr k n = c.sr k n := by
    simp only [List.mem_cons, List.not_mem_nil, or_false, not_or] at hn
    obtain ⟨h0, h2, h3⟩ := hn
    unfold Chip.enterHandler
    simp only [sr_setPc, frame, status, sr_setSr_ne _ _ _ h0, sr_setSr_ne _ _ _ h2, sr_setSr_ne _ _ _ h3]
  have ⟨parts, regs, others, _⟩ := own
  refine ⟨⟨?epc, ?cause, ?status, ?vector, ?general, regs, others, parts⟩, own, rest⟩
  case epc => simp [Chip.enterHandler, frame, status, sr_setSr_ne, sr_setSr_same]
  case cause => simp [Chip.enterHandler, frame, status, sr_setSr_ne, sr_setSr_same]
  case status =>
    have ie : ((c.setSr k 2 epc).setSr k 3 cause).ie k = c.ie k := by simp [Chip.ie, sr_setSr_ne]
    unfold Chip.enterHandler
    dsimp only
    rw [sr_setPc, frame, status, sr_setSr_same, ie]
    cases c.ie k <;> rfl
  case vector =>
    unfold Chip.enterHandler
    dsimp only
    rw [pc_setPc]
    simp [status, sr_setSr_ne]
  case general => simp [Chip.enterHandler, status]

/-- An exception of a core outside a region and a handler. -/
theorem takeExc_spec {c : Chip} {k : Nat} (hs : (c.core k).spec = none) (he : c.exl k = false) (code epc : Nat) (bad : Option Nat)
    (arg : Nat) : c.ownOnly (c.takeExc k code epc bad arg) k
      ∧ c.trapped (c.takeExc k code epc bad arg) k epc (code + arg * 2 ^ 16) bad := by
  rw [takeExc_calm hs he]
  have badOwn : c.ownOnly (c.setBad k bad) k := by
    cases bad
    · exact ownOnly_refl c k
    · exact ownOnly_setSr c k 4 _
  have badSr (n : Nat) (hn : n ≠ 4) : (c.setBad k bad).sr k n = c.sr k n := by
    cases bad
    · rfl
    · exact sr_setSr_ne c k _ hn
  have badG : ((c.setBad k bad).core k).g = (c.core k).g := by
    cases bad
    · rfl
    · exact core_g_setSr c k 4 _
  have badAddr : (c.setBad k bad).sr k 4 = (bad.map (· % 2 ^ 32)).getD (c.sr k 4) := by
    cases bad
    · rfl
    · exact sr_setSr_same c k 4 _
  obtain ⟨⟨epc', cause, status, vector, general, -, -, -⟩, own, rest⟩ :=
    enterHandler_spec (c.setBad k bad) k epc (code + arg * 2 ^ 16) 0
  have all := ownOnly_trans badOwn own
  have ⟨parts, regs, others, _⟩ := all
  rw [Chip.ie, badSr 0 (by decide)] at status
  rw [badSr 1 (by decide)] at vector
  refine ⟨all, ⟨epc', cause, status, vector, general.trans badG, regs, others, parts⟩, ?_, fun n hn => ?_⟩
  · rw [rest 4 (by decide), badAddr]
  · simp only [List.mem_cons, List.not_mem_nil, or_false, not_or] at hn
    obtain ⟨h0, h2, h3, h4⟩ := hn
    rw [rest n (by simp [h0, h2, h3]), badSr n h4]

/-- An instruction that raises an exception outside a region and a handler ends in it. -/
theorem issue_trapped {c : Chip} {k code epc arg : Nat} {bad : Option Nat} {f : Chip → Chip} (h : c.calm k = true)
    (hf : f c = c.takeExc k code epc bad arg) : c.trapped (c.issue k f) k epc (code + arg * 2 ^ 16) bad := by
  obtain ⟨can, spec, exl⟩ := (calm_iff c k).1 h
  obtain ⟨own, trap⟩ := takeExc_spec spec exl code epc bad arg
  rwa [issue_eq_of_own can hf rfl own]

end Sys2Proof.Machine

/-!
PROOF. The immediate instructions (R161).
-/
namespace Sys2Proof.Machine

/-- An instruction whose action is to write a register and go on. -/
theorem writesG_of_exec {i : Instr} {k rd : Nat} {v : Word} {s : State} {f : Chip → Word} (h : s.chip.canIssue k = true)
    (e : exec i s = .next (s.on fun x => x.issue k fun x => (x.setG k rd (f x)).seq k)) (hv : f s.chip = v) : writesG i k rd v s :=
  completes_of_eq e rfl (hv ▸ issue_setG_seq s.chip k rd f h)

/-- The signed test of SLTI on a sign-extended immediate. -/
theorem aluSlt_simm (a : Word) (imm : BitVec 16) : aluSlt a (simm imm) = if a.toInt < imm.toInt then 1 else 0 := by
  unfold aluSlt boolWord simm
  rw [BitVec.slt_eq_decide, BitVec.toInt_signExtend_of_le (by decide)]
  simp

theorem aluSltu_eq (a b : Word) : aluSltu a b = if a.toNat < b.toNat then 1 else 0 := by
  simp [aluSltu, boolWord, BitVec.ult]

theorem zimm_shift (imm : BitVec 16) : zimm imm <<< 16 = BitVec.ofNat 32 (imm.toNat * 65536) := by
  apply BitVec.eq_of_toNat_eq
  simp [zimm, Nat.shiftLeft_eq]

/-- A word of LUI with a non-zero ra field is no instruction (R161). -/
theorem ovDecode_lui_ra {c : CoreId} {w : Nat} (op : bits w 31 26 = 8) (ra : bits w 20 16 ≠ 0) : ovDecode c w = none := by
  simp [ovDecode, op, ra]

/-- The fields of a word of format I (Table 7-3). -/
theorem bits_formatI (op : Nat) (hop : op < 64) (x y : Fin 32) (imm : BitVec 16) :
    bits (op * 2 ^ 26 + x.val * 2 ^ 21 + y.val * 2 ^ 16 + imm.toNat) 31 26 = op
      ∧ bits (op * 2 ^ 26 + x.val * 2 ^ 21 + y.val * 2 ^ 16 + imm.toNat) 20 16 = y := by
  have := x.isLt
  have := y.isLt
  have := imm.isLt
  unfold bits
  constructor <;> omega

/-- Settles O1: each instruction writes one register and goes on, and the word is refused by its fields. -/
theorem integerImmediate : Obligations.IntegerImmediate := by
  unfold Obligations.IntegerImmediate
  intro c rd ra imm s can
  refine ⟨?addi, ?andi, ?ori, ?xori, ?slti, ?sltiu, ?lui, fun hra => ?word⟩
  case addi => exact writesG_of_exec (f := fun x => aluAdd (x.g _ ra) (simm imm)) can rfl rfl
  case andi => exact writesG_of_exec (f := fun x => aluAnd (x.g _ ra) (zimm imm)) can rfl rfl
  case ori => exact writesG_of_exec (f := fun x => aluOr (x.g _ ra) (zimm imm)) can rfl rfl
  case xori => exact writesG_of_exec (f := fun x => aluXor (x.g _ ra) (zimm imm)) can rfl rfl
  case slti => exact writesG_of_exec (f := fun x => aluSlt (x.g _ ra) (simm imm)) can rfl (aluSlt_simm _ _)
  case sltiu => exact writesG_of_exec (f := fun x => aluSltu (x.g _ ra) (simm imm)) can rfl (aluSltu_eq _ _)
  case lui => exact writesG_of_exec (f := fun _ => zimm imm <<< 16) can rfl (zimm_shift imm)
  case word =>
    obtain ⟨op, field⟩ := bits_formatI 0x08 (by decide) rd ra imm
    exact ovDecode_lui_ra op (by rw [field]; exact Fin.val_ne_zero_iff.2 hra)

end Sys2Proof.Machine

/-!
PROOF. Branches, jumps and loops (R167, R168).
-/
namespace Sys2Proof.Machine

/-! ### Branches -/

theorem goto_inside {c : Chip} {k t : Nat} (h : fetchOk k t = true) : c.goto k t = c.setPc k t := if_pos h

theorem goto_outside {c : Chip} {k t : Nat} (h : fetchOk k t = false) : c.goto k t = c.takeExc k 6 t (some t) 0 :=
  if_neg (by rw [h]; decide)

/-- What a branch does, taken within instruction memory, taken out of it, and not taken; `T` and `F` tell when it is taken and when not. -/
theorem branch_spec {i : Instr} {k ra rb : Nat} {off : BitVec 16} {s : State} {taken : Word → Word → Bool} {T F : Prop}
    (h : s.chip.canIssue k = true) (e : exec i s = .next (s.on fun x => x.branch k ra rb off taken))
    (hT : T → taken (s.chip.g k ra) (s.chip.g k rb) = true) (hF : F → taken (s.chip.g k ra) (s.chip.g k rb) = false) :
    (fetchOk k (movedBy (s.chip.pc k) off.toInt) = true → T → jumps i k (movedBy (s.chip.pc k) off.toInt) s)
      ∧ (fetchOk k (movedBy (s.chip.pc k) off.toInt) = false ∧ s.chip.calm k = true → T →
        traps i k (movedBy (s.chip.pc k) off.toInt) 6 (some (movedBy (s.chip.pc k) off.toInt)) s)
      ∧ (F → falls i k s) := by
  refine ⟨fun inside ht => ?_, fun ⟨outside, calm⟩ ht => ?_, fun hf => ?_⟩
  · have only := onlyCore_setPc s.chip k (movedBy (s.chip.pc k) off.toInt) []
    have ⟨_, regs, _⟩ := only
    refine completes_of_eq e (issue_eq_of_own h ?_ rfl (ownOnly_of_onlyCore only)) ⟨⟨rfl, regs⟩, ?_⟩
    · rw [if_pos (hT ht), rel_eq_movedBy, goto_inside inside]
    · rw [pc_setPc, Nat.mod_eq_of_lt (movedBy_lt _ _)]
  · refine traps_of_trapped (completes_of_eq e rfl (issue_trapped (arg := 0) calm ?_))
    rw [if_pos (hT ht), rel_eq_movedBy, goto_outside outside]
  · obtain ⟨only, general⟩ := seq_spec s.chip k
    refine completes_of_eq e (issue_eq_of_own h ?_ rfl (ownOnly_of_onlyCore only)) ⟨only, general, wentOn_seq s.chip k⟩
    rw [if_neg (by rw [hF hf]; decide)]

/-! ### Jumps -/

/-- What JAL and JALR do: they write the return address and go to their target, or raise ACCESS_FETCH there. -/
theorem jump_spec {i : Instr} {k rd t : Nat} {r : Word} {s : State} {link : Chip → Word} {target : Chip → Nat}
    (h : s.chip.canIssue k = true)
    (e : exec i s = .next (s.on fun x => x.issue k fun x => (x.setG k rd (link x)).goto k (target x)))
    (hr : link s.chip = r) (ht : target s.chip = t) (lt : t < 2 ^ 32) :
    (fetchOk k t = true → completes i s fun v =>
        s.chip.onlyCore v k [] ∧ s.chip.wroteG v k rd r ∧ v.pc k = t ∧ v.sr k 0x12 = s.chip.sr k 0x12 ∧ v.sr k 0x15 = s.chip.sr k 0x15)
      ∧ (fetchOk k t = false → s.chip.calm k = true → completes i s fun v =>
        v.sr k 2 = t ∧ v.sr k 4 = t ∧ v.sr k 3 = 6 ∧ v.pc k = s.chip.sr k 1 % 2 ^ 32 ∧ s.chip.wroteG v k rd r) := by
  subst hr ht
  have linked := onlyCore_setG s.chip k rd (link s.chip) []
  have wrote := wroteG_setG s.chip k rd (link s.chip)
  refine ⟨fun inside => ?_, fun outside calm => ?_⟩
  · have only := onlyCore_trans linked (onlyCore_setPc (s.chip.setG k rd (link s.chip)) k (target s.chip) [])
    refine completes_of_eq e (issue_eq_of_own h (goto_inside inside) rfl (ownOnly_of_onlyCore only))
      ⟨only, wrote, ?_, sr_setG .., sr_setG ..⟩
    rw [pc_setPc, Nat.mod_eq_of_lt lt]
  · obtain ⟨-, spec, exl⟩ := (calm_iff _ _).1 calm
    have spec' : ((s.chip.setG k rd (link s.chip)).core k).spec = none := by
      obtain ⟨-, -, -, own, -⟩ := linked
      rw [own, spec]
    have exl' : (s.chip.setG k rd (link s.chip)).exl k = false := by
      unfold Chip.exl
      rwa [sr_setG]
    obtain ⟨own, trap⟩ := takeExc_spec spec' exl' 6 (target s.chip) (some (target s.chip)) 0
    obtain ⟨⟨epc, cause, -, vector, general, -⟩, bad, -⟩ := trap
    refine completes_of_eq e (issue_eq_of_own h (goto_outside outside) rfl (ownOnly_trans (ownOnly_of_onlyCore linked) own))
      ⟨?_, ?_, cause, ?_, fun n => (g_of_core general n).trans (wrote n)⟩
    · rw [epc, Nat.mod_eq_of_lt lt]
    · rw [bad]
      exact Nat.mod_eq_of_lt lt
    · rw [vector, sr_setG, Nat.add_zero]

/-- Settles O8: each branch by what a branch does when taken and when not, JAL and JALR by what a jump does. -/
theorem branchesAndJumps : Obligations.BranchesAndJumps := by
  unfold Obligations.BranchesAndJumps
  refine ⟨fun c ra rb off s can => ?branches, fun c rd ra off imm s can => ?jumps⟩
  case branches =>
    intro k a b t out
    obtain ⟨beqIn, beqOut, beqNot⟩ := branch_spec (T := a = b) (F := a ≠ b) can (i := .beq c ra rb off) rfl
      (by simp [a, b, k]) (by simp [a, b, k])
    obtain ⟨bneIn, bneOut, bneNot⟩ := branch_spec (T := a ≠ b) (F := a = b) can (i := .bne c ra rb off) rfl
      (by simp [a, b, k]) (by simp [a, b, k])
    obtain ⟨bltIn, bltOut, bltNot⟩ := branch_spec (T := a.toInt < b.toInt) (F := b.toInt ≤ a.toInt) can (i := .blt c ra rb off) rfl
      (by simp [a, b, k, BitVec.slt]) (by simp [a, b, k, BitVec.slt])
    obtain ⟨bgeIn, bgeOut, bgeNot⟩ := branch_spec (T := b.toInt ≤ a.toInt) (F := a.toInt < b.toInt) can (i := .bge c ra rb off) rfl
      (by simp [a, b, k, BitVec.slt]) (by simp [a, b, k, BitVec.slt])
    obtain ⟨bltuIn, bltuOut, bltuNot⟩ := branch_spec (T := a.toNat < b.toNat) (F := b.toNat ≤ a.toNat) can (i := .bltu c ra rb off) rfl
      (by simp [a, b, k, BitVec.ult]) (by simp [a, b, k, BitVec.ult])
    obtain ⟨bgeuIn, bgeuOut, bgeuNot⟩ := branch_spec (T := b.toNat ≤ a.toNat) (F := a.toNat < b.toNat) can (i := .bgeu c ra rb off) rfl
      (by simp [a, b, k, BitVec.ult]) (by simp [a, b, k, BitVec.ult])
    exact ⟨beqIn, beqOut, beqNot, bneIn, bneOut, bneNot, bltIn, bltOut, bltNot, bgeIn, bgeOut, bgeNot, bltuIn, bltuOut, bltuNot,
      bgeuIn, bgeuOut, bgeuNot⟩
  case jumps =>
    intro k r t u
    obtain ⟨jalIn, jalOut⟩ := jump_spec (i := .jal c rd off) can rfl rfl rfl (movedBy_lt _ _)
    obtain ⟨jalrIn, jalrOut⟩ := jump_spec (i := .jalr c rd ra imm) can rfl rfl rfl
      (Nat.lt_of_le_of_lt (Nat.div_mul_le_self _ 4) (s.chip.g k ra + imm.signExtend 32).isLt)
    exact ⟨jalIn, jalrIn, jalOut, jalrOut⟩

/-! ### Loops -/

theorem setLoop_zero (c : Chip) (k : Nat) (lvl : Bool) (count : Nat) : c.setLoop k lvl count 0 = c.takeExc k 1 (c.pc k) none 0 := rfl

/-- The special registers and the general registers are not moved by the mark that R199 leaves on a region. -/
theorem loopTouched_frame (c : Chip) (k lvl n : Nat) :
    (c.loopTouched k lvl).sr k n = c.sr k n ∧ ((c.loopTouched k lvl).core k).g = (c.core k).g := by
  simp [Chip.loopTouched, Chip.sr]

theorem ownOnly_loopTouched (c : Chip) (k lvl : Nat) : c.ownOnly (c.loopTouched k lvl) k :=
  ownOnly_coreUp c k (c.core k).wait ((c.core k).spec.map fun (s : Spec) => { s with loops := s.loops ||| 2 ^ lvl })

/-- Core `k` has set the loop level whose registers start at `b` to run `n` times up to `e`, and gone to the loop or past it (R168). -/
def Chip.loopSet (c t : Chip) (k b e n : Nat) : Prop :=
  t.sr k b = (c.pc k + 4) % 2 ^ 32 ∧ t.sr k (b + 1) = e ∧ t.sr k (b + 2) = n
    ∧ t.pc k = (if n = 0 then (e + 4) % 2 ^ 32 else (c.pc k + 4) % 2 ^ 32)
    ∧ (∀ m, m ∉ [b, b + 1, b + 2] → t.sr k m = c.sr k m) ∧ (t.core k).g = (c.core k).g ∧ c.regsBut t [KS_KPC (coreBase k)]

/-- LOOP and LOOPI with a body: the registers of the level, and the next address. -/
theorem setLoop_spec (c : Chip) (k : Nat) (lvl : Bool) {count : Nat} {off : BitVec 16} (ho : off ≠ 0) (hc : count < 2 ^ 32) :
    c.ownOnly (c.setLoop k lvl count off) k
      ∧ c.loopSet (c.setLoop k lvl count off) k (loopSr lvl) ((c.pc k + 4 * off.toNat) % 2 ^ 32) count := by
  have start : c.rel k 1 = (c.pc k + 4) % 2 ^ 32 := movedBy_ofNat (c.pc k) 1
  have last : c.rel k off.toNat = (c.pc k + 4 * off.toNat) % 2 ^ 32 := movedBy_ofNat (c.pc k) off.toNat
  unfold Chip.setLoop
  rw [if_neg ho]
  dsimp only
  rw [start, last]
  have own := ownOnly_trans (ownOnly_setSr c k (loopSr lvl) ((c.pc k + 4) % 2 ^ 32)) <|
    ownOnly_trans (ownOnly_setSr _ k (loopSr lvl + 1) ((c.pc k + 4 * off.toNat) % 2 ^ 32)) <|
    ownOnly_trans (ownOnly_setSr _ k (loopSr lvl + 2) count) <| ownOnly_trans (ownOnly_loopTouched _ k (b2n lvl)) (ownOnly_setPc _ k
      (if count = 0 then ((c.pc k + 4 * off.toNat) % 2 ^ 32 + 4) % 2 ^ 32 else (c.pc k + 4) % 2 ^ 32))
  have ⟨_, regs, _, _⟩ := own
  refine ⟨own, ?start, ?last, ?count, ?next, fun m hm => ?others, ?general, regs⟩
  case start =>
    rw [sr_setPc, (loopTouched_frame ..).1, sr_setSr_ne _ _ _ (by omega), sr_setSr_ne _ _ _ (by omega), sr_setSr_same, Nat.mod_mod]
  case last => rw [sr_setPc, (loopTouched_frame ..).1, sr_setSr_ne _ _ _ (by omega), sr_setSr_same, Nat.mod_mod]
  case count => rw [sr_setPc, (loopTouched_frame ..).1, sr_setSr_same, Nat.mod_eq_of_lt hc]
  case next => rw [pc_setPc]; split <;> rw [Nat.mod_mod]
  case others =>
    simp only [List.mem_cons, List.not_mem_nil, or_false, not_or] at hm
    obtain ⟨h0, h1, h2⟩ := hm
    rw [sr_setPc, (loopTouched_frame ..).1, sr_setSr_ne _ _ _ h2, sr_setSr_ne _ _ _ h1, sr_setSr_ne _ _ _ h0]
  case general => rw [core_setPc, (loopTouched_frame _ _ _ 0).2, core_g_setSr, core_g_setSr, core_g_setSr]

/-- A loop instruction of count `n` sets its level, or raises ILLEGAL at an off16 of 0. -/
theorem loop_spec {i : Instr} {k n : Nat} {lvl : Bool} {off : BitVec 16} {s : State} {count : Chip → Nat} (h : s.chip.canIssue k = true)
    (e : exec i s = .next (s.on fun x => x.issue k fun x => x.setLoop k lvl (count x) off)) (hn : count s.chip = n) (lt : n < 2 ^ 32) :
    (off ≠ 0 → completes i s fun t => s.chip.loopSet t k (loopSr lvl) ((s.chip.pc k + 4 * off.toNat) % 2 ^ 32) n)
      ∧ (off = 0 → s.chip.calm k = true → traps i k (s.chip.pc k) 1 none s) := by
  subst hn
  refine ⟨fun ho => ?_, fun ho calm => ?_⟩
  · obtain ⟨own, set⟩ := setLoop_spec s.chip k lvl ho lt
    exact completes_of_eq e (issue_eq_of_own h rfl rfl own) set
  · subst ho
    exact traps_of_trapped (completes_of_eq e rfl (issue_trapped (arg := 0) calm (setLoop_zero ..)))

/-- Settles O9: LOOP and LOOPI are one instruction with two sources of the count. -/
theorem loops : Obligations.Loops := by
  unfold Obligations.Loops
  intro c lvl ra cnt off s can k p b e sets
  obtain ⟨loop, loopBad⟩ := loop_spec (i := .loop c lvl ra off) can rfl rfl (s.chip.g k ra).isLt
  obtain ⟨loopi, loopiBad⟩ := loop_spec (i := .loopi c lvl cnt off) can rfl rfl (Nat.lt_trans cnt.isLt (by decide))
  exact ⟨fun ho => ⟨loop ho, loopi ho⟩, fun ho calm => ⟨loopBad ho calm, loopiBad ho calm⟩⟩

end Sys2Proof.Machine

/-!
PROOF. The atomics (R165): stores to a core's own memory, with no check-bit injection armed.
-/
namespace Sys2Proof.Machine

/-! ### Bytes of a number -/

@[simp] theorem length_bytesLE (n : Nat) : ∀ v : Nat, (bytesLE n v).length = n := by
  induction n with
  | zero => exact fun _ => rfl
  | succ n ih => exact fun v => congrArg (· + 1) (ih _)

theorem getElem_bytesLE (n : Nat) : ∀ (v i : Nat) (h : i < (bytesLE n v).length), (bytesLE n v)[i].toNat = v / 256 ^ i % 256 := by
  induction n with
  | zero => exact fun v i h => absurd h (Nat.not_lt_zero i)
  | succ n ih =>
    intro v i h
    cases i with
    | zero => simp [bytesLE]
    | succ i =>
      simp only [bytesLE, List.getElem_cons_succ]
      rw [ih, Nat.div_div_eq_div_mul, Nat.pow_succ']

/-- The bytes of a number below the n-th are those of its value modulo 256^n. -/
theorem byte_mod (v : Nat) {i n : Nat} (h : i < n) : v % 256 ^ n / 256 ^ i % 256 = v / 256 ^ i % 256 := by
  obtain ⟨m, rfl⟩ := Nat.exists_eq_add_of_lt h
  rw [Nat.add_assoc, Nat.pow_add, Nat.mod_mul_right_div_self, Nat.pow_succ', Nat.mod_mul_right_mod]

/-! ### Stores with no injection armed -/

theorem noInject_iff (c : Chip) : c.noInject = true ↔ c.fld FLT_INJ_MODE = 0 ∧ c.fld CFL_INJ_MODE = 0 := by simp [Chip.noInject]

/-- Check bits as they are stored. -/
theorem eccHubWrite_eq {c : Chip} (h : c.noInject = true) (mem key width : Nat) :
    c.eccHubWrite mem key width = { c with hubEcc := Assoc.set (fun _ => 0) c.hubEcc key 0 } := by
  simp [Chip.eccHubWrite, ((noInject_iff c).1 h).1]

theorem eccCellWrite_eq {c : Chip} (h : c.noInject = true) (mem key : Nat) :
    c.eccCellWrite mem key = { c with cellEcc := Assoc.set (fun _ => 0) c.cellEcc key 0 } := by
  simp [Chip.eccCellWrite, ((noInject_iff c).1 h).2]

/-- Nothing but the check bits of the core memories has changed. -/
def Chip.onlyEcc (c t : Chip) : Prop := t = { c with hubEcc := t.hubEcc, cellEcc := t.cellEcc }

theorem onlyEcc_trans {c d e : Chip} (h : c.onlyEcc d) (h' : d.onlyEcc e) : c.onlyEcc e := by
  unfold Chip.onlyEcc at *
  rw [h', h]

theorem noInject_of_onlyEcc {c t : Chip} (h : c.onlyEcc t) (hn : c.noInject = true) : t.noInject = true := by
  rw [h]
  exact hn

theorem onlyEcc_forEach {α : Type} {f : α → Chip → Chip} (hf : ∀ (x : α) (c : Chip), c.noInject = true → c.onlyEcc (f x c)) :
    ∀ (l : List α) (c : Chip), c.noInject = true → c.onlyEcc (c.forEach l f) := by
  intro l
  induction l with
  | nil => exact fun _ _ => rfl
  | cons x l ih => exact fun c hn => onlyEcc_trans (hf x c hn) (ih _ (noInject_of_onlyEcc (hf x c hn) hn))

/-- The chipset with bytes of core `k`'s memory replaced. -/
def Chip.setOwnMem (c : Chip) (k : Nat) (m : List Host.Cell) : Chip := if isShed k then { c with cellMem := m } else { c with hubMem := m }

theorem onlyEcc_coreStore {c : Chip} (h : c.noInject = true) (k a : Nat) (l : List Byte) :
    (c.setOwnMem k (memSetBytes (c.ownMem k) a l)).onlyEcc (c.coreStore k a l) := by
  have hubWritten (f : Nat → Nat) (w : Nat) (d : Chip) (hd : d.noInject = true) : d.onlyEcc (d.eccHubWrite (f w) w 7) := by
    rw [eccHubWrite_eq hd]
    rfl
  have cellWritten (f : Nat → Nat) (w : Nat) (d : Chip) (hd : d.noInject = true) : d.onlyEcc (d.eccCellWrite (f w) w) := by
    rw [eccCellWrite_eq hd]
    rfl
  unfold Chip.coreStore Chip.setOwnMem Chip.ownMem
  dsimp only
  split
  · exact onlyEcc_forEach (cellWritten fun w => (cellMemOf w).getD 0) _ _ h
  · exact onlyEcc_forEach (hubWritten fun w => 32 + (w - 0x10000000) / 0x40000) _ _ h

/-- A store to core memory: its bytes, with every register word and every core as it was. -/
theorem coreStore_spec {c : Chip} (h : c.noInject = true) (k a n v : Nat) :
    c.storedNum (c.coreStore k a (bytesLE n v)) k a n v ∧ (c.coreStore k a (bytesLE n v)).regs = c.regs
      ∧ (c.coreStore k a (bytesLE n v)).cores = c.cores := by
  rw [onlyEcc_coreStore h]
  unfold Chip.setOwnMem
  have own (i : Nat) (hi : i < n) : memByte (memSetBytes (c.ownMem k) a (bytesLE n v)) (a + i) = v / 256 ^ i % 256 := by
    rw [memByte_setBytes_in _ _ _ i (by rwa [length_bytesLE]), getElem_bytesLE]
  have rest (b : Nat) (hb : ¬ (a ≤ b ∧ b < a + n)) : memByte (memSetBytes (c.ownMem k) a (bytesLE n v)) b = memByte (c.ownMem k) b :=
    memByte_setBytes_out _ _ _ _ (by rw [length_bytesLE]; omega)
  cases hk : isShed k
  all_goals
    simp only [Chip.ownMem, hk, Bool.false_eq_true, if_true, if_false] at own rest
    simp only [Chip.storedNum, Chip.ownMem, hk, Bool.false_eq_true, if_true, if_false]
    exact ⟨⟨own, rest, trivial⟩, trivial, trivial⟩

/-- Only the memories tell of what has been stored, and of the number only its value modulo 256^n. -/
theorem storedNum_of_same {c d t : Chip} {k a n v w : Nat} (hh : t.hubMem = d.hubMem) (hc : t.cellMem = d.cellMem)
    (hv : v % 256 ^ n = w % 256 ^ n) (h : c.storedNum d k a n v) : c.storedNum t k a n w := by
  obtain ⟨own, rest, other⟩ := h
  have mem : t.ownMem k = d.ownMem k := by unfold Chip.ownMem; rw [hh, hc]
  refine ⟨fun i hi => ?_, fun b hb => ?_, ?_⟩
  · rw [mem, own i hi, ← byte_mod v hi, hv, byte_mod w hi]
  · rw [mem, rest b hb]
  · rwa [hh, hc]

/-! ### The instructions -/

/-- Core `k` has read `old` into `rd` and stored `v` at `x` in one step, and gone on (R165). -/
def Chip.exchanged (c t : Chip) (k rd x old v : Nat) : Prop :=
  c.wroteG t k rd (BitVec.ofNat 32 old) ∧ c.storedNum t k x 4 v ∧ c.regsBut t [KS_KPC (coreBase k)] ∧ c.wentOn t k

/-- A store to core memory, a register write and the next address. -/
theorem exchanged_of_store {c : Chip} (h : c.noInject = true) (k rd x old w v : Nat) (hw : w % 256 ^ 4 = v % 256 ^ 4) :
    (c.coreStore k x (bytesLE 4 w)).ownOnly (((c.coreStore k x (bytesLE 4 w)).setG k rd (BitVec.ofNat 32 old)).seq k) k
      ∧ (c.coreStore k x (bytesLE 4 w)).core k = c.core k
      ∧ c.exchanged (((c.coreStore k x (bytesLE 4 w)).setG k rd (BitVec.ofNat 32 old)).seq k) k rd x old v := by
  obtain ⟨stored, regs, cores⟩ := coreStore_spec h k x 4 w
  generalize c.coreStore k x (bytesLE 4 w) = d at *
  have core (j : Nat) : d.core j = c.core j := by unfold Chip.core; rw [cores]
  have reg (a : Nat) : d.reg a = c.reg a := by unfold Chip.reg; rw [regs]
  have wrote := wroteG_setG d k rd (BitVec.ofNat 32 old)
  obtain ⟨only, general⟩ := seq_spec (d.setG k rd (BitVec.ofNat 32 old)) k
  have own := ownOnly_trans (ownOnly_setG d k rd (BitVec.ofNat 32 old)) (ownOnly_of_onlyCore only)
  have went := wentOn_seq (d.setG k rd (BitVec.ofNat 32 old)) k
  generalize (d.setG k rd (BitVec.ofNat 32 old)).seq k = t at *
  have ⟨parts, frame, _, _⟩ := own
  refine ⟨own, core k, fun n => ?_, ?_, fun a ha => ?_, ?_⟩
  · rw [g_of_core general n, wrote n, g_of_core (congrArg Core.g (core k)) n]
  · exact storedNum_of_same (by rw [parts]) (by rw [parts]) hw stored
  · rw [frame a ha, reg a]
  · refine wentOn_of_same ?_ (fun n => ?_) went
    · rw [pc_setG]
      exact reg _
    · rw [sr_setG]
      unfold Chip.sr
      rw [core k]

/-- What SWAPW and ADDW do: at an aligned word of data memory or SRAM, at a misaligned address, and elsewhere; `v` is what they store. -/
theorem atomic_spec {i : Instr} {k rd ra rb x v : Nat} {s : State} {f : Word → Word → Word} (calm : s.chip.calm k = true)
    (e : exec i s = .next (s.on fun c => c.atomic k rd ra rb f))
    (hv : (f (BitVec.ofNat 32 (memNat (s.chip.ownMem k) x 4)) (s.chip.g k rb)).toNat % 256 ^ 4 = v % 256 ^ 4) :
    ((s.chip.g k ra).toNat % 4 = 0 → atomicAt k (s.chip.g k ra).toNat = some x → s.chip.cleanAt k x 4 = true → s.chip.noInject = true →
        completes i s fun t => s.chip.exchanged t k rd x (memNat (s.chip.ownMem k) x 4) v)
      ∧ ((s.chip.g k ra).toNat % 4 ≠ 0 → traps i k (s.chip.pc k) 3 (some (s.chip.g k ra).toNat) s)
      ∧ ((s.chip.g k ra).toNat % 4 = 0 → atomicAt k (s.chip.g k ra).toNat = none →
        traps i k (s.chip.pc k) 5 (some (s.chip.g k ra).toNat) s) := by
  obtain ⟨can, spec, -⟩ := (calm_iff _ _).1 calm
  refine ⟨fun aligned place clean quiet => ?_, fun odd => ?_, fun aligned absent => ?_⟩
  · obtain ⟨own, core, done⟩ := exchanged_of_store quiet k rd x (memNat (s.chip.ownMem k) x 4) _ v hv
    have ecc : s.chip.eccRange (isShed k) x 4 = (false, s.chip) := of_decide_eq_true clean
    refine completes_of_eq e (issue_eq_of_own can ?_ core own) done
    simp [Chip.outside, spec, aligned, place, ecc, Chip.ownMem]
  · refine traps_of_trapped (completes_of_eq e rfl (issue_trapped (arg := 0) calm ?_))
    simp [Chip.outside, spec, odd, Chip.excAddr]
  · refine traps_of_trapped (completes_of_eq e rfl (issue_trapped (arg := 0) calm ?_))
    simp [Chip.outside, spec, aligned, absent, Chip.excAddr]

/-- Settles O16: SWAPW and ADDW are one instruction with two values to store. -/
theorem atomics : Obligations.Atomics := by
  unfold Obligations.Atomics
  intro c rd ra rb x s calm k a old b p
  obtain ⟨swap, swapOdd, swapAbsent⟩ := atomic_spec (i := .swapw c rd ra rb) (v := b) (x := x) calm rfl rfl
  obtain ⟨add, addOdd, addAbsent⟩ := atomic_spec (i := .addw c rd ra rb) (v := old + b) (x := x) calm rfl
    (by simp [old, b, k])
  exact ⟨fun aligned place clean quiet => ⟨swap aligned place clean quiet, add aligned place clean quiet⟩,
    fun odd => ⟨swapOdd odd, addOdd odd⟩, fun aligned absent => ⟨swapAbsent aligned absent, addAbsent aligned absent⟩⟩

end Sys2Proof.Machine

/-!
PROOF. A write of OCTL that the accounts accept, where ARM_READY has fallen since it was last examined (R245, R392): every register write to
the hub ends with that examination, and so the write does more than set OCTL and OFREE.
-/
namespace Sys2Proof.Machine

/-- A flag of a word that stands outside the list. -/
theorem flag_of_regsBut {c t : Chip} {l : List Nat} (h : c.regsBut t l) {f : Fld} (hf : f.addr ∉ l) : t.flag f = c.flag f := by
  unfold Chip.flag Chip.fld
  rw [h _ hf]

/-- ARM_READY found fallen raises ARM_NREADY (R392). -/
theorem flag_readyCheck_fall {c : Chip} (was : c.sys.ready = true) (now : c.armReady = false) :
    c.readyCheck.flag GLB_RDYSTAT_NREADY_SEEN = true := by
  have fault := faultOnly_raiseHub { c with sys := { c.sys with ready := false } } ⟨0, 0, 2, GLB_RDYSTAT_NREADY_SEEN⟩ 0
  have raised : c.readyCheck = ({ c with sys := { c.sys with ready := false } } : Chip).raiseHub ⟨0, 0, 2, GLB_RDYSTAT_NREADY_SEEN⟩ := by
    simp [Chip.readyCheck, Chip.when, was, now]
  rw [raised, faultOnly_flag fault (by decide)]
  exact flag_raise_same _ _ rfl

/-- OCTL is one word that the accounts decide upon; ARM_READY is examined after its write. -/
theorem regWrite_octl {c : Chip} {r : Requester} (hub : hubRequester r = true) (calm : c.takeDue = false) (v : Nat) :
    c.regWrite r ORG_OCTL v = (c.octlApply v).readyCheck := by
  have reach : regReach r ORG_OCTL = true := by simp [regReach, hub, ORG_OCTL]
  have word : c.writeWord r ORG_OCTL v = c.octlApply v := rfl
  have noTake : (ORG_OCTL == FLT_FCMD) = false := by decide
  simp [Chip.regWrite, Chip.takeReaction, calm, Chip.putWord, reach, word, hub, noTake, Chip.when]

/-- An accepted write of OCTL leaves what was last found of ARM_READY. -/
theorem octlApply_sys {c : Chip} {v : Nat} (fits : ¬ 8192 < c.sumMin 288 0 + bits v 12 0) : (c.octlApply v).sys = c.sys := by
  rw [Chip.octlApply, if_neg fits]
  rfl

/-- Where ARM_READY has fallen, an accepted write of OCTL completes with NREADY_SEEN set. -/
theorem seen_of_acctWrite {r : Requester} {w : Word} {s t : State} (run : exec (.acctWrite r (BitVec.ofNat 32 ORG_OCTL) w) s = .next t)
    (hub : hubRequester r = true) (calm : s.chip.takeDue = false) (fits : ¬ 8192 < s.chip.sumMin 288 0 + bits w.toNat 12 0)
    (was : s.chip.sys.ready = true) (now : (s.chip.octlApply w.toNat).armReady = false) :
    t.chip.flag GLB_RDYSTAT_NREADY_SEEN = true := by
  have written : t = s.on fun c => c.regWrite r ORG_OCTL w.toNat := (Host.Outcome.next.inj run).symm
  rw [written, on_chip, regWrite_octl hub calm]
  exact flag_readyCheck_fall ((congrArg Sys.ready (octlApply_sys fits)).trans was) now

/-! ### The machine that refutes the frame -/

/-- A run that goes on after its first step. -/
theorem run_of_step {M : Host.Core} {s t : M.State} (n : Nat) (h : M.step s = .next t) : M.run (n + 1) s = M.run n t := by
  simp only [Host.Core.run, h]

/-- The machine where PLL lock has just been lost, SW_READY being set with TICK_LOCK as its only condition: nothing has examined
ARM_READY since. -/
def lockLost : State where
  chip := (((Chip.reset.raiseFlag SDL_SSTAT_TICK_LOCK).regWrite .host (0x10 : Word).toNat (0x80000001 : Word).toNat).clrFlag
    SDL_SSTAT_TICK_LOCK).raiseHub srcTickLost
  pending := []

/-- Three commands lead to it from reset. -/
theorem run_lockLost : core.run 3 (⟨Chip.reset, [.pllLock, .registerWrite .host 0x10 0x80000001, .pllLockLoss]⟩ : State) = .next lockLost :=
  (run_of_step 2 rfl).trans ((run_of_step 1 rfl).trans (run_of_step 0 rfl))

theorem lockLost_calm : lockLost.chip.takeDue = false := by decide +kernel

/-- ARM_READY is as last found, and the fall is not told of yet. -/
theorem lockLost_unexamined : lockLost.chip.sys.ready = true ∧ lockLost.chip.flag GLB_RDYSTAT_NREADY_SEEN = false := by decide +kernel

/-- A reserve of 256 buffers fits beside the minimums. -/
theorem lockLost_fits : ¬ 8192 < lockLost.chip.sumMin 288 0 + bits (256 : Word).toNat 12 0 := by decide +kernel

/-- The write of the reserve does not bring ARM_READY back. -/
theorem lockLost_fallen : (lockLost.chip.octlApply (256 : Word).toNat).armReady = false := by decide +kernel

/-- Refutes O45: from `lockLost` the host's write of 256 to OCTL is accepted, and its examination of ARM_READY sets NREADY_SEEN of RDYSTAT,
a word outside OCTL and OFREE. -/
theorem not_poolAccounts : ¬ Obligations.PoolAccounts := by
  unfold Obligations.PoolAccounts
  intro h
  obtain ⟨-, -, -, -, -, -, -, -, -, octl⟩ := h .host 0 256 0 lockLost
  obtain ⟨t, run, -, -, -, frame⟩ := octl rfl lockLost_calm lockLost_fits
  obtain ⟨was, unseen⟩ := lockLost_unexamined
  have seen := seen_of_acctWrite run rfl lockLost_calm lockLost_fits was lockLost_fallen
  have kept := (flag_of_regsBut frame (f := GLB_RDYSTAT_NREADY_SEEN) (by decide)).trans unseen
  exact Bool.false_ne_true (kept.symm.trans seen)

end Sys2Proof.Machine

/-!
PROOF. Writes of the fault tables: standing-order entries (R306), the takeover list (R313) and the injection of check bits (R316).
-/
namespace Sys2Proof.Machine

/-! ### A flag raised, a word written plainly -/

/-- A refusal that only sets its flag. -/
theorem raiseFlag_spec (c : Chip) {f : Fld} (h : f.ok = true) : (c.raiseFlag f).flag f = true ∧ c.onlyRegs (c.raiseFlag f) [f.addr] :=
  ⟨flag_raise_same c f h, onlyRegs_raise c (List.mem_singleton.2 rfl)⟩

theorem onlyRegs_plainWrite (c : Chip) {a : Nat} (v : Nat) {l : List Nat} (h : a ∈ l) : c.onlyRegs (c.plainWrite a v) l :=
  onlyRegs_setReg c _ h

theorem reg_of_regs {c t : Chip} (h : t.regs = c.regs) (a : Nat) : t.reg a = c.reg a := by
  unfold Chip.reg
  rw [h]

/-- What a plain write leaves in its word, whatever else has changed beside the registers. -/
theorem written_of_regs {c t : Chip} {a v : Nat} (h : t.regs = (c.plainWrite a v).regs) :
    t.reg a = writtenWord (regWord a) (c.reg a) v % 2 ^ 32 ∧ c.regsBut t [a] := by
  have own := reg_of_regs h
  refine ⟨(own a).trans (reg_setReg_same c a _), fun b hb => (own b).trans ?_⟩
  exact reg_setReg_ne c _ (List.ne_of_not_mem_cons hb)

/-- A field is writable where the masks of its word say so. -/
theorem writable_of_word {f : Fld} {m : RegWord} (word : regWord f.addr = m)
    (h : ∀ j ≤ f.hi, f.lo ≤ j → m.rw.testBit j = true ∧ m.w1c.testBit j = false) : f.writable := by
  intro j hlo hhi
  rw [word]
  exact h j hhi hlo

/-! ### Standing-order entries -/

theorem noInject_plainWrite {c : Chip} (h : c.noInject = true) {a : Nat} (v : Nat) (hub : FLT_INJ ≠ a) (cell : CFL_INJ ≠ a) :
    (c.plainWrite a v).noInject = true := by
  obtain ⟨hubMode, cellMode⟩ := (noInject_iff c).1 h
  exact (noInject_iff _).2 ⟨(fld_setReg_ne c _ hub).trans hubMode, (fld_setReg_ne c _ cell).trans cellMode⟩

/-- The reactions that hub block `b` cannot have: BLOCK, BYPASS and HOLD nowhere, REPORT_UP not in FLT, TAKE in FLT alone (R306). -/
def hubBars (b w : Nat) : Prop :=
  entryHas w 0x1C = true ∨ b = 9 ∧ entryHas w 0x40 = true ∨ b ≠ 9 ∧ entryHas w 0x80 = true

/-- The reactions that cell block `b` cannot have: REPORT_UP not in CFL, TAKE nowhere (R306). -/
def cellBars (b w : Nat) : Prop := b = 6 ∧ entryHas w 0x40 = true ∨ entryHas w 0x80 = true

theorem hubBars_iff (b w : Nat) :
    (entryHas w 0x1C || (b == 9 && entryHas w 0x40) || (b != 9 && entryHas w 0x80)) = true ↔ hubBars b w := by
  simp [hubBars, or_assoc]

theorem cellBars_iff (b w : Nat) : ((b == 6 && entryHas w 0x40) || entryHas w 0x80) = true ↔ cellBars b w := by
  simp [cellBars]

section
variable {c : Chip} {b x w : Nat}

theorem entryWrite_hub_refused (h : hubBars b w) : c.entryWrite .hub b x w = c.raiseFlag FLT_FSTAT_REFUSED :=
  if_pos ((hubBars_iff b w).2 h)

theorem entryWrite_cell_refused (hb : b ≤ 12) (h : cellBars b w) : c.entryWrite .cell b x w = c.raiseFlag CFL_FSTAT_REFUSED :=
  (if_neg (Nat.not_lt.2 hb)).trans (if_pos ((cellBars_iff b w).2 h))

theorem entryWrite_hub_regs (calm : c.noInject = true) (hx : x < 32) (h : ¬ hubBars b w) :
    (c.entryWrite .hub b x w).regs = (c.plainWrite (FLT_ENTRY b x) w).regs := by
  have written : c.entryWrite .hub b x w = (c.plainWrite (FLT_ENTRY b x) w).eccHubWrite 2 (FLT_ENTRY b x) 7 :=
    if_neg (mt (hubBars_iff b w).1 h)
  have still := noInject_plainWrite calm (a := FLT_ENTRY b x) w (by unfold FLT_INJ FLT_ENTRY; omega) (by unfold CFL_INJ FLT_ENTRY; omega)
  rw [written, eccHubWrite_eq still]

theorem entryWrite_cell_regs (calm : c.noInject = true) (hb : b ≤ 12) (h : ¬ cellBars b w) :
    (c.entryWrite .cell b x w).regs = (c.plainWrite (CFL_ENTRY b x) w).regs := by
  have written : c.entryWrite .cell b x w = (c.plainWrite (CFL_ENTRY b x) w).eccCellWrite 3 (CFL_ENTRY b x) :=
    (if_neg (Nat.not_lt.2 hb)).trans (if_neg (mt (cellBars_iff b w).1 h))
  have still := noInject_plainWrite calm (a := CFL_ENTRY b x) w (by unfold FLT_INJ CFL_ENTRY; omega) (by unfold CFL_INJ CFL_ENTRY; omega)
  rw [written, eccCellWrite_eq still]

end

/-! ### The injection of check bits -/

theorem bits_low_byte (w : Nat) : bits w 7 0 = w % 256 := by simp [bits]

theorem injWrite_hub_refused {c : Chip} {w : Nat} (h : injMemOk .hub (w % 256) = false) :
    c.injWrite .hub w = c.raiseFlag FLT_FSTAT_REFUSED := by
  simp [Chip.injWrite, bits_low_byte, h]

theorem injWrite_cell {c : Chip} {w : Nat} (h : injMemOk .cell (w % 256) = true) (mode : bits w 9 8 ≠ 3) :
    c.injWrite .cell w = c.plainWrite CFL_INJ w := by
  simp [Chip.injWrite, bits_low_byte, h, mode]

/-- An accepted write of the cell's INJ takes MODE and MEM as written (R316). -/
theorem plainWrite_cellInj_spec (c : Chip) (w : Nat) :
    (c.plainWrite CFL_INJ w).fld CFL_INJ_MODE = bits w 9 8 ∧ (c.plainWrite CFL_INJ w).fld CFL_INJ_MEM = w % 256
      ∧ c.onlyRegs (c.plainWrite CFL_INJ w) [CFL_INJ] := by
  have word : regWord CFL_INJ = ⟨0xFF03FF, 0, 0, 0⟩ := rfl
  refine ⟨?_, ?_, onlyRegs_plainWrite c w (List.mem_singleton.2 rfl)⟩
  · exact fld_plainWrite c CFL_INJ_MODE w rfl (writable_of_word word (by decide))
  · exact (fld_plainWrite c CFL_INJ_MEM w rfl (writable_of_word word (by decide))).trans (bits_low_byte w)

/-! ### The takeover list -/

/-- No TAKE reaction waits. -/
theorem takeReaction_idle {c : Chip} (h : c.takeDue = false) : c.takeReaction = c := by simp [Chip.takeReaction, h]

/-- TKCTL takes ARMED and CNT as written; ARMED written 1 clears DONE (R313). -/
theorem tkctlWrite_spec (c : Chip) (w : Nat) :
    (c.tkctlWrite w).flag FLT_TKCTL_ARMED = bit w 0 ∧ (c.tkctlWrite w).fld FLT_TKCTL_CNT = bits w 2 1
      ∧ (bit w 0 = true → (c.tkctlWrite w).flag FLT_TKCTL_DONE = false) ∧ c.onlyRegs (c.tkctlWrite w) [FLT_TKCTL] := by
  have word : regWord FLT_TKCTL = ⟨7, 0, 0, 0⟩ := rfl
  have armed : (c.plainWrite FLT_TKCTL w).fld FLT_TKCTL_ARMED = bits w 0 0 :=
    fld_plainWrite c FLT_TKCTL_ARMED w rfl (writable_of_word word (by decide))
  have count : (c.plainWrite FLT_TKCTL w).fld FLT_TKCTL_CNT = bits w 2 1 :=
    fld_plainWrite c FLT_TKCTL_CNT w rfl (writable_of_word word (by decide))
  have beside {f : Fld} (h : f.apart FLT_TKCTL_DONE = true) :
      (c.tkctlWrite w).fld f = (c.plainWrite FLT_TKCTL w).fld f := by
    unfold Chip.tkctlWrite Chip.when
    split
    · exact fld_setFld_other _ FLT_TKCTL_DONE f 0 rfl (.inr (by simpa [Fld.apart] using h))
    · rfl
  have written := onlyRegs_plainWrite c w (List.mem_singleton.2 rfl : FLT_TKCTL ∈ [FLT_TKCTL])
  refine ⟨?_, (beside rfl).trans count, fun h => ?_, onlyRegs_trans written ?_⟩
  · unfold Chip.flag
    rw [beside rfl, armed]
    simp [bits, bit]
  · rw [Chip.tkctlWrite, h]
    exact flag_clr_same _ _ rfl
  · exact onlyRegs_when _ _ (onlyRegs_clr _ (List.mem_singleton.2 rfl))

/-- The higher word of a takeover entry, as the register map has it. -/
theorem regAt_tklist (j : Fin 4) : regAt (FLT_TKLIST j + 4) = some (FLT_TKLIST j, 1, List.replicate 2 ⟨0xFFFFFFFF, 0, 0, 0⟩) := by
  revert j
  decide +kernel

/-- ARM_READY that did not hold when last examined: its examination writes no register. -/
theorem readyCheck_regs {c : Chip} (h : c.sys.ready = false) : c.readyCheck.regs = c.regs := by
  simp [Chip.readyCheck, Chip.when, h]

theorem tklistApply_sys (c : Chip) (j off v : Nat) : (c.tklistApply j off v).sys = c.sys := by
  unfold Chip.tklistApply
  split <;> rfl

/-- The held offset and the value written make the entry, and the hold is emptied (R7). -/
theorem applyWords_pair {c : Chip} {r : Requester} {a off : Nat} (held : c.holdOf r = some (a, [(0, off)])) (v : Nat) :
    c.applyWords r a 2 v = ([off, v], c.setHold r none) := by
  simp [Chip.applyWords, held, Chip.when, List.range_succ]

theorem applyReg_tklist (c : Chip) (r : Requester) (j : Fin 4) (off v : Nat) :
    c.applyReg r (FLT_TKLIST j) [off, v] = c.tklistApply j off v := by
  fin_cases j <;> rfl

theorem writeWord_tklist {c : Chip} {r : Requester} {j : Fin 4} {off : Nat} (held : c.holdOf r = some (FLT_TKLIST j, [(0, off)]))
    (v : Nat) : c.writeWord r (FLT_TKLIST j + 4) v = (c.setHold r none).tklistApply j off v := by
  have noReg : kgreg (FLT_TKLIST j + 4) = none := by
    clear held
    revert j
    decide
  simp only [Chip.writeWord, noReg, regAt_tklist j, List.length_replicate]
  rw [if_neg (by decide), if_neg (by decide), applyWords_pair held]
  exact applyReg_tklist _ r j off v

/-- The entry is applied whole, and the examination of ARM_READY after it writes no register. -/
theorem regWrite_tklist_regs {c : Chip} {r : Requester} {j : Fin 4} {off : Nat} (hub : hubRequester r = true) (ready : c.sys.ready = false)
    (calm : c.takeDue = false) (held : c.holdOf r = some (FLT_TKLIST j, [(0, off)])) (v : Nat) :
    (c.regWrite r (FLT_TKLIST j + 4) v).regs = (c.tklistApply j off v).regs := by
  have reach : regReach r (FLT_TKLIST j + 4) = true := by
    simp only [regReach, hub, if_true, Bool.and_eq_true, beq_iff_eq]
    exact ⟨by unfold FLT_TKLIST; omega, decide_eq_true (by unfold FLT_TKLIST; omega)⟩
  have noTake : (FLT_TKLIST j + 4 == FLT_FCMD) = false := by
    rw [beq_eq_false_iff_ne]
    unfold FLT_TKLIST FLT_FCMD
    omega
  have examined : c.regWrite r (FLT_TKLIST j + 4) v = ((c.setHold r none).tklistApply j off v).readyCheck := by
    simp [Chip.regWrite, takeReaction_idle calm, Chip.putWord, reach, writeWord_tklist held, hub, noTake, Chip.when]
  have unheld : ((c.setHold r none).tklistApply j off v).regs = (c.tklistApply j off v).regs := by
    unfold Chip.tklistApply
    split <;> rfl
  have unready := (congrArg Sys.ready (tklistApply_sys (c.setHold r none) j off v)).trans ready
  rw [examined, readyCheck_regs unready, unheld]

/-- A takeover entry in range and aligned holds the offset and the value. -/
theorem tklist_written {c t : Chip} {j off v : Nat} (h : t.regs = (c.tklistApply j off v).regs) (range : off < 0x1000000)
    (aligned : off % 4 = 0) (word : v < 2 ^ 32) :
    t.regWords (FLT_TKLIST j) 2 = [off, v] ∧ c.regsBut t [FLT_TKLIST j, FLT_TKLIST j + 4] := by
  have applied : c.tklistApply j off v = c.setWords (FLT_TKLIST j) [off, v] := if_neg (by simp [aligned, range])
  rw [applied] at h
  constructor
  · rw [regWords_congr fun i _ => reg_of_regs h _]
    have low : off < 2 ^ 32 := by omega
    refine (regWords_setWords c (FLT_TKLIST j) [off, v]).trans ?_
    simp only [List.map_cons, List.map_nil, Nat.mod_eq_of_lt low, Nat.mod_eq_of_lt word]
  · intro a ha
    rw [reg_of_regs h]
    refine reg_setWords_ne _ _ _ _ fun i hi => ?_
    simp only [List.mem_cons, List.not_mem_nil, or_false, not_or, List.length_cons, List.length_nil] at ha hi
    omega

/-- A takeover entry out of range or misaligned is refused. -/
theorem tklist_refused {c t : Chip} {j off v : Nat} (h : t.regs = (c.tklistApply j off v).regs)
    (bad : 0x1000000 ≤ off ∨ off % 4 ≠ 0) : t.flag FLT_FSTAT_REFUSED = true ∧ c.regsBut t [FLT_FSTAT] := by
  have applied : c.tklistApply j off v = c.raiseFlag FLT_FSTAT_REFUSED := if_pos (by simpa using bad)
  rw [applied] at h
  obtain ⟨raised, -, frame⟩ := raiseFlag_spec c (f := FLT_FSTAT_REFUSED) rfl
  refine ⟨?_, fun a ha => (reg_of_regs h a).trans (frame a ha)⟩
  rw [← raised]
  unfold Chip.flag Chip.fld
  rw [reg_of_regs h]

/-- Settles O27: a refused write raises its flag alone; an entry, INJ and TKCTL are plain writes of one word; the higher word of a takeover
entry applies the held offset with it. -/
theorem standingOrders : Obligations.StandingOrders := by
  unfold Obligations.StandingOrders
  intro b x w r j s calm ready due hubBad cellBad
  refine ⟨?hubRefused, ?hubWritten, ?cellRefused, ?cellWritten, ?injRefused, ?injWritten, ?tkctl, ?listWritten, ?listRefused⟩
  case hubRefused => exact fun bad => completes_of_eq rfl (entryWrite_hub_refused bad) (raiseFlag_spec _ rfl)
  case hubWritten => exact fun fine => completes_of_eq rfl rfl (written_of_regs (entryWrite_hub_regs calm x.isLt fine))
  case cellRefused => exact fun hb bad => completes_of_eq rfl (entryWrite_cell_refused hb bad) (raiseFlag_spec _ rfl)
  case cellWritten => exact fun hb fine => completes_of_eq rfl rfl (written_of_regs (entryWrite_cell_regs calm hb fine))
  case injRefused => exact fun bad => completes_of_eq rfl (injWrite_hub_refused bad) (raiseFlag_spec _ rfl)
  case injWritten => exact fun fine mode => completes_of_eq rfl (injWrite_cell fine mode) (plainWrite_cellInj_spec _ _)
  case tkctl => exact completes_of_eq rfl (congrArg (·.tkctlWrite w.toNat) (takeReaction_idle due)) (tkctlWrite_spec _ _)
  case listWritten =>
    exact fun off hub held range aligned =>
      completes_of_eq rfl rfl (tklist_written (regWrite_tklist_regs hub ready due held _) range aligned w.isLt)
  case listRefused =>
    exact fun off hub held bad => completes_of_eq rfl rfl (tklist_refused (regWrite_tklist_regs hub ready due held _) bad)

end Sys2Proof.Machine
